-- ==== Sys2Proof/Word.lean ====
section
/-! DEFINITION. The word types of the KN-4600 (spec/00_scope.md, R3) and the sparse tables the state is built
from: a table is a list of (key, value) pairs in one canonical form, keys strictly rising and no entry equal to the
value an unlisted key reads as. -/

namespace Sys2Proof

/-- A byte is 8 bits, a half 16, a word 32 and a double 64 (R3). -/
abbrev Byte := BitVec 8
abbrev Half := BitVec 16
abbrev Word := BitVec 32
abbrev Dbl := BitVec 64

/-- A sparse table from natural numbers to values; what an unlisted key reads as is fixed by each use. -/
abbrev Table (α : Type) := List (Nat × α)

namespace Table

/-- The value of key `k`: its listed value, else the default `d`. -/
def get {α : Type} (d : α) : Table α → Nat → α
  | [], _ => d
  | (i, a) :: rest, k => if i = k then a else get d rest k

/-- Removes key `k`. -/
def erase {α : Type} : Table α → Nat → Table α
  | [], _ => []
  | (i, a) :: rest, k => if i = k then erase rest k else (i, a) :: erase rest k

/-- Puts `a` at key `k` in its rising place, replacing what stood there. -/
def insert {α : Type} : Table α → Nat → α → Table α
  | [], k, a => [(k, a)]
  | (i, b) :: rest, k, a =>
    if k < i then (k, a) :: (i, b) :: rest
    else if k = i then (k, a) :: rest
    else (i, b) :: insert rest k a

/-- Writes `a` at key `k`; writing the default removes the entry. -/
def set {α : Type} [DecidableEq α] (d : α) (t : Table α) (k : Nat) (a : α) : Table α :=
  if a = d then t.erase k else t.insert k a

/-- The value of key `k`, or none where it is not listed. -/
def find {α : Type} : Table α → Nat → Option α
  | [], _ => none
  | (i, a) :: rest, k => if i = k then some a else find rest k

/-- Changes the value of a listed key; an unlisted key is left unlisted. -/
def modify {α : Type} : Table α → Nat → (α → α) → Table α
  | [], _, _ => []
  | (i, a) :: rest, k, f => if i = k then (i, f a) :: rest else (i, a) :: modify rest k f

/-- Changes every listed value. -/
def mapVals {α : Type} (t : Table α) (f : Nat → α → α) : Table α :=
  t.map fun e => (e.1, f e.1 e.2)

/-- The keys, in rising order. -/
def keys {α : Type} (t : Table α) : List Nat := t.map (·.1)

/-- The keys rise strictly from some bound on. -/
def risesFrom {α : Type} : Nat → Table α → Bool
  | _, [] => true
  | lo, (i, _) :: rest => decide (lo ≤ i) && risesFrom (i + 1) rest

/-- The canonical form: keys strictly rising and no entry equal to the default. -/
def wf {α : Type} [DecidableEq α] (d : α) (t : Table α) : Bool :=
  risesFrom 0 t && t.all fun e => decide (e.2 ≠ d)

end Table

end Sys2Proof
end

