-- ==== Sys2Proof/Syntax.lean ====
section
/-! DEFINITION. The instruction set: operands (R73, R74), the four word formats (R67 to R71) and one inductive of every
step of spec/opcode_table.json. -/

namespace Sys2Proof

/-- The special operands, codes 424 to 447 (R74). -/
inductive Special where
  | zero | laneId | quadId | weaveId | gangX | gangY | gangZ | cohortRank
  | clkLo | clkHi | stepLo | stepHi | sdlo | sdhi | mr
  | faultCode | faultMask | faultAddrLo | faultAddrHi | faultPcLo | faultPcHi
  | fpsw | actmask | gangId
  deriving DecidableEq, Repr

/-- What a 9-bit operand field names (R73). -/
inductive Operand where
  /-- v0 to v319, per lane. -/
  | v (i : Fin 320)
  /-- s0 to s63, per weave. -/
  | s (i : Fin 64)
  /-- p0 to p15, per lane. -/
  | p (i : Fin 16)
  /-- h0 to h15, per weave. -/
  | h (i : Fin 16)
  /-- c0 to c7, per cohort. -/
  | c (i : Fin 8)
  /-- Codes 424 to 447. -/
  | special (k : Special)
  /-- Codes 448 to 479: the integers 0 to 31. -/
  | int (i : Fin 32)
  /-- Codes 480 to 511: the FP32 constant table (R75). -/
  | fp (i : Fin 32)
  deriving DecidableEq, Repr

/-- What an access does (R154, R424): 0 read, 1 write, 2 fetch, 3 read-modify-write. -/
inductive AccessKind where
  | read | write | fetch | rmw
  deriving DecidableEq, Repr

/-- What an uncorrectable error strikes (R447). -/
inductive ErrVictim where
  /-- Lanes that read the data, or, for a register file, the lanes of the issuing weave. -/
  | lanes (wk : Nat) (mask : BitVec 32)
  /-- The 8-byte unit of memory that holds a physical address: whoever reads it takes the fault. -/
  | memory (pa : Nat)
  /-- The 8-byte unit of a gang's scratchpad that holds an offset. -/
  | scratch (gang off : Nat)
  /-- An engine command. -/
  | command (rec : Nat)
  /-- A launch whose packet, or whose prologue, the front end reads for. -/
  | packet (launch : Nat)
  /-- The weave whose spill lease is pushed to memory. -/
  | lease (wk : Nat)
  /-- Nothing that a program sees. -/
  | nobody
  deriving DecidableEq, Repr

/-- An F3 word (R67) after its opcode. `modb` is the field [24:13]: a source modifier (R78), or source C in its upper
nine bits for an opcode marked 3S. -/
structure F3 where
  dst : Operand
  a : Operand
  b : Operand
  modb : BitVec 12
  pred : BitVec 4
  neg : Bool
  hold : BitVec 2
  reuse : Bool
  mods : BitVec 5
  deriving DecidableEq, Repr

/-- An FI word (R68) after its opcode. -/
structure FI where
  dst : Operand
  a : Operand
  imm : BitVec 24
  pred : BitVec 4
  neg : Bool
  mods : BitVec 5
  deriving DecidableEq, Repr

/-- An FX word (R71) after its opcode. -/
structure FX where
  dbase : BitVec 6
  hdst : BitVec 4
  noh : Bool
  subop : BitVec 8
  imm : BitVec 24
  aflag : BitVec 4
  afen : Bool
  rsvd : BitVec 4
  deriving DecidableEq, Repr

/-- The opcodes that have a D2 form, by their OP7 (R84). -/
inductive D2Op where
  | iadd | isub | imul | imulh | iabs | ineg | imin | imax | and | or | xor | not | andn | shl | shr | rot
  | popc | clz | ctz | brev | mov
  | fadd | fsub | fmul | fmin | fmax | frcp | fsqrt | frsq | fexp2 | flog2 | fsin | fcos | ftanh
  | hadd2 | hmul2 | cvt | pack | unpack
  deriving DecidableEq, Repr

/-- One half of a D2 word (R69). -/
structure D2Half where
  op : D2Op
  d : Operand
  s : Operand
  pred : BitVec 3
  neg : Bool
  mods : BitVec 2
  deriving DecidableEq, Repr

/-- The arguments of an event: the unit it happens at and the data that come with it. The docstring of each event of
`Instr` says which it reads. -/
structure EvArgs where
  a : Nat := 0
  b : Nat := 0
  c : Nat := 0
  d : Nat := 0
  value : Dbl := 0
  kind : AccessKind := .read
  on : Bool := false
  bytes : List Byte := []
  peers : List (Nat × Dbl) := []
  victim : ErrVictim := .nobody
  deriving DecidableEq, Repr

/-- The steps of the machine, one constructor for each row of spec/opcode_table.json: the instruction words first,
each with the fields of its format, then the events of engines, front end, firmware and package. An event finds its
arguments in `State.ev`. -/
inductive Instr where
  /-- R167: Adds two 32-bit integers per lane, wrapping or saturating, in the F3 form. -/
  | iadd (w : F3)
  /-- R167: Adds a register and a 24-bit extended immediate, in the FI form. -/
  | iaddFi (w : FI)
  /-- R167: Subtracts two 32-bit integers per lane, wrapping or saturating. -/
  | isub (w : F3)
  /-- R167: Subtracts an extended immediate from a register. -/
  | isubFi (w : FI)
  /-- R167: Writes the low 32 bits of an integer product. -/
  | imul (w : F3)
  /-- R167: Writes the low 32 bits of the product of a register and an immediate. -/
  | imulFi (w : FI)
  /-- R167: Writes the high 32 bits of a signed or unsigned 64-bit product. -/
  | imulh (w : F3)
  /-- R167: Writes the low 32 bits of a·b + c. -/
  | imad (w : F3)
  /-- R171: Performs a 64-bit multiply-add into a register pair. -/
  | imadw (w : F3)
  /-- R167: Writes the absolute value of an integer, optionally saturating. -/
  | iabs (w : F3)
  /-- R167: Writes the negation of an integer, optionally saturating. -/
  | ineg (w : F3)
  /-- R167: Writes the smaller of two integers, signed or unsigned. -/
  | imin (w : F3)
  /-- R167: Writes the smaller of a register and an immediate. -/
  | iminFi (w : FI)
  /-- R167: Writes the larger of two integers, signed or unsigned. -/
  | imax (w : F3)
  /-- R167: Writes the larger of a register and an immediate. -/
  | imaxFi (w : FI)
  /-- R167: Writes the bitwise AND of two operands. -/
  | and (w : F3)
  /-- R167: Writes the bitwise AND of a register and an immediate. -/
  | andFi (w : FI)
  /-- R167: Writes the bitwise OR of two operands. -/
  | or (w : F3)
  /-- R167: Writes the bitwise OR of a register and an immediate. -/
  | orFi (w : FI)
  /-- R167: Writes the bitwise XOR of two operands. -/
  | xor (w : F3)
  /-- R167: Writes the bitwise XOR of a register and an immediate. -/
  | xorFi (w : FI)
  /-- R167: Writes the bitwise complement of an operand. -/
  | not (w : F3)
  /-- R167: Writes a AND NOT b. -/
  | andn (w : F3)
  /-- R167: Writes a AND NOT of an immediate. -/
  | andnFi (w : FI)
  /-- R168: Shifts left by a count, giving zero for counts of 32 or more. -/
  | shl (w : F3)
  /-- R168: Shifts left by an immediate count. -/
  | shlFi (w : FI)
  /-- R168: Shifts right, arithmetically or logically. -/
  | shr (w : F3)
  /-- R168: Shifts right by an immediate count. -/
  | shrFi (w : FI)
  /-- R168: Rotates left, or right with .r, by the count mod 32. -/
  | rot (w : F3)
  /-- R168: Rotates by an immediate count. -/
  | rotFi (w : FI)
  /-- R168: Extracts a bit field, with its position and width taken from registers. -/
  | bfe (w : F3)
  /-- R168: Extracts a bit field, with its position and width taken from the immediate. -/
  | bfeFi (w : FI)
  /-- R168: Inserts a bit field of a into b. -/
  | bfi (w : F3)
  /-- R167: Counts the 1 bits of an operand. -/
  | popc (w : F3)
  /-- R167: Counts the leading zeros of an operand. -/
  | clz (w : F3)
  /-- R167: Counts the trailing zeros of an operand. -/
  | ctz (w : F3)
  /-- R167: Reverses the bit order of an operand. -/
  | brev (w : F3)
  /-- R169: Selects a or b by a predicate. -/
  | isel (w : F3)
  /-- R169: Compares two integers and writes the truth value to a predicate. -/
  | icmp (w : F3)
  /-- R169: Compares a register with an immediate and writes a predicate. -/
  | icmpFi (w : FI)
  /-- R169: Adds with a carry predicate, and writes the sum and the carry out. -/
  | iaddc (w : F3)
  /-- R170: Writes a + (b << c). -/
  | lea (w : F3)
  /-- R170: Writes a plus an immediate offset shifted by an immediate count. -/
  | leaFi (w : FI)
  /-- R167: Copies an operand bit-exactly. -/
  | mov (w : F3)
  /-- R167: Writes an extended immediate. -/
  | movi (w : FI)
  /-- R170: Writes a 16-bit immediate into the high half over the low half of a. -/
  | movhi (w : FI)
  /-- R169: Writes the AND of two optionally negated predicates. -/
  | pand (w : F3)
  /-- R169: Writes the OR of two optionally negated predicates. -/
  | por (w : F3)
  /-- R169: Writes the XOR of two optionally negated predicates. -/
  | pxor (w : F3)
  /-- R172: Adds a four-way byte dot product to c. -/
  | idp4 (w : F3)
  /-- R173: Adds two FP32 values with one rounding. -/
  | fadd (w : F3)
  /-- R173: Adds an FP32 immediate to a register. -/
  | faddFi (w : FI)
  /-- R173: Subtracts two FP32 values with one rounding. -/
  | fsub (w : F3)
  /-- R173: Subtracts an FP32 immediate from a register. -/
  | fsubFi (w : FI)
  /-- R173: Multiplies two FP32 values with one rounding. -/
  | fmul (w : F3)
  /-- R173: Multiplies a register by an FP32 immediate. -/
  | fmulFi (w : FI)
  /-- R173: Computes a fused multiply-add a·b + c with one rounding. -/
  | ffma (w : F3)
  /-- R173: Writes the FP32 minimum under R103. -/
  | fmin (w : F3)
  /-- R173: Writes the FP32 maximum under R103. -/
  | fmax (w : F3)
  /-- R174: Compares two FP32 values and writes a predicate. -/
  | fcmp (w : F3)
  /-- R174: Compares a register with an FP32 immediate and writes a predicate. -/
  | fcmpFi (w : FI)
  /-- R175: Computes the correctly rounded FP32 reciprocal, long-latency. -/
  | frcp (w : F3)
  /-- R175: Computes the correctly rounded FP32 square root, long-latency. -/
  | fsqrt (w : F3)
  /-- R175: Computes the reciprocal square root within 2 ulp, long-latency. -/
  | frsq (w : F3)
  /-- R175: Computes 2 to the power x, long-latency. -/
  | fexp2 (w : F3)
  /-- R175: Computes log base 2, long-latency. -/
  | flog2 (w : F3)
  /-- R175: Computes the sine in radians, long-latency. -/
  | fsin (w : F3)
  /-- R175: Computes the cosine in radians, long-latency. -/
  | fcos (w : F3)
  /-- R175: Computes the hyperbolic tangent, long-latency. -/
  | ftanh (w : F3)
  /-- R176: Adds packed FP16 or BF16 pairs. -/
  | hadd2 (w : F3)
  /-- R176: Multiplies packed half pairs. -/
  | hmul2 (w : F3)
  /-- R176: Computes a fused multiply-add on packed half pairs. -/
  | hfma2 (w : F3)
  /-- R177: Adds a packed-half dot product to an FP32 value with one rounding. -/
  | hdot2 (w : F3)
  /-- R178: Converts one value between the device's formats. -/
  | cvt (w : F3)
  /-- R180: Packs two sources into two 16-bit elements. -/
  | pack (w : F3)
  /-- R181: Widens one element of a register exactly. -/
  | unpack (w : F3)
  /-- R182: Exchanges values between the lanes of each quad. -/
  | qswap (w : F3)
  /-- R182: Broadcasts one lane of each quad across the quad. -/
  | qbcast (w : F3)
  /-- R183: Reads a value from an indexed lane within a segment. -/
  | shfl (w : F3)
  /-- R184: Reduces a source over the active lanes with a fixed tree. -/
  | wred (w : F3)
  /-- R185: Steps each lane's generator and writes the new state or a unit value. -/
  | srnd (w : F3)
  /-- R69: Issues two two-operand halves together to the same lane set. -/
  | d2Word (hi lo : D2Half)
  /-- R190: Branches the active lanes to a direct target. -/
  | bra (w : FI)
  /-- R191: Branches the whole lane set on an any or all decision. -/
  | brau (w : FI)
  /-- R192: Jumps each lane to its own 64-bit landing target. -/
  | jmpi (w : F3)
  /-- R193: Pushes the return address, spilling if the stack is full, and branches. -/
  | call (w : FI)
  /-- R193: Performs an indirect per-lane call with a push. -/
  | calli (w : F3)
  /-- R194: Pops a return address, refilling from memory or exiting. -/
  | ret (w : F3)
  /-- R197: Saves mr and sets the meeting clause. -/
  | meet (w : FI)
  /-- R197: Restores mr from a register. -/
  | rejoin (w : F3)
  /-- R198: Ends the active lanes, or makes them helpers. -/
  | exit (w : F3)
  /-- R199: Has no effect. -/
  | nop (w : F3)
  /-- R199: Places the weave in selection order as if it had just issued. -/
  | yield (w : F3)
  /-- R200: Writes an any, all, uniform or ballot vote over the lanes. -/
  | vote (w : F3)
  /-- R201: Writes a mask of the active, live, parked or helper lanes. -/
  | actmask (w : F3)
  /-- R203: Signs a convergence register, issuing the bound operation when all lanes have signed. -/
  | sign (w : F3)
  /-- R202: Adds lanes to, replaces or drops lanes from a convergence register's declared set. -/
  | cvdecl (w : F3)
  /-- R204: Waits for a handle to resolve and writes its status. -/
  | hwait (w : F3)
  /-- R204: Waits for every handle named in a mask. -/
  | hwaitAll (w : F3)
  /-- R205: Writes a handle's state without waiting. -/
  | htest (w : F3)
  /-- R206: Cancels a pending operation. -/
  | hcancel (w : F3)
  /-- R207: Copies a handle reference between handle registers. -/
  | hmov (w : F3)
  /-- R207: Stores a handle token to the scratchpad. -/
  | hmovSt (w : F3)
  /-- R207: Loads a handle token from the scratchpad. -/
  | hmovLd (w : F3)
  /-- R209: Arrives at the gang barrier and is released when the gang completes it. -/
  | gbar (w : F3)
  /-- R209: Arrives at the cohort barrier. -/
  | cbar (w : F3)
  /-- R210: Fills the head slot of a stage ring. -/
  | rsend (w : F3)
  /-- R210: Takes the tail slot of a stage ring, waiting until it is full. -/
  | rtake (w : F3)
  /-- R210: Reads a stage ring's state. -/
  | rstat (w : F3)
  /-- R212: Enters the trap handler with ECAUSE 1. -/
  | trap (w : FI)
  /-- R213: Sends a service request to the firmware and holds the lanes until the reply. -/
  | sysc (w : FI)
  /-- R214: Returns the lanes from the handler to their resume addresses. -/
  | eret (w : F3)
  /-- R215: Reads a system register. -/
  | rdsr (w : FI)
  /-- R215: Writes a system register in privileged mode. -/
  | wrsr (w : FI)
  /-- R196: Sets the return-stack overflow base. -/
  | stkset (w : F3)
  /-- R208: Zeroes the counts of the named completion flags. -/
  | clrflg (w : FI)
  /-- R208: Reads the mask of set completion flags. -/
  | flgrd (w : F3)
  /-- R223: Loads global memory into vector registers, long-latency. -/
  | ld (w : F3)
  /-- R223: Loads global memory at a base plus an immediate offset. -/
  | ldFi (w : FI)
  /-- R223: Enqueues a global store. -/
  | st (w : F3)
  /-- R223: Enqueues a global store at an immediate offset. -/
  | stFi (w : FI)
  /-- R223: Loads from the scratchpad. -/
  | lds (w : F3)
  /-- R223: Loads from the scratchpad at an immediate offset. -/
  | ldsFi (w : FI)
  /-- R223: Enqueues a scratchpad store. -/
  | sts (w : F3)
  /-- R223: Enqueues a scratchpad store at an immediate offset. -/
  | stsFi (w : FI)
  /-- R223: Makes a uniform load once for the weave, long-latency. -/
  | ldc (w : F3)
  /-- R223: Makes a uniform load at an immediate offset. -/
  | ldcFi (w : FI)
  /-- R226: Performs a 32-bit scratchpad read-modify-write per lane. -/
  | atom (w : F3)
  /-- R227: Orders the weave's accesses at a scope. -/
  | fence (w : F3)
  /-- R228: Prefetches lines into L1 without faulting. -/
  | pfl1 (w : F3)
  /-- R228: Prefetches at an immediate offset. -/
  | pfl1Fi (w : FI)
  /-- R229: Invalidates the L1 data line holding each lane's address. -/
  | cctlIvl (w : F3)
  /-- R229: Invalidates every L1 data line of the partition on the core. -/
  | cctlIvd (w : F3)
  /-- R229: Invalidates every L1 instruction line of the partition on the core. -/
  | cctlIvi (w : F3)
  /-- R231: Asks the leaf controller for a neighbour spill lease. -/
  | nlease (w : F3)
  /-- R231: Reads the weave's lease state. -/
  | nleaseSt (w : F3)
  /-- R234: Ends the weave's lease. -/
  | nrel (w : F3)
  /-- R232: Writes a lane value into a lease slot. -/
  | nspl (w : F3)
  /-- R232: Reads a lease slot into a register, long-latency. -/
  | nfil (w : F3)
  /-- R235: Installs one leaf for the user pager after checking it. -/
  | pgmap (w : F3)
  /-- R236: Closes a paging ticket and releases its waiters to retry or fault. -/
  | pgdone (w : F3)
  /-- R343: Reads a stamped word decayed to the current step. -/
  | dld (w : F3)
  /-- R344: Decays a stamped word and adds to it as one atom. -/
  | dadd (w : F3)
  /-- R345: Writes a stamped word with the current stamp. -/
  | dset (w : F3)
  /-- R343: Reads a stamped word's raw bits. -/
  | draw (w : F3)
  /-- R348: Reads the partition step. -/
  | steprd (w : F3)
  /-- R348: Waits until the step reaches a value, then reads it. -/
  | steprdGe (w : F3)
  /-- R348: Reads the pending advance. -/
  | steprdPend (w : F3)
  /-- R349: Requests an advance of the partition step. -/
  | stepadv (w : F3)
  /-- R350: Stages a factor table entry for the next boundary. -/
  | ftset (w : F3)
  /-- R351: Registers a sweep region and begins a sweep. -/
  | swpreg (w : FX)
  /-- R351: Invalidates a sweep region. -/
  | swpregInv (w : FX)
  /-- R351: Sets the sweep threshold. -/
  | swpregThr (w : FX)
  /-- R351: Requests an immediate sweep of a region. -/
  | swpregNow (w : FX)
  /-- R354: Reads sweep status. -/
  | swpstat (w : F3)
  /-- R244: Sets the tile configuration and claims or releases planes. -/
  | tcfgCfg (w : FX)
  /-- R244: Sets a tile register's scratchpad offset. -/
  | tcfgTile (w : FX)
  /-- R246: Reads the latest tile configuration. -/
  | tcfgrd (w : F3)
  /-- R248: Latches a weight tile into a plane. -/
  | wlatch (w : FX)
  /-- R249: Loads the codebook staging register. -/
  | cbkld (w : FX)
  /-- R251: Issues a dense K-slice multiply-accumulate. -/
  | mma (w : F3)
  /-- R252: Issues a sparse K-slice multiply-accumulate. -/
  | mmas (w : F3)
  /-- R251: Issues a LUT-weight multiply-accumulate. -/
  | mmal (w : F3)
  /-- R251: Issues a codebook multiply-accumulate. -/
  | mmac (w : F3)
  /-- R256: Holds the weave until its operand writes are readable by the matrix engine. -/
  | opfence (w : F3)
  /-- R257: Zeroes accumulator rows. -/
  | accz (w : FX)
  /-- R258: Reads an accumulator row into a register with rounding. -/
  | accrd (w : F3)
  /-- R258: Writes an accumulator row from a register. -/
  | accwr (w : F3)
  /-- R259: Loads accumulator rows from memory. -/
  | accld (w : FX)
  /-- R259: Stores accumulator rows to memory, with promotion under a shape record. -/
  | accst (w : FX)
  /-- R261: Writes a mask of regions above the absorption threshold. -/
  | accprom (w : FX)
  /-- R262: Applies accumulator updates to weights, in safe or eager mode. -/
  | drain (w : FX)
  /-- R265: Restores the weights written by the last eager drain. -/
  | drainundo (w : FX)
  /-- R266: Reads the matrix engine status. -/
  | accstat (w : F3)
  /-- R276: Asks for a bond of a given shape. -/
  | bform (w : FX)
  /-- R278: Requests bond leases for the named weaves. -/
  | blease (w : F3)
  /-- R280: Ends the bond leases of the named weaves. -/
  | brel (w : F3)
  /-- R284: Reads bond status. -/
  | bstat (w : F3)
  /-- R287: Saves the gang's share of a bond at pre-emption. -/
  | bsave (w : FX)
  /-- R288: Restores the gang's share of a bond. -/
  | bresume (w : FX)
  /-- R289: Writes a weighted slot table, filtered by partition. -/
  | wslot (w : F3)
  /-- R289: Reads a weighted slot table. -/
  | wslotRd (w : F3)
  /-- R274: Queries the seam pairing. -/
  | bseamQ (w : F3)
  /-- R274: Pairs the cohort with one on a facing cluster. -/
  | bseamPair (w : F3)
  /-- R274: Ends the seam pairing. -/
  | bseamUn (w : F3)
  /-- R295: Copies a tensor between records with conversion. -/
  | tcopy (w : FX)
  /-- R308: Copies a stride-gather pattern into a record. -/
  | tcopyG (w : FX)
  /-- R299: Multicasts a tile into the scratchpads of target gangs. -/
  | tmcast (w : FX)
  /-- R300: Quantises a tensor in two passes with a scale stream. -/
  | tqnt (w : FX)
  /-- R301: Dequantises a tensor with a checked scale stream. -/
  | tdq (w : FX)
  /-- R303: Reads NVMe blocks into device memory. -/
  | sload (w : FX)
  /-- R303: Writes device memory to NVMe blocks. -/
  | sstore (w : FX)
  /-- R306: Brings a range into the L2, optionally marking a tile-buffer word. -/
  | bpref (w : FX)
  /-- R307: Writes a stride-gather pattern entry. -/
  | sgpat (w : FX)
  /-- R307: Invalidates a pattern entry. -/
  | sgpatInv (w : FX)
  /-- R309: Reads and optionally clears a stack's gather fault record. -/
  | sgstat (w : F3)
  /-- R298: Fills a destination record with a pattern. -/
  | tfill (w : FX)
  /-- R318: Performs a read-modify-write at the home slice. -/
  | ratom (w : F3)
  /-- R322: Enqueues an entry into a slice queue. -/
  | qenq (w : F3)
  /-- R322: Dequeues an entry without waiting. -/
  | qdeq (w : F3)
  /-- R322: Dequeues an entry, or parks as a waiter. -/
  | qpark (w : F3)
  /-- R322: Reads a queue's status. -/
  | qstat (w : F3)
  /-- R321: Initialises a slice queue. -/
  | qinit (w : F3)
  /-- R321: Invalidates a slice queue. -/
  | qinitInv (w : F3)
  /-- R326: Reads a request counter or a die's sum of one kind. -/
  | cntrd (w : F3)
  /-- R326: Clears the partition's counters of the named kinds. -/
  | cntclr (w : F3)
  /-- R327: Arms a watch on an 8-byte word. -/
  | watch (w : F3)
  /-- R329: Frees a watch. -/
  | watchCancel (w : F3)
  /-- R330: Writes back, or invalidates, the L2 lines of a range. -/
  | sflush (w : F3)
  /-- R333: Reports a guard residual to the regulator. -/
  | gres (w : F3)
  /-- R363: Computes distances to gathered candidate vectors. -/
  | gdist (w : FX)
  /-- R365: Sets the ranked list's K and order, and empties it. -/
  | tkcfg (w : F3)
  /-- R366: Offers lane entries to the ranked list. -/
  | tkins (w : F3)
  /-- R369: Merges the lists of other weaves of the gang. -/
  | tkmrgWv (w : FX)
  /-- R369: Stores the list as an image. -/
  | tkmrgSt (w : FX)
  /-- R369: Merges a list image from memory. -/
  | tkmrgLd (w : FX)
  /-- R367: Reads a key or identifier from the list. -/
  | tkrd (w : F3)
  /-- R365: Empties the list. -/
  | tkclr (w : F3)
  /-- R368: Reads the list's status. -/
  | tkstat (w : F3)
  /-- R381: Stores lane data into a remote rank's shadow half. -/
  | xst (w : F3)
  /-- R382: Broadcasts a front-half range to the shadow halves of ranks. -/
  | xbcast (w : FX)
  /-- R383: Arrives at the escapement. -/
  | xstep (w : FX)
  /-- R384: Reads exchange status. -/
  | xstat (w : F3)
  /-- R388: Sends a micro-batch on a Huapol channel. -/
  | lsend (w : FX)
  /-- R389: Takes the next full receive slot. -/
  | lpoll (w : F3)
  /-- R390: Returns the oldest taken slot and sends a credit. -/
  | lret (w : F3)
  /-- R387: Configures a receive buffer. -/
  | lbufcfgRx (w : F3)
  /-- R387: Configures a send channel from the peer's buffer. -/
  | lbufcfgTx (w : F3)
  /-- R387: Invalidates a receive buffer. -/
  | lbufcfgOff (w : F3)
  /-- R385: Reads exchange counters. -/
  | xcnt (w : F3)
  /-- R410: Writes a field of the packet copy in a prologue. -/
  | plset (w : FI)
  /-- R411: Ends the prologue and processes the amended packet. -/
  | plgo (w : F3)
  /-- R411: Ends the prologue and cancels the packet. -/
  | plcancel (w : F3)
  /-- R411: Launches the packet and runs the prologue again after it completes. -/
  | plrepeat (w : F3)
  /-- R410: Adds a dependency to the packet copy. -/
  | pldep (w : FI)
  /-- R410: Reads prologue status. -/
  | plstat (w : F3)
  /-- R25: A long-latency result is written back and its flag count falls. Arguments: a wk; b idx. -/
  | llWriteback
  /-- R72: An engine accepts a queued command, reads its descriptor and clears AFLAG. Arguments: a rec. -/
  | commandAccept
  /-- R224: The oldest store-queue entry leaves and becomes visible. Arguments: a wk. -/
  | storeQueueLeave
  /-- R198: A weave with no live lane ends once its store queue has drained. Arguments: a wk. -/
  | weaveEnd
  /-- R198: A gang frees its resources when its weaves and operations are done. Arguments: a g. -/
  | gangEnd
  /-- R347: Fault 0x38 is delivered at the next clause start after the operation. Arguments: a wk. -/
  | windowFaultDelivery
  /-- R146: The cluster walker translates a miss and sets the A and D bits. Arguments: a cluster; b part; value va; kind. -/
  | tlbWalk
  /-- R155: The GSC enqueues an upcall message for a page-fault ticket, or closes the ticket. Arguments: a ticket. -/
  | pagerUpcall
  /-- R157: A TMODE 0 write removes the translations of one page. Arguments: a part. -/
  | invalidatePage
  /-- R157: A TMODE 1 write removes NPAGES 4 KiB pages. Arguments: a part; b npages. -/
  | invalidateRange
  /-- R157: A TMODE 2 write removes every translation of the partition. Arguments: a part. -/
  | invalidatePartition
  /-- R157: The invalidation completes and BUSY clears. Arguments: a part. -/
  | invalidationDone
  /-- R424: A write of qword 0 with bit 63 set clears an access table's refusal log. Arguments: a target. -/
  | refusalLogClear
  /-- R4: A write to a register that has no behaviour of its own, under its access code. Arguments: a master; b pa, or with on set an offset of the physical function's BAR0; c width; value value. -/
  | registerWrite
  /-- R48: Each cycle the core chooses a context and a weave and issues up to two instructions. Arguments: a core. -/
  | issueCycle
  /-- R425: The leaf controller re-deals a unit's slot table when its resident contexts change. Arguments: a core; b unit. -/
  | slotTableDeal
  /-- R233: The leaf controller revokes a neighbour lease and pushes its slots to memory. Arguments: a wk. -/
  | leaseRevoke
  /-- R251: An accepted matrix operation accumulates a K-slice and reports its status. Arguments: a rec. -/
  | matrixOperationExecute
  /-- R244: A TCFG takes effect once earlier matrix operations finish. Arguments: a rec. -/
  | tcfgEffect
  /-- R263: DRAIN processes one shard, testing the verdict first. Arguments: a rec. -/
  | drainShard
  /-- R277: The members stand at their positions, the links switch and the bond is formed. Arguments: a bond. -/
  | bondFormComplete
  /-- R281: A member core grants the armed round a cycle of its issue port. Arguments: a bond; b member. -/
  | roundGrant
  /-- R281: The round issues into the array after the last grant. Arguments: a bond. -/
  | roundIssue
  /-- R282: The round's accumulation completes and it reports to every share. Arguments: a bond. -/
  | roundComplete
  /-- R285: An uncorrectable operand-link error loses the bond. Arguments: a bond; b the first column that the link feeds; on: an
  east-west link, which feeds every column east of it too. -/
  | operandLinkError
  /-- R296: A copy-engine command completes one unit and resolves after its last. Arguments: a rec. -/
  | copyUnit
  /-- R303: An NVMe completion entry arrives and the next command is submitted. Arguments: a rec; b cmd; c status; bytes data.
  With on, data of a read that arrive while its command is outstanding still (R305): bytes data. -/
  | nvmeCompletion
  /-- R304: A command without completion for 4 seconds fails the transfer. Arguments: a rec; b cmd. -/
  | nvmeTimeout
  /-- R363: GDIST computes and writes one candidate's distance. Arguments: a rec. -/
  | gdistCandidate
  /-- R314: A read or slice operation arrives at a slice and takes a miss entry if it misses. Arguments: a slice; b line; c part;
  d kind, 8 for none. With on, a read by the host (R426): a virtual function, 8 the physical one; b address, or offset in BAR0
  where c is 1; d length. -/
  | sliceReadRequest
  /-- R313: A write by the host arrives at its slices, merges, and drives watch evaluation. Arguments: b pa; c virtual function;
  d kind, 8 for none; bytes data. -/
  | sliceWriteRequest
  /-- R313: A fill from memory completes and frees its miss entry. Arguments: a slice; b line. -/
  | sectorFillComplete
  /-- R314: A write-back buffer entry drains to memory. Arguments: a slice. -/
  | writeBackDrain
  /-- R331: A surrogate write merges into a provisional sector, or is refused and fails the tile. Arguments: a part; b tag; c pa; bytes data. -/
  | provisionalWrite
  /-- R332: A slice merges a tag's provisional sectors into committed copies. Arguments: a slice; b part; c tag. -/
  | tileCommit
  /-- R332: A slice drops a tag's provisional sectors. Arguments: a slice; b part; c tag. -/
  | tileDiscard
  /-- R328: A satisfied watch makes the front end write the host word and raise MSI-X. Arguments: a n. -/
  | watchFire
  /-- R338: The partition manager makes a boundary 64 cycles after a request while no region is stitched. Arguments: a part. -/
  | soloBoundary
  /-- R353: The sweeper rewrites one stamped word to the current step. Arguments: a part; b region. -/
  | sweepVisit
  /-- R381: An exchange datum lands in the target's shadow half L cycles after leaving. Arguments: a part; b region; c idx. -/
  | xstLand
  /-- R378: At cycle B the halves swap on every core and the held lanes are released. Arguments: a part; b region. -/
  | escapementRelease
  /-- R391: A flit arrives and is checked, discarded for replay or acted on by kind. Arguments: a port; bytes flit. -/
  | huapolFlitReceive
  /-- R391: After 8 failed replays the link goes down and its channels fail. Arguments: a port. -/
  | linkDown
  /-- R389: A receive slot's payload is visible, so its full bit is set and acknowledged. Arguments: a port; b buf; c slot. -/
  | slotFull
  /-- R390: A returned credit raises the sender's credits. Arguments: a port; b chan. -/
  | creditReceive
  /-- R388: A full acknowledgement resolves an .ack LSEND. Arguments: a port; b chan; c slot. -/
  | fullAcknowledgement
  /-- R387: A discard report resolves an .ack LSEND with 0x41 and fails the channel. Arguments: a port; b chan; c slot. -/
  | discardReport
  /-- R397: An 8-byte store of a write index to a queue's doorbell. Arguments: a part; b queue; c width; value windex. -/
  | doorbellKick
  /-- R400: The GSC maps a pending queue into a slot, evicting one if needed. Arguments: a part; b queue. -/
  | queueMap
  /-- R402: A slot idle for TOUT is unmapped. Arguments: a slot. -/
  | slotIdleTimeout
  /-- R403: The 10 µs timer raises the ages of Ready queues. -/
  | ageTick
  /-- R403: The free dispatch stream chooses a Ready slot. Arguments: a part. -/
  | dispatchStreamChoice
  /-- R401: A queue takes its next packet into its launch record. Arguments: a slot. -/
  | packetTake
  /-- R405: A DIRECT packet is checked, awaits dependencies and dispatches gangs. Arguments: a launch. -/
  | directPacket
  /-- R405: An INDIRECT packet runs a prologue before it is processed. Arguments: a launch. -/
  | indirectPacket
  /-- R405: A GUARDED packet dispatches surrogate tiles. Arguments: a launch. -/
  | guardedPacket
  /-- R55: A SIGNAL packet completes when its dependencies are met. Arguments: a launch. -/
  | signalPacket
  /-- R414: A WATCH packet arms a host watch after its dependencies. Arguments: a launch. -/
  | watchPacket
  /-- R55: A BARRIER packet waits for every earlier packet of the queue. Arguments: a launch. -/
  | barrierPacket
  /-- R374: A STITCH packet stitches or unstitches a region. Arguments: a launch. -/
  | stitchPacket
  /-- R406: A write to a dependency word triggers re-evaluation at its slice. Arguments: a launch; b dep. -/
  | dependencyEvaluation
  /-- R406: Without a free record, a dependency is re-evaluated every 1 µs. Arguments: a launch; b dep. -/
  | dependencyPoll
  /-- R408: A 257th prologue word ends the run with 0x30, detail 0x06. Arguments: a part. -/
  | prologueWordLimit
  /-- R411: After a PLREPEAT launch completes, the prologue runs again. Arguments: a launch. -/
  | prologueRepeat
  /-- R47: A gang is placed on a core of its target die. Arguments: a launch; b g; c core. -/
  | gangDispatch
  /-- R407: The launch completes, and the status and completion word are written. Arguments: a launch. -/
  | launchCompletion
  /-- R417: The regulator passes or fails a tile and commits or discards it. Arguments: a launch; b tile. -/
  | tileDecision
  /-- R430: A launch Running for RUNLIM ms is ended. Arguments: a launch. -/
  | runLimitExpiry
  /-- R428: After PWAIT the GSC pre-empts a lower-level queue. Arguments: a launch. -/
  | priorityWaitExpiry
  /-- R429: The DDL timer expires and the resident gangs are escalated. Arguments: a part; b queue. -/
  | drainDeadlineExpiry
  /-- R216: A trap order makes every weave of the gang enter the handler with ECAUSE 2. Arguments: a g. -/
  | preemptTrap
  /-- R413: Pre-empted launches dispatch again and saved gangs restore. Arguments: a launch. -/
  | launchResume
  /-- R420: A 64-byte message arrives on an LC-GSC command link. Arguments: a cluster; on toGsc; bytes msg. -/
  | commandLinkMessage
  /-- R420: An uncorrectable command-link error resets the LC. Arguments: a cluster. -/
  | commandLinkError
  /-- R427: Service 0x0000 replies with s0 := 0. Arguments: a wk. -/
  | syscNull
  /-- R427: Service 0x0001 records that a weave's save is finished. Arguments: a wk. -/
  | syscSaveDone
  /-- R427: Service 0x0010 replies with the partition and cluster data. Arguments: a wk. -/
  | syscPartitionInfo
  /-- R427: Service 0x0011 replies with the microseconds since reset. Arguments: a wk. -/
  | syscTime
  /-- R427: Service 0x0020 appends to the firmware log. Arguments: a wk. -/
  | syscLog
  /-- R423: The mailbox command that checks a descriptor and activates a partition. -/
  | pcreate
  /-- R422: The mailbox command that tears down a partition. -/
  | pdestroy
  /-- R422: The mailbox command that pre-empts a partition and saves its stamp block. -/
  | psuspend
  /-- R422: The mailbox command that restores the stamp block and resumes launches. -/
  | presume
  /-- R422: The mailbox command that loads a storage table entry. -/
  | storset
  /-- R431: The mailbox command that verifies an image and writes it to flash. -/
  | imgwrite
  /-- R433: The mailbox command that writes a signed attestation report. -/
  | attest
  /-- R435: The mailbox command that re-provisions the identity after key erasure. -/
  | provision
  /-- R440: Reset verifies the image, trains the stacks and ports, and brings dies into service. Arguments: a hbmTrained; b portsUp; c expanders; d capacity; peers. -/
  | reset
  /-- R443: With all dies up, the GSC pre-empts all queues, raises the clock and resumes. -/
  | fullServiceSwitch
  /-- R437: A sensor at 100 °C or more sets THERM to hold and stops dispatch. Arguments: a cluster; b temp. -/
  | thermalHold
  /-- R437: All sensors at 95 °C or less resume dispatch. Arguments: a cluster; b temp. -/
  | thermalRelease
  /-- R437: A sensor at 115 °C or more removes the core rails at once. Arguments: a cluster; b temp. -/
  | thermalTrip
  /-- R435: A detector fires, keys are erased, partitions are torn down and service is refused. Arguments: a detector. -/
  | securityAlarm
  /-- R447: A single-bit or replayable error is corrected, counted and possibly logged. Arguments: a cls; b unit; c pa; d master. -/
  | correctedError
  /-- R447: An uncorrectable error delivers 0x60 and is logged. Arguments: a cls; b unit; c pa; d master; victim. -/
  | uncorrectableError
  /-- R449: The firmware gates or re-enables a scratchpad bank. Arguments: a core; b bank; on enable. -/
  | scratchpadBankGate
  /-- R449: A bank finishes waking and releases the held accesses. Arguments: a core; b bank. -/
  | scratchpadBankWake
  /-- R450: The firmware writes back and gates, or re-enables, a slice way. Arguments: a slice; b way; on enable. -/
  | l2WayGate
  /-- R315: A way finishes waking and releases the held requests. Arguments: a slice; b way. -/
  | l2WayWake
  /-- R267: An accepted matrix or bond command other than the MMA family (WLATCH, CBKLD, ACCZ, ACCLD, ACCST, ACCPROM, DRAINUNDO, BSAVE, BRESUME) completes one unit and resolves its handle after its last. Arguments: a rec. -/
  | matrixCommandUnit
  /-- R369: A pending TKMRG reads its snapshot or image, writes it or merges it into the weave's list in one step, and resolves its handle. Arguments: a rec. -/
  | tkmrgResolve
  /-- R388: The last byte of a non-.ack LSEND leaves the Huapol port and its handle resolves with 0. Arguments: a rec. -/
  | lsendDeparture
  deriving DecidableEq, Repr

end Sys2Proof
end

