-- ==== Sys2Proof/Decode.lean ====
section
/-! DEFINITION. Decoding and encoding of instruction words (spec/03_encoding.md, R66 to R71, R73, R74, R83, R84): the
decoder is total on 64-bit words and answers an instruction or the reason why the word is none (R85). -/

namespace Sys2Proof

/-- The special operand of code 424 + n (R74). -/
def specialOf (n : Nat) : Special :=
  match n with
  | 0 => .zero
  | 1 => .laneId
  | 2 => .quadId
  | 3 => .weaveId
  | 4 => .gangX
  | 5 => .gangY
  | 6 => .gangZ
  | 7 => .cohortRank
  | 8 => .clkLo
  | 9 => .clkHi
  | 10 => .stepLo
  | 11 => .stepHi
  | 12 => .sdlo
  | 13 => .sdhi
  | 14 => .mr
  | 15 => .faultCode
  | 16 => .faultMask
  | 17 => .faultAddrLo
  | 18 => .faultAddrHi
  | 19 => .faultPcLo
  | 20 => .faultPcHi
  | 21 => .fpsw
  | 22 => .actmask
  | _ => .gangId

/-- The place of a special operand after code 424 (R74). -/
def specialIndex : Special → Nat
  | .zero => 0
  | .laneId => 1
  | .quadId => 2
  | .weaveId => 3
  | .gangX => 4
  | .gangY => 5
  | .gangZ => 6
  | .cohortRank => 7
  | .clkLo => 8
  | .clkHi => 9
  | .stepLo => 10
  | .stepHi => 11
  | .sdlo => 12
  | .sdhi => 13
  | .mr => 14
  | .faultCode => 15
  | .faultMask => 16
  | .faultAddrLo => 17
  | .faultAddrHi => 18
  | .faultPcLo => 19
  | .faultPcHi => 20
  | .fpsw => 21
  | .actmask => 22
  | .gangId => 23

/-- The operand that a 9-bit field names (R73). -/
def decodeOperand (c : BitVec 9) : Operand :=
  let n := c.toNat
  if h : n < 320 then .v ⟨n, h⟩
  else if h : n - 320 < 64 then .s ⟨n - 320, h⟩
  else if h : n - 384 < 16 then .p ⟨n - 384, h⟩
  else if h : n - 400 < 16 then .h ⟨n - 400, h⟩
  else if h : n - 416 < 8 then .c ⟨n - 416, h⟩
  else if n - 424 < 24 then .special (specialOf (n - 424))
  else if h : n - 448 < 32 then .int ⟨n - 448, h⟩
  else if h : n - 480 < 32 then .fp ⟨n - 480, h⟩
  else .special .zero

/-- The 9-bit code of an operand (R73). -/
def encodeOperand : Operand → BitVec 9
  | .v i => BitVec.ofNat 9 i.val
  | .s i => BitVec.ofNat 9 (320 + i.val)
  | .p i => BitVec.ofNat 9 (384 + i.val)
  | .h i => BitVec.ofNat 9 (400 + i.val)
  | .c i => BitVec.ofNat 9 (416 + i.val)
  | .special k => BitVec.ofNat 9 (424 + specialIndex k)
  | .int i => BitVec.ofNat 9 (448 + i.val)
  | .fp i => BitVec.ofNat 9 (480 + i.val)

/-- Source C of a word of an opcode marked 3S: bits [24:16], the upper nine bits of MODB (R67). -/
def F3.srcC (w : F3) : Operand := decodeOperand (w.modb.extractLsb' 3 9)

/-- The fields of an F3 word (R67). -/
def decodeF3 (x : Dbl) : F3 where
  dst := decodeOperand (x.extractLsb' 43 9)
  a := decodeOperand (x.extractLsb' 34 9)
  b := decodeOperand (x.extractLsb' 25 9)
  modb := x.extractLsb' 13 12
  pred := x.extractLsb' 9 4
  neg := x.getLsbD 8
  hold := x.extractLsb' 6 2
  reuse := x.getLsbD 5
  mods := x.extractLsb' 0 5

/-- The fields of an FI word (R68). -/
def decodeFI (x : Dbl) : FI where
  dst := decodeOperand (x.extractLsb' 43 9)
  a := decodeOperand (x.extractLsb' 34 9)
  imm := x.extractLsb' 10 24
  pred := x.extractLsb' 6 4
  neg := x.getLsbD 5
  mods := x.extractLsb' 0 5

/-- The fields of an FX word (R71). -/
def decodeFX (x : Dbl) : FX where
  dbase := x.extractLsb' 46 6
  hdst := x.extractLsb' 42 4
  noh := x.getLsbD 41
  subop := x.extractLsb' 33 8
  imm := x.extractLsb' 9 24
  aflag := x.extractLsb' 5 4
  afen := x.getLsbD 4
  rsvd := x.extractLsb' 0 4

/-- The D2 operation of an OP7 value (R84). -/
def d2Of (n : Nat) : Option D2Op :=
  match n with
  | 0x00 => some .iadd
  | 0x01 => some .isub
  | 0x02 => some .imul
  | 0x03 => some .imulh
  | 0x04 => some .iabs
  | 0x05 => some .ineg
  | 0x06 => some .imin
  | 0x07 => some .imax
  | 0x08 => some .and
  | 0x09 => some .or
  | 0x0A => some .xor
  | 0x0B => some .not
  | 0x0C => some .andn
  | 0x0D => some .shl
  | 0x0E => some .shr
  | 0x0F => some .rot
  | 0x10 => some .popc
  | 0x11 => some .clz
  | 0x12 => some .ctz
  | 0x13 => some .brev
  | 0x14 => some .mov
  | 0x20 => some .fadd
  | 0x21 => some .fsub
  | 0x22 => some .fmul
  | 0x23 => some .fmin
  | 0x24 => some .fmax
  | 0x25 => some .frcp
  | 0x26 => some .fsqrt
  | 0x27 => some .frsq
  | 0x28 => some .fexp2
  | 0x29 => some .flog2
  | 0x2A => some .fsin
  | 0x2B => some .fcos
  | 0x2C => some .ftanh
  | 0x30 => some .hadd2
  | 0x31 => some .hmul2
  | 0x38 => some .cvt
  | 0x39 => some .pack
  | 0x3A => some .unpack
  | _ => none

/-- The OP7 value of a D2 operation (R84). -/
def d2Code : D2Op → Nat
  | .iadd => 0x00
  | .isub => 0x01
  | .imul => 0x02
  | .imulh => 0x03
  | .iabs => 0x04
  | .ineg => 0x05
  | .imin => 0x06
  | .imax => 0x07
  | .and => 0x08
  | .or => 0x09
  | .xor => 0x0A
  | .not => 0x0B
  | .andn => 0x0C
  | .shl => 0x0D
  | .shr => 0x0E
  | .rot => 0x0F
  | .popc => 0x10
  | .clz => 0x11
  | .ctz => 0x12
  | .brev => 0x13
  | .mov => 0x14
  | .fadd => 0x20
  | .fsub => 0x21
  | .fmul => 0x22
  | .fmin => 0x23
  | .fmax => 0x24
  | .frcp => 0x25
  | .fsqrt => 0x26
  | .frsq => 0x27
  | .fexp2 => 0x28
  | .flog2 => 0x29
  | .fsin => 0x2A
  | .fcos => 0x2B
  | .ftanh => 0x2C
  | .hadd2 => 0x30
  | .hmul2 => 0x31
  | .cvt => 0x38
  | .pack => 0x39
  | .unpack => 0x3A

/-- The fields of one half of a D2 word, bit 0 of the half first (R69); none where OP7 is not mapped. -/
def decodeHalf (x : BitVec 31) : Option D2Half :=
  (d2Of (x.extractLsb' 24 7).toNat).map fun op =>
    { op := op, d := decodeOperand (x.extractLsb' 15 9), s := decodeOperand (x.extractLsb' 6 9),
      pred := x.extractLsb' 3 3, neg := x.getLsbD 2, mods := x.extractLsb' 0 2 }

/-- Why a word is no instruction (R85). -/
inductive DecodeError where
  /-- The opcode is unassigned: 0x02, detail 0x00. -/
  | unassigned
  /-- The opcode is assigned and does not list the format: 0x01. -/
  | format
  /-- An OP7 of the D2 word is not mapped: 0x01. -/
  | d2Op
  deriving DecidableEq, Repr

/-- The fault status of a word that is no instruction (R85). -/
def DecodeError.status : DecodeError → Word
  | .unassigned => 0x02#32
  | .format => 0x01#32
  | .d2Op => 0x01#32

/-- The F3 instruction of an opcode, its form chosen by MODS where one opcode has several (R84). -/
def f3Instr (opc : Nat) (w : F3) : Option Instr :=
  match opc with
  | 0x000 => some (.iadd w)
  | 0x001 => some (.isub w)
  | 0x002 => some (.imul w)
  | 0x003 => some (.imulh w)
  | 0x004 => some (.imad w)
  | 0x005 => some (.imadw w)
  | 0x006 => some (.iabs w)
  | 0x007 => some (.ineg w)
  | 0x008 => some (.imin w)
  | 0x009 => some (.imax w)
  | 0x00A => some (.and w)
  | 0x00B => some (.or w)
  | 0x00C => some (.xor w)
  | 0x00D => some (.not w)
  | 0x00E => some (.andn w)
  | 0x00F => some (.shl w)
  | 0x010 => some (.shr w)
  | 0x011 => some (.rot w)
  | 0x012 => some (.bfe w)
  | 0x013 => some (.bfi w)
  | 0x014 => some (.popc w)
  | 0x015 => some (.clz w)
  | 0x016 => some (.ctz w)
  | 0x017 => some (.brev w)
  | 0x018 => some (.isel w)
  | 0x019 => some (.icmp w)
  | 0x01A => some (.iaddc w)
  | 0x01B => some (.lea w)
  | 0x01C => some (.mov w)
  | 0x01F => some (.pand w)
  | 0x020 => some (.por w)
  | 0x021 => some (.pxor w)
  | 0x022 => some (.idp4 w)
  | 0x080 => some (.fadd w)
  | 0x081 => some (.fsub w)
  | 0x082 => some (.fmul w)
  | 0x083 => some (.ffma w)
  | 0x084 => some (.fmin w)
  | 0x085 => some (.fmax w)
  | 0x086 => some (.fcmp w)
  | 0x087 => some (.frcp w)
  | 0x088 => some (.fsqrt w)
  | 0x089 => some (.frsq w)
  | 0x08A => some (.fexp2 w)
  | 0x08B => some (.flog2 w)
  | 0x08C => some (.fsin w)
  | 0x08D => some (.fcos w)
  | 0x08E => some (.ftanh w)
  | 0x090 => some (.hadd2 w)
  | 0x091 => some (.hmul2 w)
  | 0x092 => some (.hfma2 w)
  | 0x093 => some (.hdot2 w)
  | 0x098 => some (.cvt w)
  | 0x099 => some (.pack w)
  | 0x09A => some (.unpack w)
  | 0x0A0 => some (.qswap w)
  | 0x0A1 => some (.qbcast w)
  | 0x0A2 => some (.shfl w)
  | 0x0A3 => some (.wred w)
  | 0x0A8 => some (.srnd w)
  | 0x102 => some (.jmpi w)
  | 0x104 => some (.calli w)
  | 0x105 => some (.ret w)
  | 0x107 => some (.rejoin w)
  | 0x108 => some (.exit w)
  | 0x109 => some (.nop w)
  | 0x10A => some (.yield w)
  | 0x10B => some (.vote w)
  | 0x10C => some (.actmask w)
  | 0x10D => some (.sign w)
  | 0x10E => some (.cvdecl w)
  | 0x10F => some (if w.mods &&& 1 = 1 then .hwaitAll w else .hwait w)
  | 0x110 => some (.htest w)
  | 0x111 => some (.hcancel w)
  | 0x112 => some (if w.mods &&& 3 = 1 then .hmovSt w else if w.mods &&& 3 = 2 then .hmovLd w else .hmov w)
  | 0x113 => some (.gbar w)
  | 0x114 => some (.cbar w)
  | 0x115 => some (.rsend w)
  | 0x116 => some (.rtake w)
  | 0x117 => some (.rstat w)
  | 0x11A => some (.eret w)
  | 0x11D => some (.stkset w)
  | 0x11F => some (.flgrd w)
  | 0x180 => some (.ld w)
  | 0x181 => some (.st w)
  | 0x182 => some (.lds w)
  | 0x183 => some (.sts w)
  | 0x184 => some (.ldc w)
  | 0x185 => some (.atom w)
  | 0x186 => some (.fence w)
  | 0x187 => some (.pfl1 w)
  | 0x188 => some (if w.mods &&& 7 = 1 then .cctlIvd w else if w.mods &&& 7 = 2 then .cctlIvi w else .cctlIvl w)
  | 0x189 => some (if w.mods &&& 1 = 1 then .nleaseSt w else .nlease w)
  | 0x18A => some (.nrel w)
  | 0x18B => some (.nspl w)
  | 0x18C => some (.nfil w)
  | 0x18D => some (.pgmap w)
  | 0x18E => some (.pgdone w)
  | 0x1E0 => some (.dld w)
  | 0x1E1 => some (.dadd w)
  | 0x1E2 => some (.dset w)
  | 0x1E3 => some (.draw w)
  | 0x1E4 => some (if w.mods &&& 3 = 1 then .steprdGe w else if w.mods &&& 3 = 2 then .steprdPend w else .steprd w)
  | 0x1E5 => some (.stepadv w)
  | 0x1E6 => some (.ftset w)
  | 0x1E8 => some (.swpstat w)
  | 0x201 => some (.tcfgrd w)
  | 0x204 => some (.mma w)
  | 0x205 => some (.mmas w)
  | 0x206 => some (.mmal w)
  | 0x207 => some (.mmac w)
  | 0x208 => some (.opfence w)
  | 0x20A => some (.accrd w)
  | 0x20B => some (.accwr w)
  | 0x211 => some (.accstat w)
  | 0x251 => some (.blease w)
  | 0x252 => some (.brel w)
  | 0x253 => some (.bstat w)
  | 0x256 => some (if w.mods &&& 4 = 4 then .wslotRd w else .wslot w)
  | 0x257 => some (if w.mods &&& 3 = 1 then .bseamPair w else if w.mods &&& 3 = 2 then .bseamUn w else .bseamQ w)
  | 0x288 => some (.sgstat w)
  | 0x2B0 => some (.ratom w)
  | 0x2B1 => some (.qenq w)
  | 0x2B2 => some (.qdeq w)
  | 0x2B3 => some (.qpark w)
  | 0x2B4 => some (.qstat w)
  | 0x2B5 => some (if w.mods &&& 1 = 1 then .qinitInv w else .qinit w)
  | 0x2B6 => some (.cntrd w)
  | 0x2B7 => some (.cntclr w)
  | 0x2B8 => some (if w.mods &&& 16 = 16 then .watchCancel w else .watch w)
  | 0x2B9 => some (.sflush w)
  | 0x2BA => some (.gres w)
  | 0x301 => some (.tkcfg w)
  | 0x302 => some (.tkins w)
  | 0x304 => some (.tkrd w)
  | 0x305 => some (.tkclr w)
  | 0x306 => some (.tkstat w)
  | 0x320 => some (.xst w)
  | 0x323 => some (.xstat w)
  | 0x325 => some (.lpoll w)
  | 0x326 => some (.lret w)
  | 0x327 => some (if w.mods &&& 3 = 1 then .lbufcfgTx w else if w.mods &&& 3 = 2 then .lbufcfgOff w else .lbufcfgRx w)
  | 0x328 => some (.xcnt w)
  | 0x381 => some (.plgo w)
  | 0x382 => some (.plcancel w)
  | 0x383 => some (.plrepeat w)
  | 0x385 => some (.plstat w)
  | _ => none

/-- The FI instruction of an opcode (R84). -/
def fiInstr (opc : Nat) (w : FI) : Option Instr :=
  match opc with
  | 0x000 => some (.iaddFi w)
  | 0x001 => some (.isubFi w)
  | 0x002 => some (.imulFi w)
  | 0x008 => some (.iminFi w)
  | 0x009 => some (.imaxFi w)
  | 0x00A => some (.andFi w)
  | 0x00B => some (.orFi w)
  | 0x00C => some (.xorFi w)
  | 0x00E => some (.andnFi w)
  | 0x00F => some (.shlFi w)
  | 0x010 => some (.shrFi w)
  | 0x011 => some (.rotFi w)
  | 0x012 => some (.bfeFi w)
  | 0x019 => some (.icmpFi w)
  | 0x01B => some (.leaFi w)
  | 0x01D => some (.movi w)
  | 0x01E => some (.movhi w)
  | 0x080 => some (.faddFi w)
  | 0x081 => some (.fsubFi w)
  | 0x082 => some (.fmulFi w)
  | 0x086 => some (.fcmpFi w)
  | 0x100 => some (.bra w)
  | 0x101 => some (.brau w)
  | 0x103 => some (.call w)
  | 0x106 => some (.meet w)
  | 0x118 => some (.trap w)
  | 0x119 => some (.sysc w)
  | 0x11B => some (.rdsr w)
  | 0x11C => some (.wrsr w)
  | 0x11E => some (.clrflg w)
  | 0x180 => some (.ldFi w)
  | 0x181 => some (.stFi w)
  | 0x182 => some (.ldsFi w)
  | 0x183 => some (.stsFi w)
  | 0x184 => some (.ldcFi w)
  | 0x187 => some (.pfl1Fi w)
  | 0x380 => some (.plset w)
  | 0x384 => some (.pldep w)
  | _ => none

/-- The FX instruction of an opcode, its form chosen by SUBOP where one opcode has several (R84). -/
def fxInstr (opc : Nat) (w : FX) : Option Instr :=
  match opc with
  | 0x1E7 => some (if w.subop.toNat = 1 then .swpregInv w else if w.subop.toNat = 2 then .swpregThr w else if w.subop.toNat = 3 then .swpregNow w else .swpreg w)
  | 0x200 => some (if w.subop.toNat = 1 then .tcfgTile w else .tcfgCfg w)
  | 0x202 => some (.wlatch w)
  | 0x203 => some (.cbkld w)
  | 0x209 => some (.accz w)
  | 0x20C => some (.accld w)
  | 0x20D => some (.accst w)
  | 0x20E => some (.accprom w)
  | 0x20F => some (.drain w)
  | 0x210 => some (.drainundo w)
  | 0x250 => some (.bform w)
  | 0x254 => some (.bsave w)
  | 0x255 => some (.bresume w)
  | 0x280 => some (if w.subop.toNat = 1 then .tcopyG w else .tcopy w)
  | 0x281 => some (.tmcast w)
  | 0x282 => some (.tqnt w)
  | 0x283 => some (.tdq w)
  | 0x284 => some (.sload w)
  | 0x285 => some (.sstore w)
  | 0x286 => some (.bpref w)
  | 0x287 => some (if w.subop.toNat = 1 then .sgpatInv w else .sgpat w)
  | 0x289 => some (.tfill w)
  | 0x300 => some (.gdist w)
  | 0x303 => some (if w.subop.toNat = 1 then .tkmrgSt w else if w.subop.toNat = 2 then .tkmrgLd w else .tkmrgWv w)
  | 0x321 => some (.xbcast w)
  | 0x322 => some (.xstep w)
  | 0x324 => some (.lsend w)
  | _ => none

/-- The assigned opcodes, by group (R84). -/
def assignedOpcodes : List Nat :=
  [0x000, 0x001, 0x002, 0x003, 0x004, 0x005, 0x006, 0x007, 0x008, 0x009, 0x00A, 0x00B, 0x00C, 0x00D, 0x00E, 0x00F, 0x010, 0x011, 0x012, 0x013, 0x014, 0x015, 0x016, 0x017, 0x018, 0x019, 0x01A, 0x01B, 0x01C, 0x01D, 0x01E, 0x01F, 0x020, 0x021, 0x022] ++
  [0x080, 0x081, 0x082, 0x083, 0x084, 0x085, 0x086, 0x087, 0x088, 0x089, 0x08A, 0x08B, 0x08C, 0x08D, 0x08E, 0x090, 0x091, 0x092, 0x093, 0x098, 0x099, 0x09A, 0x0A0, 0x0A1, 0x0A2, 0x0A3, 0x0A8] ++
  [0x100, 0x101, 0x102, 0x103, 0x104, 0x105, 0x106, 0x107, 0x108, 0x109, 0x10A, 0x10B, 0x10C, 0x10D, 0x10E, 0x10F, 0x110, 0x111, 0x112, 0x113, 0x114, 0x115, 0x116, 0x117, 0x118, 0x119, 0x11A, 0x11B, 0x11C, 0x11D, 0x11E, 0x11F] ++
  [0x180, 0x181, 0x182, 0x183, 0x184, 0x185, 0x186, 0x187, 0x188, 0x189, 0x18A, 0x18B, 0x18C, 0x18D, 0x18E, 0x1E0, 0x1E1, 0x1E2, 0x1E3, 0x1E4, 0x1E5, 0x1E6, 0x1E7, 0x1E8] ++
  [0x200, 0x201, 0x202, 0x203, 0x204, 0x205, 0x206, 0x207, 0x208, 0x209, 0x20A, 0x20B, 0x20C, 0x20D, 0x20E, 0x20F, 0x210, 0x211, 0x250, 0x251, 0x252, 0x253, 0x254, 0x255, 0x256, 0x257] ++
  [0x280, 0x281, 0x282, 0x283, 0x284, 0x285, 0x286, 0x287, 0x288, 0x289, 0x2B0, 0x2B1, 0x2B2, 0x2B3, 0x2B4, 0x2B5, 0x2B6, 0x2B7, 0x2B8, 0x2B9, 0x2BA] ++
  [0x300, 0x301, 0x302, 0x303, 0x304, 0x305, 0x306, 0x320, 0x321, 0x322, 0x323, 0x324, 0x325, 0x326, 0x327, 0x328] ++
  [0x380, 0x381, 0x382, 0x383, 0x384, 0x385]

/-- Decodes an instruction word: unassigned opcode first, then the format (R86); a D2 word has no opcode field and is
illegal where an OP7 is not mapped. -/
def decode (x : Dbl) : Except DecodeError Instr :=
  let opc := (x.extractLsb' 52 10).toNat
  let answer : Option Instr → Except DecodeError Instr := fun o =>
    match o with
    | some i => .ok i
    | none => .error (if assignedOpcodes.contains opc then .format else .unassigned)
  match (x.extractLsb' 62 2).toNat with
  | 0 => answer (f3Instr opc (decodeF3 x))
  | 1 => answer (fiInstr opc (decodeFI x))
  | 2 =>
    match decodeHalf (x.extractLsb' 31 31), decodeHalf (x.extractLsb' 0 31) with
    | some hi, some lo => .ok (.d2Word hi lo)
    | _, _ => .error .d2Op
  | _ => answer (fxInstr opc (decodeFX x))

/-- The instruction that the decoder reads from a word whose bits are `w`; `nbits` says how many of them the opcode
table gives, the bits above are 0 and every Dunros word is one 64-bit word (R3, R66). -/
def decodeTableWord (_nbits w : Nat) : Option Instr :=
  match decode (BitVec.ofNat 64 w) with
  | .ok i => some i
  | .error _ => none

/-- An F3 word (R67). -/
def encodeF3 (opc : BitVec 10) (w : F3) : Dbl :=
  (0b00#2 ++ opc ++ encodeOperand w.dst ++ encodeOperand w.a ++ encodeOperand w.b ++ w.modb ++ w.pred ++
    BitVec.ofBool w.neg ++ w.hold ++ BitVec.ofBool w.reuse ++ w.mods : BitVec 64)

/-- An FI word (R68). -/
def encodeFI (opc : BitVec 10) (w : FI) : Dbl :=
  (0b01#2 ++ opc ++ encodeOperand w.dst ++ encodeOperand w.a ++ w.imm ++ w.pred ++ BitVec.ofBool w.neg ++
    w.mods : BitVec 64)

/-- An FX word (R71). -/
def encodeFX (opc : BitVec 10) (w : FX) : Dbl :=
  (0b11#2 ++ opc ++ w.dbase ++ w.hdst ++ BitVec.ofBool w.noh ++ w.subop ++ w.imm ++ w.aflag ++
    BitVec.ofBool w.afen ++ w.rsvd : BitVec 64)

/-- One half of a D2 word (R69). -/
def encodeHalf (h : D2Half) : BitVec 31 :=
  (BitVec.ofNat 7 (d2Code h.op) ++ encodeOperand h.d ++ encodeOperand h.s ++ h.pred ++ BitVec.ofBool h.neg ++
    h.mods : BitVec 31)

/-- A D2 word (R69). -/
def encodeD2 (hi lo : D2Half) : Dbl := (0b10#2 ++ encodeHalf hi ++ encodeHalf lo : BitVec 64)

/-- The word of an instruction word, from R67 to R71 and R84; none for an event, which has no encoding. -/
def encode : Instr → Option Dbl
  | .iadd w => some (encodeF3 0x000#10 w)
  | .iaddFi w => some (encodeFI 0x000#10 w)
  | .isub w => some (encodeF3 0x001#10 w)
  | .isubFi w => some (encodeFI 0x001#10 w)
  | .imul w => some (encodeF3 0x002#10 w)
  | .imulFi w => some (encodeFI 0x002#10 w)
  | .imulh w => some (encodeF3 0x003#10 w)
  | .imad w => some (encodeF3 0x004#10 w)
  | .imadw w => some (encodeF3 0x005#10 w)
  | .iabs w => some (encodeF3 0x006#10 w)
  | .ineg w => some (encodeF3 0x007#10 w)
  | .imin w => some (encodeF3 0x008#10 w)
  | .iminFi w => some (encodeFI 0x008#10 w)
  | .imax w => some (encodeF3 0x009#10 w)
  | .imaxFi w => some (encodeFI 0x009#10 w)
  | .and w => some (encodeF3 0x00A#10 w)
  | .andFi w => some (encodeFI 0x00A#10 w)
  | .or w => some (encodeF3 0x00B#10 w)
  | .orFi w => some (encodeFI 0x00B#10 w)
  | .xor w => some (encodeF3 0x00C#10 w)
  | .xorFi w => some (encodeFI 0x00C#10 w)
  | .not w => some (encodeF3 0x00D#10 w)
  | .andn w => some (encodeF3 0x00E#10 w)
  | .andnFi w => some (encodeFI 0x00E#10 w)
  | .shl w => some (encodeF3 0x00F#10 w)
  | .shlFi w => some (encodeFI 0x00F#10 w)
  | .shr w => some (encodeF3 0x010#10 w)
  | .shrFi w => some (encodeFI 0x010#10 w)
  | .rot w => some (encodeF3 0x011#10 w)
  | .rotFi w => some (encodeFI 0x011#10 w)
  | .bfe w => some (encodeF3 0x012#10 w)
  | .bfeFi w => some (encodeFI 0x012#10 w)
  | .bfi w => some (encodeF3 0x013#10 w)
  | .popc w => some (encodeF3 0x014#10 w)
  | .clz w => some (encodeF3 0x015#10 w)
  | .ctz w => some (encodeF3 0x016#10 w)
  | .brev w => some (encodeF3 0x017#10 w)
  | .isel w => some (encodeF3 0x018#10 w)
  | .icmp w => some (encodeF3 0x019#10 w)
  | .icmpFi w => some (encodeFI 0x019#10 w)
  | .iaddc w => some (encodeF3 0x01A#10 w)
  | .lea w => some (encodeF3 0x01B#10 w)
  | .leaFi w => some (encodeFI 0x01B#10 w)
  | .mov w => some (encodeF3 0x01C#10 w)
  | .movi w => some (encodeFI 0x01D#10 w)
  | .movhi w => some (encodeFI 0x01E#10 w)
  | .pand w => some (encodeF3 0x01F#10 w)
  | .por w => some (encodeF3 0x020#10 w)
  | .pxor w => some (encodeF3 0x021#10 w)
  | .idp4 w => some (encodeF3 0x022#10 w)
  | .fadd w => some (encodeF3 0x080#10 w)
  | .faddFi w => some (encodeFI 0x080#10 w)
  | .fsub w => some (encodeF3 0x081#10 w)
  | .fsubFi w => some (encodeFI 0x081#10 w)
  | .fmul w => some (encodeF3 0x082#10 w)
  | .fmulFi w => some (encodeFI 0x082#10 w)
  | .ffma w => some (encodeF3 0x083#10 w)
  | .fmin w => some (encodeF3 0x084#10 w)
  | .fmax w => some (encodeF3 0x085#10 w)
  | .fcmp w => some (encodeF3 0x086#10 w)
  | .fcmpFi w => some (encodeFI 0x086#10 w)
  | .frcp w => some (encodeF3 0x087#10 w)
  | .fsqrt w => some (encodeF3 0x088#10 w)
  | .frsq w => some (encodeF3 0x089#10 w)
  | .fexp2 w => some (encodeF3 0x08A#10 w)
  | .flog2 w => some (encodeF3 0x08B#10 w)
  | .fsin w => some (encodeF3 0x08C#10 w)
  | .fcos w => some (encodeF3 0x08D#10 w)
  | .ftanh w => some (encodeF3 0x08E#10 w)
  | .hadd2 w => some (encodeF3 0x090#10 w)
  | .hmul2 w => some (encodeF3 0x091#10 w)
  | .hfma2 w => some (encodeF3 0x092#10 w)
  | .hdot2 w => some (encodeF3 0x093#10 w)
  | .cvt w => some (encodeF3 0x098#10 w)
  | .pack w => some (encodeF3 0x099#10 w)
  | .unpack w => some (encodeF3 0x09A#10 w)
  | .qswap w => some (encodeF3 0x0A0#10 w)
  | .qbcast w => some (encodeF3 0x0A1#10 w)
  | .shfl w => some (encodeF3 0x0A2#10 w)
  | .wred w => some (encodeF3 0x0A3#10 w)
  | .srnd w => some (encodeF3 0x0A8#10 w)
  | .d2Word hi lo => some (encodeD2 hi lo)
  | .bra w => some (encodeFI 0x100#10 w)
  | .brau w => some (encodeFI 0x101#10 w)
  | .jmpi w => some (encodeF3 0x102#10 w)
  | .call w => some (encodeFI 0x103#10 w)
  | .calli w => some (encodeF3 0x104#10 w)
  | .ret w => some (encodeF3 0x105#10 w)
  | .meet w => some (encodeFI 0x106#10 w)
  | .rejoin w => some (encodeF3 0x107#10 w)
  | .exit w => some (encodeF3 0x108#10 w)
  | .nop w => some (encodeF3 0x109#10 w)
  | .yield w => some (encodeF3 0x10A#10 w)
  | .vote w => some (encodeF3 0x10B#10 w)
  | .actmask w => some (encodeF3 0x10C#10 w)
  | .sign w => some (encodeF3 0x10D#10 w)
  | .cvdecl w => some (encodeF3 0x10E#10 w)
  | .hwait w => some (encodeF3 0x10F#10 w)
  | .hwaitAll w => some (encodeF3 0x10F#10 w)
  | .htest w => some (encodeF3 0x110#10 w)
  | .hcancel w => some (encodeF3 0x111#10 w)
  | .hmov w => some (encodeF3 0x112#10 w)
  | .hmovSt w => some (encodeF3 0x112#10 w)
  | .hmovLd w => some (encodeF3 0x112#10 w)
  | .gbar w => some (encodeF3 0x113#10 w)
  | .cbar w => some (encodeF3 0x114#10 w)
  | .rsend w => some (encodeF3 0x115#10 w)
  | .rtake w => some (encodeF3 0x116#10 w)
  | .rstat w => some (encodeF3 0x117#10 w)
  | .trap w => some (encodeFI 0x118#10 w)
  | .sysc w => some (encodeFI 0x119#10 w)
  | .eret w => some (encodeF3 0x11A#10 w)
  | .rdsr w => some (encodeFI 0x11B#10 w)
  | .wrsr w => some (encodeFI 0x11C#10 w)
  | .stkset w => some (encodeF3 0x11D#10 w)
  | .clrflg w => some (encodeFI 0x11E#10 w)
  | .flgrd w => some (encodeF3 0x11F#10 w)
  | .ld w => some (encodeF3 0x180#10 w)
  | .ldFi w => some (encodeFI 0x180#10 w)
  | .st w => some (encodeF3 0x181#10 w)
  | .stFi w => some (encodeFI 0x181#10 w)
  | .lds w => some (encodeF3 0x182#10 w)
  | .ldsFi w => some (encodeFI 0x182#10 w)
  | .sts w => some (encodeF3 0x183#10 w)
  | .stsFi w => some (encodeFI 0x183#10 w)
  | .ldc w => some (encodeF3 0x184#10 w)
  | .ldcFi w => some (encodeFI 0x184#10 w)
  | .atom w => some (encodeF3 0x185#10 w)
  | .fence w => some (encodeF3 0x186#10 w)
  | .pfl1 w => some (encodeF3 0x187#10 w)
  | .pfl1Fi w => some (encodeFI 0x187#10 w)
  | .cctlIvl w => some (encodeF3 0x188#10 w)
  | .cctlIvd w => some (encodeF3 0x188#10 w)
  | .cctlIvi w => some (encodeF3 0x188#10 w)
  | .nlease w => some (encodeF3 0x189#10 w)
  | .nleaseSt w => some (encodeF3 0x189#10 w)
  | .nrel w => some (encodeF3 0x18A#10 w)
  | .nspl w => some (encodeF3 0x18B#10 w)
  | .nfil w => some (encodeF3 0x18C#10 w)
  | .pgmap w => some (encodeF3 0x18D#10 w)
  | .pgdone w => some (encodeF3 0x18E#10 w)
  | .dld w => some (encodeF3 0x1E0#10 w)
  | .dadd w => some (encodeF3 0x1E1#10 w)
  | .dset w => some (encodeF3 0x1E2#10 w)
  | .draw w => some (encodeF3 0x1E3#10 w)
  | .steprd w => some (encodeF3 0x1E4#10 w)
  | .steprdGe w => some (encodeF3 0x1E4#10 w)
  | .steprdPend w => some (encodeF3 0x1E4#10 w)
  | .stepadv w => some (encodeF3 0x1E5#10 w)
  | .ftset w => some (encodeF3 0x1E6#10 w)
  | .swpreg w => some (encodeFX 0x1E7#10 w)
  | .swpregInv w => some (encodeFX 0x1E7#10 w)
  | .swpregThr w => some (encodeFX 0x1E7#10 w)
  | .swpregNow w => some (encodeFX 0x1E7#10 w)
  | .swpstat w => some (encodeF3 0x1E8#10 w)
  | .tcfgCfg w => some (encodeFX 0x200#10 w)
  | .tcfgTile w => some (encodeFX 0x200#10 w)
  | .tcfgrd w => some (encodeF3 0x201#10 w)
  | .wlatch w => some (encodeFX 0x202#10 w)
  | .cbkld w => some (encodeFX 0x203#10 w)
  | .mma w => some (encodeF3 0x204#10 w)
  | .mmas w => some (encodeF3 0x205#10 w)
  | .mmal w => some (encodeF3 0x206#10 w)
  | .mmac w => some (encodeF3 0x207#10 w)
  | .opfence w => some (encodeF3 0x208#10 w)
  | .accz w => some (encodeFX 0x209#10 w)
  | .accrd w => some (encodeF3 0x20A#10 w)
  | .accwr w => some (encodeF3 0x20B#10 w)
  | .accld w => some (encodeFX 0x20C#10 w)
  | .accst w => some (encodeFX 0x20D#10 w)
  | .accprom w => some (encodeFX 0x20E#10 w)
  | .drain w => some (encodeFX 0x20F#10 w)
  | .drainundo w => some (encodeFX 0x210#10 w)
  | .accstat w => some (encodeF3 0x211#10 w)
  | .bform w => some (encodeFX 0x250#10 w)
  | .blease w => some (encodeF3 0x251#10 w)
  | .brel w => some (encodeF3 0x252#10 w)
  | .bstat w => some (encodeF3 0x253#10 w)
  | .bsave w => some (encodeFX 0x254#10 w)
  | .bresume w => some (encodeFX 0x255#10 w)
  | .wslot w => some (encodeF3 0x256#10 w)
  | .wslotRd w => some (encodeF3 0x256#10 w)
  | .bseamQ w => some (encodeF3 0x257#10 w)
  | .bseamPair w => some (encodeF3 0x257#10 w)
  | .bseamUn w => some (encodeF3 0x257#10 w)
  | .tcopy w => some (encodeFX 0x280#10 w)
  | .tcopyG w => some (encodeFX 0x280#10 w)
  | .tmcast w => some (encodeFX 0x281#10 w)
  | .tqnt w => some (encodeFX 0x282#10 w)
  | .tdq w => some (encodeFX 0x283#10 w)
  | .sload w => some (encodeFX 0x284#10 w)
  | .sstore w => some (encodeFX 0x285#10 w)
  | .bpref w => some (encodeFX 0x286#10 w)
  | .sgpat w => some (encodeFX 0x287#10 w)
  | .sgpatInv w => some (encodeFX 0x287#10 w)
  | .sgstat w => some (encodeF3 0x288#10 w)
  | .tfill w => some (encodeFX 0x289#10 w)
  | .ratom w => some (encodeF3 0x2B0#10 w)
  | .qenq w => some (encodeF3 0x2B1#10 w)
  | .qdeq w => some (encodeF3 0x2B2#10 w)
  | .qpark w => some (encodeF3 0x2B3#10 w)
  | .qstat w => some (encodeF3 0x2B4#10 w)
  | .qinit w => some (encodeF3 0x2B5#10 w)
  | .qinitInv w => some (encodeF3 0x2B5#10 w)
  | .cntrd w => some (encodeF3 0x2B6#10 w)
  | .cntclr w => some (encodeF3 0x2B7#10 w)
  | .watch w => some (encodeF3 0x2B8#10 w)
  | .watchCancel w => some (encodeF3 0x2B8#10 w)
  | .sflush w => some (encodeF3 0x2B9#10 w)
  | .gres w => some (encodeF3 0x2BA#10 w)
  | .gdist w => some (encodeFX 0x300#10 w)
  | .tkcfg w => some (encodeF3 0x301#10 w)
  | .tkins w => some (encodeF3 0x302#10 w)
  | .tkmrgWv w => some (encodeFX 0x303#10 w)
  | .tkmrgSt w => some (encodeFX 0x303#10 w)
  | .tkmrgLd w => some (encodeFX 0x303#10 w)
  | .tkrd w => some (encodeF3 0x304#10 w)
  | .tkclr w => some (encodeF3 0x305#10 w)
  | .tkstat w => some (encodeF3 0x306#10 w)
  | .xst w => some (encodeF3 0x320#10 w)
  | .xbcast w => some (encodeFX 0x321#10 w)
  | .xstep w => some (encodeFX 0x322#10 w)
  | .xstat w => some (encodeF3 0x323#10 w)
  | .lsend w => some (encodeFX 0x324#10 w)
  | .lpoll w => some (encodeF3 0x325#10 w)
  | .lret w => some (encodeF3 0x326#10 w)
  | .lbufcfgRx w => some (encodeF3 0x327#10 w)
  | .lbufcfgTx w => some (encodeF3 0x327#10 w)
  | .lbufcfgOff w => some (encodeF3 0x327#10 w)
  | .xcnt w => some (encodeF3 0x328#10 w)
  | .plset w => some (encodeFI 0x380#10 w)
  | .plgo w => some (encodeF3 0x381#10 w)
  | .plcancel w => some (encodeF3 0x382#10 w)
  | .plrepeat w => some (encodeF3 0x383#10 w)
  | .pldep w => some (encodeFI 0x384#10 w)
  | .plstat w => some (encodeF3 0x385#10 w)
  | .llWriteback => none
  | .commandAccept => none
  | .storeQueueLeave => none
  | .weaveEnd => none
  | .gangEnd => none
  | .windowFaultDelivery => none
  | .tlbWalk => none
  | .pagerUpcall => none
  | .invalidatePage => none
  | .invalidateRange => none
  | .invalidatePartition => none
  | .invalidationDone => none
  | .refusalLogClear => none
  | .registerWrite => none
  | .issueCycle => none
  | .slotTableDeal => none
  | .leaseRevoke => none
  | .matrixOperationExecute => none
  | .tcfgEffect => none
  | .drainShard => none
  | .bondFormComplete => none
  | .roundGrant => none
  | .roundIssue => none
  | .roundComplete => none
  | .operandLinkError => none
  | .copyUnit => none
  | .nvmeCompletion => none
  | .nvmeTimeout => none
  | .gdistCandidate => none
  | .sliceReadRequest => none
  | .sliceWriteRequest => none
  | .sectorFillComplete => none
  | .writeBackDrain => none
  | .provisionalWrite => none
  | .tileCommit => none
  | .tileDiscard => none
  | .watchFire => none
  | .soloBoundary => none
  | .sweepVisit => none
  | .xstLand => none
  | .escapementRelease => none
  | .huapolFlitReceive => none
  | .linkDown => none
  | .slotFull => none
  | .creditReceive => none
  | .fullAcknowledgement => none
  | .discardReport => none
  | .doorbellKick => none
  | .queueMap => none
  | .slotIdleTimeout => none
  | .ageTick => none
  | .dispatchStreamChoice => none
  | .packetTake => none
  | .directPacket => none
  | .indirectPacket => none
  | .guardedPacket => none
  | .signalPacket => none
  | .watchPacket => none
  | .barrierPacket => none
  | .stitchPacket => none
  | .dependencyEvaluation => none
  | .dependencyPoll => none
  | .prologueWordLimit => none
  | .prologueRepeat => none
  | .gangDispatch => none
  | .launchCompletion => none
  | .tileDecision => none
  | .runLimitExpiry => none
  | .priorityWaitExpiry => none
  | .drainDeadlineExpiry => none
  | .preemptTrap => none
  | .launchResume => none
  | .commandLinkMessage => none
  | .commandLinkError => none
  | .syscNull => none
  | .syscSaveDone => none
  | .syscPartitionInfo => none
  | .syscTime => none
  | .syscLog => none
  | .pcreate => none
  | .pdestroy => none
  | .psuspend => none
  | .presume => none
  | .storset => none
  | .imgwrite => none
  | .attest => none
  | .provision => none
  | .reset => none
  | .fullServiceSwitch => none
  | .thermalHold => none
  | .thermalRelease => none
  | .thermalTrip => none
  | .securityAlarm => none
  | .correctedError => none
  | .uncorrectableError => none
  | .scratchpadBankGate => none
  | .scratchpadBankWake => none
  | .l2WayGate => none
  | .l2WayWake => none
  | .matrixCommandUnit => none
  | .tkmrgResolve => none
  | .lsendDeparture => none

end Sys2Proof
end

