-- ==== Sys2Proof/Config.lean ====
section
/-! DEFINITION. The free values: results that spec/ bounds and does not state. Each is an opaque constant with no
body, so no proof can see a value of it; `State.free` counts the uses (notes/assumptions/2.md). -/

namespace Sys2Proof.Config

/-- The n-th free choice between two values, such as the old and the new value of an element (R8, R65). -/
opaque freeBit : Nat → Bool

/-- The n-th free number, for a choice among more than two (R8). -/
opaque freeNat : Nat → Nat

/-- Where, within a few units in the last place of the FP32 number with magnitude bits `c`, the exact value begins at
which the function numbered `fn` answers that number and no smaller one, on one monotonic interval and for one sign, as a
fraction p / (q + 1) of the span (R105: within 2 ulp, monotonic, the same bits for the same input). -/
opaque ulpThreshold : (fn interval : Nat) → (neg : Bool) → (c : Nat) → Nat × Nat

/-- SHA-256 of a byte string (R431, R433); its digits are outside this specification. -/
opaque sha256 : List Byte → BitVec 256

/-- Whether a signature of a digest verifies under a public key (R431). -/
opaque verifies : (key : List Byte) → (digest : BitVec 256) → (signature : List Byte) → Bool

/-- The signature of a digest by a private key (R433). -/
opaque sign : (key : Nat) → (digest : BitVec 256) → List Byte

/-- The public key of a private key (R433). -/
opaque publicKey : Nat → List Byte

/-- The n-th private key that the firmware complex makes (R435). -/
opaque newKey : Nat → Nat

/-- Whether the blob that a PROVISION buffer holds is signed by the key of a hash (R435); its layout is not given. -/
opaque blobVerifies : (keyHash : BitVec 256) → (buffer : List Byte) → Bool

/-- The check value that a token of record `rec` carries (R207): bits 31 to 16 of the token. -/
opaque tokenCheck : (gang record : Nat) → BitVec 16

/-- The bits that PACK makes of an FP32 NaN in FP16 (1) or BF16 (2): R102 has PACK keep NaN bits, which do not fit. -/
opaque packNan : (mode : Nat) → BitVec 32 → BitVec 16

/-- The base of the memory window of the physical function and of the virtual ones, as the host has set it (R303, R426). -/
opaque bar2 : (part : Nat) → Nat

/-- The die whose share of the front end serves a partition (R325); which one it is is not stated. -/
opaque frontDie : (part : Nat) → Nat

end Sys2Proof.Config
end

