-- ==== Sys2Proof/Machine/Numbers.lean ====
section
/-! DEFINITION. Number formats, rounding and the transcendental functions (spec/04_numbers.md, R91 to R105): values are
exact (a sign and a non-negative rational times a power of two) and every result is rounded once. -/

namespace Sys2Proof.Machine

open Sys2Proof

/-- The floating-point formats of R91. -/
inductive Fmt where
  | f32 | f16 | bf16 | e4m3 | e5m2
  deriving DecidableEq, Repr

/-- Width, fraction bits and bias of a format (R91). -/
def Fmt.width : Fmt → Nat
  | .f32 => 32 | .f16 => 16 | .bf16 => 16 | .e4m3 => 8 | .e5m2 => 8
def Fmt.frac : Fmt → Nat
  | .f32 => 23 | .f16 => 10 | .bf16 => 7 | .e4m3 => 3 | .e5m2 => 2
def Fmt.bias : Fmt → Nat
  | .f32 => 127 | .f16 => 15 | .bf16 => 127 | .e4m3 => 7 | .e5m2 => 15
/-- The bits of the largest finite value, of the infinity and of the canonical NaN (R91); E4M3 has no infinity. -/
def Fmt.maxBits : Fmt → Nat
  | .f32 => 0x7F7FFFFF | .f16 => 0x7BFF | .bf16 => 0x7F7F | .e4m3 => 0x7E | .e5m2 => 0x7B
def Fmt.infBits : Fmt → Option Nat
  | .f32 => some 0x7F800000 | .f16 => some 0x7C00 | .bf16 => some 0x7F80 | .e4m3 => none | .e5m2 => some 0x7C
def Fmt.nanBits : Fmt → Nat
  | .f32 => 0x7FC00000 | .f16 => 0x7E00 | .bf16 => 0x7FC0 | .e4m3 => 0x7F | .e5m2 => 0x7E

/-- An exact value: a NaN, an infinity, or sign · num/den · 2^exp. -/
inductive FVal where
  | nan
  | inf (neg : Bool)
  | fin (neg : Bool) (num den : Nat) (exp : Int)
  deriving DecidableEq, Repr

/-- 2^n for a natural n, by shifting. -/
def pow2 (n : Nat) : Nat := 1 <<< n

/-- The sign of a value. -/
def FVal.isNeg : FVal → Bool
  | .nan => false
  | .inf n => n
  | .fin n _ _ _ => n

/-- Whether a value is a zero. -/
def FVal.isZero : FVal → Bool
  | .fin _ n _ _ => n == 0
  | _ => false

def FVal.isNan : FVal → Bool
  | .nan => true
  | _ => false

/-- The value with its sign changed. -/
def FVal.negate : FVal → FVal
  | .nan => .nan
  | .inf n => .inf (!n)
  | .fin n a d e => .fin (!n) a d e

/-- An integer as an exact value. -/
def FVal.ofInt (i : Int) : FVal := .fin (decide (i < 0)) i.natAbs 1 0

/-- The value that the low bits of `bits` hold in format `f` (R91, R92). -/
def FVal.ofBits (f : Fmt) (bits : Nat) : FVal :=
  let b := bits % pow2 f.width
  let neg := b >>> (f.width - 1) == 1
  let mag := b % pow2 (f.width - 1)
  let ef := mag >>> f.frac
  let fr := mag % pow2 f.frac
  if (f.infBits == none && mag == f.nanBits) || (match f.infBits with | some i => decide (i < mag) | none => false)
  then .nan
  else if f.infBits == some mag then .inf neg
  else if ef == 0 then
    if f == .bf16 then .fin neg 0 1 0 else .fin neg fr 1 (1 - (f.bias : Int) - f.frac)
  else .fin neg (fr + pow2 f.frac) 1 ((ef : Int) - f.bias - f.frac)

/-- The rounding modes of R97; a stochastic rounding carries the stepped generator and D, the number of source bits
below the unit (none where it is unbounded, R165). -/
inductive Rnd where
  | rn | rz | rd | ru
  | sr (s : Word) (d : Option Nat)
  deriving DecidableEq, Repr

/-- The fpsw flags as bits (R161): IV 1, DZ 2, OF 4, UF 8, NX 16. -/
abbrev Flags := BitVec 5
def flagIV : Flags := 1
def flagDZ : Flags := 2
def flagOF : Flags := 4
def flagUF : Flags := 8
def flagNX : Flags := 16
def flagIf (c : Bool) (f : Flags) : Flags := if c then f else 0

/-- a · 2^i as a pair numerator, denominator. -/
def scale2 (num den : Nat) (i : Int) : Nat × Nat :=
  match i with
  | .ofNat k => (num <<< k, den)
  | .negSucc k => (num, den <<< (k + 1))

/-- floor(log2(num/den · 2^exp)) for num, den above 0. -/
def floorLog2 (num den : Nat) (exp : Int) : Int :=
  let e := (num.log2 : Int) - den.log2
  let (a, b) := scale2 num den (-e)
  (if a < b then e - 1 else e) + exp

/-- Rounds num/den to an integer in a mode: the integer and whether it is exact. -/
def roundQuot (m : Rnd) (neg : Bool) (num den : Nat) : Nat × Bool :=
  let q := num / den
  let r := num % den
  let up : Nat :=
    match m with
    | .rn => if 2 * r < den then q else if den < 2 * r then q + 1 else if q % 2 == 1 then q + 1 else q
    | .rz => q
    | .rd => if r ≠ 0 ∧ neg = true then q + 1 else q
    | .ru => if r ≠ 0 ∧ neg = false then q + 1 else q
    | .sr s d =>
      let k := match d with | none => 16 | some d => min d 16
      ((num <<< k) / den + s.toNat % pow2 k) >>> k
  (up, r == 0)

/-- The sign bit of a format at its place. -/
def signBit (f : Fmt) (neg : Bool) : Nat := if neg then pow2 (f.width - 1) else 0

/-- What an overflow gives (R99): bits below the sign. -/
def overflowBits (f : Fmt) (m : Rnd) (sat neg : Bool) : Nat :=
  let top := match f.infBits with | some i => i | none => f.nanBits
  let sgn := if f.infBits == none then 0 else signBit f neg
  if sat then signBit f neg + f.maxBits
  else match m with
    | .rz => signBit f neg + f.maxBits
    | .rd => if neg then sgn + top else f.maxBits
    | .ru => if neg then signBit f neg + f.maxBits else top
    | _ => sgn + top

/-- Rounds an exact value to a format under R97 to R99 and R92: its bits and the flags it raises (R104). An infinite
value is not an overflow; a NaN is the canonical NaN. -/
def roundTo (f : Fmt) (m : Rnd) (sat : Bool) (v : FVal) : Nat × Flags :=
  match v with
  | .nan => (f.nanBits, 0)
  | .inf neg =>
    if sat then (signBit f neg + f.maxBits, 0)
    else match f.infBits with
      | some i => (signBit f neg + i, 0)
      | none => (f.nanBits, flagIV)
  | .fin neg num den exp =>
    if num == 0 then (signBit f neg, 0)
    else
      let e := floorLog2 num den exp
      let emin : Int := 1 - (f.bias : Int)
      let ue : Int := max e emin - f.frac
      let (a, b) := scale2 num den (exp - ue)
      let (q, exact) := roundQuot m neg a b
      let (q, ue) := if q == pow2 (f.frac + 1) then (pow2 f.frac, ue + 1) else (q, ue)
      let mag := if q < pow2 f.frac then q else ((ue + f.frac + f.bias).toNat <<< f.frac) + (q - pow2 f.frac)
      let nx := flagIf (!exact) flagNX
      if f.maxBits < mag then (overflowBits f m sat neg, flagOF ||| flagNX)
      else if f == .bf16 && decide (q < pow2 f.frac) && q != 0 then (signBit f neg, flagUF ||| flagNX)
      else (signBit f neg + mag, nx ||| flagIf (decide (q < pow2 f.frac) && q != 0 && !exact) flagUF)

/-- Rounds to an integer in [lo, hi] (R99, R178): the integer and its flags. -/
def roundInt (m : Rnd) (lo hi : Int) (v : FVal) : Int × Flags :=
  match v with
  | .nan => (0, flagIV)
  | .inf neg => (if neg then lo else hi, flagIV)
  | .fin neg num den exp =>
    let (a, b) := scale2 num den exp
    let (q, exact) := roundQuot m neg a b
    let i : Int := if neg then -(q : Int) else q
    if i < lo then (lo, flagIV ||| flagNX)
    else if hi < i then (hi, flagIV ||| flagNX)
    else (i, flagIf (!exact) flagNX)

/-- The sum of two finite values; an exact zero of mixed signs takes the sign `zneg`. -/
def addFin (n1 : Bool) (a1 d1 : Nat) (e1 : Int) (n2 : Bool) (a2 d2 : Nat) (e2 : Int) (zneg : Bool) : FVal :=
  let e := min e1 e2
  let x := (a1 <<< (e1 - e).toNat) * d2
  let y := (a2 <<< (e2 - e).toNat) * d1
  let xi : Int := if n1 then -(x : Int) else x
  let yi : Int := if n2 then -(y : Int) else y
  let s := xi + yi
  if s = 0 then .fin (if n1 == n2 then n1 else zneg) 0 1 0
  else .fin (decide (s < 0)) s.natAbs (d1 * d2) e

/-- The exact sum and whether it is an invalid operation (R104); `zneg` is the sign of x − x (R173). -/
def FVal.add (zneg : Bool) : FVal → FVal → FVal × Bool
  | .nan, _ => (.nan, false)
  | _, .nan => (.nan, false)
  | .inf a, .inf b => if a == b then (.inf a, false) else (.nan, true)
  | .inf a, _ => (.inf a, false)
  | _, .inf b => (.inf b, false)
  | .fin n1 a1 d1 e1, .fin n2 a2 d2 e2 => (addFin n1 a1 d1 e1 n2 a2 d2 e2 zneg, false)

/-- The exact product and whether it is an invalid operation (R104). -/
def FVal.mul : FVal → FVal → FVal × Bool
  | .nan, _ => (.nan, false)
  | _, .nan => (.nan, false)
  | .inf a, .inf b => (.inf (a != b), false)
  | .inf a, .fin n x _ _ => if x == 0 then (.nan, true) else (.inf (a != n), false)
  | .fin n x _ _, .inf b => if x == 0 then (.nan, true) else (.inf (n != b), false)
  | .fin n1 a1 d1 e1, .fin n2 a2 d2 e2 => (.fin (n1 != n2) (a1 * a2) (d1 * d2) (e1 + e2), false)

/-- The exact quotient of a value by a finite non-zero one (R115). -/
def FVal.divBy : FVal → FVal → FVal
  | .nan, _ => .nan
  | _, .nan => .nan
  | .inf a, .fin n _ _ _ => .inf (a != n)
  | .fin n _ _ _, .inf b => .fin (n != b) 0 1 0
  | .inf _, .inf _ => .nan
  | .fin n1 a1 d1 e1, .fin n2 a2 d2 e2 => .fin (n1 != n2) (a1 * d2) (d1 * a2) (e1 - e2)

/-- The exact a·b + c. -/
def FVal.fma (zneg : Bool) (a b c : FVal) : FVal × Bool :=
  let (p, iv1) := FVal.mul a b
  let (r, iv2) := FVal.add zneg p c
  (r, (iv1 && !(c.isNan)) || iv2)

/-- The order of two values that are not NaN: -1, 0 or 1; zeros are equal. -/
def FVal.cmp : FVal → FVal → Int
  | .inf a, .inf b => if a == b then 0 else if a then -1 else 1
  | .inf a, _ => if a then -1 else 1
  | _, .inf b => if b then 1 else -1
  | .fin n1 a1 d1 e1, .fin n2 a2 d2 e2 =>
    match addFin n1 a1 d1 e1 (!n2) a2 d2 e2 false with
    | .fin n x _ _ => if x == 0 then 0 else if n then -1 else 1
    | _ => 0
  | _, _ => 0

/-- The mode rounds toward minus infinity, in which x − x is −0 (R173). -/
def Rnd.isDown : Rnd → Bool
  | .rd => true
  | _ => false

/-- RNE32 of a sum (R6, R102). -/
def fadd32 (m : Rnd) (sat : Bool) (a b : Word) : Word × Flags :=
  let (v, iv) := FVal.add m.isDown (FVal.ofBits .f32 a.toNat) (FVal.ofBits .f32 b.toNat)
  let (r, fl) := roundTo .f32 m sat v
  (BitVec.ofNat 32 r, fl ||| flagIf iv flagIV)

def fmul32 (m : Rnd) (sat : Bool) (a b : Word) : Word × Flags :=
  let (v, iv) := FVal.mul (FVal.ofBits .f32 a.toNat) (FVal.ofBits .f32 b.toNat)
  let (r, fl) := roundTo .f32 m sat v
  (BitVec.ofNat 32 r, fl ||| flagIf iv flagIV)

def ffma32 (m : Rnd) (sat : Bool) (a b c : Word) : Word × Flags :=
  let (v, iv) := FVal.fma m.isDown (FVal.ofBits .f32 a.toNat) (FVal.ofBits .f32 b.toNat) (FVal.ofBits .f32 c.toNat)
  let (r, fl) := roundTo .f32 m sat v
  (BitVec.ofNat 32 r, fl ||| flagIf iv flagIV)

/-- FMIN and FMAX of FP32 bits (R103). -/
def fminmax32 (wantMax : Bool) (a b : Word) : Word × Flags :=
  let x := FVal.ofBits .f32 a.toNat
  let y := FVal.ofBits .f32 b.toNat
  if x.isNan && y.isNan then (0x7FC00000#32, flagIV)
  else if x.isNan then (b, 0)
  else if y.isNan then (a, 0)
  else
    let c := FVal.cmp x y
    let aFirst := if c = 0 then x.isNeg || !y.isNeg else decide (c < 0)
    (if aFirst != wantMax then a else b, 0)

/-- One step of the generator (R100). -/
def genStep (s : Word) : Word :=
  if s.getLsbD 0 then (s >>> 1) ^^^ 0x80200003#32 else s >>> 1

/-- The number of significand bits of a finite value that lie below 2^ue (R101), a value of one binary denominator. -/
def bitsBelow (num : Nat) (exp ue : Int) : Nat :=
  if num == 0 then 0 else (ue - exp).toNat

/-! ### Transcendental functions (R105) -/

/-- The integer square root, one bit a step from bit `n` down: the largest r with r² ≤ x among those above `acc`. -/
def isqrtAux (x : Nat) : Nat → Nat → Nat
  | 0, acc => acc
  | n + 1, acc => let c := acc + pow2 n; isqrtAux x n (if c * c ≤ x then c else acc)

def isqrt (x : Nat) : Nat := isqrtAux x (x.log2 / 2 + 1) 0

/-- The square root of num · 2^exp with at least 80 significant bits and a sticky last bit. -/
def sqrtVal (num : Nat) (exp : Int) : FVal :=
  let num := if exp % 2 = 0 then num else 2 * num
  let exp := if exp % 2 = 0 then exp else exp - 1
  let x := num <<< 200
  let r := isqrt x
  .fin false (2 * r + (if r * r = x then 0 else 1)) 1 (exp / 2 - 101)

/-- Fixed-point working precision: 2^384 stands for 1. -/
def fixBits : Nat := 384
def fixOne : Nat := pow2 fixBits
/-- ln 2 and pi at that precision, by R105's functions only; truncated decimal literals. -/
def ln2Digits : Nat := 6931471805599453094172321214581765680755001343602552541206800094933936219696947156058633269964186875420014810205706857336855202
def piDigits : Nat := 31415926535897932384626433832795028841971693993751058209749445923078164062862089986280348253421170679821480865132823066470938446
def fixLn2 : Nat := (ln2Digits * fixOne) / 10 ^ 127
def fixPi : Nat := (piDigits * fixOne) / 10 ^ 127

/-- exp(x) for a fixed-point x below 1, by its series: term and sum, with `n` terms left. -/
def expSeries (x : Nat) : Nat → Nat → Nat → Nat → Nat
  | 0, _, _, sum => sum
  | n + 1, k, term, sum =>
    let t := (term * x) / fixOne / k
    expSeries x n (k + 1) t (sum + t)

def fixExp (x : Nat) : Nat := expSeries x 90 1 fixOne fixOne

/-- sin (or cos) by its alternating series: `k` the next denominator factor pair. -/
def trigSeries (x2 : Nat) : Nat → Nat → Nat → Bool → Int → Int
  | 0, _, _, _, sum => sum
  | n + 1, k, term, neg, sum =>
    let t := (term * x2) / fixOne / (k * (k + 1))
    trigSeries x2 n (k + 2) t (!neg) (if neg then sum - t else sum + t)

def fixSin (x : Nat) : Int := trigSeries (x * x / fixOne) 60 2 x true x
def fixCos (x : Nat) : Int := trigSeries (x * x / fixOne) 60 1 fixOne true fixOne

/-- Bits of log2 of a fixed-point y in [1, 2), from the top, by repeated squaring. -/
def log2Bits : Nat → Nat → Nat → Nat
  | 0, _, acc => acc
  | n + 1, y, acc =>
    let y := y * y / fixOne
    if 2 * fixOne ≤ y then log2Bits n (y / 2) (2 * acc + 1) else log2Bits n y (2 * acc)

/-- A fixed-point integer as an exact value. -/
def fixVal (i : Int) : FVal := .fin (decide (i < 0)) i.natAbs 1 (-(fixBits : Int))

/-- num · 2^exp as fixed point. -/
def toFix (num : Nat) (exp : Int) : Nat :=
  let (a, b) := scale2 num 1 (exp + fixBits)
  a / b

/-- The six functions that R105 bounds to 2 ulp. -/
inductive TFun where
  | frsq | fexp2 | flog2 | fsin | fcos | ftanh
  deriving DecidableEq, Repr

def TFun.index : TFun → Nat
  | .frsq => 0 | .fexp2 => 1 | .flog2 => 2 | .fsin => 3 | .fcos => 4 | .ftanh => 5

/-- 2^x for x = num · 2^exp of a sign, approximated; magnitudes above 2^9 are cut to ±2^9, which over- or underflows. -/
def exp2Val (neg : Bool) (num : Nat) (exp : Int) : FVal :=
  let x := min (toFix num exp) (fixOne <<< 9)
  let i := x / fixOne
  let f := x % fixOne
  let (i, f) : Int × Nat := if neg then (if f = 0 then (-(i : Int), 0) else (-(i : Int) - 1, fixOne - f)) else (i, f)
  .fin false (fixExp (f * fixLn2 / fixOne)) 1 (i - fixBits)

/-- The approximation of a function at a finite non-zero argument in its domain. -/
def tApprox (t : TFun) (neg : Bool) (num : Nat) (exp : Int) : FVal :=
  match t with
  | .frsq =>
    match sqrtVal num exp with
    | .fin _ a _ e => .fin false (pow2 400 / a) 1 (-e - 400)
    | v => v
  | .fexp2 => exp2Val neg num exp
  | .flog2 =>
    let e := floorLog2 num 1 exp
    let y := toFix num (exp - e)
    fixVal (e * fixOne + ((log2Bits 160 y 0 : Nat) : Int) * pow2 (fixBits - 160))
  | .fsin | .fcos =>
    let (a, b) := scale2 (num * 10 ^ 127) (2 * piDigits) exp
    -- x = turns · 2 pi; the fraction of a turn is exact to the digits of pi
    let frac := (a * fixOne / b) % fixOne
    let x := if a < b then toFix num exp else frac * 2 * fixPi / fixOne
    let q := x * 2 / fixPi
    let r := x - q * fixPi / 2
    let sinq := match q % 4 with | 0 => fixSin r | 1 => fixCos r | 2 => -fixSin r | _ => -fixCos r
    let cosq := match q % 4 with | 0 => fixCos r | 1 => -fixSin r | 2 => -fixCos r | _ => fixSin r
    fixVal (if t == .fcos then cosq else if neg then -sinq else sinq)
  | .ftanh =>
    let x := min (toFix num exp) (fixOne <<< 5)
    -- e^(2x) = 2^(2x / ln 2)
    match exp2Val false (2 * x * fixOne / fixLn2) (-(fixBits : Int)) with
    | .fin _ a _ e =>
      let y := toFix a e
      .fin neg (y - fixOne) (y + fixOne) 0
    | v => v

/-- The inputs at which the exact value is a number of FP32 (R105), and that number. -/
def tExact (t : TFun) (neg : Bool) (num : Nat) (exp : Int) : Option FVal :=
  let e := floorLog2 num 1 exp
  let isPow := (scale2 num 1 (exp - e)).1 = (scale2 num 1 (exp - e)).2
  match t with
  | .frsq => if isPow ∧ e % 2 = 0 then some (.fin false 1 1 (-(e / 2))) else none
  | .fexp2 =>
    let (a, b) := scale2 num 1 exp
    if a % b = 0 then
      let i : Int := if neg then -((a / b : Nat) : Int) else (a / b : Nat)
      if i.natAbs ≤ 149 then some (.fin false 1 1 i) else none
    else none
  | .flog2 => if isPow then some (FVal.ofInt e) else none
  | _ => none

/-- The monotonic interval of a function in which an argument lies: for the sine and the cosine the half turn, by sign. -/
def tInterval (t : TFun) (neg : Bool) (num : Nat) (exp : Int) : Nat :=
  let (a, b) := scale2 (num * 10 ^ 127) (2 * piDigits) exp
  let quarter := 4 * a / b
  match t with
  | .fsin => 2 * ((quarter + 1) / 2) + (if neg && decide (1 ≤ quarter) then 1 else 0)
  | .fcos => 2 * (quarter / 2) + (if neg then 1 else 0)
  | _ => 0

/-- Whether an FP32 magnitude is a value that the function takes exactly or tends to, which no neighbour may cross if the
function is to stay monotonic. -/
def tAnchor (t : TFun) (c : Nat) : Bool :=
  match t, FVal.ofBits .f32 c with
  | .frsq, .fin _ n _ _ | .fexp2, .fin _ n _ _ => n != 0 && n &&& (n - 1) == 0
  | .flog2, .fin _ n d e => let (a, b) := scale2 n d e; a % b == 0
  | _, _ => c == 0x3F800000

/-- The exponent of the unit in the last place of a positive value in FP32 with subnormals. -/
def ulpExp (num den : Nat) (exp : Int) : Int := max (floorLog2 num den exp) (-126) - 23

/-- Whether the function may answer the FP32 magnitude `c` for the exact magnitude `num/den · 2^exp`: within 2 ulp of it,
at or above what the binade below already reaches, and with no exact value between the two. -/
def tMay (t : TFun) (num den : Nat) (exp : Int) (cs : List Nat) (c : Nat) : Bool :=
  let m := FVal.fin false num den exp
  let u := ulpExp num den exp
  let le (a b : FVal) : Bool := decide (FVal.cmp a b ≤ 0)
  let x := FVal.ofBits .f32 c
  let two := FVal.fin false 2 1 u
  le x (FVal.add false m two).1 && le m (FVal.add false x two).1 && (u == -149 || le (.fin false (2 ^ 23 - 1) 1 u) x) &&
  !(cs.any fun a => tAnchor t a && ((le (FVal.ofBits .f32 a) m && decide (c < a)) || (le m (FVal.ofBits .f32 a) && decide (a < c))))

/-- Whether the exact magnitude has reached the free threshold of the FP32 magnitude `c`. -/
def tReached (t : TFun) (interval : Nat) (neg : Bool) (num den : Nat) (exp : Int) (c : Nat) : Bool :=
  match FVal.ofBits .f32 c with
  | .fin _ n d e =>
    let u := if n = 0 then -149 else ulpExp n d e
    let (p, q) := Config.ulpThreshold t.index interval neg c
    decide (FVal.cmp (FVal.add false (.fin false n d e) (.fin false (8 * (p % (q + 1))) (q + 1) u)).1
      (FVal.add false (.fin false num den exp) (.fin false 4 1 u)).1 ≤ 0)
  | _ => false

/-- A result within 2 ulp of the approximated value, monotonic in it (R105): the largest of the FP32 magnitudes that the
value may give and whose free threshold it has reached, at least the smallest of them. -/
def withinTwoUlp (t : TFun) (interval : Nat) (v : FVal) : Nat × Flags :=
  let (r, fl) := roundTo .f32 .rn false v
  match v with
  | .fin neg num den exp =>
    let mag := r % pow2 31
    if num = 0 ∨ 0x7F800000 ≤ mag then (r, fl ||| flagNX)
    else
      let cs := ((List.range 9).map (mag + ·)).filterMap fun c => if 4 ≤ c && decide (c < 0x7F800004) then some (c - 4) else none
      let ok := cs.filter (tMay t num den exp cs)
      let c := (ok.filter (tReached t interval neg num den exp)).foldl max (ok.headD mag)
      (signBit .f32 neg + c, flagNX ||| flagIf (decide (c < 0x800000) && c != 0) flagUF)
  | _ => (r, fl)

/-- One of the six functions on FP32 bits, with its flags (R105, R175). -/
def transcendental (t : TFun) (bits : Word) : Word × Flags :=
  let one : Word := 0x3F800000#32
  let nan : Word := 0x7FC00000#32
  let pinf : Word := 0x7F800000#32
  let ninf : Word := 0xFF800000#32
  match FVal.ofBits .f32 bits.toNat with
  | .nan => (nan, 0)
  | .inf neg =>
    match t with
    | .frsq => if neg then (nan, flagIV) else (0, 0)
    | .fexp2 => if neg then (0, 0) else (pinf, 0)
    | .flog2 => if neg then (nan, flagIV) else (pinf, 0)
    | .fsin | .fcos => (nan, flagIV)
    | .ftanh => (if neg then 0xBF800000#32 else one, 0)
  | .fin neg num _ exp =>
    if num = 0 then
      match t with
      | .frsq => (if neg then ninf else pinf, flagDZ)
      | .fexp2 => (one, 0)
      | .flog2 => (ninf, flagDZ)
      | .fcos => (one, 0)
      | .fsin | .ftanh => (bits, 0)
    else if neg = true ∧ (t = .frsq ∨ t = .flog2) then (nan, flagIV)
    else match tExact t neg num exp with
      | some v => let (r, fl) := roundTo .f32 .rn false v; (BitVec.ofNat 32 r, fl)
      | none => let (r, fl) := withinTwoUlp t (tInterval t neg num exp) (tApprox t neg num exp); (BitVec.ofNat 32 r, fl)

/-- FRCP and FSQRT, correctly rounded (R105). -/
def frcp32 (bits : Word) : Word × Flags :=
  match FVal.ofBits .f32 bits.toNat with
  | .nan => (0x7FC00000#32, 0)
  | .inf neg => (if neg then 0x80000000#32 else 0, 0)
  | .fin neg num den exp =>
    if num = 0 then (if neg then 0xFF800000#32 else 0x7F800000#32, flagDZ)
    else let (r, fl) := roundTo .f32 .rn false (.fin neg den num (-exp)); (BitVec.ofNat 32 r, fl)

def fsqrt32 (bits : Word) : Word × Flags :=
  match FVal.ofBits .f32 bits.toNat with
  | .nan => (0x7FC00000#32, 0)
  | .inf neg => if neg then (0x7FC00000#32, flagIV) else (0x7F800000#32, 0)
  | .fin neg num _ exp =>
    if num = 0 then (bits, 0)
    else if neg then (0x7FC00000#32, flagIV)
    else let (r, fl) := roundTo .f32 .rn false (sqrtVal num exp); (BitVec.ofNat 32 r, fl)

end Sys2Proof.Machine
end

