-- ==== Sys2Proof/Machine/State.lean ====
section
/-! DEFINITION. The state of the module as plain data: every register, memory, queue and record that spec/ names, and
the fields of the model's own that say whose turn it is (INVENTORY.md, State; notes/assumptions/1.md to 8.md). -/

namespace Sys2Proof.Machine

open Sys2Proof

/-- Why the machine stops with a fault. -/
inductive Fault where
  /-- Raised by a Dunros word that is run with nobody to run it: `State.cur` names no weave and no prologue
  sequencer, or one that does not exist. Safe: the spec gives a word no effect without an issuing weave (R18). -/
  | noIssuer
  deriving DecidableEq, Repr

/-- Why a step has no meaning. -/
inductive Refusal where
  /-- Raised by an arm of `exec` whose instruction has no meaning yet. Safe. -/
  | notModelled (mnemonic : String)
  deriving DecidableEq, Repr

/-- Where a lane stands (R33, R37). -/
inductive LaneStatus where
  /-- running. -/
  | live
  /-- a helper lane of a quad that has not wholly exited. -/
  | helper
  /-- has left. -/
  | exited
  deriving DecidableEq, Repr

/-- The state of an asynchronous operation as its handles read it (R19). -/
inductive OpState where
  | pending
  | resolved (status : Word)
  | cancelled
  deriving DecidableEq, Repr

/-- The engines, numbered as the save area numbers them (R217). -/
inductive Engine where
  | la
  | sq
  | ls
  | ste
  | mx
  | bc
  | ce
  | se
  | nne
  | xe
  | fe
  deriving DecidableEq, Repr

/-- A neighbour spill lease (R231). -/
inductive LeaseState where
  | none
  | neighbour
  | memory
  | lost
  deriving DecidableEq, Repr

/-- BSTAT selector 0 (R284). -/
inductive BondState where
  | none
  | forming
  | formed
  | dissolving
  | lost
  | surrendered
  deriving DecidableEq, Repr

/-- The states of a mapped queue (R401). -/
inductive SlotState where
  | idle
  | waiting
  | ready
  | active
  deriving DecidableEq, Repr

/-- Why a lane is held at its word. A hold of the first group ends when its condition clears and the word then issues again; a hold of the second group ends when the event it names releases the lane. -/
inductive Hold where
  /-- a read of a Pending handle (R73). -/
  | handleRead (h : Nat)
  /-- HWAIT, with the records it waits on, or 0 and a status fixed already (R204). -/
  | hwait (recs : List (Nat × Word)) (dst : Operand)
  /-- a command or HMOV that names a Pending handle (R21, R207). -/
  | destPending (h rec : Nat)
  /-- the store queue is full (R224). -/
  | queueFull
  /-- waits for an empty store queue (R226, R227, R383). -/
  | queueBusy
  /-- a flag count would reach 16 (R25). -/
  | flagFull (f : Nat)
  /-- a read of fpsw or FLAGCNT waits for LL results (R162, R215). -/
  | llOut
  /-- CVDECL.new while signatures stand (R202). -/
  | roundNew (c : Nat)
  /-- RTAKE (R210). -/
  | ringEmpty (j : Nat)
  /-- STEPRD.ge (R348). -/
  | stepGe (n : Word)
  /-- BLEASE waits for a bond (R278). -/
  | bondForming
  /-- a second share of one round (R255, R279). -/
  | shareBound
  /-- a TKMRG of the weave is Pending (R371). -/
  | tkmrgOut
  /-- LPOLL (R389). -/
  | slotEmpty (n : Nat)
  /-- a load waits for a queued store that covers it in part (R122). -/
  | forwarding
  /-- a row or plane is busy with earlier matrix operations (R239). -/
  | earlierOps
  /-- OPFENCE (R256). -/
  | opFence
  /-- FENCE.acq waits for queued RATOMs (R127, R319). -/
  | acqWait
  /-- NSPL and NFIL while a lease is pushed to memory (R233). -/
  | leasePush
  /-- a scratchpad bank wakes (R449). -/
  | bankWake
  /-- BSEAM.pair waits for its partner (R274). -/
  | seamAsk (dir : Nat)
  /-- every waiter record of the slice is in use (R322). -/
  | waiterFull (q : Nat)
  /-- a way of a slice wakes (R315). -/
  | sliceWake
  /-- a command, here its record, that found its engine's queue full (R294, R362). -/
  | cmdQueue (rec : Nat)
  /-- at the gang barrier (R209). -/
  | gbar
  /-- at the cohort barrier (R209). -/
  | cbar
  /-- SIGN.w (R203). -/
  | signW (c : Nat) (round : Half)
  /-- waits for the firmware's reply (R213). -/
  | sysc (service : Half)
  /-- at the escapement (R383). -/
  | xstep (h : Option Nat)
  /-- parked by QPARK (R322). -/
  | parkedOn (q dst : Nat)
  /-- DADD and DSET lanes (R346). -/
  | performed
  /-- a precise fault waits for the handler (R58). -/
  | secondFault
  /-- after SYSC 0x0001 (R427). -/
  | saved
  /-- FENCE.full (R227). -/
  | fenceWait
  deriving DecidableEq, Repr

/-- A parked lane (R153). -/
structure Park where
  /-- The page-fault tickets the lane waits on (R153). -/
  tickets : List Nat := []
  /-- The faulting access (R153). -/
  kind : AccessKind := .read
  /-- The faulting address (R153). -/
  va : Dbl := 0
  deriving DecidableEq, Repr

/-- One lane (R33). -/
structure Lane where
  /-- Program counter, 64 bits (R33, R35). -/
  pc : Dbl := 0
  /-- Pc names a clause header that is not entered yet (R61, R62). -/
  hdr : Bool := false
  /-- A header this lane enters was held by a set flag (R81). -/
  waited : Bool := false
  /-- The lane has been released from the meeting at this header (R40). -/
  met : Bool := false
  /-- The clause instance the lane is in (R64). -/
  clause : Nat := 0
  /-- The clause instance that ERET returns to (R211, R214). -/
  back : Nat := 0
  /-- Live, helper or exited (EXITMASK, HELPMASK) (R37, R215). -/
  status : LaneStatus := .live
  /-- Parked sub-group membership (PARKMASK) (R153, R215). -/
  parked : Option Park := none
  /-- The lane was parked when an instruction-level trap took it to the handler (PARKMASK) (R52, R217). -/
  trapParked : Bool := false
  /-- Why the lane is held at its word (R48, R187). -/
  hold : Option Hold := none
  /-- Privileged mode (PRIVMASK) (R211, R215). -/
  priv : Bool := false
  /-- Meeting register, 32 bits (R35, R36). -/
  mr : Word := 0xFFFF_FFFF#32
  /-- Generator state S, sdlo and sdhi, 32 bits (R100, R35). -/
  gen : Word := 0
  /-- RAS0 to RAS3, four 64-bit entries (R193, R215). -/
  ras : Table Dbl := []
  /-- RASN, depth 0 to 4 (R193, R215). -/
  rasn : Nat := 0
  /-- OVF, spilled frames, 32 bits (R193, R215). -/
  ovf : Word := 0
  /-- STKB, overflow base, 64 bits (R193, R215). -/
  stkb : Dbl := 0
  /-- Fault.pc, resume address, 64 bits (R74, R211). -/
  faultPc : Dbl := 0
  /-- Predicates p0 to p15 (R33, R35). -/
  preds : BitVec 16 := 1
  deriving DecidableEq, Repr

/-- An entry of the hold latch (R79). -/
structure HeldReg where
  /-- The vector register held (R79). -/
  reg : Nat := 0
  /-- Remaining uses (R79). -/
  uses : Nat := 2
  /-- The 32 lanes' values (R79). -/
  vals : List Word := []
  deriving DecidableEq, Repr

/-- One register write of a long-latency result. -/
structure LLWrite where
  /-- Destination register (R65). -/
  dst : Operand := .v 0
  /-- Lane (R65). -/
  lane : Nat := 0
  /-- Value (R65). -/
  val : Word := 0
  deriving DecidableEq, Repr

/-- An issued long-latency result that is not written back (R25, R65). -/
structure LLPend where
  /-- The model's number of the result (R65). -/
  id : Nat := 0
  /-- Its register writes (R65). -/
  writes : List LLWrite := []
  /-- The completion flag it is bound to (R25). -/
  flag : Option Nat := none
  /-- The clause instance that issued it (R25). -/
  clause : Nat := 0
  /-- A result of the lane arithmetic engine (R162) (R162). -/
  lane : Bool := false
  /-- Fpsw flags that its write-back raises (R162). -/
  flags : BitVec 5 := 0
  /-- False while the slice has not performed the operation (RATOM) (R319). -/
  ready : Bool := true
  deriving DecidableEq, Repr

/-- A clause instance that a lane set has entered (R64). -/
structure ClauseRun where
  /-- Address of the header (R59). -/
  hdr : Dbl := 0
  /-- LEN (R59). -/
  len : Nat := 0
  /-- ORD (R59, R64). -/
  ord : Bool := false
  /-- Y (R59, R64). -/
  yld : Bool := false
  /-- SETA (R59, R64). -/
  flagA : Option Nat := none
  /-- SETB (R59, R64). -/
  flagB : Option Nat := none
  /-- Its first word has issued, and its flags are set (R64). -/
  started : Bool := false
  /-- Long-latency operations issued so far (R25). -/
  issuedLL : Nat := 0
  /-- Flags whose count this clause still holds (R25). -/
  open_ : List Nat := []
  /-- The last word has issued (R25). -/
  ended : Bool := false
  deriving DecidableEq, Repr

/-- One lane's part of a store-queue entry (R224). -/
structure SqItem where
  /-- Lane (R224). -/
  lane : Nat := 0
  /-- Physical address, or scratchpad offset (R224). -/
  addr : Nat := 0
  /-- Virtual address (R224). -/
  va : Dbl := 0
  /-- Bytes to write (R224). -/
  bytes : List Byte := []
  /-- Operand of an atomic or stamped operation, or target rank of an XST (R319, R346, R381). -/
  x : Dbl := 0
  /-- Compare value, .at stamp or factor index (R319, R346). -/
  y : Dbl := 0
  deriving DecidableEq, Repr

/-- What a store-queue entry does when it leaves (R224, R319, R346, R381). -/
inductive SqKind where
  | global
  | scratch
  | ratom (op : Nat) (wide : Bool) (dst : Operand) (ll : Nat) (uniform : Bool)
  | dadd (at_ : Bool)
  | dset
  | xst
  deriving DecidableEq, Repr

/-- A store-queue entry (R224). -/
structure SqEntry where
  /-- What it does when it leaves (R224). -/
  kind : SqKind := .global
  /-- Its lanes' parts (R224). -/
  items : List SqItem := []
  /-- The lanes that are joined with its issue (R121). -/
  mask : BitVec 32 := 0
  /-- The lanes that are held until it is performed (R346). -/
  wait : BitVec 32 := 0
  /-- Lanes whose predicate failed that are held with them, past the word (R346). -/
  also : BitVec 32 := 0
  /-- Guard tag of a surrogate's stores (R136). -/
  tag : Option Nat := none
  /-- Translated before an invalidation that is in progress (R157). -/
  stale : Bool := false
  deriving DecidableEq, Repr

/-- A second precise fault, held at its instruction (R58, R221). -/
structure PendFault where
  /-- Code and detail (R58). -/
  status : Word := 0
  /-- Its lanes (R58). -/
  mask : BitVec 32 := 0
  /-- Fault.addr (R58). -/
  addr : Dbl := 0
  /-- Resume address, bit 0 set for a header (R58, R211). -/
  resume_ : Dbl := 0
  /-- Each lane keeps its own fault.pc (ERET, R214) (R214). -/
  keepPc : Bool := false
  /-- ECAUSE of the entry: 0 a fault, 1 TRAP (R211, R212). -/
  ecause : Word := 0
  deriving DecidableEq, Repr

/-- A window fault found and not yet delivered (R347). -/
structure WinFault where
  /-- Lane (R347). -/
  lane : Nat := 0
  /-- Address (R347). -/
  addr : Dbl := 0
  /-- E or d (R347). -/
  detail : Word := 0
  /-- The LL result it waits for (R347). -/
  ll : Option Nat := none
  deriving DecidableEq, Repr

/-- A weave's neighbour spill lease (R231). -/
structure Lease where
  /-- None, neighbour, memory or lost (R231). -/
  state : LeaseState := .none
  /-- Slots, 8 to 64 (R231). -/
  n : Nat := 0
  /-- Spill base B (R231). -/
  base : Dbl := 0
  /-- Neighbour-mode slot values, key 32 slot + lane (R232). -/
  slots : Table Word := []
  /-- The core that lends its registers (R231, R234). -/
  lender : Nat := 0
  /-- Memory-mode slots written since the grant, key 32 slot + lane (R231, R232). -/
  stored : Table Bool := []
  /-- A revocation has written every slot to memory (R233). -/
  pushed : Bool := false
  /-- A revocation is under way; NSPL and NFIL are held (R233). -/
  pushing : Bool := false
  /-- Page-fault tickets that the push waits on (R233). -/
  tickets : List Nat := []
  /-- Status of the failed push (R233). -/
  lostCode : Word := 0
  /-- Its address (R233). -/
  lostAddr : Dbl := 0
  deriving DecidableEq, Repr

/-- The ranked list of a weave (R356). -/
structure RankList where
  /-- K, 1 to 64 (R356). -/
  k : Nat := 64
  /-- Order .max (R356). -/
  max : Bool := false
  /-- (key, identifier), best first (R356). -/
  ents : List (Word × Word) := []
  /-- Rejected-key count (R356). -/
  rejected : Word := 0
  deriving DecidableEq, Repr

/-- A service that a SYSC has asked for (R213). -/
structure SyscReq where
  /-- Service number (R213). -/
  service : Half := 0
  /-- The lanes that wait (R213). -/
  mask : BitVec 32 := 0
  /-- S0 to s3 as sent (R213). -/
  args : List Word := []
  deriving DecidableEq, Repr

/-- A weave (R33). -/
structure Weave where
  /-- The gang it belongs to (R33). -/
  gang : Nat := 0
  /-- Weave number within the gang (R33). -/
  num : Nat := 0
  /-- The weave has ended (R198) (R198). -/
  ended : Bool := false
  /-- V0 to v319 of 32 lanes, 32 bits each, key 32 register + lane (R33). -/
  vregs : Table Word := []
  /-- S0 to s63, 32 bits each (R33). -/
  sregs : Table Word := []
  /-- The 32 lanes (R33). -/
  lanes : Table Lane := []
  /-- H0 to h15: the operation record each refers to (R19). -/
  handles : Table (Option Nat) := []
  /-- Save forms written by WRSR to HSAVE that name no record of the gang (R215, R217). -/
  hsaved : Table Dbl := []
  /-- Counts of f0 to f11, 0 to 15 (R25). -/
  flags : Table Nat := []
  /-- Floating-point status word, 32 bits (R161). -/
  fpsw : Word := 0
  /-- Long-latency results outstanding (R65). -/
  ll : List LLPend := []
  /-- Clause instances in progress (R64). -/
  clauses : Table ClauseRun := []
  /-- The model's next number of a clause instance or LL result (the model's own). -/
  nextId : Nat := 1
  /-- FIFO store queue, 16 entries (R224). -/
  sq : List SqEntry := []
  /-- Hold latch, three entries, oldest first (R79). -/
  hold : List HeldReg := []
  /-- Reuse latch: first register and the group's words (R80). -/
  reuse : Option (Nat × List Word) := none
  /-- Fault.code (R74, R211). -/
  fcode : Word := 0
  /-- Fault.mask (R74, R211). -/
  fmask : BitVec 32 := 0
  /-- Fault.addr, 64 bits (R74, R211). -/
  faddr : Dbl := 0
  /-- ECAUSE (R215). -/
  ecause : Word := 0
  /-- Held second faults (R58). -/
  pend : List PendFault := []
  /-- Window faults not yet delivered (R347). -/
  win : List WinFault := []
  /-- Clk.hi as latched by the last read of clk.lo (R74). -/
  clkHi : Option Word := none
  /-- Step.hi as latched by the last read of step.lo (R74). -/
  stepHi : Option Word := none
  /-- SCR0 to SCR7 (R215). -/
  scr : Table Word := []
  /-- Exchange status word (R379). -/
  xstatus : Word := 0
  /-- Neighbour spill lease (R231). -/
  lease : Lease := {}
  /-- Ranked list (R356). -/
  list : RankList := {}
  /-- Selection order: when it last issued (R48). -/
  lastIssue : Nat := 0
  /-- Issue cycles of its context since it last issued (R48). -/
  age : Nat := 0
  /-- A trap order waits (R216) (R216). -/
  preempt : Bool := false
  /-- Services asked for and not answered, oldest first (R213). -/
  syscs : List SyscReq := []
  deriving DecidableEq, Repr

/-- An activation stream of a gang (R238). -/
structure Stream where
  /-- Scale header offset, 0xFFFF_FFFF unscaled (R238, R244). -/
  off : Word := 0xFFFF_FFFF#32
  /-- First block (R238). -/
  b0 : Word := 0
  /-- Block counter (R238). -/
  ctr : Word := 0
  /-- The stream is skewed (R253). -/
  skewed : Bool := false
  deriving DecidableEq, Repr

/-- A gang's tile configuration (R238, R243). -/
structure TileCfg where
  /-- TCW (R243). -/
  tcw : Word := 0
  /-- NPL (R238). -/
  npl : Nat := 0
  /-- SPN (R238). -/
  spn : Nat := 0
  /-- Stream 0 header offset as set (R246). -/
  off0 : Word := 0xFFFF_FFFF#32
  /-- Stream 0 b0 as set (R246). -/
  first0 : Word := 0
  /-- Stream 1 header offset as set (R246). -/
  off1 : Word := 0xFFFF_FFFF#32
  /-- Stream 1 b0 as set (R246). -/
  first1 : Word := 0
  /-- T0 to t7 (R238). -/
  tiles : Table Word := []
  deriving DecidableEq, Repr

/-- What an eager drain wrote for one shard (R265). -/
structure UndoShard where
  /-- Shard number (R265). -/
  shard : Nat := 0
  /-- Its region was already promoted when read (R265). -/
  wasFp32 : Bool := false
  /-- This drain promoted it (R265). -/
  promoted : Bool := false
  deriving DecidableEq, Repr

/-- The drain record (R266) and what DRAINUNDO needs (R265). -/
structure DrainRec where
  /-- Selector 1 bit 0 (R266). -/
  valid : Bool := false
  /-- Bit 1 (R266). -/
  eager : Bool := false
  /-- Bit 2 (R266). -/
  known : Bool := false
  /-- Bit 3 (R266). -/
  nonfin : Bool := false
  /-- Bit 4 (R266). -/
  prom : Bool := false
  /-- Bit 5 (R266). -/
  setProm : Bool := false
  /-- [22:16] (R266). -/
  shards : Nat := 0
  /-- W (R262). -/
  base : Dbl := 0
  /-- Weight format (R262). -/
  bf16 : Bool := false
  /-- U0 (R262). -/
  undoRow : Nat := 0
  /-- Shape record (R264). -/
  recAddr : Dbl := 0
  /-- Shards written (R265). -/
  undo : List UndoShard := []
  deriving DecidableEq, Repr

/-- A gang (R33). -/
structure Gang where
  /-- Partition (R33). -/
  part : Nat := 0
  /-- Launch (R33). -/
  launch : Nat := 0
  /-- Device-wide core number (R12). -/
  core : Nat := 0
  /-- Linear index (R34). -/
  g : Nat := 0
  /-- Weaves per gang (R54). -/
  weaves : Nat := 1
  /-- Cohort it belongs to (R34). -/
  cohort : Nat := 0
  /-- Cohort.rank (R34). -/
  rank : Nat := 0
  /-- Guard tag of a surrogate gang (R136). -/
  tag : Option Nat := none
  /-- Its tile (R415). -/
  tile : Nat := 0
  /-- A gang of an exact run (R417). -/
  exact : Bool := false
  /-- The stitched region its launch is bound to (R375). -/
  region : Option Nat := none
  /-- The gang has ended (R198). -/
  ended : Bool := false
  /-- Kernel address (mr counts from it) (R36). -/
  kaddr : Dbl := 0
  /-- Vector demand (R54). -/
  vreg : Nat := 8
  /-- Uniform demand (R54). -/
  sreg : Nat := 0
  /-- Predicate demand (R54). -/
  preg : Nat := 4
  /-- Handle demand (R54). -/
  hreg : Nat := 0
  /-- Accumulator rows (R54). -/
  accr : Nat := 0
  /-- Tile registers (R54). -/
  treg : Nat := 0
  /-- Scratchpad units of 256 bytes (R54). -/
  spb : Nat := 0
  /-- ROLEMAP (R41). -/
  roles : Word := 0
  /-- Scratchpad, or front half, 256 SPB bytes (R225, R377). -/
  scratch : Table Byte := []
  /-- Shadow half (R377). -/
  shadow : Table Byte := []
  /-- GBARMASK (R209, R215). -/
  gbar : BitVec 16 := 0
  /-- CBARMASK (R209, R215). -/
  cbar : BitVec 16 := 0
  /-- SAVEB (R215). -/
  saveb : Dbl := 0
  /-- Accumulator entries, key 32 row + column (R95, R238). -/
  acc : Table (BitVec 48) := []
  /-- The core planes it has claimed, in claim order: its planes 0 to 3 (R238, R244). -/
  planes : List Nat := []
  /-- Core planes that it had claimed when it was saved, in claim order (R265). -/
  oldPlanes : List Nat := []
  /-- Tile configuration in effect (R238). -/
  cfg : TileCfg := {}
  /-- As the latest TCFG set it (R246) (R246). -/
  cfgNew : TileCfg := {}
  /-- Activation stream 0 (R238). -/
  str0 : Stream := {}
  /-- Activation stream 1 (R238). -/
  str1 : Stream := {}
  /-- Codebook staging register, 16 BF16 entries (R238). -/
  codebook : Table Half := []
  /-- Sticky fault word (R254). -/
  sticky : Word := 0
  /-- Drain record (R266). -/
  drain : DrainRec := {}
  /-- 8-byte units of the scratchpad whose data an uncorrectable error has struck (R447, R221). -/
  spPoison : List Nat := []
  /-- XCNT selectors 0 to 3 (R385). -/
  xcnt : Table Word := []
  /-- A BSEAM.pair that waits: weave key and direction (R274). -/
  seamAsk : Option (Nat × Nat) := none
  /-- Weaves that have called SYSC 0x0001 (R427). -/
  savedWeaves : BitVec 16 := 0
  /-- The gang is a resumed one (ECAUSE 3) (R218). -/
  resume_ : Bool := false
  /-- The engines have not written their blocks of its save area yet: storage commands are outstanding (R305, R311). -/
  blocksDue : Bool := false
  deriving DecidableEq, Repr

/-- A convergence register (R202). -/
structure Conv where
  /-- DECL, one mask per weave of the cohort (R202). -/
  decl : Table (BitVec 32) := []
  /-- SIG (R202). -/
  sig : Table (BitVec 32) := []
  /-- ROUND (R202). -/
  round : Half := 0
  /-- BOUND (R202). -/
  bound : Bool := false
  deriving DecidableEq, Repr

/-- A stage ring (R27, R43). -/
structure Ring where
  /-- SLOTS (R43). -/
  slots : Nat := 2
  /-- MAXOCC (R43, R28). -/
  maxocc : Nat := 2
  /-- Producer stage (R43). -/
  prod : Nat := 0
  /-- Consumer stage (R43). -/
  cons : Nat := 0
  /-- Head (R210). -/
  head : Nat := 0
  /-- Tail (R210). -/
  tail : Nat := 0
  /-- Producer phase (R210). -/
  ppha : Bool := false
  /-- Consumer phase (R210). -/
  cpha : Bool := false
  /-- Full bits (R215). -/
  full : BitVec 16 := 0
  /-- Slot phases (R215). -/
  pha : BitVec 16 := 0
  /-- Offset held in each slot (R215). -/
  words : Table Word := []
  deriving DecidableEq, Repr

/-- A pipeline stage (R43). -/
structure Stage where
  /-- ROLE (R43). -/
  role : Nat := 1
  /-- WFIRST (R43). -/
  wfirst : Nat := 0
  /-- Weave count (R43). -/
  wcount : Nat := 1
  /-- Input ring, 15 none (R43). -/
  rin : Nat := 15
  /-- Output ring, 15 none (R43). -/
  rout : Nat := 15
  deriving DecidableEq, Repr

/-- A cohort (R33). -/
structure Cohort where
  /-- Launch (R34). -/
  launch : Nat := 0
  /-- Cohort number (R34). -/
  idx : Nat := 0
  /-- The cluster it stands on (R33, R47). -/
  cluster : Nat := 0
  /-- The gang of each rank (R34). -/
  gangs : Table Nat := []
  /-- C0 to c7 (R29). -/
  conv : Table Conv := []
  /-- Stage rings (R27). -/
  rings : Table Ring := []
  /-- Paired cohort (R274). -/
  partner : Option Nat := none
  /-- Direction of the partner (R274). -/
  dir : Nat := 0
  deriving DecidableEq, Repr

/-- A tile of a guarded launch and its regulator record (R415, R416). -/
structure Tile where
  /-- Guard tag (R415). -/
  tag : Nat := 0
  /-- The tag is held (R415). -/
  live : Bool := false
  /-- Failed bit (R416). -/
  failed : Bool := false
  /-- Largest residual (R416). -/
  res : Option Word := none
  /-- TSTATE (R404). -/
  state : Nat := 0
  /-- Gangs dispatched as surrogates (R416). -/
  dispatched : Nat := 0
  /-- Exact gangs not yet dispatched (R417). -/
  exactLeft : Nat := 0
  /-- Commit (1) or discard (2) is under way at the slices (R417). -/
  deciding : Nat := 0
  deriving DecidableEq, Repr

/-- A gang saved by instruction-level pre-emption (R217) with what its engines keep (R311, R372, R395). -/
structure SavedGang where
  /-- Its key in the table of gangs (the model's own). -/
  key : Nat := 0
  /-- The gang as saved (R217, R52). -/
  gang : Gang := {}
  /-- Its weaves as saved (R217). -/
  weaves : Table Weave := []
  /-- Its operation records, stopped (R52). -/
  ops : List Nat := []
  deriving DecidableEq, Repr

/-- A launch and its record (R404). -/
structure Launch where
  /-- Partition (R404). -/
  part : Nat := 0
  /-- Queue (R404). -/
  queue : Nat := 0
  /-- Packet index (R401). -/
  idx : Dbl := 0
  /-- Virtual address of the launch record (R398). -/
  recVa : Dbl := 0
  /-- The packet as taken, 16 qwords (R408). -/
  orig : Table Dbl := []
  /-- PACKET as processed (R404). -/
  packet : Table Dbl := []
  /-- STATUS (R404). -/
  status : Word := 0
  /-- STATE (R404). -/
  state : Nat := 0
  /-- DEPMET (R404). -/
  depmet : BitVec 4 := 0
  /-- RUN (R404). -/
  run : Half := 0
  /-- NEXTG (R404). -/
  nextg : Nat := 0
  /-- TPASS (R404). -/
  tpass : Word := 0
  /-- TFAIL (R404). -/
  tfail : Word := 0
  /-- WNUM (R404). -/
  wnum : Nat := 0
  /-- Tiles and TSTATE (R404, R415). -/
  tiles : Table Tile := []
  /-- The launch has been ended early or refused (R58, R417). -/
  ended : Bool := false
  /-- It has passed the checks of R405 (R405). -/
  checked : Bool := false
  /-- Its prologue has ended (R405). -/
  prologued : Bool := false
  /-- Its run ended with PLREPEAT (R411). -/
  repeat_ : Bool := false
  /-- Pipeline stages (R43). -/
  stages : Table Stage := []
  /-- Declared rings (R43). -/
  rings : Table Ring := []
  /-- Declared MAXOCC of slice queues (R43, R322). -/
  queueOcc : Table Nat := []
  /-- Bound region (R375). -/
  region : Option Nat := none
  /-- Gangs saved at instruction level (R52). -/
  saved : List SavedGang := []
  /-- Gangs that were escalated (R429). -/
  escalated : List Nat := []
  /-- Tickets a stalled front-end read waits on (R452). -/
  depTickets : List Nat := []
  /-- STATUS of the previous prologue run's launch (R410). -/
  prevStatus : Word := 0
  /-- TPASS of the previous run (R410). -/
  prevPass : Word := 0
  /-- TFAIL of the previous run (R410). -/
  prevFail : Word := 0
  /-- The DEP words that have been found met (R406). -/
  metWords : Table Dbl := []
  /-- Microsecond at which STATE last changed (R428, R430). -/
  since : Dbl := 0
  /-- Microseconds it has been Running before its last change of STATE (R430). -/
  ran : Nat := 0
  /-- PRIO of its queue when it was taken (R403). -/
  prio : Nat := 0
  /-- Age while it is Ready and no mapped slot holds it (R403). -/
  age : Nat := 0
  /-- Huapol sends without a full acknowledgement yet: channel and slot (R138, R407). -/
  unacked : List (Nat × Nat) := []
  deriving DecidableEq, Repr

/-- An NVMe command of a storage transfer (R303). -/
structure NvmeCmd where
  /-- First LBA (R303). -/
  lba : Nat := 0
  /-- LBAs (R303). -/
  count : Nat := 0
  /-- Byte offset in the transfer (R303). -/
  off : Nat := 0
  /-- Status word of its completion, 0 success (R304). -/
  status : Option Nat := none
  /-- Microsecond of its submission (R304). -/
  since : Dbl := 0
  /-- Translated before an invalidation that is in progress (R157). -/
  stale : Bool := false
  deriving DecidableEq, Repr

/-- The record of an asynchronous operation (R19, R22). -/
structure AsyncOp where
  /-- Partition (R19). -/
  part : Nat := 0
  /-- Launch (R19). -/
  launch : Nat := 0
  /-- Gang (R19). -/
  gang : Nat := 0
  /-- Issuing weave (R19). -/
  wk : Nat := 0
  /-- Issuing core (R19). -/
  core : Nat := 0
  /-- Engine (R217). -/
  engine : Engine := .ce
  /-- The command word (R19). -/
  instr : Instr := .ageTick
  /-- A handle names it (not NOH) (R71). -/
  named : Bool := true
  /-- The fields of an FX command word (R71). -/
  fx : Option FX := none
  /-- Its descriptor registers as read (R72). -/
  desc : List Word := []
  /-- Accepted (R72). -/
  accepted : Bool := false
  /-- The engine has begun it (R72). -/
  begun : Bool := false
  /-- Store-queue entries of the weave that precede it (R132). -/
  ahead : Nat := 0
  /-- AFLAG still counted (R72). -/
  aflag : Option Nat := none
  /-- Pending, Resolved or Cancelled (R19). -/
  state : OpState := .pending
  /-- The engine has finished with it (R22). -/
  stopped : Bool := false
  /-- Next unit (R311, R372). -/
  unit : Nat := 0
  /-- Pass or phase (R311). -/
  phase : Nat := 0
  /-- The command's own generator (R295). -/
  gen : Word := 0
  /-- Tickets it is stalled on (R153). -/
  tickets : List Nat := []
  /-- The kind of the access that waits on them (R153, R154). -/
  waitKind : AccessKind := .read
  /-- Operand A words of a multiply (R251). -/
  amat : List Word := []
  /-- Values fixed at issue or start (row, plane, pattern, totals) (R251, R308). -/
  aux : List Word := []
  /-- NVMe commands submitted (R303). -/
  cmds : List NvmeCmd := []
  /-- Stopped at its unit boundary by a pre-emption (R52). -/
  paused : Bool := false
  /-- Guard tag of a surrogate's writes (R136). -/
  tag : Option Nat := none
  /-- Scales of the blocks of a TQNT's pass 1 (R300). -/
  sr : Table Nat := []
  /-- Its place in the order of the matrix issue port, 0 before it has passed it (R239, R281). -/
  port : Nat := 0
  /-- It found its engine's queue full: its lanes are held at issue until it is accepted (R294, R362). -/
  full : Bool := false
  /-- The source as it stood at the start, where the destination may overlap it (R297). -/
  snap : List Byte := []
  deriving DecidableEq, Repr

/-- A weight plane of a core (R238). -/
structure Plane where
  /-- The gang that has claimed it (R238). -/
  owner : Option Nat := none
  /-- Marked to be released by a TCFG not yet in effect (R244). -/
  releasing : Bool := false
  /-- A WLATCH has issued for it (R251) (R251). -/
  issued : Bool := false
  /-- That WLATCH's WFMT (R251). -/
  iwfmt : Nat := 0
  /-- That WLATCH's SPN (R251). -/
  ispn : Nat := 0
  /-- Latched (R248). -/
  latched : Bool := false
  /-- Latched in the faulted state (R248). -/
  faulted : Bool := false
  /-- Faulted group (R248). -/
  fgroup : Nat := 0
  /-- WFMT (R248). -/
  wfmt : Nat := 0
  /-- SPN (R248). -/
  spn : Nat := 0
  /-- RK (R248). -/
  rk : Nat := 0
  /-- CB (R248). -/
  cb : Nat := 0
  /-- Latched codebook (R248). -/
  codebook : Table Half := []
  /-- Weights, and metadata from +4096 (R247). -/
  bytes : Table Byte := []
  deriving DecidableEq, Repr

/-- A weighted slot table (R31, R289): each entry is V and SLOT. -/
structure SlotTable where
  /-- 16 entries in force (R31, R289). -/
  ents : List (Bool × Nat) := [(true,0),(true,1),(true,2),(true,3),(true,0),(true,1),(true,2),(true,3),(true,0),(true,1),(true,2),(true,3),(true,0),(true,1),(true,2),(true,3)]
  /-- A write that waits for the next period (R31). -/
  next : Option (List (Bool × Nat)) := none
  deriving DecidableEq, Repr

/-- A 64-byte line of an L1 data cache (R120, R152). -/
structure L1Line where
  /-- Partition (R152). -/
  part : Nat := 0
  /-- Virtual line address (R152). -/
  vline : Nat := 0
  /-- Physical line address (R152). -/
  pline : Nat := 0
  /-- Tile that may be served (R120) (R120). -/
  tag : Option Nat := none
  /-- 64 bytes as held (R120). -/
  bytes : List Byte := []
  deriving DecidableEq, Repr

/-- An 8-byte word of an L1 instruction cache (R230). -/
structure ILine where
  /-- Partition (R230). -/
  part : Nat := 0
  /-- Virtual address (R230). -/
  va : Nat := 0
  /-- Physical line address (R152). -/
  pline : Nat := 0
  /-- The word as held (R230). -/
  word : Dbl := 0
  deriving DecidableEq, Repr

/-- A core (R11, R15). -/
structure Core where
  /-- Resident context slots 0 to 3: the launch of each (R31). -/
  ctxs : Table (Option Nat) := []
  /-- Weighted slot tables of the four units (R31). -/
  tabs : Table SlotTable := []
  /-- Four weight planes (R238). -/
  planes : Table Plane := []
  /-- L1 data cache lines (R118). -/
  l1 : List L1Line := []
  /-- L1 instruction words (R230). -/
  icache : List ILine := []
  /-- SPGATE, banks enabled (R439, R449). -/
  spgate : BitVec 8 := 0xFF#8
  /-- Banks that wake (R449). -/
  waking : BitVec 8 := 0
  /-- The cycle and the launch that each of the four units served last (R32). -/
  turns : Table (Nat × Nat) := []
  deriving DecidableEq, Repr

/-- A cached translation of a cluster (R150). -/
structure Tlb where
  /-- Partition (R150). -/
  part : Nat := 0
  /-- SZ of the leaf (R144). -/
  size : Nat := 0
  /-- Virtual address of the page (R150). -/
  vbase : Nat := 0
  /-- Physical address of the page (R150). -/
  pbase : Nat := 0
  /-- PLACE (R144). -/
  place : Nat := 0
  /-- DIE (R144). -/
  die : Nat := 0
  /-- R, W, X in bits 0, 1, 2 (R144). -/
  rights : BitVec 3 := 0
  /-- D as cached (R146). -/
  dirty : Bool := false
  /-- Physical address of the leaf entry (R146). -/
  pte : Nat := 0
  /-- Level of the leaf (R145). -/
  level : Nat := 0
  deriving DecidableEq, Repr

/-- A page-fault ticket (R153, R155). -/
structure Ticket where
  /-- Partition (R153). -/
  part : Nat := 0
  /-- Cluster (R153). -/
  cluster : Nat := 0
  /-- 4 KiB virtual page (R153). -/
  vpage : Nat := 0
  /-- Access kind (R153). -/
  kind : AccessKind := .read
  /-- STATUS of the upcall (R154). -/
  status : Word := 0
  /-- Faulting address (R155). -/
  va : Dbl := 0
  /-- Core (R155). -/
  core : Nat := 0
  /-- Weave within the gang (R155). -/
  weave : Nat := 0
  /-- 0 lanes, 1 engine, 2 front end (R155). -/
  source : Nat := 0
  /-- Parked lanes (R155). -/
  mask : BitVec 32 := 0
  /-- Region index (R155). -/
  region : Nat := 0
  /-- The message stands in the region's queue (R155). -/
  sent : Bool := false
  deriving DecidableEq, Repr

/-- A provisional sector (R331). -/
structure ProvEntry where
  /-- Partition (R331). -/
  part : Nat := 0
  /-- Guard tag (R331). -/
  tag : Nat := 0
  /-- Sector address (R331). -/
  sector : Nat := 0
  /-- 32 bytes (R331). -/
  data : List Byte := []
  /-- Byte mask (R331). -/
  mask : BitVec 32 := 0
  deriving DecidableEq, Repr

/-- A weave parked on a slice queue (R322). -/
structure Waiter where
  /-- Partition (R322). -/
  part : Nat := 0
  /-- Queue (R322). -/
  queue : Nat := 0
  /-- Weave (R322). -/
  wk : Nat := 0
  /-- Destination s register (R322). -/
  dst : Nat := 0
  deriving DecidableEq, Repr

/-- What a slice holds of a line (R313). -/
structure SliceLine where
  /-- Physical line number (R312). -/
  line : Nat := 0
  /-- Sectors that hold data (R313). -/
  valid : BitVec 2 := 0
  /-- Bytes held by partial writes of absent sectors (R313). -/
  part_ : BitVec 64 := 0
  /-- Dirty sectors (R313). -/
  dirty : BitVec 2 := 0
  deriving DecidableEq, Repr

/-- A miss-table entry (R314). -/
structure Miss where
  /-- Physical line number (R314). -/
  line : Nat := 0
  /-- Partition that it was taken for (R325). -/
  part : Nat := 0
  /-- Sectors to fill (R313, R314). -/
  need : BitVec 2 := 0
  deriving DecidableEq, Repr

/-- A request for a line that waits at a slice's input (R314, R315). -/
structure SliceReq where
  /-- Partition (R325). -/
  part : Nat := 0
  /-- Physical line number (R314). -/
  line : Nat := 0
  /-- A write (R314). -/
  write : Bool := false
  /-- Bytes of the line that it reads or writes (R313). -/
  mask : BitVec 64 := 0
  /-- First address of a write that is not performed yet (R315). -/
  pa : Nat := 0
  /-- Its bytes; none for a request whose place in the line's order has been taken (R314, R315). -/
  bytes : List Byte := []
  deriving DecidableEq, Repr

/-- An L2 slice (R312). -/
structure Slice where
  /-- Lines held (R312). -/
  lines : List SliceLine := []
  /-- Miss table, 64 entries of one line (R314). -/
  miss : List Miss := []
  /-- Write-back buffer, 16 sectors (R314). -/
  wb : List Nat := []
  /-- Requests that wait at the input, in arrival order (R314, R315). -/
  input : List SliceReq := []
  /-- Provisional store, 1,024 sectors per partition (R331). -/
  prov : List ProvEntry := []
  /-- (partition, tag) whose further provisional writes are dropped (R331). -/
  overfull : List (Nat × Nat) := []
  /-- Waiter records, 512 (R322). -/
  waiters : List Waiter := []
  /-- Weaves whose QPARK waits for a waiter record, in arrival order (R322). -/
  parkq : List Nat := []
  /-- Request counters, key 8 partition + kind (R325). -/
  counts : Table Word := []
  /-- L2GATE, ways enabled (R439, R450). -/
  gate : BitVec 16 := 0xFFFF#16
  /-- Ways that wake (R315). -/
  waking : BitVec 16 := 0
  deriving DecidableEq, Repr

/-- The completion of a host read (R160). -/
structure HostRead where
  /-- The virtual function, or 8 for the physical one (R426). -/
  fn : Nat := 0
  /-- Completer Abort (R160). -/
  aborted : Bool := false
  /-- The data (R426). -/
  bytes : List Byte := []
  deriving DecidableEq, Repr

/-- An armed watch (R327). -/
structure Watch where
  /-- Partition (R329). -/
  part : Nat := 0
  /-- Watched word (R327). -/
  pa : Nat := 0
  /-- Condition (R327). -/
  cond : Nat := 0
  /-- Comparison value (R327). -/
  value : Dbl := 0
  /-- Host word (R327). -/
  hostAddr : Dbl := 0
  /-- Host value (R327). -/
  hostVal : Dbl := 0
  /-- MSI-X vector (R327). -/
  vector : Nat := 0
  /-- The condition has held (R328). -/
  fired : Bool := false
  deriving DecidableEq, Repr

/-- A sweep region (R337, R352). -/
structure Sweep where
  /-- VBASE (R337). -/
  vbase : Dbl := 0
  /-- CNTM1 (R337). -/
  cntm1 : Nat := 0
  /-- V (R337). -/
  v : Bool := false
  /-- SW (R337). -/
  sw : Bool := false
  /-- FLOOR (R337). -/
  floor : Dbl := 0
  /-- CURSOR (R337). -/
  cursor : Nat := 0
  /-- SKIPPG (R337). -/
  skippg : Half := 0
  /-- WINW (R337). -/
  winw : Half := 0
  /-- STEP at which the sweep in progress began (R352). -/
  start : Dbl := 0
  /-- The page the sweep in progress skips (R353). -/
  skipPage : Option Nat := none
  deriving DecidableEq, Repr

/-- A stride-gather pattern (R307). -/
structure Pattern where
  /-- Valid (R307). -/
  v : Bool := false
  /-- ESZ (R307). -/
  esz : Nat := 0
  /-- COL (R307). -/
  col : Bool := false
  /-- IC (R307). -/
  ic : Nat := 1
  /-- IS (R307). -/
  is : Word := 0
  /-- OC (R307). -/
  oc : Nat := 1
  /-- OS (R307). -/
  os : Word := 0
  deriving DecidableEq, Repr

/-- A stack's gather fault record for a partition (R309). -/
structure GatherRec where
  /-- A record is held (R309). -/
  valid : Bool := false
  /-- Detail (R309). -/
  detail : Nat := 0
  /-- Pattern (R309). -/
  pattern : Nat := 0
  /-- Element address (R309). -/
  addr : Dbl := 0
  /-- Later faults, saturating (R309). -/
  count : Word := 0
  deriving DecidableEq, Repr

/-- A storage table entry (R302). -/
structure Stor where
  /-- V (R302). -/
  v : Bool := false
  /-- LBAS (R302). -/
  lbas : Bool := false
  /-- QID (R302). -/
  qid : Half := 0
  /-- NSID (R302). -/
  nsid : Word := 0
  /-- SQBASE (R302). -/
  sqbase : Dbl := 0
  /-- CQBASE (R302). -/
  cqbase : Dbl := 0
  /-- SQDB (R302). -/
  sqdb : Dbl := 0
  /-- CQDB (R302). -/
  cqdb : Dbl := 0
  /-- QSIZE (R302). -/
  qsize : Nat := 0
  /-- MDTS (R302). -/
  mdts : Nat := 0
  /-- Submission queue tail as last rung (R303). -/
  tail : Nat := 0
  /-- Completion queue head as last rung (R303). -/
  head : Nat := 0
  /-- Transfers that wait for a place in the queue, in the order in which they asked (R303). -/
  waiting : List Nat := []
  deriving DecidableEq, Repr

/-- An exchange datum in flight (R381, R382). -/
structure XDatum where
  /-- Target gang (R381). -/
  gang : Nat := 0
  /-- Offset in the shadow half (R381). -/
  off : Nat := 0
  /-- The datum (R381). -/
  bytes : List Byte := []
  /-- Cycle it lands (R376). -/
  due : Nat := 0
  /-- Issuing weave (R378). -/
  wk : Nat := 0
  /-- The XBCAST it belongs to (R382). -/
  op : Option Nat := none
  /-- 8-byte units of an XBCAST, 1 for a lane datum (R385). -/
  units : Nat := 1
  deriving DecidableEq, Repr

/-- A stitched region (R373, R374). -/
structure Region where
  /-- TOPO (R373). -/
  topo : Nat := 0
  /-- TXM1 (R373). -/
  txm1 : Nat := 0
  /-- CL_i (R373). -/
  cls : List Nat := []
  /-- The queue it belongs to (R375). -/
  queue : Nat := 0
  /-- The bound launch (R375). -/
  launch : Option Nat := none
  /-- Step count (R378). -/
  steps : Word := 0
  /-- Order in which its STITCH completed (R375). -/
  order : Nat := 0
  /-- Data in flight (R381). -/
  flight : List XDatum := []
  /-- Cycle T of the step whose gangs have all arrived and whose data have all landed (R378). -/
  t : Option Nat := none
  deriving DecidableEq, Repr

/-- The prologue sequencer of a partition (R408). -/
structure Prologue where
  /-- The packet it runs for (R408). -/
  launch : Nat := 0
  /-- Next word (R408). -/
  pc : Dbl := 0
  /-- Pc names a header (R408). -/
  hdr : Bool := true
  /-- Header of the clause in progress (R408). -/
  clause : Dbl := 0
  /-- Its LEN (R408). -/
  len : Nat := 0
  /-- Uniform registers (R408). -/
  sregs : Table Word := []
  /-- Predicates (R408). -/
  preds : BitVec 16 := 1
  /-- Words executed (R408). -/
  count : Nat := 0
  /-- Tickets a stalled read waits on (R452). -/
  tickets : List Nat := []
  deriving DecidableEq, Repr

/-- A partition's translation block (R156). -/
structure TransBlock where
  /-- PTROOT, bits [47:12] (R156). -/
  ptroot : Nat := 0
  /-- EN (R156). -/
  en : Bool := false
  /-- RTBASE (R156). -/
  rtbase : Nat := 0
  /-- RTCOUNT (R156). -/
  rtcount : Nat := 0
  /-- TINVVA (R156). -/
  tinvva : Nat := 0
  /-- TMODE as last written (write only) (R156). -/
  tmode : Nat := 0
  /-- NPAGES as last written (write only) (R156). -/
  npages : Nat := 0
  /-- BUSY (R156). -/
  busy : Bool := false
  /-- UALOG (R156). -/
  ualog : Dbl := 0
  /-- UACOUNT (R156). -/
  uacount : Word := 0
  deriving DecidableEq, Repr

/-- A partition's front-end block (R396). -/
structure FrontBlock where
  /-- GTOL0 to GTOL15 (R396). -/
  gtol : Table Word := []
  /-- QDBASE (R396). -/
  qdbase : Dbl := 0
  /-- QCOUNT (R396). -/
  qcount : Nat := 0
  /-- TOUT (R396). -/
  tout : Nat := 200
  /-- QUOTA (R396). -/
  quota : Nat := 0
  /-- QERR (R396). -/
  qerr : Half := 0
  /-- QERRV (R396). -/
  qerrv : Bool := false
  deriving DecidableEq, Repr

/-- A partition's stamp block (R337). -/
structure Stamp where
  /-- STEP (R337). -/
  step : Dbl := 0
  /-- PEND (R337). -/
  pend : Nat := 0
  /-- THR (R337). -/
  thr : Nat := 0x400000
  /-- Sweep regions 0 to 15 (R337). -/
  regs : Table Sweep := []
  /-- Factor table FT, 256 entries; an unlisted entry is 1.0 (R337). -/
  ft : Table Word := []
  /-- STGi (R337). -/
  stg : Table Word := []
  /-- STGV (R337). -/
  stgv : Table Bool := []
  /-- The sweep limit cut the last boundary's advance short (R338). -/
  cut : Bool := false
  deriving DecidableEq, Repr

/-- A partition's control block (R421). -/
structure Control where
  /-- CLMASK (R421). -/
  clmask : Dbl := 0
  /-- HPMASK (R421). -/
  hpmask : Nat := 0
  /-- WEIGHT (R421). -/
  weight : Nat := 0
  /-- QUOTA (R421). -/
  quota : Nat := 0
  /-- WQUOTA (R421). -/
  wquota : Nat := 0
  /-- TOUT (R421). -/
  tout : Nat := 200
  /-- DDL (R421). -/
  ddl : Nat := 50
  /-- RUNLIM (R421). -/
  runlim : Nat := 0
  /-- QCOUNT (R421). -/
  qcount : Nat := 0
  /-- PWAIT (R421). -/
  pwait : Nat := 100
  /-- QDBASE (R421). -/
  qdbase : Dbl := 0
  /-- TVEC (R421). -/
  tvec : Dbl := 0
  /-- QTBASE (R421). -/
  qtbase : Dbl := 0
  /-- CXLBASE (R421). -/
  cxlbase : Dbl := 0
  /-- CXLLIM (R421). -/
  cxllim : Dbl := 0
  /-- CHUNKS (R421). -/
  chunks : BitVec 384 := 0
  /-- ACT (R421). -/
  act : Bool := false
  /-- DEVIDC (R421). -/
  devidc : Dbl := 0x4B004600#64
  /-- STOR, storage table (R421, R302). -/
  stor : Table Stor := []
  deriving DecidableEq, Repr

/-- An order of gang-boundary pre-emption of a queue (R428). -/
structure PreemptOrder where
  /-- The queue (R428). -/
  queue : Nat := 0
  /-- The launch that caused it; none for PSUSPEND and the switch to full service (R428, R443). -/
  cause : Option Nat := none
  /-- Microsecond of the order (R429). -/
  since : Dbl := 0
  /-- Its drain deadline has passed (R429). -/
  expired : Bool := false
  deriving DecidableEq, Repr

/-- A partition (R421). -/
structure Partition where
  /-- Control block (R421). -/
  ctl : Control := {}
  /-- Translation block (R156). -/
  trans : TransBlock := {}
  /-- Front-end block (R396). -/
  front : FrontBlock := {}
  /-- Stamp block (R337). -/
  stamp : Stamp := {}
  /-- Stride-gather patterns (R307). -/
  pats : Table Pattern := []
  /-- Gather fault records of stacks 0 to 7 (R309). -/
  gather : Table GatherRec := []
  /-- Firmware log, 256 entries (R427). -/
  flog : List (List Word) := []
  /-- Stitched regions 0 to 7 (R374). -/
  regions : Table Region := []
  /-- The launch that holds the dispatch stream (R401). -/
  stream : Option Nat := none
  /-- Prologue sequencer (R408). -/
  prologue : Option Prologue := none
  /-- Suspended by PSUSPEND (R422). -/
  suspended : Bool := false
  /-- STITCHes completed, for their order (R375). -/
  stitches : Nat := 0
  /-- Orders of gang-boundary pre-emption in force (R428). -/
  preempts : List PreemptOrder := []
  /-- A solo boundary is due (R338) (R338). -/
  solo : Bool := false
  /-- Cycle of the latest request for it (R338). -/
  soloSince : Dbl := 0
  /-- SWPREG.now and .inv commands that wait: record and region (R351). -/
  nowWait : List (Nat × Nat) := []
  deriving DecidableEq, Repr

/-- A range entry of an access table (R159). -/
structure Range where
  /-- V (R159). -/
  v : Bool := false
  /-- BASE (R159). -/
  base : Nat := 0
  /-- LIMIT (R159). -/
  limit : Nat := 0
  /-- R, W, X (R159). -/
  rights : BitVec 3 := 0
  deriving DecidableEq, Repr

/-- A row of an access table (R159). -/
structure AccRow where
  /-- Four range entries (R159). -/
  ranges : Table Range := []
  /-- Chunk map (R159). -/
  chunks : BitVec 384 := 0
  /-- CV (R159). -/
  cv : Bool := false
  /-- CR, CW, CX (R159). -/
  crights : BitVec 3 := 0
  deriving DecidableEq, Repr

/-- The access table of a target (R159) with its refusal log (R424). -/
structure AccTable where
  /-- 65 rows (R159). -/
  rows : Table AccRow := [(64,{ranges:=[(0,{v:=true,base:=0,limit:=0xFFFFFFFFF000,rights:=7})]})]
  /-- Log valid (R424). -/
  logv : Bool := false
  /-- First refused master (R424). -/
  logMaster : Nat := 0
  /-- Its kind (R424). -/
  logKind : AccessKind := .read
  /-- Its address (R424). -/
  logPa : Nat := 0
  /-- Later refusals (R160). -/
  logCount : Word := 0
  deriving DecidableEq, Repr

/-- A Huapol receive buffer (R386). -/
structure RxBuf where
  /-- V (R386). -/
  v : Bool := false
  /-- Base (R387). -/
  base : Dbl := 0
  /-- Slot size in bytes (R387). -/
  size : Nat := 0
  /-- SLOTS (R386). -/
  slots : Nat := 1
  /-- Held translations, by page of the buffer (R387). -/
  pages : Table Nat := []
  /-- Full bits (R386). -/
  full : BitVec 16 := 0
  /-- Slot lengths (R386). -/
  lens : Table Word := []
  /-- FILL (R386). -/
  fill : Nat := 0
  /-- TAKE (R386). -/
  take : Nat := 0
  /-- RET (R386). -/
  ret : Nat := 0
  /-- Taken slots not returned (R386). -/
  taken : Nat := 0
  /-- Bytes received of each slot that is being filled (R389). -/
  got : Table Nat := []
  /-- Slots whose last flit has arrived (R389). -/
  lastSeen : BitVec 16 := 0
  /-- Slots one of whose writes was refused (R389). -/
  refused : BitVec 16 := 0
  /-- Weaves that wait in LPOLL, in the order of arrival (R389). -/
  pollq : List Nat := []
  deriving DecidableEq, Repr

/-- A Huapol send channel (R386). -/
structure TxChan where
  /-- V (R386). -/
  v : Bool := false
  /-- SLOTS (R386). -/
  slots : Nat := 1
  /-- Slot size in bytes (R386). -/
  size : Nat := 0
  /-- SIDX (R386). -/
  sidx : Nat := 0
  /-- Credits (R386). -/
  credits : Nat := 0
  /-- FAILED (R386). -/
  failed : Bool := false
  deriving DecidableEq, Repr

/-- A flit that has left a port and is kept for replay (R391). -/
structure Flit where
  /-- Sequence number (R391). -/
  seq : Word := 0
  /-- 256 bytes (R391). -/
  bytes : List Byte := []
  deriving DecidableEq, Repr

/-- A Huapol port (R386, R391). -/
structure Port where
  /-- Link up (HPUP) (R446). -/
  up : Bool := false
  /-- Partition that owns it (R386). -/
  owner : Option Nat := none
  /-- Receive buffers 0 to 15 (R386). -/
  rx : Table RxBuf := []
  /-- Send channels 0 to 15 (R386). -/
  tx : Table TxChan := []
  /-- Next sequence number sent (R391). -/
  seqOut : Word := 0
  /-- Next sequence number expected (R391). -/
  seqIn : Word := 0
  /-- The last 128 flits sent (R391). -/
  sent : List Flit := []
  deriving DecidableEq, Repr

/-- A member's share of a bonded round (R255). -/
structure Share where
  /-- Its operation record (R279). -/
  op : Nat := 0
  /-- The weave that bound it (R287). -/
  wk : Nat := 0
  /-- Opcode (R287). -/
  opc : Nat := 0
  /-- SRCA code (R287). -/
  srca : Nat := 0
  /-- Accumulator row (R287). -/
  row : Nat := 0
  /-- Plane (R287). -/
  plane : Nat := 0
  /-- Stream (R287). -/
  stream : Nat := 0
  deriving DecidableEq, Repr

/-- A round that is armed or in flight (R281, R282). -/
structure Round where
  /-- The shares, by member (R281). -/
  shares : Table Share := []
  /-- Operand words read at each member's grant (R281). -/
  granted : Table (List Word) := []
  /-- It has issued into the array (R281). -/
  issued : Bool := false
  deriving DecidableEq, Repr

/-- A bond (R268). -/
structure Bond where
  /-- H (R268). -/
  h : Nat := 1
  /-- W (R268). -/
  w : Nat := 1
  /-- A seam bond (R268). -/
  seam : Bool := false
  /-- Partner direction (R284). -/
  dir : Nat := 0
  /-- The cohort whose register serves it (R275). -/
  cohort : Nat := 0
  /-- Convergence register (R276). -/
  c : Nat := 0
  /-- Member gangs, by member number (R269). -/
  members : List Nat := []
  /-- State (R284). -/
  state : BondState := .none
  /-- State before pre-emption (R287). -/
  before_ : BondState := .none
  /-- Weaves that hold leases, by member (R278). -/
  leases : Table (BitVec 16) := []
  /-- Weaves whose leases are lost (R284). -/
  lost : Table (BitVec 16) := []
  /-- Shares bound to the round not yet armed (R255). -/
  shares : Table Share := []
  /-- The armed round (R281). -/
  armed : Option Round := none
  /-- Issued rounds (R281). -/
  flight : List Round := []
  /-- Rounds issued (R284). -/
  rounds : Word := 0
  /-- The BFORM's operation record (R277). -/
  op : Nat := 0
  /-- Stopped for pre-emption: no further round issues (R286). -/
  stopped : Bool := false
  /-- Bond columns struck by a link error (R285). -/
  badCols : List Nat := []
  /-- Members that have issued BRESUME (R288). -/
  resumed : List Nat := []
  /-- (member, weave) of the leases surrendered so far (R286). -/
  given : List (Nat × Nat) := []
  /-- (member, weave) of the leases still to be granted again, in their order (R288). -/
  regrant : List (Nat × Nat) := []
  deriving DecidableEq, Repr

/-- A hardware queue slot (R400). -/
structure QSlot where
  /-- Partition (R400). -/
  part : Nat := 0
  /-- Queue number (R400). -/
  queue : Nat := 0
  /-- W (R400). -/
  w : Dbl := 0
  /-- RPTR (R400). -/
  rptr : Dbl := 0
  /-- Head packet: its launch (R400). -/
  head : Option Nat := none
  /-- PRIO (R400). -/
  prio : Nat := 0
  /-- Age (R400). -/
  age : Nat := 0
  /-- Time of the last kick (R400). -/
  lastKick : Nat := 0
  /-- LOG2N (R398). -/
  log2n : Nat := 1
  /-- RBASE (R398). -/
  rbase : Dbl := 0
  /-- LRBASE (R398). -/
  lrbase : Dbl := 0
  /-- State (R401). -/
  state : SlotState := .idle
  /-- Microsecond at which it became Idle (R402). -/
  since : Dbl := 0
  /-- Tickets that a ring read waits on (R452). -/
  tickets : List Nat := []
  /-- The pager has failed the ring read (R452). -/
  refused : Bool := false
  deriving DecidableEq, Repr

/-- A queue that is pending to be mapped (R400). -/
structure PendQueue where
  /-- Partition (R400). -/
  part : Nat := 0
  /-- Queue number (R400). -/
  queue : Nat := 0
  /-- A kick's value that could not be written to WPTR yet (R400). -/
  w : Option Dbl := none
  /-- Tickets that the descriptor's read waits on (R400). -/
  tickets : List Nat := []
  /-- Microsecond of its last kick (R400). -/
  kick : Nat := 0
  /-- The pager has failed the descriptor's read (R400). -/
  refused : Bool := false
  deriving DecidableEq, Repr

/-- A dependency record at a slice (R406). -/
structure DepRec where
  /-- The launch (R406). -/
  launch : Nat := 0
  /-- Its dependency, 0 to 3 (R406). -/
  dep : Nat := 0
  /-- Physical address of the word (R406). -/
  pa : Nat := 0
  /-- It waits for full (R406). -/
  full : Bool := false
  /-- An evaluation has found it met (R406). -/
  met : Bool := false
  deriving DecidableEq, Repr

/-- A command link between an LC and the GSC (R420). -/
structure Link where
  /-- Send permits toward the GSC (R420). -/
  permitsUp : Nat := 8
  /-- Send permits toward the LC (R420). -/
  permitsDown : Nat := 8
  /-- Messages delivered to the GSC, in order (R420). -/
  up : List (List Byte) := []
  /-- Messages delivered to the LC, in order (R420). -/
  down : List (List Byte) := []
  /-- Messages toward the GSC that wait for a permit (R420). -/
  waitUp : List (List Byte) := []
  /-- Messages toward the LC that wait for a permit (R420). -/
  waitDown : List (List Byte) := []
  /-- Times an uncorrectable error has reset the LC (R420). -/
  resets : Nat := 0
  deriving DecidableEq, Repr

/-- The mailbox (R422). -/
structure Mailbox where
  /-- CMD (R422). -/
  cmd : Nat := 0
  /-- PART (R422). -/
  part : Nat := 0
  /-- GO (R422). -/
  go : Bool := false
  /-- ARG (R422). -/
  arg : Dbl := 0
  /-- MST (R422). -/
  mst : Nat := 0
  deriving DecidableEq, Repr

/-- The ALARM register (R435). -/
structure Alarm where
  /-- SRC (R435). -/
  src : BitVec 4 := 0
  /-- ERASED (R435). -/
  erased : Bool := false
  /-- REFUSE (R435). -/
  refuse : Bool := false
  /-- COUNT (R435). -/
  count : Half := 0
  deriving DecidableEq, Repr

/-- An error-log entry (R448): four qwords. -/
structure ELog where
  /-- Qword 0 (R448). -/
  q0 : Dbl := 0
  /-- Qword 1 (R448). -/
  q1 : Dbl := 0
  /-- Qword 2 (R448). -/
  q2 : Dbl := 0
  deriving DecidableEq, Repr

/-- The device status block (R439). -/
structure Status where
  /-- SVC (R439). -/
  svc : Nat := 0
  /-- DIES (R439). -/
  dies : BitVec 4 := 0
  /-- HBMOK (R439). -/
  hbmok : BitVec 8 := 0
  /-- HPUP (R439). -/
  hpup : BitVec 12 := 0
  /-- CXLUP (R439). -/
  cxlup : BitVec 8 := 0
  /-- THERM (R439). -/
  therm : Nat := 0
  /-- PEERID, PEERPT and PV of ports 0 to 11 (R439). -/
  peers : Table Dbl := []
  /-- CXLGIB (R439). -/
  cxlgib : Nat := 0
  /-- EHEAD (R439). -/
  ehead : Nat := 0
  /-- CECNT0 to CECNT7 (R439). -/
  cecnt : Table Word := []
  /-- ELOG0 to ELOG63 (R439). -/
  elog : Table ELog := []
  deriving DecidableEq, Repr

/-- What the firmware complex and its boot ROM hold (R431, R433). -/
structure Firmware where
  /-- The image in flash, empty where none is valid (R431). -/
  flash : List Byte := []
  /-- The image that runs (R433). -/
  running : List Byte := []
  /-- The boot ROM's check passed (R431). -/
  imageOk : Bool := false
  /-- Key hash in fuses (R431). -/
  keyHash : BitVec 256 := 0
  /-- Fused minimum SVN (R431). -/
  minSvn : Word := 0
  /-- The identity private key, in the key store (R433). -/
  identity : Option Nat := none
  /-- The switch to full service is under way (R443). -/
  switching : Bool := false
  /-- Session keys are held (R434). -/
  session : Bool := false
  /-- Key pairs made so far (R435). -/
  identities : Nat := 0
  /-- The leaf controllers run (R440). -/
  lcUp : Bool := false
  deriving DecidableEq, Repr

/-- A word that the sequencer issues: its weave, its address and its lane set (R38). -/
structure IssueSlot where
  /-- Weave (R38). -/
  wk : Nat := 0
  /-- Address of the word (R38). -/
  pc : Dbl := 0
  /-- Lane set (R38). -/
  lanes : BitVec 32 := 0
  deriving DecidableEq, Repr

/-- An event that comes next, with its arguments. -/
structure Agendum where
  /-- The event (the model's own). -/
  what : Instr := .ageTick
  /-- Its arguments (the model's own). -/
  args : EvArgs := {}
  deriving DecidableEq, Repr

/-- Who runs the word in hand: a weave's lane set, or a partition's prologue sequencer. -/
inductive Actor where
  | weave (slot : IssueSlot)
  | prologue (part : Nat)
  deriving DecidableEq, Repr

/-- The whole module and what the model itself needs to say whose turn it is. -/
structure State where
  /-- Device cycle counter, 64 bits (R74, R438). -/
  clk : Dbl := 0
  /-- Microseconds since the last reset (R427). -/
  us : Dbl := 0
  /-- HBM and CXL memory, committed bytes (R118, R141). -/
  mem : List Host.Cell := []
  /-- 8-byte units of memory whose data an uncorrectable error has struck and nothing has rewritten whole (R447, R221). -/
  poison : List Nat := []
  /-- Host memory (R118). -/
  hostMem : List Host.Cell := []
  /-- Partitions 0 to 7 (R421). -/
  parts : Table Partition := []
  /-- Access tables of the 172 targets (R159, R424). -/
  acc : Table AccTable := []
  /-- PLMAP, 384 bytes (R149). -/
  plmap : Table Byte := []
  /-- Cluster TLBs (R150). -/
  tlb : Table (List Tlb) := []
  /-- Page-fault tickets outstanding (R153). -/
  tickets : Table Ticket := []
  /-- Next ticket number (R155). -/
  nextTicket : Nat := 1
  /-- Cores 0 to 1,023 (R11). -/
  cores : Table Core := []
  /-- Slices 0 to 127 (R312). -/
  slices : Table Slice := []
  /-- Resident gangs (R33). -/
  gangs : Table Gang := []
  /-- Their weaves, key 16 gang + weave (R33). -/
  weaves : Table Weave := []
  /-- Cohorts (R33). -/
  cohorts : Table Cohort := []
  /-- Launches in progress (R33). -/
  launches : Table Launch := []
  /-- Operation records (R19). -/
  ops : Table AsyncOp := []
  /-- Bonds (R268). -/
  bonds : Table Bond := []
  /-- Next number of a gang, cohort, launch, record or bond (the model's own). -/
  nextKey : Nat := 1
  /-- The 128 hardware queue slots (R400). -/
  slots : Table (Option QSlot) := []
  /-- Queues pending to be mapped, in the order of their first kicks (R400). -/
  pendingOrder : List PendQueue := []
  /-- Watch records 0 to 4,095 (R329). -/
  watches : Table Watch := []
  /-- Dependency records, at most 1,024 (R406). -/
  deps : List DepRec := []
  /-- Huapol ports 0 to 11 (R386). -/
  ports : Table Port := []
  /-- Command links of clusters 0 to 63 (R420). -/
  links : Table Link := []
  /-- Mailbox (R422). -/
  mailbox : Mailbox := {}
  /-- ALARM (R435). -/
  alarm : Alarm := {}
  /-- Device status block (R439). -/
  status : Status := {}
  /-- Firmware complex (R431). -/
  fw : Firmware := {}
  /-- Junction sensors, degrees, one per cluster (R436). -/
  sensors : Table Nat := []
  /-- The core rails are up (R437). -/
  rails : Bool := true
  /-- Hardware has removed the core rails since the last reset (R437). -/
  tripped : Bool := false
  /-- Completions of host reads, oldest first (R160, R426). -/
  hostReads : List HostRead := []
  /-- MSI-X vectors raised: (partition, vector), oldest first (R328). -/
  msix : List (Nat × Nat) := []
  /-- Posted writes to NVMe controllers' doorbells: (bus address, value) (R303). -/
  doorbells : List (Nat × Dbl) := []
  /-- The MODEL's own: counter of free values used (the model's own). -/
  free : Nat := 0
  /-- The MODEL's own: events that come next, in order; when none is left the machine plans its next cycle (the model's own). -/
  agenda : List Agendum := []
  /-- The MODEL's own: the arguments of the event in hand (the model's own). -/
  ev : EvArgs := {}
  /-- The MODEL's own: words that the current issue cycle still has to run (the model's own). -/
  issue : List Actor := []
  /-- The MODEL's own: who runs the word in hand (the model's own). -/
  cur : Option Actor := none
  deriving DecidableEq, Repr

/-- The state right after reset: every field at the value the spec states for reset, or at the value that
INVENTORY.md and the assumption log name (R440: nothing has been verified, trained or brought up yet). -/
def State.reset : State := {}

end Sys2Proof.Machine
end

