-- ==== Sys2Proof/Machine/Memory.lean ====
section
/-! DEFINITION. Bytes in memory, the physical map, home slices and access tables (spec/06_translation.md, R141, R148,
R149, R158 to R160; R331, R332), and the write every agent's committed write goes through. -/

namespace Sys2Proof.Machine

open Sys2Proof

/-- The little-endian value of bytes (R3). -/
def leNat : List Byte → Nat
  | [] => 0
  | b :: bs => b.toNat + 256 * leNat bs

/-- The `n` little-endian bytes of a value. -/
def bytesOf : Nat → Nat → List Byte
  | 0, _ => []
  | n + 1, v => BitVec.ofNat 8 v :: bytesOf n (v / 256)

/-- `n` bytes from address `a`; an unlisted byte reads 0 (notes/assumptions/3.md). -/
def memRead (m : List Host.Cell) (a : Nat) : Nat → List Byte
  | 0 => []
  | n + 1 => Table.get 0 m a :: memRead m (a + 1) n

/-- Writes bytes from address `a`, keeping the canonical form. -/
def memWrite (m : List Host.Cell) (a : Nat) : List Byte → List Host.Cell
  | [] => m
  | b :: bs => memWrite (Table.set 0 m a b) (a + 1) bs

/-- The memory is in its canonical form: addresses strictly rising, no byte listed that reads 0 anyway. -/
def Memory.wf (m : List Host.Cell) : Bool := Table.wf 0 m

/-- The 64-bit word at a physical address of memory. -/
def memQword (m : List Host.Cell) (a : Nat) : Nat := leNat (memRead m a 8)

/-- Bits [hi:lo] of a number. -/
def bits (x hi lo : Nat) : Nat := (x >>> lo) % 2 ^ (hi + 1 - lo)

/-- Bit `i` of a number. -/
def bit (x i : Nat) : Bool := Nat.testBit x i

/-! ### The physical map (R141, R441, R442) -/

def hbmEnd : Nat := 0x6000000000
def cxlBase : Nat := 0x100000000000
def cxlEnd : Nat := 0x1C0000000000
def mmioBase : Nat := 0x7F0000000000
def mmioEnd : Nat := 0x7F0100000000

def inHbm (pa : Nat) : Bool := decide (pa < hbmEnd)
def inCxl (pa : Nat) : Bool := decide (cxlBase ≤ pa) && decide (pa < cxlEnd)
def inMmio (pa : Nat) : Bool := decide (mmioBase ≤ pa) && decide (pa < mmioEnd)

/-- All four dies are in service (R441). -/
def State.allDies (s : State) : Bool := s.status.dies == 0xF#4

/-- A physical address is populated (R141, R441, R442). -/
def State.populated (s : State) (pa : Nat) : Bool :=
  if inHbm pa then s.status.dies.getLsbD (pa / 2 ^ 30 / 96)
  else if inCxl pa then
    decide ((pa - cxlBase) / 2 ^ 30 < s.status.cxlgib) && s.status.cxlup.getLsbD (bits pa 14 12)
  else inMmio pa

/-- The placement of an HBM chunk: PLACE and DIE of its PLMAP byte (R149), or its own die's while another die is out of
service (R441). -/
def State.chunkPlace (s : State) (chunk : Nat) : Nat × Nat :=
  if s.allDies || !s.status.dies.getLsbD (chunk / 96) then
    let b := (Table.get 0 s.plmap chunk).toNat
    (bits b 1 0, bits b 3 2)
  else (1, chunk / 96)

/-- The home die of a physical address of HBM or CXL (R148). -/
def State.homeDie (s : State) (pa : Nat) : Nat :=
  let x (i : Nat) : Nat := if bit pa i then 1 else 0
  if inCxl pa then bits pa 14 12 / 2
  else
    let (place, die) := s.chunkPlace (pa / 2 ^ 30)
    match place with
    | 0 => 2 * ((x 13 + x 16 + x 20 + x 24) % 2) + (x 12 + x 15 + x 19 + x 23) % 2
    | 1 => die
    | _ => 2 * ((x 17 + x 20 + x 24 + x 28) % 2) + (x 16 + x 19 + x 23 + x 27) % 2

/-- The slice within the home die: the XOR of the eight fields PA[5k+10:5k+6] (R148). -/
def sliceHash (pa : Nat) : Nat :=
  (List.range 8).foldl (fun acc k => Nat.xor acc (bits pa (5 * k + 10) (5 * k + 6))) 0

/-- The device-wide home slice of a physical address (R12, R148). -/
def State.homeSlice (s : State) (pa : Nat) : Nat := 32 * s.homeDie pa + sliceHash pa

/-! ### Access tables (R158 to R160, R424) -/

/-- The rights an access needs: R 1, W 2, X 4 (R147). -/
def kindRights : AccessKind → BitVec 3
  | .read => 1
  | .write => 2
  | .fetch => 4
  | .rmw => 3

def kindCode : AccessKind → Nat
  | .read => 0
  | .write => 1
  | .fetch => 2
  | .rmw => 3

/-- The target whose table checks an access to a physical address (R424): the home slice for memory, the block for MMIO. -/
def State.targetOf (s : State) (pa : Nat) : Nat :=
  if inMmio pa then 156 + (pa - mmioBase) / 2 ^ 28 else 8 + s.homeSlice pa

/-- The targets that an access arrives at and that check it, in order (R159, R424): the MMIO block; or the home slice and
then the HBM stack or the CXL port that holds the line. -/
def State.targetsOf (s : State) (pa : Nat) : List Nat :=
  if inMmio pa then [s.targetOf pa]
  else if inCxl pa then [s.targetOf pa, 136 + bits pa 14 12]
  else [s.targetOf pa, s.homeSlice pa / 16]

/-- The table of a target. -/
def State.accTable (s : State) (t : Nat) : AccTable := Table.get {} s.acc t

/-- A row allows an access (R160). -/
def AccRow.allows (r : AccRow) (pa n : Nat) (need : BitVec 3) : Bool :=
  (List.range 4).any (fun j =>
    let e := Table.get {} r.ranges j
    e.v && decide (e.base ≤ pa) && decide (pa + n ≤ e.limit) && (e.rights &&& need == need)) ||
  (inHbm pa && r.cv && (r.crights &&& need == need) && r.chunks.getLsbD (pa / 2 ^ 30))

/-- A master may make an access at a target (R160). -/
def State.accessOk (s : State) (t master pa n : Nat) (k : AccessKind) : Bool :=
  (Table.get {} (s.accTable t).rows master).allows pa n (kindRights k)

/-- The first target that refuses a master's access (R160). -/
def State.refuser (s : State) (master pa n : Nat) (k : AccessKind) : Option Nat :=
  (s.targetsOf pa).find? fun t => !s.accessOk t master pa n k

/-- Adds one to a saturating 32-bit counter. -/
def satInc (w : Word) : Word := if w == 0xFFFFFFFF#32 then w else w + 1

/-- A target records a refusal: the first in its log, the rest in its counter (R160). -/
def State.logRefusal (s : State) (t master pa : Nat) (k : AccessKind) : State :=
  let a := s.accTable t
  let a := if a.logv then { a with logCount := satInc a.logCount }
    else { a with logv := true, logMaster := master, logKind := k, logPa := pa }
  { s with acc := Table.set {} s.acc t a }

/-- A partition. -/
def State.part (s : State) (p : Nat) : Partition := Table.get {} s.parts p

def State.modPart (s : State) (p : Nat) (f : Partition → Partition) : State :=
  { s with parts := Table.set {} s.parts p (f (s.part p)) }

/-- The translation block records an access to an unpopulated address (R141, R156). -/
def State.logUnpopulated (s : State) (p pa : Nat) : State :=
  s.modPart p fun q => { q with trans := { q.trans with ualog := BitVec.ofNat 64 pa, uacount := satInc q.trans.uacount } }

def State.slice (s : State) (n : Nat) : Slice := Table.get {} s.slices n

def State.modSlice (s : State) (n : Nat) (f : Slice → Slice) : State :=
  { s with slices := Table.set {} s.slices n (f (s.slice n)) }

/-! ### Lines, misses and write-backs of a slice (R312 to R315) -/

/-- What a slice holds of a line. -/
def Slice.line (x : Slice) (n : Nat) : SliceLine := (x.lines.find? fun l => l.line == n).getD { line := n }

/-- Adds one to a partition's counter. -/
def Slice.bump (x : Slice) (p kind : Nat) : Slice :=
  { x with counts := Table.set 0 x.counts (8 * p + kind) (satInc (Table.get 0 x.counts (8 * p + kind))) }

/-- The ways of a slice that are enabled. -/
def Slice.ways (x : Slice) : Nat := ((List.range 16).filter fun i => x.gate.getLsbD i).length

/-- The bytes [o, o+n) of a line, and those of one of its sectors. -/
def lineMask (o n : Nat) : BitVec 64 := BitVec.ofNat 64 (((1 <<< n) - 1) <<< o)
def sectorMask (i : Nat) : BitVec 64 := 0xFFFFFFFF#64 <<< (32 * i)

/-- The sectors of a line that a test picks. -/
def sectors (f : Nat → Bool) : BitVec 2 := BitVec.ofNat 2 ((if f 0 then 1 else 0) + (if f 1 then 2 else 0))

/-- A sector of a line is held only in part. -/
def SliceLine.partly (l : SliceLine) (i : Nat) : Bool := !l.valid.getLsbD i && l.part_ &&& sectorMask i != 0

/-- A write's bytes enter the sectors of a line: a whole sector needs no fill, a part is kept under its mask (R313). -/
def SliceLine.write (l : SliceLine) (m : BitVec 64) : SliceLine :=
  let p := l.part_ ||| m
  { l with
    valid := l.valid ||| sectors fun i => p &&& sectorMask i == sectorMask i
    dirty := l.dirty ||| sectors fun i => m &&& sectorMask i != 0
    part_ := p }

/-- Sectors of a line are filled from memory, merged under the mask of what was written (R313). -/
def SliceLine.fill (l : SliceLine) (need : BitVec 2) : SliceLine := { l with valid := l.valid ||| need }

/-- The sectors that a read of bytes of a line has to fill: those that are neither held nor in the write-back buffer, and
of which it needs a byte that was not written (R313). -/
def Slice.missing (x : Slice) (line : Nat) (m : BitVec 64) : BitVec 2 :=
  let l := x.line line
  sectors fun i => m &&& sectorMask i &&& ~~~l.part_ != 0 && !l.valid.getLsbD i && !x.wb.contains (2 * line + i)

/-- The line that leaves when another needs a place and the enabled ways are full. Which line a set loses is not
architectural (R312): here it is the one used longest ago. -/
def Slice.victim (x : Slice) (line : Nat) : Option SliceLine :=
  if x.lines.any (fun l => l.line == line) || decide (x.lines.length < 2048 * x.ways) then none else x.lines.getLast?

/-- A line can have a place: the write-back buffer has room for the dirty sectors of the line that leaves (R314). -/
def Slice.room (x : Slice) (line : Nat) : Bool :=
  match x.victim line with
  | none => true
  | some v => decide (x.wb.length + ((List.range 2).filter fun i => v.dirty.getLsbD i).length ≤ 16)

/-- A line takes its place. The dirty sectors of the line that leaves go to the write-back buffer; one that is held in part
is filled and merged first, a fill for partition `p` (R313, R325). -/
def Slice.place (x : Slice) (p : Nat) (l : SliceLine) : Slice :=
  let put (x : Slice) : Slice := { x with lines := l :: x.lines.filter fun y => y.line != l.line }
  match x.victim l.line with
  | none => put x
  | some v =>
    let ds := (List.range 2).filter fun i => v.dirty.getLsbD i
    let x := ds.foldl (fun x i => if v.partly i then x.bump p 7 else x) x
    put { x with lines := x.lines.filter fun y => y.line != v.line, wb := x.wb ++ ds.map (2 * v.line + ·) }

/-- A slice takes a request now: no way wakes, none for the same line waits before it, and a write has a place, or a miss
an entry of the table or one to join (R314, R315). -/
def Slice.accepts (x : Slice) (r : SliceReq) : Bool :=
  x.waking == 0 && !(x.input.any fun y => y.line == r.line) &&
  (if r.write then x.room r.line
   else x.missing r.line r.mask == 0 || (x.miss.any fun e => e.line == r.line) || decide (x.miss.length < 64))

/-- A request at a slice: performed in the line, or as a miss; else it waits at the input (R314). -/
def Slice.take (x : Slice) (r : SliceReq) : Slice :=
  if !x.accepts r then { x with input := x.input ++ [r] }
  else if r.write then x.place r.part ((x.line r.line).write r.mask)
  else
    let need := x.missing r.line r.mask
    if need = 0 then x
    else if x.miss.any fun e => e.line == r.line then
      { x with miss := x.miss.map fun e => if e.line = r.line then { e with need := e.need ||| need } else e }
    else { x with miss := x.miss ++ [{ line := r.line, part := r.part, need := need }] }

/-- The home slice of an address holds its requests while one of its ways wakes (R315). -/
def State.sliceWakes (s : State) (pa : Nat) : Bool := (inHbm pa || inCxl pa) && (s.slice (s.homeSlice pa)).waking != 0

/-! ### Requests and their counters (R325) -/

/-- The home slice of an address changes; none has a home outside HBM and CXL. -/
def State.modHome (s : State) (pa : Nat) (f : Slice → Slice) : State :=
  if inHbm pa || inCxl pa then s.modSlice (s.homeSlice pa) f else s

/-- A partition's request reaches the home slice of `pa`: `kind` is the local kind, raised by one for a remote requester
where the kind has a remote form. -/
def State.countOnly (s : State) (p pa kind fromDie : Nat) : State :=
  s.modHome pa (·.bump p (if kind < 6 && fromDie != s.homeSlice pa / 32 then kind + 1 else kind))

/-- The home slice of `pa` takes a request for bytes of its line, whose place in the line's order is now. -/
def State.lineRequest (s : State) (p pa : Nat) (write : Bool) (mask : BitVec 64) : State :=
  s.modHome pa (·.take { part := p, line := pa / 64, write := write, mask := mask })

/-- A counted request that reads: a line (kind 0), or the 8-byte word of a slice operation, a fetch or a page-table entry. -/
def State.count (s : State) (p pa kind fromDie : Nat) : State :=
  (s.countOnly p pa kind fromDie).lineRequest p pa false (if kind = 0 then lineMask 0 64 else lineMask (pa / 8 % 8 * 8) 8)

/-- A counted write of `n` bytes of a line; a tile's goes to the provisional store (R331). -/
def State.countWrite (s : State) (p : Nat) (tag : Option Nat) (pa n fromDie : Nat) : State :=
  let s := s.countOnly p pa 2 fromDie
  if tag.isSome then s else s.lineRequest p pa true (lineMask (pa % 64) n)

/-- A counted slice operation on the `n` bytes at `pa`, which it reads and may write. -/
def State.countOp (s : State) (p pa n fromDie : Nat) : State :=
  ((s.countOnly p pa 4 fromDie).lineRequest p pa false (lineMask (pa % 64) n)).lineRequest p pa true (lineMask (pa % 64) n)

/-! ### Committed and provisional bytes -/

/-- The signed value of a 64-bit word. -/
def signed64 (n : Nat) : Int := (BitVec.ofNat 64 n).toInt

/-- A watch's condition on a word (R327). -/
def watchHolds (cond : Nat) (word value : Nat) : Bool :=
  match cond with
  | 0 => word == value
  | 1 => word != value
  | 2 => decide (signed64 value ≤ signed64 word)
  | _ => decide (signed64 word ≤ signed64 value)

/-- After a committed write to [pa, pa+n), every armed watch of a word it touches evaluates (R328), and every dependency
record (R406). -/
def State.evalWatches (s : State) (pa n : Nat) : State :=
  let near (a : Nat) : Bool := decide (a < pa + n) && decide (pa < a + 8)
  { s with
    watches := s.watches.mapVals fun _ w =>
      if !w.fired && near w.pa && watchHolds w.cond (memQword s.mem w.pa) w.value.toNat then { w with fired := true } else w
    deps := s.deps.map fun d =>
      if !d.met && near d.pa && (bit (memQword s.mem d.pa) 0 == d.full) then { d with met := true } else d }

/-- A committed write: the bytes, then the watches (R119, R328). An 8-byte unit that is written in full is sound again
(R447: SECDED per 64 bits). -/
def State.commitWrite (s : State) (pa : Nat) (bs : List Byte) : State :=
  State.evalWatches { s with
    mem := memWrite s.mem pa bs
    poison := s.poison.filter fun u => !(decide (pa ≤ 8 * u) && decide (8 * u + 8 ≤ pa + bs.length)) } pa bs.length

/-- Some byte of [pa, pa+n) lies in a unit that holds an uncorrectable error (R447). -/
def State.poisoned (s : State) (pa n : Nat) : Bool :=
  s.poison.any fun u => decide (8 * u < pa + n) && decide (pa < 8 * u + 8)

/-- The bytes of [pa, pa+n) as an agent of partition `p` and tile `tag` reads them at the home slice: the tile's
provisional bytes over the committed copy (R136, R331). -/
def State.viewBytes (s : State) (p : Nat) (tag : Option Nat) (pa n : Nat) : List Byte :=
  match tag with
  | none => memRead s.mem pa n
  | some t =>
    (List.range n).map fun i =>
      let a := pa + i
      match (s.slice (s.homeSlice a)).prov.find? (fun e => e.part == p && e.tag == t && e.sector == a / 32) with
      | some e => if e.mask.getLsbD (a % 32) then e.data.getD (a % 32) 0 else Table.get 0 s.mem a
      | none => Table.get 0 s.mem a

/-- The mask of `n` sector bytes from `o` on. -/
def byteMask (o n : Nat) : BitVec 32 := BitVec.ofNat 32 (((1 <<< n) - 1) <<< o)

/-- Puts an element before the first one that does not precede it. -/
def insertBy {α : Type} (le : α → α → Bool) (a : α) : List α → List α
  | [] => [a]
  | b :: bs => if le a b then a :: b :: bs else b :: insertBy le a bs

/-- A list in the order of `le`, equals in their old order. -/
def sortBy {α : Type} (le : α → α → Bool) : List α → List α
  | [] => []
  | a :: as => insertBy le a (sortBy le as)

/-- Replaces list elements from index `o` on. -/
def overlay {α : Type} (xs : List α) (o : Nat) (ys : List α) : List α :=
  xs.take o ++ ys ++ xs.drop (o + ys.length)

/-- A partition's tile of a tag, as (launch, tile number). -/
def State.tileOfTag (s : State) (p tag : Nat) : Option (Nat × Nat) :=
  s.launches.findSome? fun (l, x) =>
    if x.part == p then (x.tiles.find? fun e => e.2.live && e.2.tag == tag).map fun e => (l, e.1) else none

/-- Marks a tile failed (R416). -/
def State.markTileFailed (s : State) (l t : Nat) : State :=
  { s with launches := s.launches.modify l fun x =>
      { x with tiles := x.tiles.modify t fun y => { y with failed := true } } }

/-- One provisional write within a sector (R331): merged into its entry, or a free entry, or refused, which drops the
tag's further provisional writes and fails the tile. -/
def State.provSector (s : State) (p tag pa : Nat) (bs : List Byte) : State :=
  let n := s.homeSlice pa
  let sl := s.slice n
  let sec := pa / 32
  let o := pa % 32
  if sl.overfull.contains (p, tag) then s
  else if sl.prov.any fun e => e.part == p && e.tag == tag && e.sector == sec then
    s.modSlice n fun x => { x with prov := x.prov.map fun e =>
      if e.part == p && e.tag == tag && e.sector == sec
      then { e with data := overlay e.data o bs, mask := e.mask ||| byteMask o bs.length } else e }
  else if (sl.prov.filter fun e => e.part == p).length < 1024 then
    s.modSlice n fun x => { x with prov := x.prov ++
      [{ part := p, tag := tag, sector := sec, data := overlay (List.replicate 32 0) o bs, mask := byteMask o bs.length }] }
  else
    let s := (List.range 128).foldl (fun s k => s.modSlice k fun x => { x with overfull := x.overfull ++ [(p, tag)] }) s
    match s.tileOfTag p tag with
    | some (l, t) => s.markTileFailed l t
    | none => s

/-- A provisional write, sector by sector; `n` bounds the sectors. -/
def State.provWrite (s : State) (p tag pa : Nat) (bs : List Byte) : Nat → State
  | 0 => s
  | n + 1 =>
    if bs.isEmpty then s
    else
      let k := 32 - pa % 32
      State.provWrite (s.provSector p tag pa (bs.take k)) p tag (pa + k) (bs.drop k) n

/-- The register writes that a write of the MMIO range makes, a qword or less each. -/
def mmioPieces (master pa : Nat) (bs : List Byte) : List Agendum :=
  (List.range (bs.length / 8 + 2)).filterMap fun i =>
    let lo := max pa ((pa / 8 + i) * 8)
    let hi := min (pa + bs.length) ((pa / 8 + i + 1) * 8)
    if hi ≤ lo then none
    else some { what := .registerWrite, args := { a := master, b := lo, c := hi - lo, value := BitVec.ofNat 64 (leNat ((bs.drop (lo - pa)).take (hi - lo))) } }

/-- A write that an agent of partition `p` makes as `master`: provisional for a surrogate, a register write for MMIO
(which the next steps perform, in order), else committed. -/
def State.agentWrite (s : State) (p master : Nat) (tag : Option Nat) (pa : Nat) (bs : List Byte) : State :=
  if inMmio pa then
    let mine (x : Agendum) : Bool := x.what == .registerWrite
    { s with agenda := s.agenda.takeWhile mine ++ mmioPieces master pa bs ++ s.agenda.dropWhile mine }
  else match tag with
    | some t => s.provWrite p t pa bs (bs.length / 32 + 2)
    | none => s.commitWrite pa bs

end Sys2Proof.Machine
end

