-- ==== Sys2Proof/Machine/Translate.lean ====
section
/-! DEFINITION. Translation, tickets, the L1 caches and the checks that every access passes in order
(spec/06_translation.md, R142 to R156; R120, R221, R228 to R230). -/

namespace Sys2Proof.Machine

open Sys2Proof

/-- The n-th free choice, and the state that has used it. -/
def State.choose (s : State) : Bool × State :=
  (Config.freeBit s.free, { s with free := s.free + 1 })

/-- A virtual address is canonical (R142). -/
def canonical (va : Nat) : Bool := bits va 63 57 == (if bit va 56 then 127 else 0)

/-- A page table walk's answer. -/
inductive Walk where
  /-- A legal leaf at an address and level. -/
  | leaf (pte level entry : Nat)
  /-- Fault 0x10 with this detail, at this level. -/
  | stop (detail level : Nat)
  /-- The walker's own read is refused: fault 0x11 with this detail (R160, R141). -/
  | refused (detail pa : Nat)
  /-- The entry holds an uncorrectable error: 0x60 (R447). -/
  | bad
  deriving DecidableEq, Repr

/-- The bytes that a leaf of size SZ maps (R144). -/
def pageBytes (sz : Nat) : Nat :=
  match sz with
  | 0 => 0x1000 | 1 => 0x10000 | 2 => 0x200000 | _ => 0x40000000

/-- A leaf entry at a level is well formed: place of its size, reserved fields, PFN alignment, agreement with PLMAP and
the CXL and MMIO rules (R144, R145, R149). -/
def State.leafOk (s : State) (level e : Nat) : Bool :=
  let sz := bits e 6 5
  let pa := bits e 47 12 * 4096
  let place := bits e 61 60
  let die := bits e 59 58
  ((level == 0 && sz ≤ 1) || (level == 1 && sz == 2) || (level == 2 && sz == 3)) &&
  bits e 63 62 == 0 && bits e 57 48 == 0 && bits e 11 9 == 0 && pa % pageBytes sz == 0 &&
  (place == 1 || die == 0) &&
  (if inCxl pa then place == 3
   else if inMmio pa then place == 0
   else place != 3 && (if inHbm pa then
     let (p, d) := s.chunkPlace (pa / 2 ^ 30)
     place == p && (place != 1 || die == d) else true))

/-- A non-leaf entry is well formed (R144). -/
def tableOk (e : Nat) : Bool :=
  bits e 63 48 == 0 && bits e 11 5 == 0 && bits e 3 1 == 0

/-- The walk from the table of level n − 1 down (R143 to R147, R151): reads as master class 5. An entry's address in the
MMIO range is refused as one that no memory answers (notes/assumptions/116.md). -/
def State.walkFrom (s : State) (p va table : Nat) : Nat → Walk
  | 0 => .stop 2 0
  | level + 1 =>
    let at_ := table + 8 * bits va (9 * level + 20) (9 * level + 12)
    if !s.populated at_ || inMmio at_ then .refused 1 at_
    else if (s.refuser (8 * p + 5) at_ 8 .read).isSome then .refused 0 at_
    else if s.poisoned at_ 8 then .bad
    else
      let e := memQword s.mem at_
      if !bit e 0 then .stop 0 level
      else if bit e 4 then (if s.leafOk level e then .leaf at_ level e else .stop 2 level)
      else if level = 0 || !tableOk e then .stop 2 level
      else State.walkFrom s p va (bits e 47 12 * 4096) level

/-- The walk of a partition's address (R143, R156). -/
def State.walk (s : State) (p va : Nat) : Walk :=
  let t := (s.part p).trans
  if t.en then s.walkFrom p va (t.ptroot * 4096) 5 else .stop 0 4

/-- The entries that the walk from a table of level n − 1 down reads. -/
def State.walkTrail (s : State) (p va table : Nat) : Nat → List Nat
  | 0 => []
  | level + 1 =>
    let at_ := table + 8 * bits va (9 * level + 20) (9 * level + 12)
    if !s.populated at_ || inMmio at_ || (s.refuser (8 * p + 5) at_ 8 .read).isSome then []
    else
      let e := memQword s.mem at_
      at_ :: (if bit e 0 && !bit e 4 && level != 0 && tableOk e then State.walkTrail s p va (bits e 47 12 * 4096) level else [])

/-- The walker's reads are counted (R325). -/
def State.countWalk (s : State) (p va : Nat) : State :=
  let t := (s.part p).trans
  if t.en then (s.walkTrail p va (t.ptroot * 4096) 5).foldl (fun s a => s.count p a 6 0) s else s

/-- The translation that a leaf gives. -/
def tlbOf (p va pte level e : Nat) : Tlb :=
  let n := pageBytes (bits e 6 5)
  { part := p, size := bits e 6 5, vbase := va / n * n, pbase := bits e 47 12 * 4096, place := bits e 61 60,
    die := bits e 59 58,
    rights := (if bit e 1 then 1 else 0) ||| (if bit e 2 then 2 else 0) ||| (if bit e 3 then 4 else 0),
    dirty := bit e 8, pte := pte, level := level }

/-- What translating an address gives. -/
inductive Xlat where
  /-- The physical address. -/
  | pa (pa : Nat)
  /-- Fault 0x10 that a pager may resolve (R153), as its status. -/
  | fault (status : Word)
  /-- The walk was refused: 0x11 with its detail, precise (R160). -/
  | refused (status : Word)
  deriving DecidableEq, Repr

/-- The status of a translation fault (R154). -/
def xlatStatus (detail : Nat) (k : AccessKind) (level : Nat) : Word :=
  BitVec.ofNat 32 (0x10 + detail * 256 + kindCode k * 2 ^ 16 + level * 2 ^ 18)

/-- A status word of a code and its detail in [31:8] (R20). -/
def statusOf (code detail : Nat) : Word := BitVec.ofNat 32 (code + detail * 256)

/-- The cached translations of a cluster that serve an address, smallest page first (R150). -/
def State.tlbHits (s : State) (cluster p va : Nat) : List Tlb :=
  sortBy (fun x y => decide (x.size ≤ y.size)) ((Table.get [] s.tlb cluster).filter fun t =>
    t.part == p && decide (t.vbase ≤ va) && decide (va < t.vbase + pageBytes t.size))

/-- The set of the TLB in which a translation stands (R150): nine bits of the address above the page. -/
def Tlb.set (t : Tlb) : Nat := t.vbase / pageBytes t.size % 512

/-- Puts a translation into a cluster's TLB in place of what it held for the same page; a set that has its 8 entries loses
one, and which is a free choice (R150). -/
def State.tlbPut (s : State) (cluster : Nat) (t : Tlb) : State :=
  let rest := (Table.get [] s.tlb cluster).filter fun x =>
    !(x.part == t.part && x.vbase == t.vbase && x.size == t.size)
  let mates := rest.filter fun x => x.set == t.set
  if mates.length < 8 then { s with tlb := Table.set [] s.tlb cluster (t :: rest) }
  else { s with
    tlb := Table.set [] s.tlb cluster (t :: rest.filter fun x => x.set != t.set || some x != mates[Config.freeNat s.free % 8]?)
    free := s.free + 1 }

/-- ORs bits into a page-table entry at its home slice (R146). -/
def State.pteOr (s : State) (p pte m : Nat) : State :=
  let e := memQword s.mem pte
  let e' := Nat.lor e m
  if e' = e then s
  else ((s.commitWrite pte (bytesOf 8 e')).count p pte 6 0).lineRequest p pte true (lineMask (pte % 64) 8)

/-- Translates with the leaf of a walk: rights, A and D, and the TLB (R146, R147). Setting a bit is a read-modify-write of
the entry by the walker, checked as one. -/
def State.useLeaf (s : State) (cluster p va : Nat) (k : AccessKind) (w : Walk) : State × Xlat :=
  let s := s.countWalk p va
  match w with
  | .stop d level => (s, .fault (xlatStatus d k level))
  | .bad => (s, .refused 0x60#32)
  | .refused d pa =>
    (match s.refuser (8 * p + 5) pa 8 .read with
      | some t => if d = 0 then s.logRefusal t (8 * p + 5) pa .read else s.logUnpopulated p pa
      | none => s.logUnpopulated p pa, .refused (statusOf 0x11 d))
  | .leaf pte level e =>
    let t := tlbOf p va pte level e
    if t.rights &&& kindRights k != kindRights k then (s, .fault (xlatStatus 1 k level))
    else
      let writes := (kindRights k).getLsbD 1
      let m := if writes then 0x180 else 0x80
      match (if Nat.lor e m = e then none else s.refuser (8 * p + 5) pte 8 .rmw) with
      | some q => (s.logRefusal q (8 * p + 5) pte .rmw, .refused (statusOf 0x11 0))
      | none => ((s.pteOr p pte m).tlbPut cluster { t with dirty := t.dirty || writes }, .pa (t.pbase + (va - t.vbase)))

/-- Translates an address for an access of partition `p` made through a cluster's TLB. Which entries are resident is
not architectural (R150), so where a cached translation differs from what a walk now gives, either serves; while
translation is not enabled none does (R156). -/
def State.translate (s : State) (cluster p va : Nat) (k : AccessKind) : State × Xlat :=
  let w := s.walk p va
  match (if (s.part p).trans.en then s.tlbHits cluster p va else []) with
  | [] => s.useLeaf cluster p va k w
  | t :: _ =>
    let now := match w with
      | .leaf pte level e => some { tlbOf p va pte level e with dirty := t.dirty }
      | _ => none
    let old : State × Xlat :=
      if t.rights &&& kindRights k != kindRights k then (s, .fault (xlatStatus 1 k t.level))
      else (s, .pa (t.pbase + (va - t.vbase)))
    if now = some t then
      if (kindRights k).getLsbD 1 && !t.dirty then s.useLeaf cluster p va k w else old
    else
      let (keep, s) := s.choose
      if keep && !((kindRights k).getLsbD 1 && !t.dirty) then (s, old.2)
      else s.useLeaf cluster p va k w

/-! ### Regions and tickets (R153 to R155) -/

/-- Entry `i` of a partition's region table, as its eight qwords. -/
def State.regionWord (s : State) (p i q : Nat) : Nat :=
  memQword s.mem ((s.part p).trans.rtbase * 4096 + 64 * i + 8 * q)

/-- The lowest valid region that holds an address (R155). -/
def State.regionOf (s : State) (p va : Nat) : Option Nat :=
  (List.range (s.part p).trans.rtcount).find? fun i =>
    bit (s.regionWord p i 4) 35 && decide (s.regionWord p i 0 ≤ va) && decide (va < s.regionWord p i 1)

/-- A ticket of kind `k0` also covers a fault of kind `k`: the spec says that a write is stronger than a read (R153), and
that a read-modify-write is stronger than both and a fetch beside them is the model's choice
(notes/assumptions/117.md). -/
def kindCovers (k0 k : AccessKind) : Bool :=
  match k0, k with
  | .read, .read => true
  | .write, .read => true
  | .write, .write => true
  | .rmw, .read => true
  | .rmw, .write => true
  | .rmw, .rmw => true
  | .fetch, .fetch => true
  | _, _ => false

/-- Who a page fault is reported for (R155). -/
structure Asker where
  cluster : Nat
  core : Nat
  weave : Nat := 0
  source : Nat := 0
  deriving DecidableEq, Repr

/-- A translation fault: joins an outstanding ticket, or opens a new one in its region, or has no region and becomes
the precise status with detail 0x04. A new ticket's MASK stands once the lanes park (`State.parkLanes`). -/
def State.pageFault (s : State) (p va : Nat) (k : AccessKind) (status : Word) (who : Asker) : State × (Word ⊕ Nat) :=
  match s.regionOf p va with
  | none => (s, .inl ((status &&& 0xFFFF00FF#32) ||| 0x400#32))
  | some r =>
    match s.tickets.find? fun (_, t) =>
      t.part == p && t.cluster == who.cluster && t.vpage == va / 4096 && kindCovers t.kind k with
    | some (n, _) => (s, .inr n)
    | none =>
      let n := s.nextTicket
      ({ s with
          tickets := s.tickets.insert n
            { part := p, cluster := who.cluster, vpage := va / 4096, kind := k, status := status,
              va := BitVec.ofNat 64 va, core := who.core, weave := who.weave, source := who.source,
              region := r }
          nextTicket := n + 1 }, .inr n)

/-! ### The checks of an access, in order (R221) -/

/-- How an access stands after its checks. -/
inductive Check where
  | pass (pa : Nat)
  /-- A precise fault with this status. -/
  | fault (status : Word)
  /-- A translation fault that waits on a ticket. -/
  | park (ticket : Nat)
  deriving DecidableEq, Repr

/-- The checks that follow translation: target, population, access table and, for what reads, the data (R221 steps 5 to 8). -/
def State.checkPhysical (s : State) (p master pa n : Nat) (k : AccessKind) (homeOnly : Bool) : State × Check :=
  if homeOnly && !(inHbm pa || inCxl pa) then (s, .fault (statusOf 0x11 2))
  else if !s.populated pa then (s.logUnpopulated p pa, .fault (statusOf 0x11 1))
  else match s.refuser master pa n k with
    | some t => (s.logRefusal t master pa k, .fault (statusOf 0x11 0))
    | none => if k != .write && s.poisoned pa n then (s, .fault 0x60#32) else (s, .pass pa)

/-- The checks of an access to [va, va+n): alignment to `align`, canonical form, translation and the physical checks.
A fault that a pager may resolve opens or joins a ticket unless `quiet`, which reports it as precise. The LEVEL of a
non-canonical address, for which no walk is made, is 0 (notes/assumptions/118.md). -/
def State.check (s : State) (p master : Nat) (who : Asker) (va n align : Nat) (k : AccessKind) (homeOnly quiet : Bool) :
    State × Check :=
  if va % align ≠ 0 then (s, .fault (statusOf 0x12 0))
  else if !canonical va then (s, .fault (xlatStatus 3 k 0))
  else
    match s.translate who.cluster p va k with
    | (s, .refused st) => (s, .fault st)
    | (s, .fault st) =>
      if quiet then (s, .fault st)
      else match s.pageFault p va k st who with
        | (s, .inl st) => (s, .fault st)
        | (s, .inr t) => (s, .park t)
    | (s, .pa pa) => s.checkPhysical p master pa n k homeOnly

/-! ### The L1 data cache (R120, R152) -/

def State.core (s : State) (c : Nat) : Core := Table.get {} s.cores c

def State.modCore (s : State) (c : Nat) (f : Core → Core) : State :=
  { s with cores := Table.set {} s.cores c (f (s.core c)) }

/-- Drops the L1 data lines of a core that a test picks. -/
def State.l1Drop (s : State) (c : Nat) (f : L1Line → Bool) : State :=
  s.modCore c fun x => { x with l1 := x.l1.filter fun l => !f l }

/-- What a core's L1 holds of [pa, pa+n) becomes what the home slice now gives the line's tile, in the lines of tile `tag`,
or in all of them where the tag is none (R120, R136): the core has written or read these bytes there. -/
def State.l1Fresh (s : State) (c p : Nat) (tag : Option Nat) (pa n : Nat) : State :=
  s.modCore c fun x => { x with l1 := x.l1.map fun l =>
    if l.pline == pa / 64 && (tag == none || (l.part == p && l.tag == tag))
    then { l with bytes := overlay l.bytes (pa % 64) (s.viewBytes l.part l.tag pa n) } else l }

/-- A plain load of [va, va+n) at `pa` within one line: from the held line or the home slice. Where the held bytes
differ from the slice's, either may serve (R120: which lines stay resident is not architectural); a line that is read
from the slice is filled, and any other line of the same physical line leaves (R152). `kind` is the request's counter
(R325). -/
def State.l1Load (s : State) (c p kind : Nat) (tag : Option Nat) (va pa n : Nat) : State × List Byte :=
  let line := pa / 64 * 64
  let cur := s.viewBytes p tag line 64
  let fill (s : State) : State × List Byte :=
    let s := s.modCore c fun x => { x with l1 :=
      { part := p, vline := va / 64, pline := pa / 64, tag := tag, bytes := cur } ::
        (x.l1.filter fun l => !(l.pline == pa / 64 || (l.part == p && l.vline == va / 64))) }
    (s.count p pa kind (c / 256), (cur.drop (pa % 64)).take n)
  match (s.core c).l1.find? fun l => l.part == p && l.vline == va / 64 && l.tag == tag with
  | none => fill s
  | some l =>
    if l.bytes = cur then (s, (cur.drop (pa % 64)).take n)
    else
      let (keep, s) := s.choose
      if keep then (s, (l.bytes.drop (pa % 64)).take n) else fill s

/-- Removes from every cluster's TLB the translations of a partition that a test picks, and from every L1 the lines held
under a virtual tag in [va, va+n) (R157). -/
def State.tlbDrop (s : State) (p va n : Nat) (f : Tlb → Bool) : State :=
  { s with
    tlb := (s.tlb.mapVals fun _ ts => ts.filter fun t => !(t.part == p && f t)).filter fun e => !e.2.isEmpty
    cores := s.cores.mapVals fun _ c =>
      { c with
        l1 := c.l1.filter fun l => !(l.part == p && decide (va < 64 * (l.vline + 1)) && decide (64 * l.vline < va + n))
        icache := c.icache.filter fun l => !(l.part == p && decide (va < l.va + 8) && decide (l.va < va + n)) } }

/-- A translation whose page meets [va, va+n). -/
def Tlb.meets (t : Tlb) (va n : Nat) : Bool := decide (t.vbase < va + n) && decide (va < t.vbase + pageBytes t.size)

/-! ### Instruction fetch (R61, R230) -/

/-- What fetching a word gives. -/
inductive Fetch where
  | word (w : Dbl)
  | fault (status : Word)
  | park (ticket : Nat)
  /-- The request waits while a way of its slice wakes (R315). -/
  | later
  deriving DecidableEq, Repr

/-- Puts a word into a core's instruction cache; a line of the same physical line under another virtual tag leaves first
(R152). -/
def Core.fillWord (x : Core) (w : ILine) : Core :=
  { x with icache := w :: x.icache.filter fun l =>
      !(l.part == w.part && l.va == w.va) && !(l.pline == w.pline && (l.part != w.part || l.va / 64 != w.va / 64)) }

/-- Fetches the 8-byte word at `va` for a core: each word may be the held one or the new one (R230). -/
def State.fetchWord (s : State) (c p va : Nat) (who : Asker) (quiet : Bool) : State × Fetch :=
  match s.check p (8 * p) who va 8 1 .fetch false quiet with
  | (s, .fault st) => (s, .fault st)
  | (s, .park t) => (s, .park t)
  | (s, .pass pa) =>
    let cur : Dbl := BitVec.ofNat 64 (memQword s.mem pa)
    let fill (s : State) : State :=
      (s.count p pa 6 (c / 256)).modCore c fun x => x.fillWord { part := p, va := va, pline := pa / 64, word := cur }
    match (s.core c).icache.find? fun l => l.part == p && l.va == va with
    | none => if s.sliceWakes pa then (s, .later) else (fill s, .word cur)
    | some l =>
      if l.word = cur then (s, .word cur)
      else
        let (keep, s) := s.choose
        if keep || s.sliceWakes pa then (s, .word l.word) else (fill s, .word cur)

end Sys2Proof.Machine
end

