-- ==== Sys2Proof/Machine/Operands.lean ====
section
/-! DEFINITION. Operands: their classes, reading and writing them, the source modifier and the latches
(spec/03_encoding.md, R65, R73 to R82). -/

namespace Sys2Proof.Machine

open Sys2Proof

/-- The lanes of a mask, lowest first. -/
def lanesOf (m : BitVec 32) : List Nat := (List.range 32).filter fun l => m.getLsbD l

/-- The mask of the lanes that a test picks. -/
def maskOf (f : Nat → Bool) : BitVec 32 := BitVec.ofFnLE fun (i : Fin 32) => f i.val

/-- A mask with one bit written. -/
def setBit {n : Nat} (m : BitVec n) (i : Nat) (b : Bool) : BitVec n :=
  let one : BitVec n := BitVec.ofNat n (2 ^ i)
  if b then m ||| one else m &&& ~~~one

/-- The sign extension of a word to a 64-bit value. -/
def sx64 (w : Word) : Dbl := w.signExtend 64

/-- A pair of words as a 64-bit value, low word first. -/
def pair (lo hi : Word) : Dbl := hi ++ lo

def loWord (d : Dbl) : Word := d.extractLsb' 0 32
def hiWord (d : Dbl) : Word := d.extractLsb' 32 32

/-! ### Classes (R73, R76) -/

def isV : Operand → Bool
  | .v _ => true
  | _ => false
def isS : Operand → Bool
  | .s _ => true
  | _ => false
def isP : Operand → Bool
  | .p _ => true
  | _ => false
def isH : Operand → Bool
  | .h _ => true
  | _ => false
def isC : Operand → Bool
  | .c _ => true
  | _ => false
def isInt : Operand → Bool
  | .int _ => true
  | _ => false
def isConst : Operand → Bool
  | .int _ => true
  | .fp _ => true
  | _ => false
def isSpecial : Operand → Bool
  | .special _ => true
  | _ => false
def isZero : Operand → Bool
  | .special .zero => true
  | _ => false

/-- The field of an operand that an instruction does not read holds code 0 (R67). -/
def isUnused : Operand → Bool
  | .v i => i.val == 0
  | _ => false

/-- The per-lane operands (R76). -/
def perLane : Operand → Bool
  | .v _ => true
  | .p _ => true
  | .special k =>
    match k with
    | .laneId | .quadId | .sdlo | .sdhi | .mr | .faultPcLo | .faultPcHi => true
    | _ => false
  | _ => false

/-- A source accepts v, s, p, h, the specials and the constants (R76). -/
def isSource : Operand → Bool
  | .c _ => false
  | _ => true

/-- A destination accepts v, s, p1 to p15, zero and the writable specials (R73, R74, R76). -/
def isDest : Operand → Bool
  | .v _ => true
  | .s _ => true
  | .p i => i.val != 0
  | .special k =>
    match k with
    | .zero | .sdlo | .sdhi | .mr | .faultPcLo | .faultPcHi | .fpsw => true
    | _ => false
  | _ => false

/-- The register number of a v or s operand. -/
def regNum : Operand → Nat
  | .v i => i.val
  | .s i => i.val
  | _ => 0

/-- A v or s operand with an even number, and v or s at all. -/
def isVS (o : Operand) : Bool := isV o || isS o
def isPair (o : Operand) : Bool := isVS o && regNum o % 2 == 0
def isPairS (o : Operand) : Bool := isS o && regNum o % 2 == 0

/-- The operand `k` registers after a v or s operand; past the last register of its class it is the last. -/
def nextReg (o : Operand) (k : Nat) : Operand :=
  match o with
  | .v i => .v (Fin.ofNat 320 (min (i.val + k) 319))
  | .s i => .s (Fin.ofNat 64 (min (i.val + k) 63))
  | o => o

/-- A group of `n` registers from a v or s operand lies within the demand (R77). -/
def inDemand (g : Gang) (o : Operand) (n : Nat) : Bool :=
  match o with
  | .v i => decide (i.val + n ≤ g.vreg)
  | .s i => decide (i.val + n ≤ g.sreg)
  | .p i => decide (i.val < g.preg)
  | .h i => decide (i.val < g.hreg)
  | _ => true

/-! ### Constants (R75) -/

/-- The FP32 constant table. -/
def fpTable : List Word :=
  [0x00000000, 0x3F000000, 0x3F800000, 0x40000000, 0x40800000, 0xBF800000, 0x3F317218, 0x3FB8AA3B] ++
  [0x40490FDB, 0x3FC90FDB, 0x40C90FDB, 0x3EA2F983, 0x3E800000, 0x41000000, 0x41800000, 0xBF000000] ++
  [0xC0000000, 0x40400000, 0x41200000, 0x3DCCCCCD, 0x3FB504F3, 0x3F3504F3, 0x402DF854, 0x40135D8E] ++
  [0x40549A78, 0x7F800000, 0xFF800000, 0x7FC00000, 0x7F7FFFFF, 0x00800000, 0x3C000000, 0x80000000]

/-! ### Reading -/

/-- What a word reads its operands from: the weave and its gang as the word issues, the lanes that execute it, and the
counter of free values. -/
structure Env where
  w : Weave
  g : Gang
  dims : Nat × Nat × Nat := (1, 1, 1)
  clk : Dbl := 0
  step : Dbl := 0
  act : BitVec 32 := 0
  free : Nat := 0
  deriving DecidableEq, Repr

def Weave.lane (w : Weave) (l : Nat) : Lane := Table.get {} w.lanes l

def Weave.modLane (w : Weave) (l : Nat) (f : Lane → Lane) : Weave :=
  { w with lanes := Table.set {} w.lanes l (f (w.lane l)) }

/-- Changes the lanes of a mask. -/
def Weave.modLanes (w : Weave) (m : BitVec 32) (f : Lane → Lane) : Weave :=
  (lanesOf m).foldl (fun w l => w.modLane l f) w

/-- A register as the register file holds it. -/
def Weave.vget (w : Weave) (i l : Nat) : Word := Table.get 0 w.vregs (32 * i + l)
def Weave.sget (w : Weave) (i : Nat) : Word := Table.get 0 w.sregs i

/-- The value of an outstanding long-latency write to a register element (R65); one that its slice has not performed yet
has none. -/
def Weave.pendingWrite (w : Weave) (o : Operand) (l : Nat) : Option Word :=
  w.ll.findSome? fun p => if p.ready then (p.writes.find? fun x => x.dst == o && x.lane == l).map (·.val) else none

/-- An element with a long-latency write outstanding reads as the old or the new value (R65). -/
def choiceOf (free : Nat) (old : Word) (new_ : Option Word) : Word :=
  match new_ with
  | none => old
  | some v => if Config.freeBit free then v else old

/-- A vector register of a lane as it stands: latched (R79, R81) or in its bank, with any write outstanding. -/
def Env.readV (e : Env) (slot i l : Nat) (reg : Fin 320) : Word :=
  let bank := e.w.vget i l
  let cur := match e.w.hold.find? fun h => h.reg == i with
    | none => bank
    | some h => if h.vals.getD l bank = bank then bank else choiceOf (e.free + 256 + 32 * slot + l) bank (some (h.vals.getD l bank))
  choiceOf (e.free + 32 * slot + l) cur (e.w.pendingWrite (.v reg) l)

/-- The status word of a handle that has resolved (R19, R73). -/
def handleWord (ops : Table AsyncOp) (w : Weave) (i : Nat) : Word :=
  match Table.get none w.handles i with
  | some r => match (Table.get {} ops r).state with
    | .resolved st => st
    | _ => 0
  | none => match w.hsaved.find i with
    | some v => if v.extractLsb' 0 2 = 2 then v.extractLsb' 8 32 else 0
    | none => 0

/-- A special operand as a lane reads it (R74). -/
def Env.readSpecial (e : Env) (l : Nat) (k : Special) : Word :=
  let ln := e.w.lane l
  match k with
  | .zero => 0
  | .laneId => BitVec.ofNat 32 l
  | .quadId => BitVec.ofNat 32 (l / 4)
  | .weaveId => BitVec.ofNat 32 e.w.num
  | .gangX => BitVec.ofNat 32 (e.g.g % e.dims.1)
  | .gangY => BitVec.ofNat 32 (e.g.g / e.dims.1 % e.dims.2.1)
  | .gangZ => BitVec.ofNat 32 (e.g.g / e.dims.1 / e.dims.2.1)
  | .cohortRank => BitVec.ofNat 32 e.g.rank
  | .clkLo => loWord e.clk
  | .clkHi => e.w.clkHi.getD (hiWord e.clk)
  | .stepLo => loWord e.step
  | .stepHi => e.w.stepHi.getD (hiWord e.step)
  | .sdlo => ln.gen &&& 0xFFFF#32
  | .sdhi => ln.gen >>> 16
  | .mr => ln.mr
  | .faultCode => e.w.fcode
  | .faultMask => e.w.fmask
  | .faultAddrLo => loWord e.w.faddr
  | .faultAddrHi => hiWord e.w.faddr
  | .faultPcLo => loWord ln.faultPc
  | .faultPcHi => hiWord ln.faultPc
  | .fpsw => e.w.fpsw
  | .actmask => e.act
  | .gangId => BitVec.ofNat 32 e.g.g

/-- What a writable special keeps of a value (R74). -/
def specialForm (k : Special) (v : Word) : Word :=
  match k with
  | .sdlo | .sdhi => v &&& 0xFFFF#32
  | .mr => if v = 0xFFFFFFFF#32 then v else v &&& 0xFFFFFFF8#32
  | .fpsw => v &&& 0x1F#32
  | _ => v

/-- An operand as lane `l` reads it (R73 to R75); `slot` numbers the source within the word. -/
def Env.rd (e : Env) (ops : Table AsyncOp) (slot : Nat) (o : Operand) (l : Nat) : Word :=
  match o with
  | .v i => e.readV slot i.val l i
  | .s i => choiceOf (e.free + 32 * slot) (e.w.sget i.val) (e.w.pendingWrite (.s i) 0)
  | .p i => choiceOf (e.free + 32 * slot + l) (if (e.w.lane l).preds.getLsbD i.val then 1 else 0) (e.w.pendingWrite (.p i) l) &&& 1
  | .h i => handleWord ops e.w i.val
  | .c _ => 0
  | .special k => choiceOf (e.free + 32 * slot + l) (e.readSpecial l k)
      ((e.w.pendingWrite (.special k) (if perLane o then l else 0)).map (specialForm k))
  | .int i => BitVec.ofNat 32 i.val
  | .fp i => fpTable.getD i.val 0

/-- A register of the descriptor of an FX word as the word reads it, at issue (R65, R71, R244). -/
def Env.dreg (e : Env) (w : FX) (j : Nat) : Word :=
  choiceOf (e.free + 960 + j) (e.w.sget (w.dbase.toNat + j)) (e.w.pendingWrite (.s (Fin.ofNat 64 (w.dbase.toNat + j))) 0)

/-! ### The source modifier (R78) -/

/-- The modifier field is legal on a vector SRCB. -/
def modbOk (m : BitVec 12) : Bool :=
  let cls := (m.extractLsb' 10 2).toNat
  let seg := (m.extractLsb' 7 3).toNat
  let dist := (m.extractLsb' 2 5).toNat
  if cls == 0 then m.extractLsb' 0 10 == 0
  else decide (seg ≤ 5) && m.extractLsb' 0 2 == 0 && (cls != 2 || decide (dist < seg)) && (cls != 3 || decide (dist < 2 ^ seg))

/-- The lane that lane `l` reads SRCB from. -/
def modbLane (m : BitVec 12) (l : Nat) : Nat :=
  let n := 2 ^ (m.extractLsb' 7 3).toNat
  let dist := (m.extractLsb' 2 5).toNat
  let base := l - l % n
  match (m.extractLsb' 10 2).toNat with
  | 0 => l
  | 1 => base + (l % n + dist) % n
  | 2 => Nat.xor l (2 ^ dist)
  | _ => base + dist

/-! ### Latches (R79 to R81) -/

/-- A write to a vector register invalidates its hold entry, and the reuse latch if that holds it. -/
def Weave.dropLatch (w : Weave) (i : Nat) : Weave :=
  { w with
    hold := w.hold.filter fun h => h.reg != i
    reuse := match w.reuse with
      | some (f, ws) => if f ≤ i ∧ i < f + (ws.length + 31) / 32 then none else some (f, ws)
      | none => none }

/-- Invalidates every latch of the weave. -/
def Weave.dropLatches (w : Weave) : Weave := { w with hold := [], reuse := none }

/-- A word that reads a latched register uses up one use of its entry, however often it reads it
(notes/assumptions/119.md); an entry without uses is freed. -/
def Weave.useLatches (w : Weave) (regs : List Nat) : Weave :=
  { w with hold := (w.hold.map fun h => if regs.contains h.reg then { h with uses := h.uses - 1 } else h).filter fun h => h.uses != 0 }

/-- Latches a register with the values read; a fourth entry replaces the one with the fewest uses, the oldest of
equals. A register that is held again becomes the newest entry (notes/assumptions/119.md). -/
def Weave.latch (w : Weave) (i : Nat) (vals : List Word) : Weave :=
  let rest := w.hold.filter fun h => h.reg != i
  let rest := if rest.length < 3 then rest
    else
      let least := rest.foldl (fun m h => min m h.uses) 2
      match rest.find? fun h => h.uses == least with
      | some v => rest.filter fun h => h.reg != v.reg
      | none => rest
  { w with hold := rest ++ [{ reg := i, uses := 2, vals := vals }] }

/-! ### Writing -/

/-- A word that writes a vector register leaves no latch entry for it, whatever its predicate (R81). -/
def Weave.dropDst (w : Weave) (o : Operand) : Weave :=
  match o with
  | .v i => w.dropLatch i.val
  | _ => w

/-- Cancels the writes to an element of the outstanding results that a test picks. -/
def Weave.cancelWrites (w : Weave) (f : LLPend → Bool) (o : Operand) (l : Nat) : Weave :=
  if w.ll.isEmpty then w
  else
    let drop (p : LLPend) : LLPend :=
      if f p then { p with writes := p.writes.filter fun x => !(x.dst == o && x.lane == l) } else p
    { w with ll := w.ll.map drop }

/-- A write of fixed latency cancels every outstanding long-latency write to the same element: their write-backs are
suppressed (R65). -/
def Weave.cancelPending (w : Weave) (o : Operand) (l : Nat) : Weave := w.cancelWrites (fun _ => true) o l

/-- Writes an operand for lane `l` (R73, R74); an operand that is not writable changes nothing. -/
def Weave.put (w : Weave) (o : Operand) (l : Nat) (v : Word) : Weave :=
  match o with
  | .v i => { w with vregs := Table.set 0 w.vregs (32 * i.val + l) v }
  | .s i => { w with sregs := Table.set 0 w.sregs i.val v }
  | .p i => if i.val = 0 then w else w.modLane l fun x => { x with preds := setBit x.preds i.val (v.getLsbD 0) }
  | .special .sdlo => w.modLane l fun x => { x with gen := (x.gen &&& 0xFFFF0000#32) ||| (v &&& 0xFFFF#32) }
  | .special .sdhi => w.modLane l fun x => { x with gen := (x.gen &&& 0xFFFF#32) ||| (v <<< 16) }
  | .special .mr => w.modLane l fun x => { x with mr := specialForm .mr v }
  | .special .faultPcLo => w.modLane l fun x => { x with faultPc := pair v (hiWord x.faultPc) }
  | .special .faultPcHi => w.modLane l fun x => { x with faultPc := pair (loWord x.faultPc) v }
  | .special .fpsw => { w with fpsw := v &&& 0x1F#32 }
  | _ => w

/-- The lane number under which an operand's outstanding write is kept: 0 for one per weave. -/
def laneKey (o : Operand) (l : Nat) : Nat := if perLane o then l else 0

/-- A fixed-latency write (R65, R81). -/
def Weave.wr (w : Weave) (o : Operand) (l : Nat) (v : Word) : Weave :=
  ((w.cancelPending o (laneKey o l)).put o l v).dropDst o

/-- Writes an operand for every lane of a mask, once where it is uniform and the mask is not empty. -/
def Weave.wrMask (w : Weave) (o : Operand) (m : BitVec 32) (f : Nat → Word) : Weave :=
  if perLane o then ((lanesOf m).foldl (fun w l => w.wr o l (f l)) w).dropDst o
  else match lanesOf m with
    | [] => w
    | l :: _ => w.wr o 0 (f l)

end Sys2Proof.Machine
end

