-- ==== Sys2Proof/Machine/Flags.lean ====
section
/-! DEFINITION. Completion flags and long-latency results (spec/01_engines.md, R24 to R26; R64, R65, R162, R208). -/

namespace Sys2Proof.Machine

open Sys2Proof

/-- The count of flag `f`. -/
def Weave.flag (w : Weave) (f : Nat) : Nat := Table.get 0 w.flags f

def Weave.setFlag (w : Weave) (f n : Nat) : Weave := { w with flags := Table.set 0 w.flags f n }

/-- The flags of a 12-bit mask that are set. -/
def Weave.anyFlag (w : Weave) (m : Nat) : Bool := (List.range 12).any fun f => bit m f && w.flag f != 0

/-- The flags that a clause sets, each once (R26). -/
def ClauseRun.flags (c : ClauseRun) : List Nat :=
  match c.flagA, c.flagB with
  | some a, some b => if a = b then [a] else [a, b]
  | some a, none => [a]
  | none, some b => [b]
  | none, none => []

/-- The clause can still bind a result to flag `f` (R25). -/
def ClauseRun.bindsMore (c : ClauseRun) (f : Nat) : Bool :=
  !c.ended && ((c.flagA == some f && c.issuedLL == 0) || (c.flagB == some f && decide (c.issuedLL ≤ 1)))

/-- Some lane is still in the body of clause run `id`, or returns to it from the handler. -/
def Weave.inClause (w : Weave) (id : Nat) : Bool :=
  w.lanes.any fun (_, l) => l.status == .live && ((l.clause == id && !l.hdr) || (l.priv && l.back == id))

/-- Ends the bindings of one clause run that are over: its flags' counts fall (R25), and a run with no lane and no open
binding is forgotten. -/
def Weave.settleClause (w : Weave) (id : Nat) : Weave :=
  match w.clauses.find id with
  | none => w
  | some c =>
    let c := { c with ended := c.ended || !w.inClause id }
    let done := c.open_.filter fun f =>
      !c.bindsMore f && !w.ll.any fun p => p.clause == id && p.flag == some f
    let w := done.foldl (fun w f => w.setFlag f (w.flag f - 1)) w
    let c := { c with open_ := c.open_.filter fun f => !done.contains f }
    if c.ended && c.open_.isEmpty then { w with clauses := w.clauses.erase id }
    else { w with clauses := w.clauses.insert id c }

/-- Ends every binding that is over. -/
def Weave.settle (w : Weave) : Weave := w.clauses.keys.foldl Weave.settleClause w

/-- Issues a long-latency result in clause run `cl`: bound to SETA or SETB by its place (R25). An element with an earlier
ready result outstanding keeps its old or that result's value (R65), and the earlier write-back is suppressed; one whose
earlier result is not there yet meets it in `deliverLL`. A result that is not ready names the elements that it will
write. -/
def Weave.issueLL (w : Weave) (free cl : Nat) (writes : List LLWrite) (la : Bool) (flags : Flags) (ready : Bool) : Weave :=
  let w := writes.zipIdx.foldl (fun w (x, i) =>
    match w.pendingWrite x.dst x.lane with
    | none => w
    | some v => (if Config.freeBit (free + i) then w.put x.dst x.lane v else w).cancelWrites (·.ready) x.dst x.lane) w
  let run := Table.get {} w.clauses cl
  let flag := if run.issuedLL = 0 then run.flagA else if run.issuedLL = 1 then run.flagB else none
  let flag := match flag with
    | some f => if run.open_.contains f then some f else none
    | none => none
  { w with
    clauses := w.clauses.modify cl fun c => { c with issuedLL := c.issuedLL + 1 }
    nextId := w.nextId + 1
    ll := w.ll ++ [{ id := w.nextId, writes := writes, flag := flag, clause := cl, lane := la, flags := flags, ready := ready }] }

/-- The values of a result arrive (R65): an element that a later write has taken stays as it is; one that a later result
will take holds its old or this result's value until then. -/
def Weave.deliverLL (w : Weave) (id free : Nat) (vals : List LLWrite) : Weave :=
  match w.ll.find? fun p => p.id == id with
  | none => w
  | some p =>
    let mine := vals.filter fun x => p.writes.any fun y => y.dst == x.dst && y.lane == x.lane
    let later (x : LLWrite) : Bool := w.ll.any fun q => decide (id < q.id) && q.writes.any fun y => y.dst == x.dst && y.lane == x.lane
    let w := mine.zipIdx.foldl (fun w (x, i) =>
      if later x && Config.freeBit (free + i) then (w.put x.dst x.lane x.val).dropDst x.dst else w) w
    { w with ll := w.ll.map fun q => if q.id = id then { q with writes := mine.filter fun x => !later x, ready := true } else q }

/-- Writes back one result: its registers, of which earlier results write nothing any more (R65), its fpsw flags (R162),
and its binding. -/
def Weave.writeBack (w : Weave) (p : LLPend) : Weave :=
  let w := p.writes.foldl (fun w x =>
    ((w.cancelWrites (fun q => decide (q.id < p.id)) x.dst x.lane).put x.dst x.lane x.val).dropDst x.dst) w
  ({ w with fpsw := w.fpsw ||| (p.flags.setWidth 32), ll := w.ll.filter fun q => q.id != p.id }).settle

/-- Writes back every result that is ready. -/
def Weave.writeBackAll (w : Weave) : Weave := (w.ll.filter (·.ready)).foldl Weave.writeBack w

/-- A clause that a lane set enters: its run. -/
def Weave.startClause (w : Weave) (run : ClauseRun) : Weave × Nat :=
  ({ w with nextId := w.nextId + 1, clauses := w.clauses.insert w.nextId run }, w.nextId)

/-- The first word of a clause run issues: its flags are set (R64, R25). -/
def Weave.startRun (w : Weave) (id : Nat) : Weave :=
  match w.clauses.find id with
  | none => w
  | some c =>
    if c.started then w
    else
      { c.flags.foldl (fun w f => w.setFlag f (w.flag f + 1)) w with
        clauses := w.clauses.insert id { c with started := true, open_ := c.flags } }

end Sys2Proof.Machine
end

