-- ==== Sys2Proof/Machine/Ops.lean ====
section
/-! DEFINITION. The named operations that meanings share: weaves, lanes and their movement, exits, convergence, holds,
asynchronous operations, taking an exception and returning from one (spec/02_execution.md, R37, R40, R58; spec/01,
R19 to R30; spec/08, R197 to R203, R211 to R215). -/

namespace Sys2Proof.Machine

open Sys2Proof

abbrev Out := Host.Outcome State Fault Refusal

/-! ### Units -/

def State.weave (s : State) (wk : Nat) : Weave := Table.get {} s.weaves wk
def State.modWeave (s : State) (wk : Nat) (f : Weave → Weave) : State := { s with weaves := s.weaves.modify wk f }
def State.gang (s : State) (g : Nat) : Gang := Table.get {} s.gangs g
def State.modGang (s : State) (g : Nat) (f : Gang → Gang) : State := { s with gangs := s.gangs.modify g f }
def State.launch (s : State) (l : Nat) : Launch := Table.get {} s.launches l
def State.modLaunch (s : State) (l : Nat) (f : Launch → Launch) : State := { s with launches := s.launches.modify l f }
def State.cohort (s : State) (c : Nat) : Cohort := Table.get {} s.cohorts c
def State.modCohort (s : State) (c : Nat) (f : Cohort → Cohort) : State := { s with cohorts := s.cohorts.modify c f }
def State.op (s : State) (r : Nat) : AsyncOp := Table.get {} s.ops r
def State.modOp (s : State) (r : Nat) (f : AsyncOp → AsyncOp) : State := { s with ops := s.ops.modify r f }

/-- The weave keys of a gang. -/
def State.weavesOf (s : State) (g : Nat) : List Nat := (List.range (s.gang g).weaves).map (16 * g + ·)

/-- A fresh number for a gang, cohort, launch, record or bond. -/
def State.fresh (s : State) : Nat × State := (s.nextKey, { s with nextKey := s.nextKey + 1 })

/-- Field [hi:lo] of qword `q` (its byte offset) of a launch's packet (R54). -/
def Launch.field (l : Launch) (q hi lo : Nat) : Nat := bits (Table.get 0 l.packet (q / 8)).toNat hi lo

/-! ### A launch's gangs (R34, R405, R416 to R418) -/

def Launch.typ (l : Launch) : Nat := l.field 0 3 0
def Launch.cohortSize (l : Launch) : Nat := l.field 0 15 12 + 1
def Launch.gtile (l : Launch) : Nat := l.field 0x70 31 0
def Launch.guarded (l : Launch) : Bool := l.typ == 2
/-- A launch's gang count. -/
def Launch.gangCount (l : Launch) : Nat := l.field 0x10 20 0 * l.field 0x10 41 21 * l.field 0x10 62 42

/-- The gang after the last of a tile. -/
def Launch.tileEnd (x : Launch) (t : Nat) : Nat := min ((t + 1) * x.gtile) x.gangCount

/-- The first surrogate or ordinary gang left, past what a failed tile no longer dispatches. -/
def Launch.pastFailed (x : Launch) : Nat :=
  if x.guarded && (match x.tiles.find (x.nextg / x.gtile) with
    | some t => t.failed
    | none => false) then x.tileEnd (x.nextg / x.gtile) else x.nextg

/-- The next gang to dispatch, and whether it is a gang of an exact run: exact gangs go first. -/
def Launch.nextGang (x : Launch) : Option (Nat × Bool) :=
  match x.tiles.find? fun e => e.2.exactLeft != 0 with
  | some (t, y) => some (x.tileEnd t - y.exactLeft, true)
  | none => if x.pastFailed < x.gangCount then some (x.pastFailed, false) else none

/-- Every gang of a cohort has been dispatched, or will not be: a failed tile dispatches no more. -/
def State.cohortDispatched (s : State) (c : Nat) : Bool :=
  let y := s.cohort c
  let x := s.launch y.launch
  let last := min ((y.idx + 1) * x.cohortSize) x.gangCount
  let upTo := match x.nextGang with
    | some (g, true) => if g / max 1 x.gtile = (last - 1) / max 1 x.gtile then g else x.pastFailed
    | _ => x.pastFailed
  decide (last ≤ upTo)

/-! ### The word in hand -/

/-- A word that issues to lanes of a weave. -/
structure Ctx where
  wk : Nat
  /-- The gang, its partition, launch and core. -/
  gk : Nat
  part : Nat
  launch : Nat
  core : Nat
  /-- Address of the word, of its clause's header and of the next clause's. -/
  pc : Dbl
  head : Dbl
  next : Dbl
  /-- The word is the last of its clause; the clause sets ORD. -/
  last : Bool
  /-- The clause run of the lowest lane. -/
  run : Nat
  /-- The lane set to which the word issues, and those of it that are helpers (R37, R38). -/
  lanes : BitVec 32
  helpers : BitVec 32
  deriving DecidableEq, Repr

/-- The word that an issue slot names. -/
def State.ctxOf (s : State) (i : IssueSlot) : Ctx :=
  let w := s.weave i.wk
  let g := s.gang w.gang
  let l0 := ((lanesOf i.lanes).head?).getD 0
  let run := (w.lane l0).clause
  let r := Table.get {} w.clauses run
  let next := r.hdr + BitVec.ofNat 64 (8 * (r.len + 1))
  { wk := i.wk, gk := w.gang, part := g.part, launch := g.launch, core := g.core, pc := i.pc, head := r.hdr, next := next,
    last := i.pc + 8 == next, run := run, lanes := i.lanes,
    helpers := maskOf fun l => i.lanes.getLsbD l && (w.lane l).status == .helper }

/-- The lanes of the set in which a predicate passes: `active` (R6). -/
def activeOf (w : Weave) (lanes : BitVec 32) (p : Nat) (neg : Bool) : BitVec 32 :=
  maskOf fun l => lanes.getLsbD l && ((w.lane l).preds.getLsbD p != neg)

/-- The reading environment of a word. -/
def State.env (s : State) (c : Ctx) (act : BitVec 32) : Env :=
  let l := s.launch c.launch
  { w := s.weave c.wk, g := s.gang c.gk, dims := (l.field 0x10 20 0, l.field 0x10 41 21, l.field 0x10 62 42),
    clk := s.clk, step := (s.part c.part).stamp.step, act := act, free := s.free }

/-- The free values that one word may use (R65, R81, R133). -/
def wordFree : Nat := 1024

/-- The asker of page faults for a weave's lanes (R155). -/
def Ctx.asker (c : Ctx) : Asker := { cluster := c.core / 16, core := c.core, weave := c.wk % 16, source := 0 }

/-! ### Moving lanes -/

/-- A lane stands at an address, at a header or at a word of the clause it is in. -/
def Lane.goto (l : Lane) (pc : Dbl) (hdr : Bool) : Lane :=
  { l with pc := pc, hdr := hdr, waited := false, met := false, hold := none }

/-- The lanes go on past the word. -/
def State.advance (s : State) (c : Ctx) (m : BitVec 32) : State :=
  s.modWeave c.wk fun w => w.modLanes m fun l => if c.last then l.goto c.next true else l.goto (c.pc + 8) false

/-- The lanes go to the header at a target. -/
def State.jump (s : State) (c : Ctx) (m : BitVec 32) (target : Dbl) : State :=
  s.modWeave c.wk fun w => w.modLanes m fun l => l.goto target true

/-- Lanes wait at the word for the event that releases them. -/
def State.holdLanes (s : State) (c : Ctx) (m : BitVec 32) (h : Hold) : State :=
  s.modWeave c.wk fun w => w.modLanes m fun l => { l with hold := some h }

/-- The word is held at issue: the whole lane set stands at it as before it, and it issues again when it can. `e` is the
environment that it issued with. -/
def State.holdIssue (s : State) (c : Ctx) (e : Env) (h : Hold) : State :=
  s.modWeave c.wk fun _ => e.w.modLanes c.lanes fun l => { l with hold := some h }

/-- A lane goes on past the word it was held at, which is the word at its pc. -/
def Weave.passLane (w : Weave) (l : Lane) : Lane :=
  let r := Table.get {} w.clauses l.clause
  let next := r.hdr + BitVec.ofNat 64 (8 * (r.len + 1))
  if l.pc + 8 == next then l.goto next true else l.goto (l.pc + 8) false

/-- Releases the lanes of a weave that a test of their hold picks. -/
def Weave.passHeld (w : Weave) (f : Hold → Bool) : Weave :=
  { w with lanes := w.lanes.mapVals fun _ l =>
      match l.hold with
      | some h => if f h then w.passLane l else l
      | none => l }

/-- Releases the lanes of a mask that stand at a hold. -/
def Weave.passHeldIn (w : Weave) (m : BitVec 32) (h : Hold) : Weave :=
  { w with lanes := w.lanes.mapVals fun i l => if m.getLsbD i && l.hold == some h then w.passLane l else l }

/-! ### Convergence registers (R29, R30, R202, R203, R275) -/

/-- The cohort whose registers serve a cohort: its own, or those of the west or north one of a pair. -/
def State.convHome (s : State) (c : Nat) : Nat :=
  let x := s.cohort c
  match x.partner with
  | some p => if x.dir = 0 ∨ x.dir = 3 then p else c
  | none => c

/-- The cohort whose registers serve a bond: that of its pair, once there is one (R275). -/
def State.bondHome (s : State) (b : Bond) : Nat := s.convHome b.cohort

/-- Ends the pairing of a cohort (R274, R275). -/
def State.unpair (s : State) (c : Nat) : State :=
  match (s.cohort c).partner with
  | none => s
  | some d => (s.modCohort c fun x => { x with partner := none, dir := 0 }).modCohort d fun x => { x with partner := none, dir := 0 }

/-- The cohorts that act as one with a cohort. -/
def State.cohortSet (s : State) (c : Nat) : List Nat :=
  match (s.cohort c).partner with
  | some p => [c, p]
  | none => [c]

/-- NVMe commands of a storage transfer that have been submitted and not completed (R305). -/
def AsyncOp.outstanding (o : AsyncOp) : Bool := o.cmds.any fun c => c.status.isNone

/-- An operation resolves with a status (R19, R20); a cancelled one only stops. Its engine has finished with it, unless
NVMe commands of it are still out (R304, R305). -/
def State.resolve (s : State) (r : Nat) (st : Word) : State :=
  s.modOp r fun o => { o with stopped := !o.outstanding, state := if o.state = .pending then .resolved st else o.state }

/-- The storage transfer of a command: its entry, and whether it writes to storage (R303). -/
def AsyncOp.storEntry (o : AsyncOp) : Option (Nat × Bool) :=
  match o.instr with
  | .sload w => some ((w.imm.extractLsb' 0 4).toNat, false)
  | .sstore w => some ((w.imm.extractLsb' 0 4).toNat, true)
  | _ => none

/-- LBAs of a storage transfer that are submitted. -/
def AsyncOp.submitted (o : AsyncOp) : Nat := (o.cmds.map (·.count)).sum

/-- The failures of a storage transfer. -/
def AsyncOp.failures (o : AsyncOp) : List NvmeCmd := o.cmds.filter fun c => match c.status with
  | some st => st != 0
  | none => false

/-- The end of a storage transfer: once nothing is outstanding and it has failed, is cancelled or is complete, the handle
resolves, with the failure of the lowest LBA (R304). -/
def State.storEnd (s : State) (r : Nat) : State :=
  let o := s.op r
  if o.outstanding then s
  else match (sortBy (fun (a b : NvmeCmd) => decide (a.lba ≤ b.lba)) o.failures).head? with
    | some c => s.resolve r (BitVec.ofNat 32 (c.status.getD 0))
    | none => if o.state ≠ .pending ∨ (o.desc.getD 4 0).toNat ≤ o.submitted then s.resolve r 0 else s

/-! ### Huapol ports (R385, R386, R388) -/

def State.port (s : State) (n : Nat) : Port := Table.get {} s.ports n
def State.modPort (s : State) (n : Nat) (f : Port → Port) : State := { s with ports := Table.set {} s.ports n (f (s.port n)) }

/-- The send channel of a number, of 16 to a port. -/
def State.txChan (s : State) (n : Nat) : TxChan := Table.get {} (s.port (n / 16)).tx (n % 16)
def State.setTx (s : State) (n : Nat) (x : TxChan) : State := s.modPort (n / 16) fun q => { q with tx := Table.set {} q.tx (n % 16) x }

/-- An LSEND has taken a slot, its first word of `aux`, and has sent no byte yet. -/
def AsyncOp.holdsSlot (o : AsyncOp) : Bool := match o.instr with
  | .lsend _ => o.unit == 2
  | _ => false

/-- An LSEND whose read fails before any byte has been sent gives its credit back, and SIDX is restored (R388). -/
def State.returnSlot (s : State) (r : Nat) : State :=
  let o := s.op r
  match o.fx with
  | some x =>
    let n := x.imm.toNat % 256
    let ch := s.txChan n
    if o.holdsSlot then s.setTx n { ch with sidx := (o.aux.getD 0 0).toNat, credits := min ch.slots (ch.credits + 1) } else s
  | none => s

/-- A unit of a command fails: its handle resolves with the status (R57). A storage transfer submits no more, and resolves
when what it has submitted has completed (R304, R305). -/
def State.failOp (s : State) (r : Nat) (st : Word) : State :=
  let o := s.op r
  match o.storEntry with
  | none => (s.returnSlot r).resolve r st
  | some _ =>
    let lba := ((pair (o.desc.getD 2 0) (o.desc.getD 3 0)).toNat + o.submitted) % 2 ^ 64
    (s.modOp r fun o => { o with cmds := o.cmds ++ [{ lba := lba, status := some st.toNat }] }).storEnd r

/-- Resolves every share of a list. -/
def State.resolveShares (s : State) (t : Table Share) (st : Word) : State :=
  t.foldl (fun s e => s.resolve e.2.op st) s

/-- The lanes that SIGN.w holds for a round of a register go on. -/
def State.releaseSigners (s : State) (home c : Nat) (round : Half) : State :=
  (s.cohortSet home).foldl (fun s k =>
    (s.cohort k).gangs.foldl (fun s g =>
      (s.weavesOf g.2).foldl (fun s wk => s.modWeave wk (·.passHeld fun h => h == .signW c round)) s) s) s

/-- The lanes of a weave that have not left: neither exited nor helpers. -/
def Weave.liveMask (w : Weave) : BitVec 32 := maskOf fun l => (w.lane l).status == .live

def State.conv (s : State) (home c : Nat) : Conv := Table.get {} (s.cohort home).conv c

def State.setConv (s : State) (home c : Nat) (v : Conv) : State :=
  s.modCohort home fun x => { x with conv := Table.set {} x.conv c v }

/-- The round of a register issues when its set is signed and bound, or is dropped when its set is empty (R30, R203,
R281); declared lanes that have left without signing leave the set. -/
def State.convCheck (s : State) (home c : Nat) : State :=
  let v := s.conv home c
  let decl := (v.decl.mapVals fun wk m =>
    let sig := Table.get 0 v.sig wk
    m &&& ((s.weave wk).liveMask ||| sig)).filter fun e => e.2 != 0
  let s := if decl = v.decl then s else s.setConv home c { v with decl := decl }
  let v := { v with decl := decl }
  if decl.isEmpty then
    if v.bound || s.bonds.any (fun e => s.bondHome e.2 == home && e.2.c == c && !e.2.shares.isEmpty) then
      let mine (b : Bond) : Bool := s.bondHome b == home && b.c == c
      let s := s.bonds.foldl (fun s e => if mine e.2 then s.resolveShares e.2.shares 0 else s) s
      let s := { s with bonds := s.bonds.mapVals fun _ (b : Bond) => if mine b then { b with shares := [] } else b }
      (s.setConv home c { v with sig := [], bound := false }).releaseSigners home c v.round
    else s
  else if v.sig = decl && v.bound then
    match s.bonds.find? fun e => s.bondHome e.2 == home && e.2.c == c with
    | some (bk, b) =>
      if b.state != .formed || b.stopped || b.armed.isSome || decide (b.shares.length < b.members.length) then s
      else ({ s with bonds := s.bonds.modify bk fun b => { b with armed := some { shares := b.shares }, shares := [] } }).setConv home c
        { v with sig := [], round := v.round + 1, bound := false }
    | none => (s.setConv home c { v with sig := [], round := v.round + 1, bound := false }).releaseSigners home c v.round
  else s

/-- Every register of the cohorts of a weave's gang is checked. -/
def State.convCheckAll (s : State) (gk : Nat) : State :=
  let home := s.convHome (s.gang gk).cohort
  (s.cohort home).conv.keys.foldl (fun s c => s.convCheck home c) s

/-! ### Barriers (R209) -/

/-- The live lanes of a weave are all held at a barrier; one that is parked or in the handler is not held yet. -/
def Weave.arrived (w : Weave) (h : Hold) : Bool :=
  (lanesOf w.liveMask).all fun l => (w.lane l).hold == some h && (w.lane l).parked.isNone && !(w.lane l).priv

/-- The arrival bits of a gang's weaves, one for each that has arrived (R209). -/
def State.arrivals (s : State) (ws : List Nat) (h : Hold) : BitVec 16 :=
  BitVec.ofNat 16 (((ws.filter fun wk => (s.weave wk).arrived h).map (· % 16)).foldl (fun m w => m ||| 2 ^ w) 0)

/-- A weave counts for a barrier: some lane has not exited. -/
def Weave.counts (w : Weave) : Bool := !w.ended && w.liveMask != 0

/-- Drops the L1 data lines of a gang's core, as an acquire at .cl or wider does (R120). -/
def State.acquire (s : State) (core part : Nat) : State := s.l1Drop core fun l => l.part == part

/-- The gang barrier completes when every weave that counts has arrived and its earlier stores are visible (R128, R209);
until then the arrivals are recorded. -/
def State.gbarCheck (s : State) (gk : Nat) : State :=
  let ws := (s.weavesOf gk).filter fun wk => (s.weave wk).counts
  if !ws.isEmpty && ws.all fun wk => (s.weave wk).arrived .gbar && (s.weave wk).sq.isEmpty then
    let s := ws.foldl (fun s wk => s.modWeave wk (·.passHeld fun h => h == .gbar)) s
    s.modGang gk fun g => { g with gbar := 0 }
  else s.modGang gk fun g => { g with gbar := g.gbar ||| s.arrivals ws .gbar }

/-- Every gang of a cohort that has not ended is on its core: all have been dispatched, and none is saved. -/
def State.cohortPresent (s : State) (c : Nat) : Bool :=
  s.cohortDispatched c && (s.cohort c).gangs.all fun e => (s.gangs.find e.2).isSome

/-- The cohort barrier completes when every weave of the cohort and its partner that counts has arrived; one of a gang
that is not dispatched yet, or is saved, has not. -/
def State.cbarCheck (s : State) (gk : Nat) : State :=
  let cs := s.cohortSet (s.gang gk).cohort
  let gs := cs.flatMap fun c => (s.cohort c).gangs.map (·.2)
  let ws := gs.flatMap fun g => (s.weavesOf g).filter fun wk => (s.weave wk).counts
  if !ws.isEmpty && cs.all s.cohortPresent && ws.all fun wk => (s.weave wk).arrived .cbar && (s.weave wk).sq.isEmpty then
    let s := ws.foldl (fun s wk => s.modWeave wk (·.passHeld fun h => h == .cbar)) s
    gs.foldl (fun s g => (s.modGang g fun x => { x with cbar := 0 }).acquire (s.gang g).core (s.gang g).part) s
  else gs.foldl (fun s g => s.modGang g fun x => { x with cbar := x.cbar ||| s.arrivals (ws.filter fun wk => wk / 16 == g) .cbar }) s

/-! ### Exit (R37, R198) -/

/-- The lanes of a mask leave: a quad with another running lane keeps them as helpers, else the whole quad exits. -/
def Weave.exitLanes (w : Weave) (m : BitVec 32) : Weave :=
  let stays (q : Nat) : Bool := (List.range 4).any fun k => (w.lane (4 * q + k)).status == .live && !m.getLsbD (4 * q + k)
  { w with lanes := (List.range 32).foldl (fun t l =>
      let x := w.lane l
      let st : LaneStatus :=
        if stays (l / 4) then (if m.getLsbD l && x.status == .live then .helper else x.status)
        else if m.getLsbD l || x.status == .helper then .exited else x.status
      if st = x.status then t
      else Table.set {} t l { x with status := st, hold := none, parked := none, priv := false }) w.lanes }

/-- Lanes exit, which may complete a meeting, a round or a barrier (R198). -/
def State.exit (s : State) (wk : Nat) (m : BitVec 32) : State :=
  let gk := (s.weave wk).gang
  (((s.modWeave wk (·.exitLanes m)).convCheckAll gk).gbarCheck gk).cbarCheck gk

/-! ### Ending gangs and launches early (R58, R416) -/

/-- A command that is one unit and takes effect whatever becomes of its handle (R22, R267); a WLATCH that is cancelled
still leaves its plane unlatched, in its turn. -/
def runsOn : Instr → Bool
  | .tcfgCfg _ | .tcfgTile _ | .cbkld _ | .accprom _ | .wlatch _ => true
  | _ => false

/-- A unit of a command is in hand outside its engine: NVMe commands (R305), the data of an XBCAST (R382), an LSEND that
has taken its slot (R388). -/
def AsyncOp.inFlight (o : AsyncOp) : Bool :=
  o.outstanding || (match o.instr with
    | .xbcast _ => o.begun
    | .lsend _ => o.unit != 0
    | _ => false)

/-- Cancels an operation: it stops at its unit boundary (R22); one that its engine has not accepted stops when it is
accepted (R72). -/
def State.cancelOp (s : State) (r : Nat) : State :=
  s.modOp r fun o => { o with
    stopped := o.stopped || (o.accepted && !runsOn o.instr && !o.inFlight)
    state := if o.state = .pending then .cancelled else o.state }

/-- Ends a gang with no save: its lanes exit and its operations are cancelled. -/
def State.killGang (s : State) (gk : Nat) : State :=
  let s := s.ops.foldl (fun s e =>
    if e.2.gang = gk ∧ e.2.stopped = false then (s.cancelOp e.1).modOp e.1 fun o => { o with stopped := !o.inFlight } else s) s
  let s := (s.weavesOf gk).foldl (fun s wk =>
    (s.modWeave wk fun w => { w with
      pend := [], win := [], syscs := [],
      lanes := (List.range 32).foldl (fun t l =>
        Table.set {} t l { w.lane l with status := .exited, hold := none, parked := none, priv := false }) w.lanes })) s
  (s.convCheckAll gk).cbarCheck gk

/-- The gangs of a launch that are resident. -/
def State.gangsOf (s : State) (l : Nat) : List Nat := (s.gangs.filter fun e => e.2.launch == l).map (·.1)

/-- Ends a launch with a status, unless it has ended already (R58). -/
def State.endLaunch (s : State) (l : Nat) (st : Word) : State :=
  let s := s.modLaunch l fun x => if x.ended then x else { x with ended := true, status := st, saved := [] }
  (s.gangsOf l).foldl State.killGang s

/-- Fails a tile: its gangs end, and the launch goes on (R416). -/
def State.failTile (s : State) (l t : Nat) : State :=
  let s := (s.markTileFailed l t).modLaunch l fun x => { x with saved := x.saved.filter fun y => !(y.gang.tile == t && y.gang.tag.isSome) }
  ((s.gangs.filter fun e => e.2.launch == l && e.2.tile == t && e.2.tag.isSome).map (·.1)).foldl State.killGang s

/-- Guard fault 0x31 of a gang: its tile fails (R57, R416). -/
def State.guardFault (s : State) (gk : Nat) : State := s.failTile (s.gang gk).launch (s.gang gk).tile

/-- A fault that would end the launch: it ends it, or fails the tile of a surrogate gang (R58, R416). -/
def State.fatal (s : State) (gk : Nat) (st : Word) : State :=
  match (s.gang gk).tag with
  | some _ => s.guardFault gk
  | none => s.endLaunch (s.gang gk).launch st

/-! ### Turns of the units that contexts share (R31, R32, R240, R281) -/

/-- The launches in the order in which a unit's slot table offers them in this cycle (R32). -/
def State.slotOrder (s : State) (core unit : Nat) : List Nat :=
  let x := s.core core
  let es := (Table.get {} x.tabs unit).ents
  let i := s.clk.toNat % 16
  ((es.drop i ++ es.take i).filterMap fun e => if e.1 then Table.get none x.ctxs e.2 else none).eraseDups

/-- The launch that a unit has served in this cycle. -/
def State.turnOf (s : State) (core unit : Nat) : Option Nat :=
  match (s.core core).turns.find unit with
  | some (c, l) => if c = s.clk.toNat then some l else none
  | none => none

/-- A unit gives its cycle to a launch. -/
def State.takeTurn (s : State) (core unit l : Nat) : State :=
  s.modCore core fun c => { c with turns := Table.insert c.turns unit (s.clk.toNat, l) }

/-- A unit serves a launch in this cycle: it has served none yet, and this one is the first in the order of its table that
has ready work (R32). -/
def State.serves (s : State) (core unit l : Nat) (ready : Nat → Bool) : Bool :=
  (s.turnOf core unit).isNone && (s.slotOrder core unit).find? ready == some l

/-- A launch has a share of an armed round on a core that has not granted it (R281). -/
def State.grantWaits (s : State) (core l : Nat) : Bool :=
  s.bonds.any fun e => match e.2.armed with
    | some x => e.2.members.zipIdx.any fun y =>
        (s.gang y.1).core == core && (s.gang y.1).launch == l && (x.shares.find y.2).isSome && (x.granted.find y.2).isNone
    | none => false

/-- The matrix issue port takes a word of a launch in this cycle: it has taken nothing yet, and neither the launch nor one
before it in the table's order waits for a grant (R240, R281). -/
def State.portFree (s : State) (core l : Nat) : Bool :=
  (s.turnOf core 0).isNone && !s.grantWaits core l &&
    !((s.slotOrder core 0).takeWhile (· != l)).any (s.grantWaits core)

/-! ### Handles and commands (R19 to R22, R71, R72) -/

/-- What a handle register refers to. -/
inductive HState where
  | empty
  | pending (rec_ : Nat)
  | resolved (status : Word)
  | cancelled
  deriving DecidableEq, Repr

def State.handle (s : State) (w : Weave) (h : Nat) : HState :=
  match Table.get none w.handles h with
  | some r => match (s.op r).state with
    | .pending => .pending r
    | .resolved st => .resolved st
    | .cancelled => .cancelled
  | none => match w.hsaved.find h with
    | some v => if v.extractLsb' 0 2 = 2 then .resolved (v.extractLsb' 8 32) else if v.extractLsb' 0 2 = 3 then .cancelled else .empty
    | none => .empty

/-- A handle register refers to a record, or to none. -/
def Weave.setHandle (w : Weave) (h : Nat) (r : Option Nat) : Weave :=
  { w with handles := Table.set none w.handles h r, hsaved := w.hsaved.erase h }

/-- The registers of a descriptor as they are read; one with a long-latency write outstanding reads old or new (R65). -/
def Weave.descriptor (w : Weave) (free base : Nat) : List Word :=
  (List.range (min 12 (64 - base))).map fun k =>
    choiceOf (free + k) (w.sget (base + k)) (w.pendingWrite (.s (Fin.ofNat 64 (base + k))) 0)

/-- How many accepted commands the queue of a core's engine holds: 32 of the copy engine (R294), 16 of the nearest-neighbour
engine (R356). -/
def queueSize : Engine → Option Nat
  | .ce => some 32
  | .nne => some 16
  | _ => none

/-- A command takes a place in its engine's queue: one that is held at issue takes none yet, nor does one that a
pre-emption has stopped. -/
def AsyncOp.queues (o : AsyncOp) : Bool := !o.stopped && !o.paused && !o.full

/-- The queue of a core's engine has no place left. -/
def State.queueFull (s : State) (core : Nat) (e : Engine) : Bool :=
  match queueSize e with
  | some n => decide (n ≤ (s.ops.filter fun x => x.2.engine == e && x.2.core == core && x.2.queues).length)
  | none => false

/-- A command of a weave to an engine is held at issue. -/
def State.heldFull (s : State) (wk : Nat) (e : Engine) : Bool :=
  s.ops.any fun x => x.2.wk == wk && x.2.engine == e && x.2.full && !x.2.stopped

/-- An engine accepts a command: it has read the descriptor registers, which the matrix engine has done at issue (R244), and
the AFLAG binding ends (R72); lanes that were held because its queue was full go on (R294). A cancelled one goes no further,
unless it is a single unit that runs whatever becomes of its handle (R22). -/
def State.accept (s : State) (r : Nat) : State :=
  let o := s.op r
  if o.accepted then s
  else
    let desc := match o.fx with
      | some x => if o.engine == .mx then o.desc else (s.weave o.wk).descriptor s.free x.dbase.toNat
      | none => o.desc
    let s := s.modOp r fun o => { o with
      accepted := true, aflag := none, desc := desc, full := false,
      stopped := o.stopped || (o.state == .cancelled && !runsOn o.instr) }
    let s := { s with free := s.free + 12 }
    let s := if o.full then s.modWeave o.wk (·.passHeld fun h => h == .cmdQueue r) else s
    match o.aflag with
    | some f => s.modWeave o.wk fun w => w.setFlag f (w.flag f - 1)
    | none => s

/-- Accepts every command of a weave that is not accepted yet; a share of a bonded round stays bound (R286). -/
def State.acceptAll (s : State) (wk : Nat) : State :=
  s.ops.foldl (fun s e =>
    if e.2.wk = wk ∧ e.2.accepted = false ∧ e.2.fx.isSome = true ∧ e.2.full = false then s.accept e.1 else s) s

/-! ### Taking an exception (R58, R211) and returning from one (R214) -/

/-- Some lane of the weave beside those of a mask is in the handler, or a long-latency result cannot be written back yet,
or a command waits for an older store or for a place in its queue before it can be accepted: an entry to the handler
waits. -/
def State.busyTrap (s : State) (wk : Nat) (m : BitVec 32) : Bool :=
  let w := s.weave wk
  w.lanes.any (fun e => e.2.priv && e.2.status == .live && !m.getLsbD e.1) || w.ll.any (!·.ready) ||
    s.ops.any fun e => e.2.wk == wk && !e.2.accepted && (e.2.ahead != 0 || (e.2.full && !e.2.stopped))

/-- Entry to the partition's trap handler for lanes of a weave (R211): results are written back and commands accepted,
the fault record and ECAUSE are written, each lane saves its resume address (unless it keeps its own), goes to TVEC and
is privileged, and the latches are invalidated. -/
def State.enterHandler (s : State) (wk : Nat) (f : PendFault) : State :=
  let tvec := (s.part (s.gang (s.weave wk).gang).part).ctl.tvec
  let s := s.acceptAll wk
  s.modWeave wk fun w =>
    let w := { w.writeBackAll with fcode := f.status, fmask := f.mask, faddr := f.addr, ecause := f.ecause }
    (w.modLanes f.mask fun l =>
      { l.goto tvec true with faultPc := if f.keepPc then l.faultPc else f.resume_, back := l.clause, priv := true, parked := none }).dropLatches

/-- Raises a precise fault for lanes of a weave (R58): helpers raise none; with no handler, or in handler lanes, it ends
the launch or the tile; while the weave is busy it is held; else the lanes enter the handler. -/
def State.raise (s : State) (wk : Nat) (f : PendFault) : State :=
  let w := s.weave wk
  let m := f.mask &&& w.liveMask
  let f := { f with mask := m }
  if m = 0 then s
  else if (s.part (s.gang w.gang).part).ctl.tvec = 0 && f.ecause == 1 then
    s.endLaunch (s.gang w.gang).launch 0xB30#32
  else if (s.part (s.gang w.gang).part).ctl.tvec = 0 || (f.ecause != 1 && (lanesOf m).any fun l => (w.lane l).priv) then
    s.fatal w.gang f.status
  else if s.busyTrap wk m || !w.pend.isEmpty then
    s.modWeave wk fun w => { w.modLanes m fun l => { l with hold := some .secondFault } with pend := w.pend ++ [f] }
  else s.enterHandler wk f

/-- Raises a fault at the word in hand: the lanes resume at it. -/
def State.fault (s : State) (c : Ctx) (m : BitVec 32) (status : Word) (addr : Dbl) : State :=
  s.raise c.wk { status := status, mask := m, addr := addr, resume_ := c.pc }

/-- Delivers the oldest held fault when the weave is free (R58). -/
def State.deliverPend (s : State) (wk : Nat) : State :=
  let w := s.weave wk
  match w.pend with
  | [] => s
  | f :: rest =>
    let m := f.mask &&& w.liveMask
    if s.busyTrap wk m then s
    else
      let s := s.modWeave wk fun w => { w with pend := rest }
      if m = 0 then s
      else if (s.part (s.gang w.gang).part).ctl.tvec = 0 then (if f.ecause = 1 then s.endLaunch (s.gang w.gang).launch 0xB30#32 else s.fatal w.gang f.status)
      else s.enterHandler wk { f with mask := m }

/-- When the last lane of a resumed gang has left the handler, its stopped commands go on (R52, R218). -/
def State.unpause (s : State) (gk : Nat) : State :=
  if (s.gang gk).resume_ && (s.weavesOf gk).all fun wk => !(s.weave wk).lanes.any fun e => e.2.priv && e.2.status == .live then
    ({ s with ops := s.ops.mapVals fun _ (o : AsyncOp) => if o.gang = gk then { o with paused := false } else o }).modGang gk
      fun g => { g with resume_ := false, saveb := 0 }
  else s

/-- Return from the handler for lanes (R214): each goes to its resume address, whose bit 0 says that it is a header. -/
def State.eret (s : State) (wk : Nat) (m : BitVec 32) : State :=
  let w := s.weave wk
  let bad := maskOf fun l => m.getLsbD l && (w.lane l).faultPc.extractLsb' 1 2 != 0
  let s := s.modWeave wk fun w => (w.modLanes m fun l =>
    { l.goto (l.faultPc &&& ~~~1#64) (l.faultPc.getLsbD 0) with priv := false, clause := l.back, trapParked := false }).dropLatches
  let s := s.unpause w.gang
  let s := if bad = 0 then s
    else s.raise wk { status := 0x09#32, mask := bad, addr := (w.lane ((lanesOf bad).headD 0)).faultPc, resume_ := 0, keepPc := true }
  s.deliverPend wk

/-! ### Lane accesses (R153, R221) -/

/-- How the lanes of an access stand after their checks. -/
structure LaneAcc where
  pass : List (Nat × Nat) := []
  fault : List (Nat × Word × Nat) := []
  park : List (Nat × Nat × Nat) := []
  deriving DecidableEq, Repr

/-- Checks the access of every lane of a mask; a helper's fault is only dropped (R37). -/
def State.checkLanes (s : State) (c : Ctx) (m : BitVec 32) (addr : Nat → Nat) (n align : Nat) (k : AccessKind)
    (homeOnly : Bool) : State × LaneAcc :=
  (lanesOf m).foldl (fun (s, a) l =>
    let helper := c.helpers.getLsbD l
    match s.check c.part (8 * c.part) c.asker (addr l) n align k homeOnly helper with
    | (s, .pass pa) => (s, { a with pass := a.pass ++ [(l, pa)] })
    | (s, .fault st) => (s, if helper then a else { a with fault := a.fault ++ [(l, st, addr l)] })
    | (s, .park t) => (s, { a with park := a.park ++ [(l, t, addr l)] })) (s, {})

/-- Parks lanes at the word as one sub-group, waiting on its tickets (R153); they are the MASK of the tickets that the
access opened (R155). -/
def State.parkLanes (s : State) (wk : Nat) (p : List (Nat × Nat × Nat)) (k : AccessKind) : State :=
  let ts := (p.map (·.2.1)).dedup
  let m := maskOf fun l => p.any fun e => e.1 == l
  let mine (n : Nat) (t : Ticket) : Ticket := if ts.contains n && t.source == 0 && t.mask == 0 then { t with mask := m } else t
  let s := { s with tickets := s.tickets.mapVals mine }
  s.modWeave wk fun w => p.foldl (fun w e =>
    w.modLane e.1 fun l => { l with parked := some { tickets := ts, kind := k, va := BitVec.ofNat 64 e.2.2 } }) w

/-- Delivers precise faults group by group in ascending order of status word (R221): fault.addr is that of the lowest
lane of the group. -/
def State.deliverFaults (s : State) (c : Ctx) (f : List (Nat × Word × Nat)) : State :=
  let sts := sortBy (fun x y => decide (x ≤ y)) ((f.map (·.2.1.toNat)).dedup)
  sts.foldl (fun s st =>
    let grp := f.filter fun e => e.2.1.toNat == st
    s.fault c (maskOf fun l => grp.any fun e => e.1 == l) (BitVec.ofNat 32 st) (BitVec.ofNat 64 ((grp.head?.map (·.2.2)).getD 0))) s

/-- Ends an access: lanes that passed go on, parked lanes park, faults are delivered. -/
def State.finishAcc (s : State) (c : Ctx) (gone : BitVec 32) (a : LaneAcc) (k : AccessKind) : State :=
  (((s.advance c gone).parkLanes c.wk a.park k)).deliverFaults c a.fault

end Sys2Proof.Machine
end

