-- ==== Sys2Proof/Machine/Legal.lean ====
section
/-! DEFINITION. The checks that the sequencer makes before a word acts, in R86's order: field legality (R67 to R71,
R76 to R80), privilege, role (R41), the guard rule (R136), and the reads of handles and of fpsw that wait (R73, R162). -/

namespace Sys2Proof.Machine

open Sys2Proof

/-- An F3 word's fields: each operand of an accepted class and within the demand, the modifier only where the opcode
allows one on a vector SRCB, or source C where it has one, HOLD only on vector sources that it reads, no REUSE. -/
def f3Legal (g : Gang) (w : F3) (dst a b : Operand → Bool) (c : Option (Operand → Bool)) (modb holdA holdB mods : Bool) : Bool :=
  dst w.dst && a w.a && b w.b && mods && !w.reuse &&
  (match c with
    | some f => f w.srcC && w.modb.extractLsb' 0 3 == 0 && inDemand g w.srcC 1
    | none => if modb && isV w.b then modbOk w.modb else w.modb == 0) &&
  (!w.hold.getLsbD 0 || (holdA && isV w.a)) && (!w.hold.getLsbD 1 || (holdB && isV w.b)) &&
  inDemand g w.dst 1 && inDemand g w.a 1 && inDemand g w.b 1 && inDemand g (.p (Fin.ofNat 16 w.pred.toNat)) 1

/-- An FI word's fields. -/
def fiLegal (g : Gang) (w : FI) (dst a : Operand → Bool) (mods : Bool) : Bool :=
  dst w.dst && a w.a && mods && inDemand g w.dst 1 && inDemand g w.a 1 && inDemand g (.p (Fin.ofNat 16 w.pred.toNat)) 1

/-- An instruction with a uniform destination reads only uniform sources (R76). -/
def uniformOk (dst : Operand) (srcs : List Operand) : Bool := perLane dst || !srcs.any perLane

/-- The MODS field has no bit outside a mask. -/
def modsIn (m mask : BitVec 5) : Bool := m &&& ~~~mask == 0

/-- An FX word's fields (R71): a descriptor of `n` registers within s63 and the demand. -/
def fxLegal (g : Gang) (w : FX) (n : Nat) (extra : Bool) : Bool :=
  w.rsvd == 0 && (!w.noh || w.hdst == 0) && (if w.afen then decide (w.aflag.toNat < 12) else w.aflag == 0) &&
  decide (w.dbase.toNat + n ≤ 64) && (n == 0 || decide (w.dbase.toNat + n ≤ g.sreg)) &&
  (w.noh || decide (w.hdst.toNat < g.hreg)) && extra

/-- The role of a weave (R41): 0 general, 1 copy, 2 matrix, 3 vector. -/
def roleOf (g : Gang) (num : Nat) : Nat := bits g.roles.toNat (2 * num + 1) (2 * num)

/-- A role may issue to an engine; `laUni` marks an integer instruction of LA with a uniform destination (R41). -/
def roleAllows (role : Nat) (e : Engine) (laUni : Bool) : Bool :=
  match role with
  | 0 => true
  | 1 => e == .sq || e == .ce || laUni
  | 2 => e == .sq || e == .mx || e == .bc || laUni
  | _ => e == .sq || e == .la || e == .ls || e == .se || e == .ste || e == .nne || e == .xe

/-- What the sequencer needs to know of a word before it acts. -/
structure Gate where
  /-- Field legality. -/
  legal : Bool
  engine : Engine
  laUni : Bool := false
  /-- A privileged opcode, or a write to fault.pc. -/
  privileged : Bool := false
  /-- Not for a surrogate gang (R136). -/
  guarded : Bool := false
  pred : Nat := 0
  neg : Bool := false
  /-- The operands that it reads as values, for handles and the specials that wait or latch. -/
  srcs : List Operand := []
  /-- The vector registers that it reads, those that HOLD names, each with the place of its source, and those that a
  long-latency word writes. -/
  regs : List Nat := []
  holds : List (Nat × Nat) := []
  drops : List Nat := []

/-- A destination that only privileged lanes may write (R74). -/
def privDst : Operand → Bool
  | .special .faultPcLo => true
  | .special .faultPcHi => true
  | _ => false

/-- A handle among the sources: the first that is not resolved. -/
def State.handleBlock (s : State) (w : Weave) (srcs : List Operand) : Option (Nat × HState) :=
  srcs.findSome? fun o =>
    match o with
    | .h i => match s.handle w i.val with
      | .resolved _ => none
      | h => some (i.val, h)
    | _ => none

/-- The specials whose read latches their high word (R74). -/
def Weave.latchHigh (w : Weave) (e : Env) (srcs : List Operand) : Weave :=
  let w := if srcs.contains (.special .clkLo) then { w with clkHi := some (hiWord e.clk) } else w
  if srcs.contains (.special .stepLo) then { w with stepHi := some (hiWord e.step) } else w

/-- The issuing weave's lanes are joined with the queued stores that any of them is joined with (R121). -/
def Weave.join (w : Weave) (m : BitVec 32) : Weave :=
  { w with sq := w.sq.map fun e => if e.mask &&& m != 0 then { e with mask := e.mask ||| m } else e }

/-- The lanes of `active` for a word with a gate. -/
def State.acting (s : State) (c : Ctx) (k : Gate) : BitVec 32 := activeOf (s.weave c.wk) c.lanes k.pred k.neg

/-- Every check that R86 makes before a word acts passes, and nothing that the word reads makes it wait. -/
def State.passes (s : State) (c : Ctx) (k : Gate) : Bool :=
  let w := s.weave c.wk
  let g := s.gang c.gk
  let act := s.acting c k
  k.legal &&
  !(k.privileged && (lanesOf (c.lanes &&& ~~~c.helpers)).any fun l => !(w.lane l).priv) &&
  roleAllows (roleOf g w.num) k.engine k.laUni &&
  !(k.guarded && g.tag.isSome && act &&& ~~~c.helpers != 0) && (k.engine != .mx || s.portFree c.core c.launch) &&
  (act == 0 || ((s.handleBlock w k.srcs).isNone && !(k.srcs.contains (.special .fpsw) && w.ll.any (·.lane))))

/-- A clause starts when its first word issues (R64). -/
def State.starts (s : State) (c : Ctx) : State := if c.pc == c.head + 8 then s.modWeave c.wk (·.startRun c.run) else s

/-- What issuing a word changes in its weave beside where lanes stand: queued stores are joined (R121), high words are
latched (R74), latches are used, taken and dropped (R79, R81). -/
def Weave.issued (c : Ctx) (k : Gate) (e : Env) (act : BitVec 32) (w : Weave) : Weave :=
  let w := (w.join c.lanes).latchHigh e (if act = 0 then [] else k.srcs)
  let w := if k.regs.isEmpty then w else w.useLatches k.regs
  let w := k.holds.foldl (fun w i => w.latch i.2 ((List.range 32).map fun l => e.readV i.1 i.2 l (Fin.ofNat 320 i.2))) w
  if act = 0 then k.drops.foldl Weave.dropLatch w else w

/-- What issuing a word does before its own effect: its clause starts, the lanes whose predicate fails go on, its weave
takes note, the word takes its free values, a matrix word takes the port's cycle (R240), and a handle that was read makes it
an acquire (R132). -/
def State.begun (s : State) (c : Ctx) (k : Gate) (e : Env) (act : BitVec 32) : State :=
  let s := ((s.starts c).advance c (c.lanes &&& ~~~act)).modWeave c.wk (Weave.issued c k e act)
  let s := { s with free := s.free + wordFree }
  let s := if k.engine == .mx then s.takeTurn c.core 0 c.launch else s
  if act != 0 && k.srcs.any isH
    then (s.modWeave c.wk (·.dropLatches)).acquire c.core c.part else s

/-- Lanes of `active` wait at the word, to issue it again, and the others go on; `e` is the environment that it issued with
(R73, R187). -/
def State.holdActing (s : State) (c : Ctx) (e : Env) (act : BitVec 32) (h : Hold) : State :=
  let s := s.modWeave c.wk fun _ => e.w
  let s := if c.lanes &&& ~~~act = 0 then s else (s.starts c).modWeave c.wk (·.join c.lanes)
  (s.advance c (c.lanes &&& ~~~act)).holdLanes c act h

/-- Runs a word for a weave: the checks in R86's order, then its effect on the lanes of `active`. A matrix word that the port
does not take in this cycle waits (R240). The lanes whose predicate fails have gone on; the effect moves, holds, parks or
faults the others. -/
def State.runWord (s : State) (c : Ctx) (k : Gate) (eff : Env → BitVec 32 → State → State) : State :=
  let w := s.weave c.wk
  let g := s.gang c.gk
  if !k.legal then s.fault c c.lanes 0x01#32 0
  else if k.privileged && (lanesOf (c.lanes &&& ~~~c.helpers)).any fun l => !(w.lane l).priv then s.fault c c.lanes 0x04#32 0
  else if !roleAllows (roleOf g w.num) k.engine k.laUni then s.fault c c.lanes 0x102#32 0
  else
    let act := s.acting c k
    let real := act &&& ~~~c.helpers
    if k.guarded && g.tag.isSome && real != 0 then s.guardFault c.gk
    else if k.engine == .mx && !s.portFree c.core c.launch then s
    else
      let e := s.env c act
      match (if act = 0 then none else s.handleBlock w k.srcs) with
      | some (i, .pending _) =>
        s.holdActing c e act (.handleRead i)
      | some (_, _) => ((s.starts c).advance c (c.lanes &&& ~~~act)).fault c act 0x18#32 0
      | none =>
        if act ≠ 0 ∧ k.srcs.contains (.special .fpsw) ∧ w.ll.any (·.lane) then
          s.holdIssue c e .llOut
        else eff e act (s.begun c k e act)

/-- The vector registers among operands, each once. -/
def vregsOf (os : List Operand) : List Nat :=
  (os.filterMap fun o => match o with
    | .v i => some i.val
    | _ => none).dedup

/-- The registers that the HOLD field of an F3 word names, with the places of their sources; one named twice is held once. -/
def holdsOf (w : F3) : List (Nat × Nat) :=
  (match w.a with
    | .v i => if w.hold.getLsbD 0 then [(0, i.val)] else []
    | _ => []) ++
  (match w.b with
    | .v i => if w.hold.getLsbD 1 && !(w.hold.getLsbD 0 && w.a == w.b) then [(1, i.val)] else []
    | _ => [])

/-- A word of a weave: nobody else may run it. -/
def onWeave (s : State) (f : Ctx → State) : Out :=
  match s.cur with
  | some (.weave i) =>
    match s.weaves.find i.wk with
    | some _ => .next (f (s.ctxOf i))
    | none => .fault .noIssuer
  | _ => .fault .noIssuer

/-- What the prologue sequencer does with a word outside its subset (R408): the run ends with sub-code `sub`. -/
def State.endPrologue (s : State) (p : Nat) (status : Word) : State :=
  match (s.part p).prologue with
  | none => s
  | some x => (s.modLaunch x.launch fun l => { l with status := status, ended := true }).modPart p
      fun q => { q with prologue := none }

/-- Status 0x30, detail 0x05 with a sub-code (R404, R408). -/
def prologueFault (sub : Nat) : Word := BitVec.ofNat 32 (0x30 + 0x500 + sub * 2 ^ 16)

/-- A word of an engine outside the prologue subset: a weave runs it; a prologue run ends with sub-code 0x02. -/
def weaveOnly (s : State) (f : Ctx → State) : Out :=
  match s.cur with
  | some (.prologue p) =>
    match (s.part p).prologue with
    | some _ => .next (s.endPrologue p (prologueFault 2))
    | none => .fault .noIssuer
  | _ => onWeave s f

/-- Where the prologue goes after a word (R408): the next word, or the next clause's header. -/
def Prologue.step (x : Prologue) : Prologue :=
  let pc := x.pc + 8
  { x with pc := pc, count := x.count + 1, hdr := pc == x.clause + BitVec.ofNat 64 (8 * (x.len + 1)) }

/-- An operand of the prologue subset (R186): a uniform register, an integer constant or `zero`. -/
def proOperand : Operand → Bool
  | .s _ => true
  | .int _ => true
  | .special .zero => true
  | _ => false

/-- A prologue's operand value. -/
def Prologue.rd (x : Prologue) : Operand → Word
  | .s i => Table.get 0 x.sregs i.val
  | .int i => BitVec.ofNat 32 i.val
  | .p i => if x.preds.getLsbD i.val then 1 else 0
  | _ => 0

/-- A prologue's write. -/
def Prologue.wr (x : Prologue) (o : Operand) (v : Word) : Prologue :=
  match o with
  | .s i => { x with sregs := Table.set 0 x.sregs i.val v }
  | .p i => if i.val = 0 then x else { x with preds := setBit x.preds i.val (v.getLsbD 0) }
  | _ => x

/-- Runs a word of the prologue subset: an illegal field gives sub-code 0x01; a word whose predicate fails only counts. -/
def State.runPrologue (s : State) (p : Nat) (legal : Bool) (pred : Nat) (neg : Bool) (f : Prologue → State → State) : State :=
  match (s.part p).prologue with
  | none => s
  | some x =>
    if !legal then s.endPrologue p (prologueFault 1)
    else
      let y := x.step
      let s := s.modPart p fun q => { q with prologue := some y }
      if x.preds.getLsbD pred != neg then f y s else s

/-- Writes back a prologue's registers. -/
def State.setPrologue (s : State) (p : Nat) (x : Prologue) : State := s.modPart p fun q => { q with prologue := some x }

/-- An asynchronous command of an FX word (R18 to R22, R71, R72): held while its handle register is Pending or its AFLAG
count is full; else it issues once, its handle is Pending and its AFLAG is set until it is accepted. One that finds its
engine's queue full, or an earlier one of the weave held for it, holds the lanes of `active` until it is accepted (R294). A
matrix command reads its descriptor now (R244). `more` fixes what the engine takes at issue. -/
def State.command (s : State) (c : Ctx) (e : Env) (w : FX) (i : Instr) (eng : Engine) (more : AsyncOp → AsyncOp) : State :=
  let x := s.weave c.wk
  let pend := match s.handle x w.hdst.toNat with
    | .pending r => if w.noh then none else some r
    | _ => none
  match pend with
  | some r => s.holdIssue c e (.destPending w.hdst.toNat r)
  | none =>
    if w.afen && decide (15 ≤ x.flag w.aflag.toNat) then s.holdIssue c e (.flagFull w.aflag.toNat)
    else
      let full := s.queueFull c.core eng || s.heldFull c.wk eng
      let (r, s) := s.fresh
      let o : AsyncOp := {
        part := c.part, launch := c.launch, gang := c.gk, wk := c.wk, core := c.core, engine := eng, instr := i,
        named := !w.noh, fx := some w, tag := (s.gang c.gk).tag, ahead := x.sq.length, port := r + 1, full := full
        desc := if eng == .mx then (List.range 12).map (e.dreg w) else []
        aflag := if w.afen then some w.aflag.toNat else none }
      let s := { s with ops := s.ops.insert r (more o) }
      let s := s.modWeave c.wk fun x =>
        let x := if w.noh then x else x.setHandle w.hdst.toNat (some r)
        if w.afen then x.setFlag w.aflag.toNat (x.flag w.aflag.toNat + 1) else x
      if full then s.holdLanes c e.act (.cmdQueue r) else s.advance c c.lanes

end Sys2Proof.Machine
end

