-- ==== Sys2Proof/Machine/Mmio.lean ====
section
/-! DEFINITION. Reads of memory-mapped registers (R1, R139, R141, R156, R337, R396, R421, R424, R439): the qwords of
every block, from which a read of any width takes its bytes. -/

namespace Sys2Proof.Machine

open Sys2Proof

/-- A flag in bit `i` of a qword. -/
def flagAt (b : Bool) (i : Nat) : Nat := if b then 2 ^ i else 0

/-- The translation block (R156). -/
def TransBlock.qword (x : TransBlock) : Nat → Nat
  | 0x00 => x.ptroot * 2 ^ 12 + flagAt x.en 0
  | 0x08 => x.rtbase * 2 ^ 12 + x.rtcount
  | 0x10 => x.tinvva
  | 0x18 => flagAt x.busy 63
  | 0x20 => x.ualog.toNat
  | 0x28 => x.uacount.toNat
  | _ => 0

/-- The front-end block (R396). -/
def FrontBlock.qword (x : FrontBlock) (o : Nat) : Nat :=
  if o < 0x40 then (Table.get 0 x.gtol (o / 4)).toNat + (Table.get 0 x.gtol (o / 4 + 1)).toNat * 2 ^ 32
  else match o with
    | 0x40 => x.qdbase.toNat
    | 0x48 => x.qcount
    | 0x50 => x.tout
    | 0x58 => x.quota
    | 0x60 => x.qerr.toNat + flagAt x.qerrv 31
    | _ => 0

/-- A storage table entry (R302). -/
def Stor.qword (x : Stor) : Nat → Nat
  | 0 => flagAt x.v 0 + flagAt x.lbas 1 + x.qid.toNat * 2 ^ 16 + x.nsid.toNat * 2 ^ 32
  | 1 => x.sqbase.toNat
  | 2 => x.cqbase.toNat
  | 3 => x.sqdb.toNat
  | 4 => x.cqdb.toNat
  | 5 => x.qsize + x.mdts * 2 ^ 16
  | _ => 0

/-- The control block (R421). -/
def Control.qword (x : Control) (o : Nat) : Nat :=
  if 0x48 ≤ o ∧ o < 0x78 then bits x.chunks.toNat (8 * (o - 0x48) + 63) (8 * (o - 0x48))
  else if 0x400 ≤ o ∧ o < 0x800 then (Table.get {} x.stor ((o - 0x400) / 64)).qword (o % 64 / 8)
  else match o with
    | 0x00 => x.clmask.toNat
    | 0x08 => x.hpmask + x.weight * 2 ^ 16 + x.quota * 2 ^ 24 + x.wquota * 2 ^ 32
    | 0x10 => x.tout + x.ddl * 2 ^ 16 + x.runlim * 2 ^ 32
    | 0x18 => x.qcount + x.pwait * 2 ^ 32
    | 0x20 => x.qdbase.toNat
    | 0x28 => x.tvec.toNat
    | 0x30 => x.qtbase.toNat
    | 0x38 => x.cxlbase.toNat
    | 0x40 => x.cxllim.toNat
    | 0x78 => flagAt x.act 0
    | 0x80 => x.devidc.toNat
    | _ => 0

/-- A sweep region of the stamp block (R337). -/
def Sweep.qword (x : Sweep) : Nat → Nat
  | 0 => x.vbase.toNat
  | 1 => x.cntm1 + flagAt x.v 26 + flagAt x.sw 27
  | 2 => x.floor.toNat
  | _ => x.cursor % 2 ^ 26 + x.skippg.toNat * 2 ^ 32 + x.winw.toNat * 2 ^ 48

/-- Whether a factor is staged, and its staged value. -/
def Stamp.staged (x : Stamp) (i : Nat) : Bool := Table.get false x.stgv i
def Stamp.stgw (x : Stamp) (i : Nat) : Nat := (Table.get 0 x.stg i).toNat

/-- The stamp block (R337). -/
def Stamp.qword (x : Stamp) (o : Nat) : Nat :=
  if 0x20 ≤ o ∧ o < 0x220 then (Table.get {} x.regs ((o - 0x20) / 32)).qword ((o - 0x20) % 32 / 8)
  else if 0x400 ≤ o ∧ o < 0x800 then
    (Table.get 0x3F800000#32 x.ft ((o - 0x400) / 4)).toNat + (Table.get 0x3F800000#32 x.ft ((o - 0x400) / 4 + 1)).toNat * 2 ^ 32
  else if 0x800 ≤ o ∧ o < 0xC00 then x.stgw ((o - 0x800) / 4) + x.stgw ((o - 0x800) / 4 + 1) * 2 ^ 32
  else if 0xC00 ≤ o ∧ o < 0xC20 then (List.range 64).foldl (fun n i => n + flagAt (x.staged (8 * (o - 0xC00) + i)) i) 0
  else match o with
    | 0x00 => x.step.toNat
    | 0x08 => x.pend
    | 0x10 => x.thr
    | _ => 0

/-- A qword of an error-log entry (R448). -/
def ELog.qword (x : ELog) : Nat → Nat
  | 0 => x.q0.toNat
  | 1 => x.q1.toNat
  | 2 => x.q2.toNat
  | _ => 0

/-- The device status block (R439). -/
def State.statusQword (s : State) (o : Nat) : Nat :=
  let x := s.status
  if o = 0 then x.svc + x.dies.toNat * 2 ^ 2 + x.hbmok.toNat * 2 ^ 6 + x.hpup.toNat * 2 ^ 14 + x.cxlup.toNat * 2 ^ 26 + x.therm * 2 ^ 34
  else if o < 0x68 then (Table.get 0 x.peers ((o - 8) / 8)).toNat
  else if o = 0x68 then x.cxlgib
  else if o = 0x80 then x.ehead
  else if 0x88 ≤ o ∧ o < 0xC8 then (Table.get 0 x.cecnt ((o - 0x88) / 8)).toNat
  else if 0x100 ≤ o ∧ o < 0x900 then (Table.get {} x.elog ((o - 0x100) / 32)).qword (o % 32 / 8)
  else if 0x1000 ≤ o ∧ o < 0x2000 then
    (s.core ((o - 0x1000) / 4)).spgate.toNat + (s.core ((o - 0x1000) / 4 + 1)).spgate.toNat * 2 ^ 32
  else if 0x2000 ≤ o ∧ o < 0x2200 then
    (s.slice ((o - 0x2000) / 4)).gate.toNat + (s.slice ((o - 0x2000) / 4 + 1)).gate.toNat * 2 ^ 32
  else 0

/-- A row of an access table (R159). -/
def AccRow.qword (x : AccRow) (o : Nat) : Nat :=
  if o < 0x40 then
    let r := Table.get {} x.ranges (o / 16)
    if o % 16 = 0 then r.base + r.rights.toNat * 2 + flagAt r.v 0 else r.limit
  else if o < 0x70 then bits x.chunks.toNat (8 * (o - 0x40) + 63) (8 * (o - 0x40))
  else if o = 0x70 then x.crights.toNat * 2 + flagAt x.cv 0
  else 0

/-- An access table with its refusal log (R424). -/
def AccTable.qword (x : AccTable) (o : Nat) : Nat :=
  if o < 0x2080 then (Table.get {} x.rows (o / 128)).qword (o % 128)
  else match o - 0x2080 with
    | 0 => x.logMaster + kindCode x.logKind * 2 ^ 8 + flagAt x.logv 63
    | 8 => x.logPa
    | 16 => x.logCount.toNat
    | _ => 0

/-- A byte of PLMAP; while a die is out of service, the other dies' chunks read as their own die's (R149, R441). -/
def State.plmapByte (s : State) (k : Nat) : Byte :=
  if s.allDies || !s.status.dies.getLsbD (k / 96) then Table.get 0 s.plmap k else BitVec.ofNat 8 (1 + 4 * (k / 96))

/-- The ALARM register (R435). -/
def Alarm.word (x : Alarm) : Nat := x.src.toNat + flagAt x.erased 4 + flagAt x.refuse 5 + x.count.toNat * 2 ^ 16

/-- The value of DEVID (R1). -/
def devid : Nat := 0x4B004600

/-- The qword at an 8-byte aligned offset of the MMIO range; where no register stands, zero. -/
def State.mmioQword (s : State) (o : Nat) : Nat :=
  let p := o / 0x1000 % 8
  if o = 0 then devid
  else if 0x100000 ≤ o ∧ o < 0x108000 then (s.part p).trans.qword (o % 0x1000)
  else if 0x300000 ≤ o ∧ o < 0x308000 then (s.part p).front.qword (o % 0x1000)
  else if 0x400000 ≤ o ∧ o < 0x400180 then leNat ((List.range 8).map fun i => s.plmapByte (o - 0x400000 + i))
  else if 0x500000 ≤ o ∧ o < 0x508000 then (s.part p).ctl.qword (o % 0x1000)
  else if 0x600000 ≤ o ∧ o < 0x608000 then (s.part p).stamp.qword (o % 0x1000)
  else if 0x700000 ≤ o ∧ o < 0x703000 then s.statusQword (o - 0x700000)
  else if 0x10000000 ≤ o ∧ o < 0x10000000 + 172 * 0x4000 then (s.accTable ((o - 0x10000000) / 0x4000)).qword (o % 0x4000)
  else 0

/-- The bytes that a read of the MMIO range gives. -/
def State.mmioRead (s : State) (pa n : Nat) : List Byte :=
  (List.range n).map fun i =>
    let o := pa + i - mmioBase
    BitVec.ofNat 8 (s.mmioQword (o / 8 * 8) >>> (8 * (o % 8)))

end Sys2Proof.Machine
end

