-- ==== Sys2Proof/Machine/Access.lean ====
section
/-! DEFINITION. Loads and stores of lanes: forwarding from the store queue, the L1, the scratchpad and entering the store
queue (spec/05_ordering.md, R120 to R123; spec/09_load_store.md, R219 to R225). -/

namespace Sys2Proof.Machine

open Sys2Proof

/-- An entry writes global memory, the scratchpad, or is an operation performed at its slice. -/
def SqKind.isGlobal : SqKind → Bool
  | .global => true
  | _ => false
def SqKind.isScratch : SqKind → Bool
  | .scratch => true
  | _ => false

/-- The bytes an item touches when it is an operation: 8, or 4 for a word RATOM. -/
def SqEntry.span (e : SqEntry) (i : SqItem) : Nat :=
  match e.kind with
  | .global | .scratch => i.bytes.length
  | .ratom _ wide _ _ _ => if wide then 8 else 4
  | .dadd _ | .dset => 8
  | .xst => 0

/-- An entry touches [a, a+n) with an item. -/
def SqEntry.touches (e : SqEntry) (a n : Nat) : Bool :=
  e.items.any fun i => decide (i.addr < a + n) && decide (a < i.addr + e.span i)

/-- The byte that an entry writes at an address: that of its highest lane (R123). -/
def SqEntry.byteAt (e : SqEntry) (a : Nat) : Option Byte :=
  e.items.foldl (fun r i => if decide (i.addr ≤ a) && decide (a < i.addr + i.bytes.length) then some (i.bytes.getD (a - i.addr) 0) else r) none

/-- The youngest entry's byte at an address. -/
def youngestByte (es : List SqEntry) (a : Nat) : Option Byte :=
  es.foldl (fun r e => match e.byteAt a with | some b => some b | none => r) none

/-- The queued entries that a load of lane `l` reads from: those joined with it (R121, R122). -/
def seenEntries (es : List SqEntry) (l : Nat) : List SqEntry := es.filter fun e => e.mask.getLsbD l

/-- What the store queue holds for a load of [a, a+n). -/
inductive Fwd where
  /-- Nothing: read the place itself. -/
  | none_
  /-- Every byte. -/
  | all (bytes : List Byte)
  /-- A part, or an operation's result: the load waits (R122, R319, R346). -/
  | wait
  deriving DecidableEq, Repr

def forward (w : Weave) (scratch : Bool) (l a n : Nat) : Fwd :=
  if w.sq.isEmpty then .none_
  else
    let seen := seenEntries w.sq l
    let st := seen.filter fun e => if scratch then e.kind.isScratch else e.kind.isGlobal
    if !scratch && seen.any (fun e => !e.kind.isGlobal && !e.kind.isScratch && e.touches a n) then .wait
    else
      let bs := (List.range n).map fun i => youngestByte st (a + i)
      if bs.all (·.isNone) then .none_
      else if bs.all (·.isSome) then .all (bs.map (·.getD 0))
      else .wait

/-- An older store of the weave to the MMIO range is still queued: a read of the range waits for it (R139). -/
def Weave.mmioQueued (w : Weave) : Bool := w.sq.any fun e => e.kind.isGlobal && e.items.any fun i => inMmio i.addr

/-- A RATOM of the weave is still queued. -/
def Weave.ratomQueued (w : Weave) : Bool := w.sq.any fun e => match e.kind with
  | .ratom .. => true
  | _ => false

/-- The first of `n` free values that are taken now, and the state that has used them. -/
def State.takeFree (s : State) (n : Nat) : Nat × State := (s.free, { s with free := s.free + n })

/-- A global load of one lane at `pa`: a register of the MMIO range, in program order and never forwarded (R139); a queued
store's bytes; or the committed or provisional bytes (R120, R136). None when it must wait: for a queued store, or for a
slice that wakes (R315). -/
def State.loadLane (s : State) (c : Ctx) (kind l va pa n : Nat) : State × Option (List Byte) :=
  if inMmio pa then (s, if (s.weave c.wk).mmioQueued then none else some (s.mmioRead pa n))
  else match forward (s.weave c.wk) false l pa n with
    | .none_ =>
      if s.sliceWakes pa then (s, none)
      else let (s, b) := s.l1Load c.core c.part kind (s.gang c.gk).tag va pa n; (s, some b)
    | .all b => (s, some b)
    | .wait => (s, none)

/-- Loads for every lane that passed: lanes that read the same bytes read the same value (R123). The lanes that must wait
are held, to issue again. -/
def State.loadLanes (s : State) (c : Ctx) (pass : List (Nat × Nat)) (addr : Nat → Nat) (n : Nat) :
    State × List (Nat × List Byte) × BitVec 32 :=
  let (s, got, wait, _) := pass.foldl (fun (s, got, wait, seen) e =>
    match (seen : List (Nat × List Byte)).find? fun x => x.1 == e.2 with
    | some x => (s, got ++ [(e.1, x.2)], wait, seen)
    | none => match s.loadLane c 0 e.1 (addr e.1) e.2 n with
      | (s, some b) => (s, got ++ [(e.1, b)], wait, (e.2, b) :: seen)
      | (s, none) => (s, got, setBit wait e.1 true, seen)) ((s, [], 0, []) : State × List (Nat × List Byte) × BitVec 32 × List (Nat × List Byte))
  (s, got, wait)

/-- A weave's store queue has its 16 entries (R224). -/
def Weave.sqFull (w : Weave) : Bool := decide (16 ≤ w.sq.length)

/-- Enters one store-queue entry. -/
def State.enqueue (s : State) (c : Ctx) (kind : SqKind) (act : BitVec 32) (items : List SqItem) : State :=
  if items.isEmpty then s
  else s.modWeave c.wk fun w => { w with sq := w.sq ++ [{ kind := kind, items := items, mask := act, tag := (s.gang c.gk).tag }] }

/-- The mask of the first components. -/
def maskOfPairs {α : Type} (p : List (Nat × α)) : BitVec 32 := maskOf fun l => p.any fun e => e.1 == l

/-- Bytes [o, o+n) of a gang's scratchpad allocation, front half. -/
def Gang.spRead (g : Gang) (o : Nat) (n : Nat) : List Byte := memRead g.scratch o n
def Gang.spSize (g : Gang) : Nat := 256 * g.spb
def Gang.spWrite (g : Gang) (o : Nat) (bs : List Byte) : Gang :=
  { g with
    scratch := memWrite g.scratch o bs
    spPoison := g.spPoison.filter fun u => !(decide (o ≤ 8 * u) && decide (8 * u + 8 ≤ o + bs.length)) }

/-- A scratchpad access of [o, o+n): alignment, then bounds (R221, R225). -/
def Gang.spCheck (g : Gang) (o n : Nat) : Option Word :=
  if o % n ≠ 0 then some 0x12#32 else if g.spSize < o + n then some 0x13#32 else none

/-- The same for an access that reads: uncorrectable data are 0x60 (R221 step 8). -/
def Gang.spReadCheck (g : Gang) (o n : Nat) : Option Word :=
  match g.spCheck o n with
  | some st => some st
  | none => if g.spPoison.any fun u => decide (8 * u < o + n) && decide (o < 8 * u + 8) then some 0x60#32 else none

/-- A bank of the core that [o, o+n) touches is gated or wakes (R449): banks are 32 KiB. -/
def State.bankHeld (s : State) (core o n : Nat) : Bool :=
  let x := s.core core
  (List.range 8).any fun b => (x.waking.getLsbD b) && decide (o < 32768 * (b + 1)) && decide (32768 * b < o + n)

end Sys2Proof.Machine
end

