-- ==== Sys2Proof/Machine/LaneInt.lean ====
section
/-! DEFINITION. The integer instructions of the lane arithmetic engine (spec/07_lane_arithmetic.md, R163 to R172, R186):
their values as functions of words, the shared per-lane effect, and one meaning for each. -/

namespace Sys2Proof.Machine

open Sys2Proof

/-! ### Values -/

/-- An integer immediate, sign- or zero-extended (R68). -/
def immExt (imm : BitVec 24) (zx : Bool) : Word := if zx then imm.setWidth 32 else imm.signExtend 32

/-- An exact sum clamped to the signed or unsigned range (R167). -/
def clampWord (unsigned : Bool) (x : Int) : Word :=
  if unsigned then BitVec.ofInt 32 (max 0 (min x (2 ^ 32 - 1)))
  else BitVec.ofInt 32 (max (-(2 ^ 31)) (min x (2 ^ 31 - 1)))

/-- The integer that a word stands for. -/
def wordInt (unsigned : Bool) (a : Word) : Int := if unsigned then a.toNat else a.toInt

def vAdd (m : BitVec 5) (a b : Word) : Word :=
  if m.getLsbD 2 then clampWord (m.getLsbD 3) (wordInt (m.getLsbD 3) a + wordInt (m.getLsbD 3) b) else a + b
def vSub (m : BitVec 5) (a b : Word) : Word :=
  if m.getLsbD 2 then clampWord (m.getLsbD 3) (wordInt (m.getLsbD 3) a - wordInt (m.getLsbD 3) b) else a - b
def vMul64 (u : Bool) (a b : Word) : Dbl := if u then a.setWidth 64 * b.setWidth 64 else sx64 a * sx64 b
def vMulh (m : BitVec 5) (a b : Word) : Word := hiWord (vMul64 (m.getLsbD 3) a b)
def vAbs (m : BitVec 5) (b : Word) : Word :=
  if b = 0x80000000#32 then (if m.getLsbD 2 then 0x7FFFFFFF#32 else b) else if b.msb then -b else b
def vNeg (m : BitVec 5) (b : Word) : Word := if b = 0x80000000#32 ∧ m.getLsbD 2 = true then 0x7FFFFFFF#32 else -b
def wordLt (u : Bool) (a b : Word) : Bool := if u then BitVec.ult a b else BitVec.slt a b
def vMin (m : BitVec 5) (a b : Word) : Word := if wordLt (m.getLsbD 3) b a then b else a
def vMax (m : BitVec 5) (a b : Word) : Word := if wordLt (m.getLsbD 3) a b then b else a
def vShl (a n : Word) : Word := if 32 ≤ n.toNat then 0 else a <<< n.toNat
def vShr (m : BitVec 5) (a n : Word) : Word :=
  if m.getLsbD 3 then (if 32 ≤ n.toNat then 0 else a >>> n.toNat)
  else if 32 ≤ n.toNat then (if a.msb then 0xFFFFFFFF#32 else 0) else a.sshiftRight n.toNat
def vRot (m : BitVec 5) (a n : Word) : Word :=
  let k := n.toNat % 32
  if m.getLsbD 0 then a.rotateRight k else a.rotateLeft k
def vBfe (m : BitVec 5) (a b c : Word) : Word :=
  let p := b.toNat % 256
  let w := c.toNat % 256
  if w = 0 ∨ 32 ≤ p then 0
  else
    let w := min w (32 - p)
    let f := (a >>> p) <<< (32 - w)
    if m.getLsbD 3 then f >>> (32 - w) else f.sshiftRight (32 - w)
def vBfi (a b c : Word) : Word :=
  let p := c.toNat % 256
  let w := c.toNat / 256 % 256
  if w = 0 ∨ 32 ≤ p then b
  else
    let w := min w (32 - p)
    let m : Word := (0xFFFFFFFF#32 >>> (32 - w)) <<< p
    (b &&& ~~~m) ||| ((a <<< p) &&& m)
def vPopc (b : Word) : Word := BitVec.ofNat 32 ((List.range 32).filter fun i => b.getLsbD i).length
def vClz (b : Word) : Word := BitVec.ofNat 32 (((List.range 32).find? fun i => b.getLsbD (31 - i)).getD 32)
def vCtz (b : Word) : Word := BitVec.ofNat 32 (((List.range 32).find? fun i => b.getLsbD i).getD 32)
def vBrev (b : Word) : Word := maskOf fun i => b.getLsbD (31 - i)
def vCmp (m : BitVec 5) (a b : Word) : Word :=
  let lt := wordLt (m.getLsbD 3) a b
  let r := match (m.extractLsb' 0 3).toNat with
    | 0 => a == b
    | 1 => a != b
    | 2 => lt
    | 3 => lt || a == b
    | 4 => !(lt || a == b)
    | _ => !lt
  if r then 1 else 0
/-- Byte `j` of a word, signed or not. -/
def byteInt (u : Bool) (a : Word) (j : Nat) : Int :=
  let b : BitVec 8 := a.extractLsb' (8 * j) 8
  if u then b.toNat else b.toInt
def vDot4 (m : BitVec 5) (a b c : Word) : Word :=
  let x := (List.range 4).foldl (fun t j => t + byteInt (m.getLsbD 0) a j * byteInt (m.getLsbD 1) b j) c.toInt
  if m.getLsbD 2 then clampWord false x else BitVec.ofInt 32 x

/-! ### The shared effect -/

/-- A destination that must be one of p1 to p15 (R169). -/
def isPredDest : Operand → Bool
  | .p i => i.val != 0
  | _ => false

/-- A field in the prologue subset (R186): an operand of the subset, a predicate where only one is accepted, or unused. -/
def proField (cls : Operand → Bool) (o : Operand) : Bool :=
  proOperand o || (isP o && !cls (.s 0)) || (isUnused o && !cls (.v 1))

/-- The demand of the prologue sequencer: every register. -/
def proGang : Gang := { vreg := 320, sreg := 64, preg := 16, hreg := 16 }

/-- The operands of an F3 word as values. -/
def f3Srcs (w : F3) (c : Bool) : List Operand := if c then [w.a, w.b, w.srcC] else [w.a, w.b]

/-- What lane `l` reads from SRCA, SRCB with its modifier, and source C. -/
def Env.a3 (e : Env) (ops : Table AsyncOp) (w : F3) (l : Nat) : Word := e.rd ops 0 w.a l
def Env.b3 (e : Env) (ops : Table AsyncOp) (w : F3) (c : Bool) (l : Nat) : Word :=
  e.rd ops 1 w.b (if c || !isV w.b then l else modbLane w.modb l)
def Env.c3 (e : Env) (ops : Table AsyncOp) (w : F3) (l : Nat) : Word := e.rd ops 2 w.srcC l

/-- The gate of an F3 word of LA. -/
def laGate (g : Gang) (w : F3) (dst a b : Operand → Bool) (c : Option (Operand → Bool)) (modb mods : Bool) (isInt : Bool) : Gate :=
  let srcs := (if isUnused w.a && !a (.v 1) then [] else [w.a]) ++ (if isUnused w.b && !b (.v 1) then [] else [w.b]) ++
    (if c.isSome then [w.srcC] else [])
  { legal := f3Legal g w dst a b c modb (a (.v 1)) (b (.v 1)) mods && uniformOk w.dst srcs
    engine := .la, laUni := isInt && !perLane w.dst, privileged := privDst w.dst
    pred := w.pred.toNat, neg := w.neg, srcs := srcs, regs := vregsOf srcs, holds := holdsOf w }

/-- An F3 integer word (R163): for each lane of `active`, or once, the destination takes the value; in the prologue
sequencer it is computed on its uniform registers (R186). -/
def laInt (s : State) (w : F3) (dst a b : Operand → Bool) (c : Option (Operand → Bool)) (modb mods : Bool)
    (val : Word → Word → Word → Word) : Out :=
  match s.cur with
  | some (.prologue p) =>
    if (s.part p).prologue.isNone then .fault .noIssuer
    else
      let legal := f3Legal proGang w dst a b c modb false false mods && proField dst w.dst && proField a w.a &&
        proField b w.b && (match c with | some f => proField f w.srcC | none => true)
      .next (s.runPrologue p legal w.pred.toNat w.neg fun x s =>
        s.setPrologue p (x.wr w.dst (val (x.rd w.a) (x.rd w.b) (x.rd w.srcC))))
  | _ => onWeave s fun k =>
    s.runWord k (laGate (s.gang k.gk) w dst a b c modb mods true) fun e act s =>
      (s.modWeave k.wk fun x => x.wrMask w.dst act fun l =>
        val (e.a3 s.ops w l) (e.b3 s.ops w c.isSome l) (e.c3 s.ops w l)).advance k act

/-- An FI integer word. -/
def laIntImm (s : State) (w : FI) (dst a : Operand → Bool) (mods : Bool) (imm : Word) (val : Word → Word → Word) : Out :=
  match s.cur with
  | some (.prologue p) =>
    if (s.part p).prologue.isNone then .fault .noIssuer
    else
      let legal := fiLegal proGang w dst a mods && proField dst w.dst && proField a w.a
      .next (s.runPrologue p legal w.pred.toNat w.neg fun x s =>
        s.setPrologue p (x.wr w.dst (val (x.rd w.a) imm)))
  | _ => onWeave s fun k =>
    let srcs := if isUnused w.a && !a (.v 1) then [] else [w.a]
    s.runWord k
      { legal := fiLegal (s.gang k.gk) w dst a mods && uniformOk w.dst srcs
        engine := .la, laUni := !perLane w.dst, privileged := privDst w.dst
        pred := w.pred.toNat, neg := w.neg, srcs := srcs, regs := vregsOf srcs } fun e act s =>
      (s.modWeave k.wk fun x => x.wrMask w.dst act fun l => val (e.rd s.ops 0 w.a l) imm).advance k act

/-- Source C and its next register as a pair. -/
def F3cHi (w : F3) : Operand := nextReg w.srcC 1

/-- A word that writes a pair from SRCA, SRCB and the pair at source C (R171). -/
def laInt2 (s : State) (w : F3) (dst c : Operand → Bool) (isInt : Bool) (mods : Bool) (val : Word → Word → Word → Word → Dbl) : Out :=
  match s.cur with
  | some (.prologue p) =>
    if (s.part p).prologue.isNone then .fault .noIssuer
    else
      let legal := f3Legal proGang w dst isSource isSource (some c) false false false mods && proOperand w.dst &&
        proOperand w.a && proOperand w.b && proOperand w.srcC && isS w.dst && isS w.srcC
      .next (s.runPrologue p legal w.pred.toNat w.neg fun x s =>
        let r := val (x.rd w.a) (x.rd w.b) (x.rd w.srcC) (x.rd (F3cHi w))
        s.setPrologue p ((x.wr w.dst (loWord r)).wr (nextReg w.dst 1) (hiWord r)))
  | _ => onWeave s fun k =>
    let g := s.gang k.gk
    let gt := laGate g w dst isSource isSource (some c) false mods isInt
    s.runWord k { gt with
        legal := gt.legal && inDemand g w.dst 2 && inDemand g w.srcC 2
        srcs := gt.srcs ++ [F3cHi w], regs := vregsOf (gt.srcs ++ [F3cHi w]) } fun e act s =>
      let r (l : Nat) : Dbl := val (e.a3 s.ops w l) (e.b3 s.ops w true l) (e.c3 s.ops w l) (e.rd s.ops 3 (F3cHi w) l)
      (s.modWeave k.wk fun x => (x.wrMask w.dst act fun l => loWord (r l)).wrMask (nextReg w.dst 1) act fun l => hiWord (r l)).advance k act

/-- The sum with carry (R169), which writes its destination and then its carry predicate. -/
def laCarry (s : State) (w : F3) (mods : Bool) : Out :=
  let carry (a b c : Word) : Nat := a.toNat + b.toNat + c.toNat % 2
  match s.cur with
  | some (.prologue p) =>
    if (s.part p).prologue.isNone then .fault .noIssuer
    else
      let legal := f3Legal proGang w isDest isSource isSource (some isPredDest) false false false mods &&
        proField isDest w.dst && proOperand w.a && proOperand w.b
      .next (s.runPrologue p legal w.pred.toNat w.neg fun x s =>
        let r := carry (x.rd w.a) (x.rd w.b) (x.rd w.srcC)
        s.setPrologue p ((x.wr w.dst (BitVec.ofNat 32 r)).wr w.srcC (BitVec.ofNat 32 (r / 2 ^ 32))))
  | _ => onWeave s fun k =>
    s.runWord k (laGate (s.gang k.gk) w isDest isSource isSource (some isPredDest) false mods true) fun e act s =>
      let r (l : Nat) : Nat := carry (e.a3 s.ops w l) (e.b3 s.ops w true l) (e.c3 s.ops w l)
      (s.modWeave k.wk fun x => (x.wrMask w.dst act fun l => BitVec.ofNat 32 (r l)).wrMask w.srcC act fun l =>
        BitVec.ofNat 32 (r l / 2 ^ 32)).advance k act

/-! ### The instructions -/

/-- IADD (R167): a + b, wrapping or saturating. -/
def execIadd (w : F3) (s : State) : Out :=
  laInt s w isDest isSource isSource none true (modsIn w.mods 0b01100 && (!w.mods.getLsbD 3 || w.mods.getLsbD 2)) fun a b _ => vAdd w.mods a b

/-- IADD with an immediate (R164, R167). -/
def execIaddFi (w : FI) (s : State) : Out :=
  laIntImm s w isDest isSource (modsIn w.mods 0b11100 && (!w.mods.getLsbD 3 || w.mods.getLsbD 2)) (immExt w.imm (w.mods.getLsbD 4)) fun a b => vAdd w.mods a b

/-- ISUB (R167): a − b, wrapping or saturating. -/
def execIsub (w : F3) (s : State) : Out :=
  laInt s w isDest isSource isSource none true (modsIn w.mods 0b01100 && (!w.mods.getLsbD 3 || w.mods.getLsbD 2)) fun a b _ => vSub w.mods a b

/-- ISUB with an immediate (R164, R167). -/
def execIsubFi (w : FI) (s : State) : Out :=
  laIntImm s w isDest isSource (modsIn w.mods 0b11100 && (!w.mods.getLsbD 3 || w.mods.getLsbD 2)) (immExt w.imm (w.mods.getLsbD 4)) fun a b => vSub w.mods a b

/-- IMUL (R167): the low 32 bits of a·b. -/
def execImul (w : F3) (s : State) : Out :=
  laInt s w isDest isSource isSource none true (w.mods == 0) fun a b _ => a * b

/-- IMUL with an immediate (R164, R167). -/
def execImulFi (w : FI) (s : State) : Out :=
  laIntImm s w isDest isSource (modsIn w.mods 0b10000) (immExt w.imm (w.mods.getLsbD 4)) fun a b => a * b

/-- IMULH (R167): bits [63:32] of the product. -/
def execImulh (w : F3) (s : State) : Out :=
  laInt s w isDest isSource isSource none true (modsIn w.mods 0b01000) fun a b _ => vMulh w.mods a b

/-- IMAD (R167): the low 32 bits of a·b + c. -/
def execImad (w : F3) (s : State) : Out :=
  laInt s w isDest isSource isSource (some isSource) false (w.mods == 0) fun a b c => a * b + c

/-- IMADW (R171): a 64-bit multiply-add on register pairs. -/
def execImadw (w : F3) (s : State) : Out :=
  let u := w.mods.getLsbD 3
  let val (a b lo hi : Word) : Dbl := vMul64 u a b + pair lo hi
  laInt2 s w isPair isPair true (modsIn w.mods 0b01000) val

/-- IABS (R164, R167): |b|. -/
def execIabs (w : F3) (s : State) : Out :=
  laInt s w isDest isUnused isSource none true (modsIn w.mods 0b00100) fun _ b _ => vAbs w.mods b

/-- INEG (R164, R167): −b. -/
def execIneg (w : F3) (s : State) : Out :=
  laInt s w isDest isUnused isSource none true (modsIn w.mods 0b00100) fun _ b _ => vNeg w.mods b

/-- IMIN (R167): the smaller. -/
def execImin (w : F3) (s : State) : Out :=
  laInt s w isDest isSource isSource none true (modsIn w.mods 0b01000) fun a b _ => vMin w.mods a b

/-- IMIN with an immediate (R164, R167). -/
def execIminFi (w : FI) (s : State) : Out :=
  laIntImm s w isDest isSource (modsIn w.mods 0b11000) (immExt w.imm (w.mods.getLsbD 4)) fun a b => vMin w.mods a b

/-- IMAX (R167): the larger. -/
def execImax (w : F3) (s : State) : Out :=
  laInt s w isDest isSource isSource none true (modsIn w.mods 0b01000) fun a b _ => vMax w.mods a b

/-- IMAX with an immediate (R164, R167). -/
def execImaxFi (w : FI) (s : State) : Out :=
  laIntImm s w isDest isSource (modsIn w.mods 0b11000) (immExt w.imm (w.mods.getLsbD 4)) fun a b => vMax w.mods a b

/-- AND (R167): a and b. -/
def execAnd (w : F3) (s : State) : Out :=
  laInt s w isDest isSource isSource none true (w.mods == 0) fun a b _ => a &&& b

/-- AND with an immediate (R164, R167). -/
def execAndFi (w : FI) (s : State) : Out :=
  laIntImm s w isDest isSource (modsIn w.mods 0b10000) (immExt w.imm (w.mods.getLsbD 4)) fun a b => a &&& b

/-- OR (R167): a or b. -/
def execOr (w : F3) (s : State) : Out :=
  laInt s w isDest isSource isSource none true (w.mods == 0) fun a b _ => a ||| b

/-- OR with an immediate (R164, R167). -/
def execOrFi (w : FI) (s : State) : Out :=
  laIntImm s w isDest isSource (modsIn w.mods 0b10000) (immExt w.imm (w.mods.getLsbD 4)) fun a b => a ||| b

/-- XOR (R167): a xor b. -/
def execXor (w : F3) (s : State) : Out :=
  laInt s w isDest isSource isSource none true (w.mods == 0) fun a b _ => a ^^^ b

/-- XOR with an immediate (R164, R167). -/
def execXorFi (w : FI) (s : State) : Out :=
  laIntImm s w isDest isSource (modsIn w.mods 0b10000) (immExt w.imm (w.mods.getLsbD 4)) fun a b => a ^^^ b

/-- NOT (R164, R167): not b. -/
def execNot (w : F3) (s : State) : Out :=
  laInt s w isDest isUnused isSource none true (w.mods == 0) fun _ b _ => ~~~b

/-- ANDN (R167): a and not b. -/
def execAndn (w : F3) (s : State) : Out :=
  laInt s w isDest isSource isSource none true (w.mods == 0) fun a b _ => a &&& ~~~b

/-- ANDN with an immediate (R164, R167). -/
def execAndnFi (w : FI) (s : State) : Out :=
  laIntImm s w isDest isSource (modsIn w.mods 0b10000) (immExt w.imm (w.mods.getLsbD 4)) fun a b => a &&& ~~~b

/-- SHL (R167): left shift (R168). -/
def execShl (w : F3) (s : State) : Out :=
  laInt s w isDest isSource isSource none true (w.mods == 0) fun a b _ => vShl a b

/-- SHL with an immediate (R164, R167). -/
def execShlFi (w : FI) (s : State) : Out :=
  laIntImm s w isDest isSource (modsIn w.mods 0b10000) (immExt w.imm (w.mods.getLsbD 4)) fun a b => vShl a b

/-- SHR (R167): right shift (R168). -/
def execShr (w : F3) (s : State) : Out :=
  laInt s w isDest isSource isSource none true (modsIn w.mods 0b01000) fun a b _ => vShr w.mods a b

/-- SHR with an immediate (R164, R167). -/
def execShrFi (w : FI) (s : State) : Out :=
  laIntImm s w isDest isSource (modsIn w.mods 0b11000) (immExt w.imm (w.mods.getLsbD 4)) fun a b => vShr w.mods a b

/-- ROT (R167): rotate (R168). -/
def execRot (w : F3) (s : State) : Out :=
  laInt s w isDest isSource isSource none true (modsIn w.mods 0b00001) fun a b _ => vRot w.mods a b

/-- ROT with an immediate (R164, R167). -/
def execRotFi (w : FI) (s : State) : Out :=
  laIntImm s w isDest isSource (modsIn w.mods 0b10001) (immExt w.imm (w.mods.getLsbD 4)) fun a b => vRot w.mods a b

/-- BFE (R168). -/
def execBfe (w : F3) (s : State) : Out :=
  laInt s w isDest isSource isSource (some isSource) false (modsIn w.mods 0b01000) fun a b c => vBfe w.mods a b c

/-- BFE with position and width in the immediate (R168). -/
def execBfeFi (w : FI) (s : State) : Out :=
  laIntImm s w isDest isSource (modsIn w.mods 0b01000 && w.imm.extractLsb' 16 8 == 0) (immExt w.imm true) fun a b =>
    vBfe w.mods a (b &&& 0xFF#32) (b >>> 8)

/-- BFI (R168). -/
def execBfi (w : F3) (s : State) : Out :=
  laInt s w isDest isSource isSource (some isSource) false (w.mods == 0) fun a b c => vBfi a b c

/-- POPC (R164, R167): the number of 1 bits. -/
def execPopc (w : F3) (s : State) : Out :=
  laInt s w isDest isUnused isSource none true (w.mods == 0) fun _ b _ => vPopc b

/-- CLZ (R164, R167): leading zeros. -/
def execClz (w : F3) (s : State) : Out :=
  laInt s w isDest isUnused isSource none true (w.mods == 0) fun _ b _ => vClz b

/-- CTZ (R164, R167): trailing zeros. -/
def execCtz (w : F3) (s : State) : Out :=
  laInt s w isDest isUnused isSource none true (w.mods == 0) fun _ b _ => vCtz b

/-- BREV (R164, R167): bits reversed. -/
def execBrev (w : F3) (s : State) : Out :=
  laInt s w isDest isUnused isSource none true (w.mods == 0) fun _ b _ => vBrev b

/-- ISEL (R169): a where the predicate reads 1, else b. -/
def execIsel (w : F3) (s : State) : Out :=
  laInt s w isDest isSource isSource (some isP) false (w.mods == 0) fun a b c => if c.getLsbD 0 then a else b

/-- ICMP (R169). -/
def execIcmp (w : F3) (s : State) : Out :=
  laInt s w isPredDest isSource isSource none true (modsIn w.mods 0b01111 && decide ((w.mods.extractLsb' 0 3).toNat < 6)) fun a b _ => vCmp w.mods a b

/-- ICMP with an immediate (R169). -/
def execIcmpFi (w : FI) (s : State) : Out :=
  laIntImm s w isPredDest isSource (decide ((w.mods.extractLsb' 0 3).toNat < 6)) (immExt w.imm (w.mods.getLsbD 4)) fun a b => vCmp w.mods a b

/-- IADDC (R169): the sum with carry in; the carry out goes back to the predicate. -/
def execIaddc (w : F3) (s : State) : Out :=
  laCarry s w (w.mods == 0)

/-- LEA (R170): a + (b << c[4:0]). -/
def execLea (w : F3) (s : State) : Out :=
  laInt s w isDest isSource isSource (some isSource) false (w.mods == 0) fun a b c => a + (b <<< (c.toNat % 32))

/-- LEA with an immediate (R170). -/
def execLeaFi (w : FI) (s : State) : Out :=
  laIntImm s w isDest isSource (w.mods == 0) ((w.imm.extractLsb' 0 19).signExtend 32 <<< (w.imm.extractLsb' 19 5).toNat) fun a b => a + b

/-- MOV (R164, R167): b, bit pattern unchanged. -/
def execMov (w : F3) (s : State) : Out :=
  laInt s w isDest isUnused isSource none true (w.mods == 0) fun _ b _ => b

/-- MOVI (R167): the extended immediate. -/
def execMovi (w : FI) (s : State) : Out :=
  laIntImm s w isDest isUnused (modsIn w.mods 0b10000) (immExt w.imm (w.mods.getLsbD 4)) fun _ b => b

/-- MOVHI (R170): IMM[15:0] above a[15:0]. -/
def execMovhi (w : FI) (s : State) : Out :=
  laIntImm s w isDest isSource (w.mods == 0 && w.imm.extractLsb' 16 8 == 0) (immExt w.imm true) fun a b => (b <<< 16) ||| (a &&& 0xFFFF#32)

/-- PAND (R169): predicate logic with optional complements. -/
def execPand (w : F3) (s : State) : Out :=
  laInt s w isPredDest isP isP none false (modsIn w.mods 0b00011) fun a b _ =>
    if (a.getLsbD 0 ^^ w.mods.getLsbD 0) && (b.getLsbD 0 ^^ w.mods.getLsbD 1) then 1 else 0

/-- POR (R169): predicate logic with optional complements. -/
def execPor (w : F3) (s : State) : Out :=
  laInt s w isPredDest isP isP none false (modsIn w.mods 0b00011) fun a b _ =>
    if (a.getLsbD 0 ^^ w.mods.getLsbD 0) || (b.getLsbD 0 ^^ w.mods.getLsbD 1) then 1 else 0

/-- PXOR (R169): predicate logic with optional complements. -/
def execPxor (w : F3) (s : State) : Out :=
  laInt s w isPredDest isP isP none false (modsIn w.mods 0b00011) fun a b _ =>
    if (a.getLsbD 0 ^^ w.mods.getLsbD 0) ^^ (b.getLsbD 0 ^^ w.mods.getLsbD 1) then 1 else 0

/-- IDP4 (R172): a four-way byte dot product; outside the prologue subset (R186). -/
def execIdp4 (w : F3) (s : State) : Out :=
  match s.cur with
  | some (.prologue _) => weaveOnly s fun _ => s
  | _ => laInt s w isDest isSource isSource (some isSource) false (modsIn w.mods 0b00111) fun a b c => vDot4 w.mods a b c

end Sys2Proof.Machine
end

