-- ==== Sys2Proof/Machine/Sequencer.lean ====
section
/-! DEFINITION. The sequencer's instructions (spec/08_sequencer.md, R187 to R218). -/

namespace Sys2Proof.Machine

open Sys2Proof

/-- The gate of an F3 sequencer word: MODB zero, HOLD only on a vector SRCA, which some words take only of an even number
(R188). -/
def sqGate (g : Gang) (w : F3) (dst a b : Operand → Bool) (mods : Bool) (vals : List Operand) : Gate :=
  { legal := f3Legal g w dst a b none false (a (.v 2)) false mods
    engine := .sq, pred := w.pred.toNat, neg := w.neg, srcs := vals, regs := vregsOf vals, holds := holdsOf w }

/-- The gate of an FI sequencer word. -/
def sqGateI (g : Gang) (w : FI) (dst a : Operand → Bool) (ok : Bool) (vals : List Operand) : Gate :=
  { legal := fiLegal g w dst a (w.mods == 0 && ok), engine := .sq, pred := w.pred.toNat, neg := w.neg, srcs := vals
    regs := vregsOf vals }

/-- A once-per-weave word: its effect, provided that `active` holds a lane (R187). -/
def once (act : BitVec 32) (s : State) (f : State → State) : State := if act = 0 then s else f s

/-- A once-per-weave word of another engine: its effect, provided that `active` holds a lane that is not a helper; else its
lanes only go on (R267, R273, R316, R341, R359, R380). -/
def onceReal (k : Ctx) (act : BitVec 32) (s : State) (f : State → State) : State :=
  if act &&& ~~~k.helpers = 0 then s.advance k act else f s

/-- The target of a direct transfer (R68, R189). -/
def Ctx.target (c : Ctx) (imm : BitVec 24) : Dbl := c.head + (imm.signExtend 64 <<< 3)

/-! ### Control transfers (R189 to R195) -/

/-- BRA (R190). -/
def execBra (w : FI) (s : State) : Out :=
  weaveOnly s fun k => s.runWord k (sqGateI (s.gang k.gk) w isUnused isUnused k.last []) fun _ act s =>
    s.jump k act (k.target w.imm)

/-- BRAU (R191): one decision for the whole lane set. -/
def execBrau (w : FI) (s : State) : Out :=
  weaveOnly s fun k =>
    s.runWord k { sqGateI (s.gang k.gk) { w with mods := 0 } isUnused isUnused k.last [] with
        legal := fiLegal (s.gang k.gk) w isUnused isUnused (modsIn w.mods 1 && k.last) } fun _ act s =>
      let v := k.lanes &&& ~~~k.helpers
      let t := act &&& ~~~k.helpers
      let take := (w.pred == 0 && !w.neg) || (if w.mods.getLsbD 0 then t == v else t != 0)
      if take then s.jump k k.lanes (k.target w.imm) else s.advance k k.lanes

/-- A 64-bit value of a register pair for a lane. -/
def Env.pairAt (e : Env) (ops : Table AsyncOp) (o : Operand) (l : Nat) : Nat :=
  (pair (e.rd ops 0 o l) (e.rd ops 4 (nextReg o 1) l)).toNat

/-- The status of a header's checks (R60); none for a valid header. -/
def headerStatus (h : Dbl) : Option Word :=
  let len := h.extractLsb' 0 4
  let a := h.getLsbD 20
  let b := h.getLsbD 25
  let fa := (h.extractLsb' 16 4).toNat
  let fb := (h.extractLsb' 21 4).toNat
  if len == 0 || h.extractLsb' 56 8 != 0xE7#8 || (if a then decide (12 ≤ fa) else fa != 0) || (if b then decide (12 ≤ fb) else fb != 0)
  then some 0x03#32
  else if h.extractLsb' 29 27 != 0 then some 0x01#32
  else none

/-- What an indirect target is (R192): 0 transfers, 1 misaligned, 2 a valid header without L. -/
def State.targetKind (s : State) (k : Ctx) (t : Nat) : State × Nat :=
  if t % 8 ≠ 0 then (s, 1)
  else match s.fetchWord k.core k.part t k.asker true with
    | (s, .word h) => (s, if headerStatus h = none ∧ h.getLsbD 26 = false then 2 else 0)
    | (s, _) => (s, 0)

/-- Sorts the lanes of an indirect transfer: those that transfer, and the faulting groups. -/
def State.sortTargets (s : State) (k : Ctx) (m : BitVec 32) (t : Nat → Nat) : State × BitVec 32 × BitVec 32 × BitVec 32 :=
  (lanesOf m).foldl (fun (s, go, mis, nol) l =>
    match s.targetKind k (t l) with
    | (s, 0) => (s, setBit go l true, mis, nol)
    | (s, 1) => (s, go, if k.helpers.getLsbD l then mis else setBit mis l true, nol)
    | (s, _) => (s, go, mis, if k.helpers.getLsbD l then nol else setBit nol l true)) (s, 0, 0, 0)

/-- The 0x09 group first, then the 0x08 group (R192). -/
def State.targetFaults (s : State) (k : Ctx) (mis nol : BitVec 32) (t : Nat → Nat) : State :=
  let f (s : State) (m : BitVec 32) (st : Word) : State :=
    if m = 0 then s else s.fault k m st (BitVec.ofNat 64 (t ((lanesOf m).headD 0)))
  f (f s mis 0x09#32) nol 0x08#32

/-- JMPI (R192). -/
def execJmpi (w : F3) (s : State) : Out :=
  weaveOnly s fun k =>
    let gt := sqGate (s.gang k.gk) w isUnused isPair isUnused (w.mods == 0 && k.last) [w.a, nextReg w.a 1]
    s.runWord k { gt with legal := gt.legal && inDemand (s.gang k.gk) w.a 2 } fun e act s =>
      let t (l : Nat) : Nat := e.pairAt s.ops w.a l
      let (s, go, mis, nol) := s.sortTargets k act t
      let s := s.modWeave k.wk fun x => (lanesOf go).foldl (fun x l => x.modLane l (·.goto (BitVec.ofNat 64 (t l)) true)) x
      s.targetFaults k mis nol t

/-- Pushes a return address on a lane's stack (R193). -/
def Lane.push (l : Lane) (ret : Dbl) : Lane :=
  let l := if l.rasn = 4 then { l with ovf := l.ovf + 1, rasn := 0 } else l
  { l with ras := Table.set 0 l.ras l.rasn ret, rasn := l.rasn + 1 }

/-- The frame that a full stack spills (R193). -/
def Lane.frame (l : Lane) : List Byte :=
  (List.range 4).flatMap (fun i => bytesOf 8 (Table.get 0 l.ras i).toNat) ++ List.replicate 32 0

/-- The lanes of a mask call: a lane whose stack is full spills it through the store queue first; a lane whose spill
faults or parks makes no transfer (R193, R195). -/
def State.call (s : State) (k : Ctx) (e : Env) (m : BitVec 32) (t : Nat → Dbl) : State :=
  let w := s.weave k.wk
  let full := maskOf fun l => m.getLsbD l && (w.lane l).rasn == 4
  if full != 0 && w.sqFull then s.holdIssue k e .queueFull
  else
    let frameAt (l : Nat) : Nat := ((w.lane l).stkb + BitVec.ofNat 64 (64 * (w.lane l).ovf.toNat)).toNat
    let (s, a) := s.checkLanes k full frameAt 64 1 .write false
    let s := s.enqueue k .global k.lanes ((a.pass.filter fun e => !k.helpers.getLsbD e.1).map fun e =>
      { lane := e.1, addr := e.2, va := BitVec.ofNat 64 (frameAt e.1), bytes := (w.lane e.1).frame })
    let ok := m &&& ~~~(maskOfPairs a.fault ||| maskOfPairs a.park)
    let s := s.modWeave k.wk fun x => (lanesOf ok).foldl (fun x l => x.modLane l fun y => (y.push k.next).goto (t l) true) x
    (s.parkLanes k.wk a.park .write).deliverFaults k a.fault

/-- CALL (R193). -/
def execCall (w : FI) (s : State) : Out :=
  weaveOnly s fun k => s.runWord k (sqGateI (s.gang k.gk) w isUnused isUnused k.last []) fun e act s =>
    s.call k e act fun _ => k.target w.imm

/-- CALLI (R192, R193). -/
def execCalli (w : F3) (s : State) : Out :=
  weaveOnly s fun k =>
    let gt := sqGate (s.gang k.gk) w isUnused isPair isUnused (w.mods == 0 && k.last) [w.a, nextReg w.a 1]
    s.runWord k { gt with legal := gt.legal && inDemand (s.gang k.gk) w.a 2 } fun e act s =>
      let t (l : Nat) : Nat := e.pairAt s.ops w.a l
      let (s, go, mis, nol) := s.sortTargets k act t
      if (go &&& maskOf fun l => (e.w.lane l).rasn == 4) != 0 && e.w.sqFull then s.holdIssue k e .queueFull
      else (s.call k e go fun l => BitVec.ofNat 64 (t l)).targetFaults k mis nol t

/-- Pops a lane's stack: the address, and the lane after it. -/
def Lane.pop (l : Lane) : Dbl × Lane := (Table.get 0 l.ras (l.rasn - 1), { l with rasn := l.rasn - 1 })

/-- A lane's stack refilled from a frame (R194). -/
def Lane.refill (l : Lane) (b : List Byte) : Lane :=
  { l with
    ras := (List.range 4).foldl (fun t i => Table.set 0 t i (BitVec.ofNat 64 (leNat ((b.drop (8 * i)).take 8)))) l.ras
    ovf := l.ovf - 1, rasn := 4 }

/-- RET (R194, R195); a helper whose refill would fault takes zeros (R37). -/
def execRet (w : F3) (s : State) : Out :=
  weaveOnly s fun k =>
    s.runWord k (sqGate (s.gang k.gk) w isUnused isUnused isUnused (w.mods == 0 && k.last) []) fun e act s =>
      let x := s.weave k.wk
      let s0 := s
      let out := maskOf fun l => act.getLsbD l && (x.lane l).rasn == 0 && (x.lane l).ovf == 0
      let fill := maskOf fun l => act.getLsbD l && (x.lane l).rasn == 0 && (x.lane l).ovf != 0
      let frameAt (l : Nat) : Nat := ((x.lane l).stkb + BitVec.ofNat 64 (64 * ((x.lane l).ovf.toNat - 1))).toNat
      let (s, a) := s.checkLanes k fill frameAt 32 1 .read false
      let (s, got, wait) := s.loadLanes k a.pass frameAt 32
      if wait ≠ 0 then s0.holdIssue k e .forwarding else
      let none_ := (lanesOf (fill &&& ~~~(maskOfPairs a.pass ||| maskOfPairs a.fault ||| maskOfPairs a.park))).map fun l => (l, List.replicate 32 (0 : Byte))
      let s := s.modWeave k.wk fun y => (got ++ none_).foldl (fun y e => y.modLane e.1 (·.refill e.2)) y
      let go := act &&& ~~~(out ||| maskOfPairs a.fault ||| maskOfPairs a.park)
      let y := s.weave k.wk
      let tgt (l : Nat) : Dbl := (y.lane l).pop.1
      let s := s.modWeave k.wk fun y => (lanesOf go).foldl (fun y l => y.modLane l fun z => z.pop.2.goto (tgt l) true) y
      let bad := maskOf fun l => go.getLsbD l && (tgt l).extractLsb' 0 3 != 0 && !k.helpers.getLsbD l
      let s := (s.parkLanes k.wk a.park .read).deliverFaults k a.fault
      let s := if bad = 0 then s
        else (s.modWeave k.wk fun y => y.modLanes bad (·.goto k.pc false)).fault k bad 0x09#32 (tgt ((lanesOf bad).headD 0))
      if out = 0 then s else s.exit k.wk out

/-! ### Meetings, exit, hints (R197 to R199) -/

/-- MEET (R197). -/
def execMeet (w : FI) (s : State) : Out :=
  weaveOnly s fun k =>
    s.runWord k (sqGateI (s.gang k.gk) w (fun o => isV o || isZero o) isUnused true []) fun e act s =>
      let mr : Word := ((k.target w.imm - (s.gang k.gk).kaddr).setWidth 32) &&& 0xFFFFFFF8#32
      (s.modWeave k.wk fun x =>
        let x := if isV w.dst then x.wrMask w.dst act fun l => e.rd s.ops 0 (.special .mr) l else x
        x.wrMask (.special .mr) act fun _ => mr).advance k act

/-- REJOIN (R197). -/
def execRejoin (w : F3) (s : State) : Out :=
  weaveOnly s fun k =>
    s.runWord k (sqGate (s.gang k.gk) w isUnused isVS isUnused (w.mods == 0) [w.a]) fun e act s =>
      (s.modWeave k.wk fun x => x.wrMask (.special .mr) act fun l => e.rd s.ops 0 w.a l).advance k act

/-- EXIT (R198). -/
def execExit (w : F3) (s : State) : Out :=
  weaveOnly s fun k =>
    s.runWord k (sqGate (s.gang k.gk) w isUnused isUnused isUnused (w.mods == 0 && k.last) []) fun _ act s =>
      if act = 0 then s else s.exit k.wk act

/-- NOP (R199). -/
def execNop (w : F3) (s : State) : Out :=
  weaveOnly s fun k =>
    s.runWord k (sqGate (s.gang k.gk) w isUnused isUnused isUnused (w.mods == 0) []) fun _ act s => s.advance k act

/-- YIELD (R199): the weave stands as if it had just issued. -/
def execYield (w : F3) (s : State) : Out :=
  weaveOnly s fun k =>
    s.runWord k (sqGate (s.gang k.gk) w isUnused isUnused isUnused (w.mods == 0) []) fun _ act s =>
      once act s fun s => (s.modWeave k.wk fun x => { x with lastIssue := s.clk.toNat, age := 0 }).advance k act

/-! ### Votes and masks (R200, R201) -/

/-- A v, s or p1 to p15 destination. -/
def isVSP (o : Operand) : Bool := isVS o || isPredDest o

/-- VOTE (R200). -/
def execVote (w : F3) (s : State) : Out :=
  weaveOnly s fun k =>
    let mode := (w.mods.extractLsb' 0 2).toNat
    s.runWord k (sqGate (s.gang k.gk) w isVSP isSource isUnused (modsIn w.mods 3 && !(mode == 3 && isP w.dst)) [w.a]) fun e act s =>
      let v := act &&& ~~~k.helpers
      let b := maskOf fun l => v.getLsbD l && (e.rd s.ops 0 w.a l).getLsbD 0
      let r : Word := match mode with
        | 0 => if b != 0 then 1 else 0
        | 1 => if b == v then 1 else 0
        | 2 => if b == v || b == 0 then 1 else 0
        | _ => b
      (s.modWeave k.wk fun x => x.wrMask w.dst act fun _ => r).advance k act

/-- ACTMASK (R201). -/
def execActmask (w : F3) (s : State) : Out :=
  weaveOnly s fun k =>
    s.runWord k (sqGate (s.gang k.gk) w isVS isUnused isUnused (modsIn w.mods 3) []) fun e act s =>
      let r : Word := match (w.mods.extractLsb' 0 2).toNat with
        | 0 => act &&& ~~~k.helpers
        | 1 => e.w.liveMask
        | 2 => maskOf fun l => (e.w.lane l).parked.isSome
        | _ => maskOf fun l => (e.w.lane l).status == .helper
      (s.modWeave k.wk fun x => x.wrMask w.dst act fun _ => r).advance k act

/-! ### Convergence registers (R202, R203) -/

def convIndex : Operand → Nat
  | .c i => i.val
  | _ => 0

/-- SIGN (R203). -/
def execSign (w : F3) (s : State) : Out :=
  weaveOnly s fun k =>
    s.runWord k { sqGate (s.gang k.gk) w isUnused isC isUnused (modsIn w.mods 1) [] with srcs := [] } fun _ act s =>
      let home := s.convHome (s.gang k.gk).cohort
      let c := convIndex w.a
      let v := s.conv home c
      let m := act &&& ~~~k.helpers &&& Table.get 0 v.decl k.wk
      let s := if m = 0 then s else s.setConv home c { v with sig := Table.set 0 v.sig k.wk (Table.get 0 v.sig k.wk ||| m) }
      let s := if w.mods.getLsbD 0 then (s.advance k (act &&& ~~~m)).holdLanes k m (.signW c v.round) else s.advance k act
      if m = 0 then s else s.convCheck home c

/-- CVDECL (R202). -/
def execCvdecl (w : F3) (s : State) : Out :=
  weaveOnly s fun k =>
    s.runWord k (sqGate (s.gang k.gk) w isC isUnused isUnused (modsIn w.mods 3 && w.mods != 3) []) fun e act s =>
      once act s fun s =>
        let home := s.convHome (s.gang k.gk).cohort
        let c := convIndex w.dst
        let v := s.conv home c
        let m := act &&& ~~~k.helpers
        match w.mods.toNat with
        | 0 => (s.setConv home c { v with decl := Table.set 0 v.decl k.wk (Table.get 0 v.decl k.wk ||| m) }).advance k act
        | 1 =>
          if !v.sig.isEmpty then s.holdActing k e act (.roundNew c)
          else (s.setConv home c { v with decl := [(k.wk, m)] }).advance k act
        | _ =>
          ((s.setConv home c { v with
            decl := Table.set 0 v.decl k.wk (Table.get 0 v.decl k.wk &&& ~~~m)
            sig := Table.set 0 v.sig k.wk (Table.get 0 v.sig k.wk &&& ~~~m) }).convCheck home c).advance k act

/-! ### Handles (R204 to R207) -/

def handleIndex : Operand → Nat
  | .h i => i.val
  | _ => 0

/-- HWAIT and HWAIT.all: a bad handle faults before any wait; else the lanes wait for the operations named. -/
def State.hwait (s : State) (k : Ctx) (act : BitVec 32) (hs : List Nat) (dst : Operand) : State :=
  let w := s.weave k.wk
  let g := s.gang k.gk
  let bad := hs.any fun h => decide (g.hreg ≤ h) || s.handle w h == .empty || s.handle w h == .cancelled
  if bad then s.fault k act 0x18#32 0
  else if hs.isEmpty then (s.modWeave k.wk fun x => x.wrMask dst act fun _ => 0).advance k act
  else
    let recs : List (Nat × Word) := hs.map fun h => match s.handle w h with
      | .pending r => (r, 0)
      | .resolved st => (0, st)
      | _ => (0, 0)
    if recs.all fun e => e.1 == 0 then
      let st := ((recs.map (·.2)).find? fun x => x != 0).getD 0
      ((s.modWeave k.wk fun x => (x.dropLatches.wrMask dst act fun _ => st)).acquire k.core k.part).advance k act
    else s.holdLanes k act (.hwait recs dst)

def isVSZ (o : Operand) : Bool := isVS o || isZero o

/-- HWAIT: a handle beyond the demand is fault 0x18 (R204), so the gate lets it pass. -/
def execHwait (w : F3) (s : State) : Out :=
  weaveOnly s fun k =>
    s.runWord k (sqGate { s.gang k.gk with hreg := 16 } w isVSZ isH isUnused (w.mods == 0) []) fun _ act s =>
      once act s fun s => s.hwait k act [handleIndex w.a] w.dst

def execHwaitAll (w : F3) (s : State) : Out :=
  weaveOnly s fun k =>
    s.runWord k (sqGate (s.gang k.gk) w isVSZ isS isUnused (modsIn w.mods 1) [w.a]) fun e act s =>
      once act s fun s =>
        let m := e.rd s.ops 0 w.a 0
        s.hwait k act ((List.range 16).filter fun h => m.getLsbD h) w.dst

/-- The code of a handle's state (R205, R217). -/
def HState.code : HState → Nat
  | .empty => 0
  | .pending _ => 1
  | .resolved _ => 2
  | .cancelled => 3

/-- HTEST (R205). -/
def execHtest (w : F3) (s : State) : Out :=
  weaveOnly s fun k =>
    s.runWord k (sqGate (s.gang k.gk) w isVSP isH isUnused (modsIn w.mods 1) []) fun e act s =>
      let c := (s.handle e.w (handleIndex w.a)).code
      let r : Nat := if w.mods.getLsbD 0 then (if c = 2 then 1 else 0) else c
      (s.modWeave k.wk fun x => x.wrMask w.dst act fun _ => BitVec.ofNat 32 r).advance k act

/-- Cancels the operation of a Pending handle (R22, R206); a share of a round that is not armed drops the round (R282),
and a forming bond is given up (R277). -/
def State.cancelHandle (s : State) (r : Nat) : State :=
  match s.bonds.find? fun e => e.2.shares.any fun x => x.2.op == r with
  | some (bk, b) =>
    let s := b.shares.foldl (fun s x => (s.cancelOp x.2.op).modOp x.2.op fun o => { o with stopped := true }) s
    let s := { s with bonds := s.bonds.modify bk fun b => { b with shares := [] } }
    let v := s.conv (s.bondHome b) b.c
    (s.setConv (s.bondHome b) b.c { v with sig := [], round := v.round + 1, bound := false }).releaseSigners (s.bondHome b) b.c v.round
  | none =>
    if s.bonds.any fun e => (match e.2.armed with | some x => x.shares.any (fun y => y.2.op == r) | none => false) ||
        e.2.flight.any (fun x => x.shares.any fun y => y.2.op == r)
    then s.modOp r fun o => { o with state := .cancelled }
    else { s.cancelOp r with bonds := s.bonds.filter fun e => e.2.op != r || e.2.state != .forming }

/-- HCANCEL (R206). -/
def execHcancel (w : F3) (s : State) : Out :=
  weaveOnly s fun k =>
    s.runWord k (sqGate (s.gang k.gk) w isUnused isH isUnused (w.mods == 0) []) fun e act s =>
      once act s fun s =>
        match s.handle e.w (handleIndex w.a) with
        | .empty => s.fault k act 0x18#32 0
        | .pending r => (s.cancelHandle r).advance k act
        | _ => s.advance k act

/-- Points a handle register at a reference, held while it names another Pending operation (R21, R207). -/
def State.hmov (s : State) (k : Ctx) (e : Env) (act : BitVec 32) (d : Nat) (ref : Option Nat) (saved : Option Dbl) : State :=
  let w := s.weave k.wk
  match s.handle w d with
  | .pending r =>
    if ref = some r then s.advance k act else s.holdActing k e act (.destPending d r)
  | _ => (s.modWeave k.wk fun x =>
      let x := x.setHandle d ref
      match saved with
      | some v => { x with hsaved := x.hsaved.insert d v }
      | none => x).advance k act

/-- HMOV between registers (R207). -/
def execHmov (w : F3) (s : State) : Out :=
  weaveOnly s fun k =>
    s.runWord k (sqGate (s.gang k.gk) w isH isH isUnused (w.mods == 0) []) fun e act s =>
      once act s fun s =>
        let i := handleIndex w.a
        s.hmov k e act (handleIndex w.dst) (Table.get none e.w.handles i) (e.w.hsaved.find i)

/-- The token of a record (R207). -/
def tokenOf (gk r : Nat) : Nat := r % 2 ^ 16 + (Config.tokenCheck gk r).toNat * 2 ^ 16

/-- Some handle register of the gang refers to a record, so it lives. -/
def State.recordLives (s : State) (gk r : Nat) : Bool :=
  (s.op r).gang == gk && (s.weavesOf gk).any fun wk => (s.weave wk).handles.any fun e => e.2 == some r

/-- The record number that a saved form of a Resolved handle names (R217). -/
def savedRecord (v : Dbl) : Option Nat := if v.extractLsb' 0 2 = 2 then some (v.extractLsb' 40 24).toNat else none

/-- The saved form of a Resolved handle of the gang whose token is `t`. -/
def State.savedToken (s : State) (gk t : Nat) : Option Dbl :=
  (s.weavesOf gk).findSome? fun wk => ((s.weave wk).hsaved.find? fun e => (savedRecord e.2).any fun r => tokenOf gk r == t).map (·.2)

/-- A scratchpad store of the weave is queued: HMOV's own accesses come after it in program order (R122). -/
def Weave.scratchQueued (w : Weave) : Bool := w.sq.any fun e => e.kind.isScratch

/-- HMOV.st (R207): a token in the scratchpad. -/
def execHmovSt (w : F3) (s : State) : Out :=
  weaveOnly s fun k =>
    s.runWord k (sqGate (s.gang k.gk) w isUnused isS isH (modsIn w.mods 3) [w.a]) fun e act s =>
      once act s fun s =>
        let o := (e.rd s.ops 0 w.a 0).toNat
        match (s.gang k.gk).spCheck o 8 with
        | some st => s.fault k act st (BitVec.ofNat 64 o)
        | none =>
          if e.w.scratchQueued then s.holdActing k e act .queueBusy else
          let t := match s.handle e.w (handleIndex w.b), Table.get none e.w.handles (handleIndex w.b) with
            | .cancelled, _ => 0
            | _, some r => tokenOf k.gk r
            | _, none => match (e.w.hsaved.find (handleIndex w.b)).bind savedRecord with
              | some r => tokenOf k.gk r
              | none => 0
          (s.modGang k.gk fun g => g.spWrite o (bytesOf 8 t)).advance k act

/-- HMOV.ld (R207). -/
def execHmovLd (w : F3) (s : State) : Out :=
  weaveOnly s fun k =>
    s.runWord k (sqGate (s.gang k.gk) w isH isS isUnused (modsIn w.mods 3) [w.a]) fun e act s =>
      once act s fun s =>
        let o := (e.rd s.ops 0 w.a 0).toNat
        match (s.gang k.gk).spReadCheck o 8 with
        | some st => s.fault k act st (BitVec.ofNat 64 o)
        | none =>
          if e.w.scratchQueued then s.holdActing k e act .queueBusy else
          let t := leNat ((s.gang k.gk).spRead o 8)
          match (s.ops.map (·.1)).find? fun r => s.recordLives k.gk r && tokenOf k.gk r == t with
          | some r => s.hmov k e act (handleIndex w.dst) (some r) none
          | none => s.hmov k e act (handleIndex w.dst) none (s.savedToken k.gk t)

/-! ### Barriers (R209) -/

/-- GBAR. -/
def execGbar (w : F3) (s : State) : Out :=
  weaveOnly s fun k =>
    s.runWord k (sqGate (s.gang k.gk) w isUnused isUnused isUnused (w.mods == 0 && w.pred == 0) []) fun _ act s =>
      once act s fun s => (s.holdLanes k act .gbar).gbarCheck k.gk

/-- CBAR. -/
def execCbar (w : F3) (s : State) : Out :=
  weaveOnly s fun k =>
    s.runWord k (sqGate (s.gang k.gk) w isUnused isUnused isUnused (w.mods == 0 && w.pred == 0) []) fun _ act s =>
      once act s fun s => (s.holdLanes k act .cbar).cbarCheck k.gk

/-! ### Stage rings (R27, R210) -/

/-- The number of full slots of a ring. -/
def Ring.count (r : Ring) : Nat := ((List.range 16).filter fun i => r.full.getLsbD i).length

/-- The ring's tail slot can be taken. -/
def Ring.ready (r : Ring) : Bool := r.full.getLsbD r.tail && (r.pha.getLsbD r.tail == r.cpha)

/-- A producer fills the head slot. -/
def Ring.send (r : Ring) (v : Word) : Ring :=
  let r := { r with words := Table.set 0 r.words r.head v, full := setBit r.full r.head true, pha := setBit r.pha r.head r.ppha }
  if r.head + 1 = r.slots then { r with head := 0, ppha := !r.ppha } else { r with head := r.head + 1 }

/-- A consumer takes the tail slot: its offset, and the ring after it. -/
def Ring.takeSlot (r : Ring) : Word × Ring :=
  let v := Table.get 0 r.words r.tail
  let r := { r with full := setBit r.full r.tail false }
  (v, if r.tail + 1 = r.slots then { r with tail := 0, cpha := !r.cpha } else { r with tail := r.tail + 1 })

/-- A ring as RSTAT lays it out. -/
def Ring.word (r : Ring) : Word :=
  BitVec.ofNat 32 (r.count + r.head * 32 + r.tail * 512 + (if r.ppha then 8192 else 0) + (if r.cpha then 16384 else 0))

def State.ring (s : State) (k : Ctx) (j : Nat) : Option Ring := (s.cohort (s.gang k.gk).cohort).rings.find j

def State.setRing (s : State) (k : Ctx) (j : Nat) (r : Ring) : State :=
  s.modCohort (s.gang k.gk).cohort fun c => { c with rings := c.rings.insert j r }

/-- The weave belongs to a stage of its launch. -/
def State.inStage (s : State) (k : Ctx) (st : Nat) : Bool :=
  let n := (s.weave k.wk).num
  match (s.launch k.launch).stages.find st with
  | some x => decide (x.wfirst ≤ n) && decide (n < x.wfirst + x.wcount)
  | none => false

def isSorConst (o : Operand) : Bool := isS o || isConst o
def isSorInt (o : Operand) : Bool := isS o || isInt o

/-- RSEND: a release, so the weave's queue drains first. -/
def execRsend (w : F3) (s : State) : Out :=
  weaveOnly s fun k =>
    s.runWord k (sqGate (s.gang k.gk) w isUnused isSorConst isS (w.mods == 0) [w.a, w.b]) fun e act s =>
      once act s fun s =>
        let j := (e.rd s.ops 0 w.a 0).toNat
        match s.ring k j with
        | none => s.fault k act 0x102#32 0
        | some r =>
          if !s.inStage k r.prod then s.fault k act 0x102#32 0
          else if r.maxocc ≤ r.count then s.fault k act 0x48#32 0
          else if !e.w.sq.isEmpty then s.holdActing k e act .queueBusy
          else (s.setRing k j (r.send (e.rd s.ops 1 w.b 0))).advance k act

/-- RTAKE: an acquire. -/
def execRtake (w : F3) (s : State) : Out :=
  weaveOnly s fun k =>
    s.runWord k (sqGate (s.gang k.gk) w isS isSorConst isUnused (w.mods == 0) [w.a]) fun e act s =>
      once act s fun s =>
        let j := (e.rd s.ops 0 w.a 0).toNat
        match s.ring k j with
        | none => s.fault k act 0x102#32 0
        | some r =>
          if !s.inStage k r.cons then s.fault k act 0x102#32 0
          else if !r.ready then s.holdActing k e act (.ringEmpty j)
          else
            let (v, r) := r.takeSlot
            (((s.setRing k j r).modWeave k.wk fun x => x.wrMask w.dst act fun _ => v).acquire k.core k.part).advance k act

/-- RSTAT. -/
def execRstat (w : F3) (s : State) : Out :=
  weaveOnly s fun k =>
    s.runWord k (sqGate (s.gang k.gk) w isS isSorConst isUnused (w.mods == 0) [w.a]) fun e act s =>
      once act s fun s =>
        match s.ring k (e.rd s.ops 0 w.a 0).toNat with
        | none => s.fault k act 0x102#32 0
        | some r => (s.modWeave k.wk fun x => x.wrMask w.dst act fun _ => r.word).advance k act

/-! ### Traps and system calls (R212 to R214) -/

/-- TRAP: resumes at the next clause header. -/
def execTrap (w : FI) (s : State) : Out :=
  weaveOnly s fun k =>
    s.runWord k (sqGateI (s.gang k.gk) w isUnused isUnused (k.last && w.imm.extractLsb' 16 8 == 0) []) fun _ act s =>
      (s.advance k act).raise k.wk
        { status := (w.imm.setWidth 32) <<< 8, mask := act, addr := 0, resume_ := k.next ||| 1, ecause := 1 }

/-- SYSC: the service, with s0 to s3, goes to the firmware; the lanes wait for its reply. An unknown service is answered
at once (R213). -/
def execSysc (w : FI) (s : State) : Out :=
  weaveOnly s fun k =>
    s.runWord k (sqGateI (s.gang k.gk) w isUnused isUnused (k.last && w.imm.extractLsb' 16 8 == 0) []) fun e act s =>
      once act s fun s =>
        let n := w.imm.extractLsb' 0 16
        if [0x0000#16, 0x0001#16, 0x0010#16, 0x0011#16, 0x0020#16].contains n then
          (s.modWeave k.wk fun x => { x with syscs := x.syscs ++ [{ service := n, mask := act, args := (List.range 4).map fun j => e.rd s.ops j (.s (Fin.ofNat 64 j)) 0 }] }).holdLanes
            k act (.sysc n)
        else (s.modWeave k.wk fun x => x.wr (.s 0) 0 0xFFFFFFFF#32).advance k act

/-- ERET. -/
def execEret (w : F3) (s : State) : Out :=
  weaveOnly s fun k =>
    s.runWord k { sqGate (s.gang k.gk) w isUnused isUnused isUnused (w.mods == 0 && k.last) [] with privileged := true }
      fun _ act s => s.eret k.wk act

/-! ### System registers (R215) -/

/-- What a system register number names. -/
inductive SysReg where
  | ecause | privmask | exitmask | helpmask | parkmask | gbarmask | cbarmask | tvec (hi : Bool) | saveb (hi : Bool)
  | scr (i : Nat) | flagcnt (hi : Bool) | hsave (n : Nat) (hi : Bool) | cvd (n : Nat) | cvs (n : Nat) | cvr (n : Nat)
  | rpos (j : Nat) | rfull (j : Nat) | rslot (j i : Nat) | ras (i : Nat) (hi : Bool) | rasn | ovf | stkb (hi : Bool)
  deriving DecidableEq, Repr

def sysReg (n : Nat) : Option SysReg :=
  if n = 0 then some .ecause else if n = 1 then some .privmask else if n = 2 then some .exitmask
  else if n = 3 then some .helpmask else if n = 4 then some .parkmask else if n = 5 then some .gbarmask
  else if n = 6 then some .cbarmask else if n = 8 ∨ n = 9 then some (.tvec (n == 9))
  else if n = 0xA ∨ n = 0xB then some (.saveb (n == 0xB))
  else if 0xC ≤ n ∧ n ≤ 0x13 then some (.scr (n - 0xC))
  else if n = 0x18 ∨ n = 0x19 then some (.flagcnt (n == 0x19))
  else if 0x20 ≤ n ∧ n ≤ 0x3F then some (.hsave ((n - 0x20) / 2) (n % 2 == 1))
  else if 0x40 ≤ n ∧ n ≤ 0x47 then some (.cvd (n - 0x40)) else if 0x48 ≤ n ∧ n ≤ 0x4F then some (.cvs (n - 0x48))
  else if 0x50 ≤ n ∧ n ≤ 0x57 then some (.cvr (n - 0x50))
  else if 0x60 ≤ n ∧ n ≤ 0x66 then some (.rpos (n - 0x60)) else if 0x68 ≤ n ∧ n ≤ 0x6E then some (.rfull (n - 0x68))
  else if 0x80 ≤ n ∧ n ≤ 0xEF then some (.rslot ((n - 0x80) / 16) (n % 16))
  else if 0x100 ≤ n ∧ n ≤ 0x107 then some (.ras ((n - 0x100) / 2) (n % 2 == 1))
  else if n = 0x108 then some .rasn else if n = 0x109 then some .ovf
  else if n = 0x10A ∨ n = 0x10B then some (.stkb (n == 0x10B)) else none

/-- Held per lane. -/
def SysReg.lane : SysReg → Bool
  | .ras _ _ => true
  | .rasn => true
  | .ovf => true
  | .stkb _ => true
  | _ => false

/-- Readable outside privileged mode. -/
def SysReg.user : SysReg → Bool
  | .privmask | .exitmask | .helpmask | .parkmask => true
  | r => r.lane

def half (hi : Bool) (d : Dbl) : Word := if hi then hiWord d else loWord d
def setHalf (hi : Bool) (d : Dbl) (v : Word) : Dbl := if hi then pair (loWord d) v else pair v (hiWord d)

/-- The engine's number in the save area (R217). -/
def engineCode : Engine → Nat
  | .la => 0 | .sq => 1 | .ls => 2 | .ste => 3 | .mx => 4 | .bc => 5 | .ce => 6 | .se => 7 | .nne => 8 | .xe => 9 | .fe => 10

/-- The save form of a handle that refers to a record (R217). -/
def State.formOf (s : State) (r : Nat) : Dbl :=
  let o := s.op r
  let (code, st) : Nat × Word := match o.state with
    | .pending => (1, 0)
    | .resolved v => (2, v)
    | .cancelled => (3, 0)
  BitVec.ofNat 64 (code + engineCode o.engine * 4 + st.toNat * 256 + (r % 2 ^ 24) * 2 ^ 40)

/-- The save form of a handle: its record's, or what WRSR wrote. -/
def State.hsave (s : State) (w : Weave) (n : Nat) : Dbl :=
  match Table.get none w.handles n with
  | some r => s.formOf r
  | none => (w.hsaved.find n).getD 0

/-- A handle restored from its save form: a Pending one refers to the gang's record that the form names, and so does another
where the record is as the form says; otherwise it holds the form. -/
def State.restoreHandle (s : State) (w : Weave) (n : Nat) (v : Dbl) : Weave :=
  let r := (v.extractLsb' 40 24).toNat
  if (s.ops.find r).isSome && (s.op r).gang == w.gang && (v.extractLsb' 0 2 == 1 || s.formOf r == v) then w.setHandle n (some r)
  else { w.setHandle n none with hsaved := (w.hsaved.erase n).insert n v }

/-- A system register as lane `l` reads it. -/
def State.readSys (s : State) (k : Ctx) (r : SysReg) (l : Nat) : Word :=
  let w := s.weave k.wk
  let g := s.gang k.gk
  let x := w.lane l
  let home := s.convHome g.cohort
  match r with
  | .ecause => w.ecause
  | .privmask => maskOf fun l => (w.lane l).priv
  | .exitmask => maskOf fun l => (w.lane l).status == .exited
  | .helpmask => maskOf fun l => (w.lane l).status == .helper
  | .parkmask => maskOf fun l => (w.lane l).parked.isSome || (w.lane l).trapParked
  | .gbarmask => g.gbar.setWidth 32
  | .cbarmask => g.cbar.setWidth 32
  | .tvec hi => half hi (s.part k.part).ctl.tvec
  | .saveb hi => half hi g.saveb
  | .scr i => Table.get 0 w.scr i
  | .flagcnt hi => BitVec.ofNat 32 ((List.range (if hi then 4 else 8)).foldl (fun t i => t + w.flag ((if hi then 8 else 0) + i) * 16 ^ i) 0)
  | .hsave n hi => half hi (s.hsave w n)
  | .cvd n => Table.get 0 (s.conv home n).decl k.wk
  | .cvs n => Table.get 0 (s.conv home n).sig k.wk
  | .cvr n => BitVec.ofNat 32 ((s.conv home n).round.toNat + if (s.conv home n).bound then 65536 else 0)
  | .rpos j => ((s.ring k j).map (·.word)).getD 0
  | .rfull j => ((s.ring k j).map fun r => r.pha ++ r.full).getD 0
  | .rslot j i => ((s.ring k j).map fun r => Table.get 0 r.words i).getD 0
  | .ras i hi => half hi (Table.get 0 x.ras i)
  | .rasn => BitVec.ofNat 32 x.rasn
  | .ovf => x.ovf
  | .stkb hi => half hi x.stkb

/-- The lane status after a write of EXITMASK or HELPMASK. -/
def maskStatus (what : LaneStatus) (b : Bool) (st : LaneStatus) : LaneStatus :=
  if b then what else if st = what then .live else st

/-- A write of a system register by lane `l`; a read-only register ignores it. -/
def State.writeSys (s : State) (k : Ctx) (r : SysReg) (l : Nat) (v : Word) : State :=
  let home := s.convHome (s.gang k.gk).cohort
  let onW (f : Weave → Weave) : State := s.modWeave k.wk f
  let onL (f : Lane → Lane) : State := s.modWeave k.wk fun w => w.modLane l f
  let onR (j : Nat) (f : Ring → Ring) : State := match s.ring k j with
    | some r => s.setRing k j (f r)
    | none => s
  match r with
  | .ecause | .privmask | .parkmask | .tvec _ | .saveb _ => s
  | .exitmask => onW fun w => { w with lanes := (List.range 32).foldl (fun t i =>
      let st := maskStatus .exited (v.getLsbD i) (w.lane i).status
      Table.set {} t i { w.lane i with status := st, priv := (w.lane i).priv && st != .exited }) w.lanes }
  | .helpmask => onW fun w => { w with lanes := (List.range 32).foldl (fun t i =>
      if (w.lane i).status = .exited then t
      else Table.set {} t i { w.lane i with status := maskStatus .helper (v.getLsbD i) (w.lane i).status }) w.lanes }
  | .gbarmask => s.modGang k.gk fun g => { g with gbar := v.setWidth 16 }
  | .cbarmask => s.modGang k.gk fun g => { g with cbar := v.setWidth 16 }
  | .scr i => onW fun w => { w with scr := Table.set 0 w.scr i v }
  | .flagcnt hi => onW fun w => (List.range (if hi then 4 else 8)).foldl (fun w i =>
      w.setFlag ((if hi then 8 else 0) + i) (bits v.toNat (4 * i + 3) (4 * i))) w
  | .hsave n hi => onW fun w => s.restoreHandle w n (setHalf hi (s.hsave w n) v)
  | .cvd n => let c := s.conv home n; s.setConv home n { c with decl := Table.set 0 c.decl k.wk v }
  | .cvs n => let c := s.conv home n; s.setConv home n { c with sig := Table.set 0 c.sig k.wk v }
  | .cvr n => let c := s.conv home n; s.setConv home n { c with round := v.setWidth 16, bound := v.getLsbD 16 }
  | .rpos j => onR j fun r => { r with head := bits v.toNat 8 5, tail := bits v.toNat 12 9, ppha := v.getLsbD 13, cpha := v.getLsbD 14 }
  | .rfull j => onR j fun r => { r with full := v.setWidth 16, pha := v.extractLsb' 16 16 }
  | .rslot j i => onR j fun r => { r with words := Table.set 0 r.words i v }
  | .ras i hi => onL fun x => { x with ras := Table.set 0 x.ras i (setHalf hi (Table.get 0 x.ras i) v) }
  | .rasn => onL fun x => if bits v.toNat 2 0 ≤ 4 then { x with rasn := bits v.toNat 2 0 } else x
  | .ovf => onL fun x => { x with ovf := v }
  | .stkb hi => onL fun x => { x with stkb := setHalf hi x.stkb v }

/-- The register that IMM[11:0] names, and IMM[23:12] zero. -/
def sysOf (w : FI) : Option SysReg := if w.imm.extractLsb' 12 12 == 0 then sysReg (w.imm.extractLsb' 0 12).toNat else none

/-- RDSR (R215). -/
def execRdsr (w : FI) (s : State) : Out :=
  weaveOnly s fun k =>
    let r := sysOf w
    let ok := match r with | some r => !r.lane || isV w.dst | none => false
    let priv := match r with | some r => !r.user | none => false
    s.runWord k { sqGateI (s.gang k.gk) w isVS isUnused ok [] with privileged := priv } fun e act s =>
      match r with
      | none => s
      | some r =>
        if act ≠ 0 ∧ (r == .flagcnt false || r == .flagcnt true) = true ∧ e.w.ll.any (·.lane) then s.holdIssue k e .llOut
        else (s.modWeave k.wk fun x => x.wrMask w.dst act fun l => s.readSys k r l).advance k act

/-- WRSR (R215), privileged. A register that is not per lane takes a vector source's value of some lane of `active`
(notes/assumptions/120.md). -/
def execWrsr (w : FI) (s : State) : Out :=
  weaveOnly s fun k =>
    let r := sysOf w
    let ok := r.isSome
    s.runWord k { sqGateI (s.gang k.gk) w isUnused isVS ok [w.a] with privileged := true } fun e act s =>
      match r with
      | none => s
      | some r =>
        let ls := if r.lane then lanesOf act else ((lanesOf act).drop (Config.freeNat e.free % (lanesOf act).length)).take 1
        (ls.foldl (fun s l => s.writeSys k r l (e.rd s.ops 0 w.a l)) s).advance k act

/-- STKSET (R196). -/
def execStkset (w : F3) (s : State) : Out :=
  weaveOnly s fun k =>
    let gt := sqGate (s.gang k.gk) w isUnused isPair isUnused (w.mods == 0) [w.a, nextReg w.a 1]
    s.runWord k { gt with legal := gt.legal && inDemand (s.gang k.gk) w.a 2 } fun e act s =>
      let v (l : Nat) : Nat := e.pairAt s.ops w.a l
      let bad := maskOf fun l => act.getLsbD l && v l % 64 != 0 && !k.helpers.getLsbD l
      let good := maskOf fun l => act.getLsbD l && v l % 64 == 0
      let s := s.modWeave k.wk fun x => (lanesOf good).foldl (fun x l => x.modLane l fun y => { y with stkb := BitVec.ofNat 64 (v l) }) x
      let s := s.advance k (act &&& ~~~bad)
      if bad = 0 then s else s.fault k bad 0x12#32 (BitVec.ofNat 64 (v ((lanesOf bad).headD 0)))

/-- CLRFLG (R208): results bound to the flags no longer count. -/
def execClrflg (w : FI) (s : State) : Out :=
  weaveOnly s fun k =>
    s.runWord k (sqGateI (s.gang k.gk) w isUnused isUnused (w.imm.extractLsb' 12 12 == 0) []) fun _ act s =>
      once act s fun s =>
        let named (f : Nat) : Bool := decide (f < 12) && w.imm.getLsbD f
        let s := { s with ops := s.ops.mapVals fun _ o => if o.wk = k.wk ∧ o.aflag.any named then { o with aflag := none } else o }
        (s.modWeave k.wk fun x => (List.range 12).foldl (fun x f =>
          if named f then
            { x.setFlag f 0 with clauses := x.clauses.mapVals fun _ c => { c with open_ := c.open_.filter (· != f) } }
          else x) x).advance k act

/-- FLGRD (R208). -/
def execFlgrd (w : F3) (s : State) : Out :=
  weaveOnly s fun k =>
    s.runWord k (sqGate (s.gang k.gk) w isVS isUnused isUnused (w.mods == 0) []) fun _ act s =>
      (s.modWeave k.wk fun x => x.wrMask w.dst act fun _ =>
        BitVec.ofNat 32 ((List.range 12).foldl (fun t f => if x.flag f = 0 then t else t + 2 ^ f) 0)).advance k act

end Sys2Proof.Machine
end

