-- ==== Sys2Proof/Machine/LoadStore.lean ====
section
/-! DEFINITION. The load-store engine's instructions (spec/09_load_store.md, R219 to R237). -/

namespace Sys2Proof.Machine

open Sys2Proof

/-! ### Address forms and widths (R219, R220) -/

def widthCode (m : BitVec 5) : Nat := (m.extractLsb' 0 3).toNat
def shiftCode (m : BitVec 5) : Nat := (m.extractLsb' 3 2).toNat

/-- Bytes of an access width. -/
def widthBytes (c : Nat) : Nat :=
  match c with
  | 0 => 1 | 1 => 1 | 2 => 2 | 3 => 2 | 4 => 4 | 5 => 8 | _ => 16

/-- Registers of its group. -/
def widthRegs (c : Nat) : Nat :=
  match c with
  | 5 => 2 | 6 => 4 | _ => 1

/-- A width code that loads, or that stores, accept. -/
def widthOk (store : Bool) (c : Nat) : Bool := c != 7 && !(store && (c == 1 || c == 3))

/-- A register group: aligned to its size and within the demand; a constant holds one register's worth. -/
def groupOk (g : Gang) (o : Operand) (n : Nat) : Bool :=
  if isVS o then regNum o % n == 0 && inDemand g o n else n == 1

/-- The bytes that a load read, as the words of its group. -/
def loadWords (c : Nat) (bs : List Byte) : List Word :=
  match c with
  | 1 => [(BitVec.ofNat 8 (leNat bs)).signExtend 32]
  | 3 => [(BitVec.ofNat 16 (leNat bs)).signExtend 32]
  | _ => (List.range (widthRegs c)).map fun j => BitVec.ofNat 32 (leNat ((bs.drop (4 * j)).take 4))

/-- What a word's memory operand needs: base register, index, and the fields that must hold. -/
def isGlobalBase (o : Operand) : Bool := isPair o

/-- The base of a memory operand: a pair for a global form, one register for a scratchpad form. -/
def baseRegs (glob : Bool) (a : Operand) : List Operand := if glob then [a, nextReg a 1] else [a]

/-- The registers of the group at DST of a load. -/
def groupRegs (dst : Operand) (m : BitVec 5) : List Operand := (List.range (widthRegs (widthCode m))).map (nextReg dst)

/-- The gate of an F3 word with a memory operand; `data` are further values that it reads; a word without them writes the
group at DST. -/
def memGate (g : Gang) (w : F3) (dst : Operand → Bool) (glob ok : Bool) (data : List Operand) : Gate :=
  let srcs := baseRegs glob w.a ++ [w.b] ++ data
  { legal := f3Legal g w dst (if glob then isPair else isVS) isSource none true true true ok &&
      (!glob || inDemand g w.a 2)
    engine := .ls, pred := w.pred.toNat, neg := w.neg, srcs := srcs, regs := vregsOf srcs, holds := holdsOf w
    drops := if data.isEmpty && dst (.v 1) then vregsOf (groupRegs w.dst w.mods) else [] }

/-- The gate of an FI word with a memory operand: MODS[4:3] zero. -/
def memGateI (g : Gang) (w : FI) (dst : Operand → Bool) (glob ok : Bool) (data : List Operand) : Gate :=
  let srcs := baseRegs glob w.a ++ data
  { legal := fiLegal g w dst (if glob then isPair else isVS) (ok && modsIn w.mods 7) && (!glob || inDemand g w.a 2)
    engine := .ls, pred := w.pred.toNat, neg := w.neg, srcs := srcs, regs := vregsOf srcs
    drops := if data.isEmpty && dst (.v 1) then vregsOf (groupRegs w.dst w.mods) else [] }

/-- The base of a memory operand for a lane. -/
def Env.base (e : Env) (ops : Table AsyncOp) (glob : Bool) (a : Operand) (l : Nat) : Nat :=
  if glob then e.pairAt ops a l else (e.rd ops 0 a l).toNat

/-- Base and offset, wrapped to the form's width. -/
def memAddr (glob : Bool) (base : Nat) (off : Dbl) : Nat :=
  let x : Dbl := BitVec.ofNat 64 base + off
  if glob then x.toNat else x.toNat % 2 ^ 32

/-- The address of lane `l` in an F3 form. -/
def Env.addr3 (e : Env) (ops : Table AsyncOp) (w : F3) (glob : Bool) (l : Nat) : Nat :=
  memAddr glob (e.base ops glob w.a l) (sx64 (e.b3 ops w false l) <<< shiftCode w.mods)

/-- The address of lane `l` in an FI form. -/
def Env.addrI (e : Env) (ops : Table AsyncOp) (w : FI) (glob : Bool) (l : Nat) : Nat :=
  memAddr glob (e.base ops glob w.a l) (w.imm.signExtend 64)

/-! ### Loads (R221 to R223) -/

/-- The lanes' group writes of what they loaded; a helper lane that did not pass gets zero (R37). -/
def groupWrites (dst : Operand) (c : Nat) (got : List (Nat × List Byte)) (zero : BitVec 32) : List LLWrite :=
  (got ++ (lanesOf zero).map fun l => (l, List.replicate (widthBytes c) 0)).flatMap fun (e : Nat × List Byte) =>
    (loadWords c e.2).zipIdx.map fun (v, j) => { dst := nextReg dst j, lane := laneKey dst e.1, val := v }

/-- The helper lanes of a mask that are not among the lanes that passed. -/
def zeroHelpers {α : Type} (k : Ctx) (act : BitVec 32) (pass : List (Nat × α)) : BitVec 32 :=
  act &&& k.helpers &&& ~~~maskOfPairs pass

/-- A global load of the lanes of `act` (LD, memory-mode NFIL); a lane for which `holds` is false gets zero, though its
access is made. -/
def State.loadGlobal (s : State) (k : Ctx) (e : Env) (act : BitVec 32) (dst : Operand) (c : Nat) (addr : Nat → Nat)
    (holds : Nat → Bool) : State :=
  let s0 := s
  let n := widthBytes c
  let (s, a) := s.checkLanes k act addr n n .read false
  let (s, got, wait) := s.loadLanes k a.pass addr n
  if wait ≠ 0 then s0.holdIssue k e .forwarding
  else
    let got := got.map fun r => if holds r.1 then r else (r.1, List.replicate n 0)
    let ws := groupWrites dst c got (zeroHelpers k act a.pass)
    let (free, s) := s.takeFree 128
    let s := if ws.isEmpty && act != 0 then s else s.modWeave k.wk fun x => x.issueLL free k.run ws false 0 true
    s.finishAcc k (act &&& ~~~(maskOfPairs a.fault ||| maskOfPairs a.park)) a .read

/-- A scratchpad load of the lanes of `act` (LDS). -/
def State.loadScratch (s : State) (k : Ctx) (e : Env) (act : BitVec 32) (dst : Operand) (c : Nat) (addr : Nat → Nat) : State :=
  let n := widthBytes c
  let g := s.gang k.gk
  if (lanesOf act).any fun l => s.bankHeld k.core (addr l) n then s.holdIssue k e .bankWake
  else
    let bad := ((lanesOf (act &&& ~~~k.helpers)).filterMap fun l => (g.spReadCheck (addr l) n).map fun st => (l, st, addr l))
    let pass := (lanesOf act).filter fun l => (g.spReadCheck (addr l) n).isNone
    let x := s.weave k.wk
    let got := pass.map fun l => (l, match forward x true l (addr l) n with
      | .none_ => some (g.spRead (addr l) n)
      | .all b => some b
      | .wait => none)
    if got.any fun r => r.2.isNone then s.holdIssue k e .forwarding
    else
      let ws := groupWrites dst c (got.map fun r => (r.1, r.2.getD [])) (zeroHelpers k act got)
      ((s.modWeave k.wk fun x => ws.foldl (fun x y => x.wr y.dst y.lane y.val) x).advance k
        (act &&& ~~~maskOfPairs bad)).deliverFaults k bad

/-- A uniform load (LDC): once; the whole access faults or parks. -/
def State.loadUniform (s : State) (k : Ctx) (e : Env) (act : BitVec 32) (dst : Operand) (c : Nat) (addr : Nat) : State :=
  once act s fun s =>
    let s0 := s
    let n := widthBytes c
    let m := act &&& ~~~k.helpers
    match s.check k.part (8 * k.part) k.asker addr n n .read false false with
    | (s, .fault st) => (s.advance k (act &&& k.helpers)).fault k m st (BitVec.ofNat 64 addr)
    | (s, .park t) => (s.advance k (act &&& k.helpers)).parkLanes k.wk ((lanesOf m).map fun l => (l, t, addr)) .read
    | (s, .pass pa) =>
      match s.loadLane k 6 ((lanesOf m).headD 0) addr pa n with
      | (_, none) => s0.holdIssue k e .forwarding
      | (s, some b) =>
        let (free, s) := s.takeFree 128
        (s.modWeave k.wk fun x => x.issueLL free k.run (groupWrites dst c [(0, b)] 0) false 0 true).advance k act

def loadOk (g : Gang) (dst : Operand) (m : BitVec 5) : Bool :=
  widthOk false (widthCode m) && groupOk g dst (widthRegs (widthCode m))

/-- LD. -/
def execLd (w : F3) (s : State) : Out :=
  weaveOnly s fun k =>
    let g := s.gang k.gk
    s.runWord k (memGate g w isV true (loadOk g w.dst w.mods) []) fun e act s =>
      s.loadGlobal k e act w.dst (widthCode w.mods) (fun l => e.addr3 s.ops w true l) fun _ => true

/-- LD with a literal offset. -/
def execLdFi (w : FI) (s : State) : Out :=
  weaveOnly s fun k =>
    let g := s.gang k.gk
    s.runWord k (memGateI g w isV true (loadOk g w.dst w.mods) []) fun e act s =>
      s.loadGlobal k e act w.dst (widthCode w.mods) (fun l => e.addrI s.ops w true l) fun _ => true

/-- LDS. -/
def execLds (w : F3) (s : State) : Out :=
  weaveOnly s fun k =>
    let g := s.gang k.gk
    s.runWord k (memGate g w isV false (loadOk g w.dst w.mods) []) fun e act s =>
      s.loadScratch k e act w.dst (widthCode w.mods) fun l => e.addr3 s.ops w false l

/-- LDS with a literal offset. -/
def execLdsFi (w : FI) (s : State) : Out :=
  weaveOnly s fun k =>
    let g := s.gang k.gk
    s.runWord k (memGateI g w isV false (loadOk g w.dst w.mods) []) fun e act s =>
      s.loadScratch k e act w.dst (widthCode w.mods) fun l => e.addrI s.ops w false l

/-! ### LDC, in a weave and in a prologue (R223, R408, R452) -/

/-- The asker of the front end's reads: it translates through a place of its own (64), beside the clusters. -/
def frontAsker : Asker := { cluster := 64, core := 0, source := 2 }

/-- The sub-code of a fetch or a read that fails in a prologue (R408, R452): 0x11, 0x60, or 0x10 for a translation fault. -/
def proFaultCode (st : Word) : Nat :=
  let c := (st &&& 0xFF#32).toNat
  if c = 0x11 ∨ c = 0x60 then c else 0x10

/-- A prologue's LDC: at the home slice, at master class 6; it waits while a way of the slice wakes (R315). -/
def State.prologueLoad (s : State) (p : Nat) (old x : Prologue) (dst : Operand) (c addr : Nat) : State :=
  let n := widthBytes c
  if addr % n ≠ 0 then s.endPrologue p (prologueFault 0x12)
  else match s.check p (8 * p + 6) frontAsker addr n n .read false false with
    | (s, .fault st) => s.endPrologue p (prologueFault (proFaultCode st))
    | (s, .park t) => s.setPrologue p { old with tickets := [t] }
    | (s, .pass pa) =>
      if s.sliceWakes pa then s.setPrologue p old
      else
      let s := s.count p pa 6 (Config.frontDie p % 4)
      let b := if inMmio pa then s.mmioRead pa n else memRead s.mem pa n
      s.setPrologue p ((loadWords c b).zipIdx.foldl (fun x (v, j) => x.wr (nextReg dst j) v) x)

/-- The operands of a prologue's LDC: uniform registers, integer constants and `zero`. -/
def State.ldcPrologue (s : State) (p : Nat) (legal : Bool) (pred : Nat) (neg : Bool) (dst : Operand) (c : Nat)
    (addr : Prologue → Nat) : State :=
  match (s.part p).prologue with
  | none => s
  | some old => s.runPrologue p legal pred neg fun x s => s.prologueLoad p old x dst c (addr x)

def Prologue.pairAt (x : Prologue) (a : Operand) : Nat := (pair (x.rd a) (x.rd (nextReg a 1))).toNat

/-- A uniform operand (R222). -/
def isUniformSource (o : Operand) : Bool := isSource o && !perLane o

/-- LDC. -/
def execLdc (w : F3) (s : State) : Out :=
  match s.cur with
  | some (.prologue p) =>
    if (s.part p).prologue.isNone then .fault .noIssuer
    else
      let legal := f3Legal proGang w isS isPairS proOperand none false false false (loadOk proGang w.dst w.mods)
      .next (s.ldcPrologue p legal w.pred.toNat w.neg w.dst (widthCode w.mods) fun x =>
        memAddr true (x.pairAt w.a) (sx64 (x.rd w.b) <<< shiftCode w.mods))
  | _ => onWeave s fun k =>
    let g := s.gang k.gk
    let gt := memGate g w isS true (loadOk g w.dst w.mods) []
    s.runWord k { gt with legal := gt.legal && isS w.a && isUniformSource w.b } fun e act s =>
      s.loadUniform k e act w.dst (widthCode w.mods) (e.addr3 s.ops w true ((lanesOf act).headD 0))

/-- LDC with a literal offset. -/
def execLdcFi (w : FI) (s : State) : Out :=
  match s.cur with
  | some (.prologue p) =>
    if (s.part p).prologue.isNone then .fault .noIssuer
    else
      let legal := fiLegal proGang w isS isPairS (loadOk proGang w.dst w.mods && modsIn w.mods 7)
      .next (s.ldcPrologue p legal w.pred.toNat w.neg w.dst (widthCode w.mods) fun x =>
        memAddr true (x.pairAt w.a) (w.imm.signExtend 64))
  | _ => onWeave s fun k =>
    let g := s.gang k.gk
    let gt := memGateI g w isS true (loadOk g w.dst w.mods) []
    s.runWord k { gt with legal := gt.legal && isS w.a } fun e act s =>
      s.loadUniform k e act w.dst (widthCode w.mods) (e.addrI s.ops w true ((lanesOf act).headD 0))

/-! ### Stores (R223, R224) -/

/-- The data of a store: v, s, or a constant for widths up to 4 bytes (R222). -/
def isStoreData (o : Operand) : Bool := isVS o || isConst o

def storeOk (g : Gang) (t : Operand) (m : BitVec 5) : Bool :=
  widthOk true (widthCode m) && groupOk g t (widthRegs (widthCode m))

/-- The registers of a store's data. -/
def dataRegs (t : Operand) (m : BitVec 5) : List Operand := (List.range (widthRegs (widthCode m))).map (nextReg t)

/-- A lane's store data: the low `n` bytes of its group. -/
def Env.dataAt (e : Env) (ops : Table AsyncOp) (t : Operand) (m : BitVec 5) (l : Nat) : List Byte :=
  ((dataRegs t m).zipIdx.flatMap fun (o, j) => bytesOf 4 (e.rd ops (8 + j) o l).toNat).take (widthBytes (widthCode m))

/-- A global store: one queue entry for the lanes that pass (R224). -/
def State.storeGlobal (s : State) (k : Ctx) (e : Env) (act : BitVec 32) (n : Nat) (addr : Nat → Nat) (data : Nat → List Byte) : State :=
  let m := act &&& ~~~k.helpers
  if m != 0 && (s.weave k.wk).sqFull then s.holdIssue k e .queueFull
  else
    let (s, a) := s.checkLanes k m addr n n .write false
    let s := s.enqueue k .global k.lanes (a.pass.map fun r =>
      { lane := r.1, addr := r.2, va := BitVec.ofNat 64 (addr r.1), bytes := data r.1 })
    s.finishAcc k (act &&& ~~~(maskOfPairs a.fault ||| maskOfPairs a.park)) a .write

/-- A scratchpad store. -/
def State.storeScratch (s : State) (k : Ctx) (e : Env) (act : BitVec 32) (n : Nat) (addr : Nat → Nat) (data : Nat → List Byte) : State :=
  let g := s.gang k.gk
  let m := act &&& ~~~k.helpers
  if m != 0 && (s.weave k.wk).sqFull then s.holdIssue k e .queueFull
  else if (lanesOf m).any fun l => s.bankHeld k.core (addr l) n then s.holdIssue k e .bankWake
  else
    let bad := (lanesOf m).filterMap fun l => (g.spCheck (addr l) n).map fun st => (l, st, addr l)
    let pass := (lanesOf m).filter fun l => (g.spCheck (addr l) n).isNone
    ((s.enqueue k .scratch k.lanes (pass.map fun l =>
      { lane := l, addr := addr l, va := BitVec.ofNat 64 (addr l), bytes := data l })).advance k
        (act &&& ~~~maskOfPairs bad)).deliverFaults k bad

/-- ST. -/
def execSt (w : F3) (s : State) : Out :=
  weaveOnly s fun k =>
    let g := s.gang k.gk
    s.runWord k (memGate g w isStoreData true (storeOk g w.dst w.mods) (dataRegs w.dst w.mods)) fun e act s =>
      s.storeGlobal k e act (widthBytes (widthCode w.mods)) (fun l => e.addr3 s.ops w true l)
        fun l => e.dataAt s.ops w.dst w.mods l

/-- ST with a literal offset. -/
def execStFi (w : FI) (s : State) : Out :=
  weaveOnly s fun k =>
    let g := s.gang k.gk
    s.runWord k (memGateI g w isStoreData true (storeOk g w.dst w.mods) (dataRegs w.dst w.mods)) fun e act s =>
      s.storeGlobal k e act (widthBytes (widthCode w.mods)) (fun l => e.addrI s.ops w true l)
        fun l => e.dataAt s.ops w.dst w.mods l

/-- STS. -/
def execSts (w : F3) (s : State) : Out :=
  weaveOnly s fun k =>
    let g := s.gang k.gk
    s.runWord k (memGate g w isStoreData false (storeOk g w.dst w.mods) (dataRegs w.dst w.mods)) fun e act s =>
      s.storeScratch k e act (widthBytes (widthCode w.mods)) (fun l => e.addr3 s.ops w false l)
        fun l => e.dataAt s.ops w.dst w.mods l

/-- STS with a literal offset. -/
def execStsFi (w : FI) (s : State) : Out :=
  weaveOnly s fun k =>
    let g := s.gang k.gk
    s.runWord k (memGateI g w isStoreData false (storeOk g w.dst w.mods) (dataRegs w.dst w.mods)) fun e act s =>
      s.storeScratch k e act (widthBytes (widthCode w.mods)) (fun l => e.addrI s.ops w false l)
        fun l => e.dataAt s.ops w.dst w.mods l

/-! ### Scratchpad atomics (R226) -/

/-- The new value of a word. -/
def atomValue (op : Nat) (m b c : Word) : Word :=
  match op with
  | 0 => m + b
  | 1 => if BitVec.slt b m then b else m
  | 2 => if BitVec.slt m b then b else m
  | 3 => if BitVec.ult b m then b else m
  | 4 => if BitVec.ult m b then b else m
  | 5 => m &&& b
  | 6 => m ||| b
  | 7 => m ^^^ b
  | 8 => b
  | 9 => if m = c then b else m
  | _ => (fadd32 .rn false m b).1

def atomOp (m : BitVec 5) : Nat := (m.extractLsb' 0 4).toNat

/-- ATOM: in ascending lane order, after the weave's queue has drained; a helper performs nothing and receives 0. -/
def execAtom (w : F3) (s : State) : Out :=
  weaveOnly s fun k =>
    let g := s.gang k.gk
    let ok := modsIn w.mods 15 && decide (atomOp w.mods ≤ 10) && (atomOp w.mods == 9 || isZero w.srcC)
    s.runWord k
      { legal := f3Legal g w (fun o => isV o || isZero o) isVS isSource (some isSource) false true true ok
        engine := .ls, pred := w.pred.toNat, neg := w.neg, srcs := f3Srcs w true, regs := vregsOf (f3Srcs w true)
        holds := holdsOf w, drops := vregsOf [w.dst] } fun e act s =>
      if !e.w.sq.isEmpty && act != 0 then s.holdIssue k e .queueBusy
      else
        let o (l : Nat) : Nat := (e.a3 s.ops w l).toNat
        if (lanesOf act).any fun l => s.bankHeld k.core (o l) 4 then s.holdIssue k e .bankWake
        else
          let g := s.gang k.gk
          let m := act &&& ~~~k.helpers
          let bad := (lanesOf m).filterMap fun l => (g.spReadCheck (o l) 4).map fun st => (l, st, o l)
          let pass := (lanesOf m).filter fun l => (g.spReadCheck (o l) 4).isNone
          let (s, old) := pass.foldl (fun (s, old) l =>
            let v : Word := BitVec.ofNat 32 (leNat ((s.gang k.gk).spRead (o l) 4))
            let r := atomValue (atomOp w.mods) v (e.b3 s.ops w true l) (e.c3 s.ops w l)
            (s.modGang k.gk fun g => g.spWrite (o l) (bytesOf 4 r.toNat), old ++ [(l, v)]))
            (s, (lanesOf (act &&& k.helpers)).map fun l => (l, (0 : Word)))
          ((s.modWeave k.wk fun x => old.foldl (fun x r => x.wr w.dst r.1 r.2) x).advance k
            (act &&& ~~~maskOfPairs bad)).deliverFaults k bad

/-! ### Fences, prefetch and cache control (R227 to R230) -/

/-- FENCE: `.full` waits for the weave's queue, and `.acq` for the RATOMs in it, which count as earlier loads (R127, R319);
both at `.cl` or wider make the L1 current. A release needs nothing more here, because entries leave the queue in order
and become visible as they leave. -/
def execFence (w : F3) (s : State) : Out :=
  weaveOnly s fun k =>
    let kind := (w.mods.extractLsb' 0 2).toNat
    let scope := (w.mods.extractLsb' 2 3).toNat
    s.runWord k
      { legal := f3Legal (s.gang k.gk) w isUnused isUnused isUnused none false false false (kind != 0 && scope != 7)
        engine := .ls, pred := w.pred.toNat, neg := w.neg } fun e act s =>
      once act s fun s =>
        if kind == 3 && !e.w.sq.isEmpty then s.holdIssue k e .fenceWait
        else if kind == 2 && e.w.ratomQueued then s.holdIssue k e .acqWait
        else (if 2 ≤ kind ∧ 3 ≤ scope then s.acquire k.core k.part else s).advance k act

/-- A prefetch of one line: dropped on a missing translation or any failed check. -/
def State.prefetch (s : State) (k : Ctx) (va : Nat) : State :=
  if (s.tlbHits (k.core / 16) k.part va).isEmpty then s
  else match s.check k.part (8 * k.part) k.asker va 1 1 .read false true with
    | (s', .pass pa) => if inMmio pa || s.sliceWakes pa then s else (s'.l1Load k.core k.part 0 (s.gang k.gk).tag va pa 1).1
    | _ => s

/-- PFL1. -/
def execPfl1 (w : F3) (s : State) : Out :=
  weaveOnly s fun k =>
    s.runWord k (memGate (s.gang k.gk) w isUnused true (modsIn w.mods 0b11000) []) fun e act s =>
      ((lanesOf act).foldl (fun t l => t.prefetch k (e.addr3 s.ops w true l)) s).advance k act

/-- PFL1 with a literal offset. -/
def execPfl1Fi (w : FI) (s : State) : Out :=
  weaveOnly s fun k =>
    s.runWord k (memGateI (s.gang k.gk) w isUnused true (w.mods == 0) []) fun e act s =>
      ((lanesOf act).foldl (fun t l => t.prefetch k (e.addrI s.ops w true l)) s).advance k act

/-- CCTL.ivl: the line of each lane's address. -/
def execCctlIvl (w : F3) (s : State) : Out :=
  weaveOnly s fun k =>
    s.runWord k (memGate (s.gang k.gk) w isUnused true (widthCode w.mods == 0) []) fun e act s =>
      ((lanesOf act).foldl (fun t l => t.l1Drop k.core fun x => x.part == k.part && x.vline == e.addr3 s.ops w true l / 64) s).advance k act

/-- The gate of a CCTL word without an address. -/
def cctlGate (g : Gang) (w : F3) (op : Nat) : Gate :=
  { legal := f3Legal g w isUnused isUnused isUnused none false false false (w.mods.toNat == op)
    engine := .ls, pred := w.pred.toNat, neg := w.neg }

/-- CCTL.ivd: every data line of the partition. -/
def execCctlIvd (w : F3) (s : State) : Out :=
  weaveOnly s fun k => s.runWord k (cctlGate (s.gang k.gk) w 1) fun _ act s =>
    once act s fun s => (s.acquire k.core k.part).advance k act

/-- CCTL.ivi: every instruction line of the partition. -/
def execCctlIvi (w : F3) (s : State) : Out :=
  weaveOnly s fun k => s.runWord k (cctlGate (s.gang k.gk) w 2) fun _ act s =>
    once act s fun s =>
      (s.modCore k.core fun x => { x with icache := x.icache.filter fun l => l.part != k.part }).advance k act

/-! ### Neighbour spill leases (R231 to R234) -/

/-- The gate of an F3 word of LS with plain operands. -/
def lsGate (g : Gang) (w : F3) (dst a b : Operand → Bool) (ok : Bool) (vals : List Operand) : Gate :=
  { legal := f3Legal g w dst a b none false (a (.v 1)) (b (.v 1)) ok
    engine := .ls, pred := w.pred.toNat, neg := w.neg, srcs := vals, regs := vregsOf vals, holds := holdsOf w
    drops := if dst (.v 1) then vregsOf [w.dst] else [] }

/-- Bytes of a core's register file in use: by the gangs on it, and lent to neighbours (R77, R231). -/
def State.regBytes (s : State) (core : Nat) : Nat :=
  s.gangs.foldl (fun n e => if e.2.core = core then n + e.2.weaves * e.2.vreg * 128 else n) 0 +
  s.weaves.foldl (fun n e => if e.2.lease.state = .neighbour ∧ e.2.lease.lender = core then n + 128 * e.2.lease.n else n) 0

/-- The other cores of a core's cluster that have room for a lease of `n` slots. -/
def State.lenders (s : State) (core n : Nat) : List Nat :=
  ((List.range 16).map (16 * (core / 16) + ·)).filter fun c => c != core && decide (s.regBytes c + 128 * n ≤ 524288)

/-- NLEASE: the leaf controller answers at once, with a lease in a neighbour where one has room (which of several is its
choice) and in memory mode otherwise; a slot reads zero until it is written (R231, R232). -/
def execNlease (w : F3) (s : State) : Out :=
  weaveOnly s fun k =>
    let g := s.gang k.gk
    let gt := lsGate g w isS isSorConst isPairS (w.mods == 0) [w.a, w.b, nextReg w.b 1]
    s.runWord k { gt with legal := gt.legal && inDemand g w.b 2 } fun e act s =>
      once act s fun s =>
        let n := (e.rd s.ops 0 w.a 0).toNat
        let b := pair (e.rd s.ops 1 w.b 0) (e.rd s.ops 4 (nextReg w.b 1) 0)
        let answer (s : State) (v : Word) : State := (s.modWeave k.wk fun x => x.wrMask w.dst act fun _ => v).advance k act
        if e.w.lease.state ≠ .none then answer s 2
        else if n % 8 ≠ 0 ∨ n < 8 ∨ 64 < n ∨ b.toNat % 128 ≠ 0 then answer s 3
        else match s.lenders k.core n with
          | [] => answer (s.modWeave k.wk fun x => { x with lease := { state := .memory, n := n, base := b } }) 1
          | c :: cs =>
            let (f, s) := s.takeFree 1
            let c := (c :: cs).getD (Config.freeNat f % (cs.length + 1)) c
            answer (s.modWeave k.wk fun x => { x with lease := { state := .neighbour, n := n, base := b, lender := c } }) 0

/-- The lease state word (R231). -/
def Lease.word (x : Lease) : Word :=
  let st := match x.state with | .none => 0 | .neighbour => 1 | .memory => 2 | .lost => 3
  let nk := if x.state = .none then 0 else x.n / 8
  (if x.state = .none then 0 else loWord x.base &&& 0xFFFFFF80#32) ||| BitVec.ofNat 32 (nk * 4 + st)

/-- NLEASE.st. -/
def execNleaseSt (w : F3) (s : State) : Out :=
  weaveOnly s fun k =>
    let g := s.gang k.gk
    let gt := lsGate g w isPairS isUnused isUnused (w.mods == 1) []
    s.runWord k { gt with legal := gt.legal && inDemand g w.dst 2 } fun e act s =>
      once act s fun s =>
        let x := e.w.lease
        (s.modWeave k.wk fun y => (y.wrMask w.dst act fun _ => x.word).wrMask (nextReg w.dst 1) act fun _ =>
          if x.state = .none then 0 else hiWord x.base).advance k act

/-- NREL. -/
def execNrel (w : F3) (s : State) : Out :=
  weaveOnly s fun k =>
    s.runWord k (lsGate (s.gang k.gk) w isUnused isUnused isUnused (w.mods == 0) []) fun _ act s =>
      once act s fun s => (s.modWeave k.wk fun x => { x with lease := {} }).advance k act

/-- The memory address of slot `i` of lane `l`. -/
def Lease.addr (x : Lease) (i l : Nat) : Nat := (x.base + BitVec.ofNat 64 (128 * i + 4 * l)).toNat

/-- The fault of a slot access before any transfer (R232, R233). -/
def Lease.bad (x : Lease) (i : Nat) : Option (Word × Dbl) :=
  if x.state = .lost then some (x.lostCode, x.lostAddr)
  else if x.state = .none || decide (x.n ≤ i) then some (statusOf 0x13 1, BitVec.ofNat 64 i)
  else none

/-- Whether a memory-mode slot of a lane has been written, by NSPL or by a revocation. -/
def Lease.holds (x : Lease) (i l : Nat) : Bool := x.pushed || Table.get false x.stored (32 * i + l)

/-- NSPL. -/
def execNspl (w : F3) (s : State) : Out :=
  weaveOnly s fun k =>
    s.runWord k (lsGate (s.gang k.gk) w isUnused isSorConst isV (w.mods == 0) [w.a, w.b]) fun e act s =>
      let i := (e.rd s.ops 0 w.a 0).toNat
      let x := e.w.lease
      match (if act = 0 then none else x.bad i) with
      | some (st, a) => s.fault k act st a
      | none =>
        if x.pushing && act != 0 then s.holdIssue k e .leasePush
        else if x.state = .neighbour then
          (s.modWeave k.wk fun y => { y with lease := { y.lease with
            slots := (lanesOf (act &&& ~~~k.helpers)).foldl (fun t l => Table.set 0 t (32 * i + l) (e.rd s.ops 1 w.b l)) y.lease.slots } }).advance k act
        else
          let s := s.storeGlobal k e act 4 (fun l => x.addr i l) fun l => bytesOf 4 (e.rd s.ops 1 w.b l).toNat
          s.modWeave k.wk fun y => { y with lease := { y.lease with
            stored := ((y.sq.drop e.w.sq.length).flatMap fun q => q.items.map (·.lane)).foldl (fun t l => Table.set false t (32 * i + l) true) y.lease.stored } }

/-- NFIL. -/
def execNfil (w : F3) (s : State) : Out :=
  weaveOnly s fun k =>
    s.runWord k (lsGate (s.gang k.gk) w isV isSorConst isUnused (w.mods == 0) [w.a]) fun e act s =>
      let i := (e.rd s.ops 0 w.a 0).toNat
      let x := e.w.lease
      match (if act = 0 then none else x.bad i) with
      | some (st, a) => s.fault k act st a
      | none =>
        if x.pushing && act != 0 then s.holdIssue k e .leasePush
        else if x.state = .memory then s.loadGlobal k e act w.dst 4 (fun l => x.addr i l) fun l => x.holds i l
        else
          let (free, s) := s.takeFree 128
          (s.modWeave k.wk fun y => y.issueLL free k.run
            ((lanesOf act).map fun l => { dst := w.dst, lane := l, val := Table.get 0 x.slots (32 * i + l) }) false 0 true).advance k act

/-- A lease is lost: its values are gone, and the next NSPL or NFIL faults with the code (R233). -/
def State.loseLease (s : State) (wk : Nat) (code : Word) (addr : Dbl) : State :=
  s.modWeave wk fun y => { y with lease := { y.lease with
    state := .lost, slots := [], stored := [], pushing := false, tickets := [], lostCode := code &&& 0xFF#32, lostAddr := addr } }

/-- Revocation: NSPL and NFIL are held while every slot of all 32 lanes goes to memory, at master class 0. A push that
faults in translation waits for the pager and is then made again; one that is refused loses the lease (R233). -/
def State.revokeLease (s : State) (wk : Nat) : State :=
  let w := s.weave wk
  let g := s.gang w.gang
  let x := w.lease
  if x.state ≠ .neighbour || !x.tickets.isEmpty then s
  else
    let cells := (List.range x.n).flatMap fun i => (List.range 32).map fun l => (i, l)
    let (s, bad, wait) := cells.foldl (fun (t, bad, wait) (i, l) =>
      if (bad : Option (Word × Nat)).isSome || (wait : Option Nat).isSome then (t, bad, wait)
      else match t.check g.part (8 * g.part) { cluster := g.core / 16, core := g.core, weave := w.num, source := 1 } (x.addr i l) 4 4 .write false false with
        | (t, .pass pa) =>
          let t := (t.agentWrite g.part (8 * g.part) g.tag pa (bytesOf 4 (Table.get 0 x.slots (32 * i + l)).toNat)).l1Fresh g.core g.part g.tag pa 4
          (if l % 16 = 0 then t.countWrite g.part g.tag pa 64 (g.core / 256) else t, bad, wait)
        | (t, .fault st) => (t, some (st, x.addr i l), wait)
        | (t, .park tk) => (t, bad, some tk)) ((s, none, none) : State × Option (Word × Nat) × Option Nat)
    match bad, wait with
    | some (st, a), _ => s.loseLease wk st (BitVec.ofNat 64 a)
    | none, some tk => s.modWeave wk fun y => { y with lease := { y.lease with pushing := true, tickets := [tk] } }
    | none, none => s.modWeave wk fun y => { y with lease := { y.lease with state := .memory, slots := [], pushed := true, pushing := false, tickets := [] } }

/-- LEASE_REVOKE. -/
def execLeaseRevoke (s : State) : Out := .next (s.revokeLease s.ev.a)

/-! ### The pager's instructions (R235, R236) -/

/-- The walk of PGMAP down to level `to_`: the address of the entry, when every table above it exists (R235 check 7). -/
def State.pgmapWalk (s : State) (p va to_ table : Nat) : Nat → Option Nat
  | 0 => none
  | level + 1 =>
    let at_ := table + 8 * bits va (9 * level + 20) (9 * level + 12)
    if !s.populated at_ || inMmio at_ || (s.refuser (8 * p + 5) at_ 8 (if level = to_ then .write else .read)).isSome then none
    else if level = to_ then some at_
    else
      let e := memQword s.mem at_
      if bit e 0 && !bit e 4 && tableOk e then State.pgmapWalk s p va to_ (bits e 47 12 * 4096) level else none

/-- The level of a leaf of size SZ (R144). -/
def leafLevel (sz : Nat) : Nat := match sz with | 0 => 0 | 1 => 0 | 2 => 1 | _ => 2

/-- PGMAP's status and the address of the entry. -/
def State.pgmapCheck (s : State) (k : Ctx) (va ent c : Nat) : Nat × Nat :=
  let p := k.part
  let t := (s.part p).trans
  let q (i : Nat) : Nat := s.regionWord p c i
  let sz := bits ent 6 5
  let n := pageBytes sz
  let pa := bits ent 47 12 * 4096
  if !(decide (c < t.rtcount) && bit (q 4) 35) then (1, 0)
  else if (s.launch k.launch).queue ≠ bits (q 4) 31 16 then (2, 0)
  else if !(decide (q 0 ≤ va) && decide (va + n ≤ q 1)) then (3, 0)
  else if !(decide (q 2 ≤ pa) && decide (pa + n ≤ q 3)) then (4, 0)
  else if !bit ent 0 || (bit ent 1 && !bit (q 4) 32) || (bit ent 2 && !bit (q 4) 33) || (bit ent 3 && !bit (q 4) 34) then (5, 0)
  else if !bit ent 4 || !s.leafOk (leafLevel sz) ent || va % n ≠ 0 then (6, 0)
  else match s.pgmapWalk p va (leafLevel sz) (t.ptroot * 4096) 5 with
    | none => (7, 0)
    | some a => (0, a)

/-- PGMAP. -/
def execPgmap (w : F3) (s : State) : Out :=
  weaveOnly s fun k =>
    let g := s.gang k.gk
    let vals := [w.a, nextReg w.a 1, w.b, nextReg w.b 1, w.srcC]
    s.runWord k
      { legal := f3Legal g w isS isPairS isPairS (some isSorConst) false false false (w.mods == 0) && inDemand g w.a 2 && inDemand g w.b 2
        engine := .ls, guarded := true, pred := w.pred.toNat, neg := w.neg, srcs := vals } fun e act s =>
      once act s fun s =>
        let va := e.pairAt s.ops w.a 0
        let ent := (pair (e.rd s.ops 1 w.b 0) (e.rd s.ops 5 (nextReg w.b 1) 0)).toNat
        let (st, at_) := s.pgmapCheck k va ent (e.rd s.ops 2 w.srcC 0).toNat
        let s := if st ≠ 0 then s
          else
            let s := (List.range (if bits ent 6 5 = 1 then 16 else 1)).foldl (fun s i => s.commitWrite (at_ + 8 * i) (bytesOf 8 ent)) s
            s.tlbDrop k.part va (pageBytes (bits ent 6 5)) fun t => t.meets va (pageBytes (bits ent 6 5))
        (s.modWeave k.wk fun x => x.wrMask w.dst act fun _ => BitVec.ofNat 32 st).advance k act

/-- A lane whose tickets are closed goes on: it retries its access. -/
def Lane.unpark (l : Lane) (t : Nat) : Lane :=
  match l.parked with
  | none => l
  | some p =>
    let ts := p.tickets.filter (· != t)
    { l with parked := if ts.isEmpty then none else some { p with tickets := ts } }

/-- The front end's read that waits on a ticket fails: its packet completes with 0x30, detail 0x03 (R452). -/
def State.failFrontReads (s : State) (t : Nat) : State :=
  let s := s.launches.foldl (fun s e =>
    if e.2.depTickets.contains t then (s.modLaunch e.1 fun x => { x with depTickets := [] }).endLaunch e.1 0x330#32 else s) s
  let s := s.parts.foldl (fun s e => match e.2.prologue with
    | some x => if x.tickets.contains t then s.endPrologue e.1 (prologueFault 0x10) else s
    | none => s) s
  { s with
    slots := s.slots.mapVals fun _ e => e.map fun x => if x.tickets.contains t then { x with tickets := [], refused := true } else x
    pendingOrder := s.pendingOrder.map fun x => if x.tickets.contains t then { x with tickets := [], refused := true } else x }

/-- Fails the lanes of a weave that wait on a ticket: fault 0x10 with a detail, at each lane's address (R236). -/
def State.failParked (s : State) (wk t detail : Nat) (status : Word) : State :=
  let w := s.weave wk
  let ls := (List.range 32).filter fun l => match (w.lane l).parked with
    | some p => p.tickets.contains t
    | none => false
  ls.foldl (fun s l =>
    let x := w.lane l
    match x.parked with
    | none => s
    | some p =>
      let st := xlatStatus detail p.kind 0 ||| (status &&& 0x1C0000#32)
      let s := s.modWeave wk fun w => w.modLane l fun y => { y with parked := none }
      s.raise wk { status := st, mask := maskOf fun i => i == l, addr := p.va, resume_ := if x.hdr then x.pc ||| 1 else x.pc }) s

/-- The status with which a command that waits on a ticket fails: DETAIL, the KIND of its own access and LEVEL (R154); a
GDIST reports its candidate in their place, and a TKMRG 0 (R364, R370). -/
def AsyncOp.failStatus (o : AsyncOp) (detail : Nat) (status : Word) : Word :=
  match o.instr with
  | .gdist _ => statusOf 0x10 detail ||| BitVec.ofNat 32 (o.unit % 2 ^ 16 * 2 ^ 16)
  | .tkmrgSt _ | .tkmrgLd _ => statusOf 0x10 detail
  | _ => xlatStatus detail o.waitKind 0 ||| (status &&& 0x1C0000#32)

/-- Closes a ticket: parked lanes, commands and front-end reads retry; or, with a detail, they fail. -/
def State.closeTicket (s : State) (t : Nat) (fail : Option Nat) : State :=
  let tk := Table.get {} s.tickets t
  let s := { s with tickets := s.tickets.erase t }
  match fail with
  | none =>
    let cores := (s.weaves.filter fun e => e.2.lanes.any fun l => match l.2.parked with
      | some p => p.tickets.contains t
      | none => false).map fun e => ((s.gang e.2.gang).core, (s.gang e.2.gang).part)
    let s := cores.foldl (fun s c => s.acquire c.1 c.2) s
    { s with
      weaves := s.weaves.mapVals fun _ w => { w with
        lanes := w.lanes.mapVals fun _ l => l.unpark t
        lease := { w.lease with tickets := w.lease.tickets.filter (· != t) } }
      ops := s.ops.mapVals fun _ o => { o with tickets := o.tickets.filter (· != t) }
      launches := s.launches.mapVals fun _ l => { l with depTickets := l.depTickets.filter (· != t) }
      slots := s.slots.mapVals fun _ e => e.map fun x => { x with tickets := x.tickets.filter (· != t) }
      pendingOrder := s.pendingOrder.map fun x => { x with tickets := x.tickets.filter (· != t) }
      parts := s.parts.mapVals fun _ p => { p with prologue := p.prologue.map fun x => { x with tickets := x.tickets.filter (· != t) } } }
  | some d =>
    let s := s.weaves.foldl (fun s e => s.failParked e.1 t d tk.status) s
    let s := s.ops.foldl (fun s e =>
      if e.2.tickets.contains t then (s.modOp e.1 fun o => { o with tickets := [] }).failOp e.1 (e.2.failStatus d tk.status) else s) s
    let s := s.weaves.foldl (fun s e => if e.2.lease.tickets.contains t then s.loseLease e.1 0x10#32 tk.va else s) s
    s.failFrontReads t

/-- PGDONE: a release at `.pkg` first. -/
def execPgdone (w : F3) (s : State) : Out :=
  weaveOnly s fun k =>
    let gt := lsGate (s.gang k.gk) w isS isS isUnused (modsIn w.mods 1) [w.a]
    s.runWord k { gt with guarded := true } fun e act s =>
      once act s fun s =>
        let n := (e.rd s.ops 0 w.a 0).toNat
        let answer (s : State) (v : Word) : State := (s.modWeave k.wk fun x => x.wrMask w.dst act fun _ => v).advance k act
        match s.tickets.find n with
        | none => answer s 1
        | some t =>
          if t.part ≠ k.part then answer s 1
          else if (s.launch k.launch).queue ≠ bits (s.regionWord k.part t.region 4) 31 16 then answer s 2
          else if !e.w.sq.isEmpty then s.holdIssue k e .queueBusy
          else answer (s.closeTicket n (if w.mods.getLsbD 0 then some 0 else none)) 0

end Sys2Proof.Machine
end

