-- ==== Sys2Proof/Machine/Issue.lean ====
section
/-! DEFINITION. Issue selection: contexts, weaves, meetings, clause entry and dual issue (spec/02_execution.md, R38 to
R40, R48; spec/03_encoding.md, R60 to R64; R31, R32, R347). -/

namespace Sys2Proof.Machine

open Sys2Proof

/-! ### What waits (R187, R204) -/

/-- TKMRG in one of its forms. -/
def isTkmrg : Instr → Bool
  | .tkmrgWv _ | .tkmrgSt _ | .tkmrgLd _ => true
  | _ => false

/-- A hold of the first group is over, so that the word can issue again; those whose condition only the word itself can
tell are tried again. -/
def State.holdOver (s : State) (wk : Nat) (w : Weave) : Hold → Bool
  | .handleRead h => match s.handle w h with
    | .pending _ => false
    | _ => true
  | .destPending _ r => (s.op r).state != .pending
  | .queueFull => !w.sqFull
  | .queueBusy => w.sq.isEmpty
  | .acqWait => !w.ratomQueued
  | .leasePush => !w.lease.pushing
  | .fenceWait => w.sq.isEmpty
  | .flagFull f => decide (w.flag f < 15)
  | .llOut => !w.ll.any (·.lane)
  | .roundNew c => (s.conv (s.convHome (s.gang w.gang).cohort) c).sig.isEmpty
  | .ringEmpty j => match (s.cohort (s.gang w.gang).cohort).rings.find j with
    | some r => r.ready
    | none => true
  | .stepGe n => decide ((loWord (s.part (s.gang w.gang).part).stamp.step - n).toNat < 2 ^ 31)
  | .tkmrgOut => !s.ops.any fun e => e.2.wk == wk && e.2.state == .pending && isTkmrg e.2.instr
  | .hwait _ _ | .gbar | .cbar | .signW _ _ | .sysc _ | .xstep _ | .parkedOn _ _ | .performed | .secondFault | .saved | .cmdQueue _ => false
  | .bondForming | .shareBound | .slotEmpty _ | .forwarding | .earlierOps | .opFence | .sliceWake
  | .bankWake | .seamAsk _ | .waiterFull _ => true

/-- An HWAIT whose operations have all resolved returns: an acquire, with the latches invalidated (R81, R204); a
cancelled one is fault 0x18. -/
def State.wakeHwait (s : State) (wk : Nat) : State :=
  let w := s.weave wk
  (List.range 32).foldl (fun s l =>
    match ((s.weave wk).lane l).hold with
    | some (.hwait recs dst) =>
      let sts := recs.map fun e => if e.1 = 0 then OpState.resolved e.2 else (s.op e.1).state
      let h := Hold.hwait recs dst
      let m := maskOf fun i => ((s.weave wk).lane i).hold == some h
      let g := s.gang w.gang
      if sts.any (· == .cancelled) then
        (s.modWeave wk fun x => x.modLanes m fun y => { y with hold := none }).raise wk
          { status := 0x18#32, mask := m, resume_ := ((s.weave wk).lane l).pc }
      else if sts.any (· == .pending) then s
      else
        let st := (sts.findSome? fun x => match x with
          | .resolved v => if v = 0 then none else some v
          | _ => none).getD 0
        (s.modWeave wk fun x => (x.dropLatches.wrMask dst m fun _ => st).passHeld fun y => y == h).acquire g.core g.part
    | _ => s) s

/-! ### Lane sets (R38, R40) -/

/-- The address by which the sequencer orders a lane: that of the word it issues next. -/
def Lane.place (l : Lane) : Nat := if l.hdr then l.pc.toNat + 8 else l.pc.toNat

/-- A lane stands at the clause that its mr names (R36, R40). -/
def atMeeting (kaddr : Dbl) (l : Lane) : Bool :=
  l.hdr && l.mr != 0xFFFFFFFF#32 && !l.priv && l.pc == kaddr + l.mr.setWidth 64

/-- Releases every meeting whose lanes have all arrived (R40). -/
def Weave.releaseMeetings (w : Weave) (kaddr : Dbl) : Weave :=
  let live := (List.range 32).filter fun l => (w.lane l).status == .live
  let done (l : Nat) : Bool :=
    atMeeting kaddr (w.lane l) && live.all fun i =>
      (w.lane i).mr != (w.lane l).mr || (atMeeting kaddr (w.lane i) && (w.lane i).parked.isNone)
  let m := maskOf fun l => live.contains l && !(w.lane l).met && done l
  if m = 0 then w else w.modLanes m fun l => { l with met := true }

/-- A hold of the whole weave, lanes of other paths too: FENCE.full (R227), OPFENCE (R256), QPARK (R322), BSEAM.pair (R274),
BLEASE (R278), STEPRD.ge (R348) and LPOLL (R389). -/
def Hold.ofWeave : Hold → Bool
  | .fenceWait | .opFence | .parkedOn _ _ | .waiterFull _ | .seamAsk _ | .bondForming | .stepGe _ | .slotEmpty _ => true
  | _ => false

/-- The lanes that could issue now; under a trap order only those in the handler go on (R216). -/
def State.candidateLanes (s : State) (wk : Nat) (w : Weave) (kaddr : Dbl) : List Nat :=
  let held := (w.lanes.findSome? fun e => e.2.hold.bind fun h => if h.ofWeave && e.2.status == .live then some h else none)
  (List.range 32).filter fun l =>
    let x := w.lane l
    x.status == .live && x.parked.isNone && (!w.preempt || x.priv) && (held.isNone || x.hold == held) &&
    (match x.hold with
      | none => true
      | some h => s.holdOver wk w h) &&
    (!atMeeting kaddr x || x.met)

/-- Two lanes issue together: the same address, mode and kind of place. -/
def Lane.sameGroup (a b : Lane) : Bool := a.pc == b.pc && a.hdr == b.hdr && a.priv == b.priv

/-- The lane of a list with the lowest place. -/
def lowestLane (w : Weave) (ls : List Nat) : Option Nat :=
  ls.foldl (fun r l => match r with
    | none => some l
    | some b => if (w.lane l).place < (w.lane b).place then some l else r) none

/-- The helpers that issue with a lane set take the place of the lowest lane of their quad that is none (R37). -/
def Weave.joinHelpers (w : Weave) (m : BitVec 32) : Weave × BitVec 32 :=
  (List.range 32).foldl (fun (w, m) h =>
    if (w.lane h).status ≠ .helper then (w, m)
    else match (List.range 4).find? fun k => (w.lane (4 * (h / 4) + k)).status == .live with
      | some k =>
        let b := 4 * (h / 4) + k
        if m.getLsbD b then
          let x := w.lane b
          (w.modLane h fun l => { l with pc := x.pc, hdr := x.hdr, mr := x.mr, clause := x.clause, hold := none, parked := none }, setBit m h true)
        else (w, m)
      | none => (w, m)) (w, m)

/-! ### Clause entry (R60, R61, R64, R347) -/

/-- What preparing a lane set gives. -/
inductive Prep where
  /-- It issues this word. -/
  | ready (slot : IssueSlot)
  /-- It waits at a header. -/
  | blocked
  /-- It has faulted or parked. -/
  | gone
  deriving DecidableEq, Repr

/-- The clause that a header describes (R59). -/
def clauseOf (at_ h : Dbl) : ClauseRun :=
  { hdr := at_, len := (h.extractLsb' 0 4).toNat, ord := h.getLsbD 28, yld := h.getLsbD 27
    flagA := if h.getLsbD 20 then some (h.extractLsb' 16 4).toNat else none
    flagB := if h.getLsbD 25 then some (h.extractLsb' 21 4).toNat else none }

/-- The window faults that are due to lanes of a set (R347): their results have been written back or performed. -/
def Weave.dueWindow (w : Weave) (m : BitVec 32) : List WinFault :=
  w.win.filter fun f => m.getLsbD f.lane && (match f.ll with
    | none => true
    | some i => !w.ll.any fun p => p.id == i)

/-- Delivers the window faults that are due to a lane set at a header. -/
def State.deliverWindow (s : State) (wk : Nat) (due : List WinFault) (hdr : Dbl) : State :=
  let f := due.foldl (fun (b : Option WinFault) (x : WinFault) => match b with
    | some y => if x.lane < y.lane then some x else b
    | none => some x) none
  match f with
  | none => s
  | some x =>
    (s.modWeave wk fun w => { w with win := w.win.filter fun y => !due.contains y }).raise wk
      { status := 0x38#32 ||| (x.detail <<< 8), mask := maskOf fun l => due.any fun y => y.lane == l, addr := x.addr, resume_ := hdr ||| 1 }

/-- The first word of a clause cannot issue (R25, R64): earlier results or commands stand before an ORD clause, or a flag's
count is full. -/
def State.firstBlocked (s : State) (wk : Nat) (c : ClauseRun) : Bool :=
  (c.ord && (!(s.weave wk).ll.isEmpty || s.ops.any fun e => e.2.wk == wk && !e.2.accepted && !e.2.stopped)) ||
  c.flags.any fun f => decide (15 ≤ (s.weave wk).flag f)

/-- A lane set enters the clause whose header is at `at_`. -/
def State.enterClause (s : State) (wk : Nat) (m : BitVec 32) (at_ : Dbl) : State × Prep :=
  let w := s.weave wk
  let g := s.gang w.gang
  let who : Asker := { cluster := g.core / 16, core := g.core, weave := w.num }
  match s.fetchWord g.core g.part at_.toNat who false with
  | (s, .fault st) => (s.raise wk { status := st, mask := m, addr := at_, resume_ := at_ ||| 1 }, .gone)
  | (s, .park t) => (s.parkLanes wk ((lanesOf (m &&& w.liveMask)).map fun l => (l, t, at_.toNat)) .fetch, .gone)
  | (s, .later) => (s, .blocked)
  | (s, .word h) =>
    match headerStatus h with
    | some st => (s.raise wk { status := st, mask := m, addr := at_, resume_ := at_ ||| 1 }, .gone)
    | none =>
      let c := clauseOf at_ h
      if w.anyFlag (h.extractLsb' 4 12).toNat then
        (s.modWeave wk fun x => x.modLanes m fun l => { l with waited := true }, .blocked)
      else if s.firstBlocked wk c then (s, .blocked)
      else
        let due := w.dueWindow m
        if !due.isEmpty then (s.deliverWindow wk due at_, .gone)
        else
          let waited := (lanesOf m).any fun l => (w.lane l).waited
          let (x, id) := (if waited then w.dropLatches else w).startClause c
          let x := x.modLanes m fun l =>
            { l with pc := at_ + 8, hdr := false, waited := false, met := false, clause := id, hold := none }
          (s.modWeave wk fun _ => x.settle, .ready { wk := wk, pc := at_ + 8, lanes := m })

/-- Prepares the lane set of a lane: its clause is entered if it stands at a header. -/
def State.prepare (s : State) (wk : Nat) (cand : List Nat) (l : Nat) : State × Prep :=
  let w := s.weave wk
  let x := w.lane l
  let m := maskOf fun i => cand.contains i && x.sameGroup (w.lane i)
  let (w, m) := w.joinHelpers m
  let w := w.modLanes m fun y => { y with hold := none }
  let s := s.modWeave wk fun _ => w
  if x.hdr then s.enterClause wk m x.pc
  else
    let c := Table.get {} w.clauses x.clause
    if !c.started && x.pc == c.hdr + 8 && s.firstBlocked wk c then (s, .blocked)
    else (s, .ready { wk := wk, pc := x.pc, lanes := m })

/-! ### Dual issue (R39) -/

/-- The issue unit of a word. -/
inductive IssueUnit where
  | pipe | pipes | nothing | loadStore | matrix | command
  deriving DecidableEq, Repr

def opcodeOf (w : Dbl) : Nat := (w.extractLsb' 52 10).toNat
def formatOf (w : Dbl) : Nat := (w.extractLsb' 62 2).toNat

def issueUnit (w : Dbl) : IssueUnit :=
  let o := opcodeOf w
  if formatOf w = 2 then .pipes
  else if o < 0x100 then .pipe
  else if o < 0x180 then .nothing
  else if o < 0x1E0 then .loadStore
  else if o < 0x1F0 then (if formatOf w = 3 then .command else .loadStore)
  else if 0x200 ≤ o ∧ o < 0x250 then .matrix
  else if 0x2B0 ≤ o ∧ o < 0x2E0 then .loadStore
  else if o = 0x320 then .loadStore
  else .command

/-- How many registers from DST on an F3 or FI word may write: LDC, NLEASE, RATOM and WSLOT by their modifiers, QDEQ and
QPARK the status and an entry of up to eight words (R322), IMADW, DRAW, STEPRD and LPOLL two; none where DST names a source (ST, STS, DADD, DSET, ACCWR, XST). -/
def dstCount (w : Dbl) : Nat :=
  let m := (w.extractLsb' 0 5).toNat
  match opcodeOf w with
  | 0x181 | 0x183 | 0x1E1 | 0x1E2 | 0x20B | 0x320 => 0
  | 0x184 => if m % 8 = 5 then 2 else if m % 8 = 6 then 4 else 1
  | 0x189 => if bit m 0 then 2 else 1
  | 0x2B0 => if m / 16 = 1 then 2 else 1
  | 0x256 => if bit m 2 then 2 else 1
  | 0x2B2 | 0x2B3 => 9
  | 0x005 | 0x1E3 | 0x1E4 | 0x325 => 2
  | _ => 1

/-- What a word writes of what two words that issue together must not both write: uniform registers (SYSC's reply s0 to s3,
R213), handles, fpsw, the
convergence register that it declares, signs or binds, and, as 1000 + flag, the flag of an FX word and those of CLRFLG
(notes/assumptions/111.md). -/
def issueWrites (w : Dbl) : List Nat :=
  let d := (w.extractLsb' 43 9).toNat
  let o := opcodeOf w
  match formatOf w with
  | 3 =>
    let x := decodeFX w
    (if x.noh then [] else [400 + x.hdst.toNat]) ++ (if x.afen then [1000 + x.aflag.toNat] else [])
  | 2 => []
  | f =>
    (if dstCount w = 0 then []
      else if 320 ≤ d ∧ d < 384 then (List.range (dstCount w)).map (d + ·)
      else if 400 ≤ d ∧ d < 424 ∨ d = 445 then [d] else []) ++
    (if o = 0x119 then (List.range 4).map (320 + ·) else []) ++
    (if o = 0x10D then [(w.extractLsb' 34 9).toNat] else []) ++
    (if o = 0x11E then ((List.range 12).filter fun i => (decodeFI w).imm.getLsbD i).map (1000 + ·) else []) ++
    match f, (decodeF3 w).srcC with
    | 0, .c i => if 0x204 ≤ o ∧ o ≤ 0x207 then [416 + i.val] else []
    | _, _ => []

/-- A word writes fpsw (R162). -/
def writesFpsw (w : Dbl) : Bool := formatOf w < 2 && dstCount w != 0 && w.extractLsb' 43 9 == 445#9

/-- Two words may issue in one cycle; the answer is the order in which they act: the lower program counter first, but a
write of fpsw before the word that it issues with (R162), and FLGRD after the first word of a clause that sets a flag
(R208). -/
def State.pairs (s : State) (a b : IssueSlot) : Option (List Actor) :=
  let w := s.weave a.wk
  let g := s.gang w.gang
  let run (i : IssueSlot) : ClauseRun := Table.get {} w.clauses (w.lane ((lanesOf i.lanes).headD 0)).clause
  let first (i : IssueSlot) : List Nat := if i.pc == (run i).hdr + 8 then (run i).flags.map (1000 + ·) else []
  match (s.fetchWord g.core g.part a.pc.toNat { cluster := 0, core := 0 } true).2,
        (s.fetchWord g.core g.part b.pc.toNat { cluster := 0, core := 0 } true).2 with
  | .word x, .word y =>
    if !(run a).ord && !(run b).ord && issueUnit x != .pipes && issueUnit y != .pipes &&
      (issueUnit x != issueUnit y || issueUnit x == .pipe || issueUnit x == .nothing) &&
      !((issueWrites x ++ first a).any fun d => (issueWrites y ++ first b).contains d)
    then some (if writesFpsw y || (opcodeOf x == 0x11F && !(first b).isEmpty) then [.weave b, .weave a] else [.weave a, .weave b]) else none
  | _, _ => none

/-! ### The cycle of a core (R48) -/

/-- Tries to issue from a weave: the lane sets in ascending order of address; a set that waits at its header gives way
to the next. Answers whether the cycle was used. -/
def State.tryIssue (s : State) (wk : Nat) (cand : List Nat) : Nat → State × Bool
  | 0 => (s, false)
  | n + 1 =>
    let w := s.weave wk
    match lowestLane w cand with
    | none => (s, false)
    | some l =>
      let rest := cand.filter fun i => !(w.lane l).sameGroup (w.lane i)
      match s.prepare wk cand l with
      | (s, .blocked) => State.tryIssue s wk rest n
      | (s, .gone) => (s, true)
      | (s, .ready a) =>
        let rest := rest.filter fun i => ((s.weave wk).lane i).place != a.pc.toNat
        let alone : State × Bool := ({ s with issue := [.weave a] }, true)
        match lowestLane (s.weave wk) rest with
        | none => alone
        | some l2 =>
          match s.prepare wk rest l2 with
          | (s2, .ready b) => match s2.pairs a b with
            | some l => ({ s2 with issue := l }, true)
            | none => alone
          | _ => alone

/-- Issues from a weave if it is ready. -/
def State.issueWeave (s : State) (wk : Nat) : State × Bool :=
  let s := (s.wakeHwait wk).deliverPend wk
  let g := s.gang (s.weave wk).gang
  let s := s.modWeave wk fun w => w.settle.releaseMeetings g.kaddr
  let cand := s.candidateLanes wk (s.weave wk) g.kaddr
  let (s, used) := s.tryIssue wk cand 33
  if used then (s.modWeave wk fun w => { w with lastIssue := s.clk.toNat, age := 0 }, true) else (s, false)

/-- The stage of a weave. -/
def Launch.stageOf (l : Launch) (num : Nat) : Option (Nat × Stage) :=
  l.stages.find? fun e => decide (e.2.wfirst ≤ num) && decide (num < e.2.wfirst + e.2.wcount)

/-- A stage of a weave's gang is eligible (R28), and how many slots its output ring has free; a ring that is not declared acts
as none (DESIGN CHOICE, notes/assumptions/126.md). -/
def State.stageRoom (s : State) (w : Weave) (st : Stage) : Option Nat :=
  let rings := (s.cohort (s.gang w.gang).cohort).rings
  let inOk := match rings.find st.rin with
    | some r => r.ready
    | none => true
  match rings.find st.rout with
  | some r => if inOk && !r.full.getLsbD r.head && decide (r.count < r.maxocc) then some (r.slots - r.count) else none
  | none => if inOk then some 16 else none

/-- The weaves of a context on a core, in the order in which they are to be tried (R48): with a pipeline, those that have
waited 16 issue cycles, then by stage, the one with the most room first; the first that is ready issues. -/
def State.weaveOrder (s : State) (core launch : Nat) : List Nat :=
  let ws := sortBy (fun (a b : Nat × Weave) => decide (a.2.lastIssue < b.2.lastIssue ||
      (a.2.lastIssue = b.2.lastIssue && (a.2.num < b.2.num || (a.2.num = b.2.num && a.1 ≤ b.1)))))
    (s.weaves.filter fun e => !e.2.ended && (s.gang e.2.gang).core == core && (s.gang e.2.gang).launch == launch)
  let x := s.launch launch
  if x.stages.isEmpty then ws.map (·.1)
  else
    let el := ws.filterMap fun e => (x.stageOf e.2.num).bind fun st => (s.stageRoom e.2 st.2).map fun n => (e.1, e.2.age, st.1, n)
    let aged := el.filter fun e => decide (16 ≤ e.2.1)
    let rest := sortBy (fun (a b : Nat × Nat × Nat × Nat) => decide (b.2.2.2 < a.2.2.2 || (a.2.2.2 = b.2.2.2 && a.2.2.1 ≤ b.2.2.1)))
      (el.filter fun e => decide (e.2.1 < 16))
    (aged ++ rest).map (·.1)

/-- Tries weaves in order until one issues. -/
def State.issueFirst (s : State) : List Nat → State × Bool
  | [] => (s, false)
  | wk :: rest =>
    match s.issueWeave wk with
    | (s, true) => (s, true)
    | (s, false) => State.issueFirst s rest

/-- Tries contexts in order. -/
def State.issueContexts (s : State) (core : Nat) : List Nat → State
  | [] => s
  | l :: rest =>
    let ws := s.weaveOrder core l
    match s.issueFirst ws with
    | (s, true) => ws.foldl (fun s wk => s.modWeave wk fun w => if w.lastIssue = s.clk.toNat then w else { w with age := w.age + 1 }) s
    | (s, false) => State.issueContexts s core rest

/-- ISSUE_CYCLE. -/
def execIssueCycle (s : State) : Out :=
  .next (if s.tripped || !s.rails then s else s.issueContexts s.ev.a (s.slotOrder s.ev.a 0))

/-- WINDOW_FAULT_DELIVERY (R347): to the lanes of a weave that stand at a header. -/
def execWindowFaultDelivery (s : State) : Out :=
  let w := s.weave s.ev.a
  match (w.win.find? fun f => (w.lane f.lane).hdr && (w.lane f.lane).status == .live && !(w.dueWindow (maskOf fun i => i == f.lane)).isEmpty) with
  | none => .next s
  | some f =>
    let at_ := (w.lane f.lane).pc
    .next (s.deliverWindow s.ev.a (w.dueWindow (maskOf fun l => (w.lane l).hdr && (w.lane l).pc == at_)) at_)

/-- LL_WRITEBACK (R25, R65): of the ready results of a weave, the one at a place of the list is written back. -/
def execLlWriteback (s : State) : Out :=
  match ((s.weave s.ev.a).ll.filter (·.ready))[s.ev.b]? with
  | none => .next s
  | some p => .next ((s.modWeave s.ev.a fun w => w.writeBack p).deliverPend s.ev.a)

/-! ### What a step fetches (R38, R61, R85, R408) -/

/-- Fetches and decodes the word of an issue slot: a fetch that faults, parks, or a word that is no instruction, is dealt
with here. -/
def State.fetchSlot (s : State) (i : IssueSlot) : State × Option Instr :=
  let w := s.weave i.wk
  let g := s.gang w.gang
  match s.fetchWord g.core g.part i.pc.toNat { cluster := g.core / 16, core := g.core, weave := w.num } false with
  | (s, .fault st) => (s.raise i.wk { status := st, mask := i.lanes, addr := i.pc, resume_ := i.pc }, none)
  | (s, .park t) => (s.parkLanes i.wk ((lanesOf (i.lanes &&& w.liveMask)).map fun l => (l, t, i.pc.toNat)) .fetch, none)
  | (s, .later) => (s, none)
  | (s, .word x) =>
    match decode x with
    | .ok j => (s, some j)
    | .error e => (s.raise i.wk { status := e.status, mask := i.lanes, addr := 0, resume_ := i.pc }, none)

/-- A prologue's fetch of the word at an address, at master class 0, the one that may fetch (R158, R423); it is counted as an
instruction fetch of its front-end share (R325). -/
def State.proWord (s : State) (p va : Nat) : State × Fetch :=
  match s.check p (8 * p) frontAsker va 8 1 .fetch false false with
  | (s, .fault st) => (s, .fault st)
  | (s, .park t) => (s, .park t)
  | (s, .pass pa) =>
    if s.sliceWakes pa then (s, .later)
    else (s.count p pa 6 (Config.frontDie p % 4), .word (BitVec.ofNat 64 (memQword s.mem pa)))

/-- A prologue fetches its next word, entering a clause first if it stands at a header. -/
def State.fetchPrologue (s : State) (p : Nat) : State × Option Instr :=
  match (s.part p).prologue with
  | none => (s, none)
  | some x =>
    let word (s : State) (x : Prologue) : State × Option Instr :=
      if 256 ≤ x.count then ({ s with ev := { a := p } }, some .prologueWordLimit)
      else match s.proWord p x.pc.toNat with
        | (s, .fault st) => (s.endPrologue p (prologueFault (proFaultCode st)), none)
        | (s, .park t) => (s.setPrologue p { x with tickets := [t] }, none)
        | (s, .later) => (s, none)
        | (s, .word v) =>
          match decode v with
          | .ok i => (s, some i)
          | .error e => (s.endPrologue p (prologueFault (if formatOf v = 2 then 2 else e.status.toNat % 256)), none)
    if !x.hdr then word s x
    else match s.proWord p x.pc.toNat with
      | (s, .fault st) => (s.endPrologue p (prologueFault (proFaultCode st)), none)
      | (s, .park t) => (s.setPrologue p { x with tickets := [t] }, none)
      | (s, .later) => (s, none)
      | (s, .word h) =>
        match headerStatus h with
        | some st => (s.endPrologue p (prologueFault (st.toNat % 256)), none)
        | none =>
          let x := { x with clause := x.pc, len := (h.extractLsb' 0 4).toNat, pc := x.pc + 8, hdr := false }
          word (s.setPrologue p x) x

end Sys2Proof.Machine
end

