-- ==== Sys2Proof/Machine/Slices.lean ====
section
/-! DEFINITION. The slice engine (spec/13_slices.md, R312 to R334). -/

namespace Sys2Proof.Machine

open Sys2Proof

/-- A v, s or constant operand. -/
def isVSConst (o : Operand) : Bool := isVS o || isConst o

/-- The gate of a slice-engine word (R316). -/
def seGate (g : Gang) (w : F3) (dst a b : Operand → Bool) (c : Option (Operand → Bool)) (ok guarded : Bool) (vals : List Operand) : Gate :=
  { legal := f3Legal g w dst a b c false (a (.v 1) || a (.v 2)) (b (.v 1) || b (.v 2)) ok
    engine := .se, guarded := guarded, pred := w.pred.toNat, neg := w.neg, srcs := vals, regs := vregsOf vals, holds := holdsOf w
    drops := if dst (.v 1) then vregsOf [w.dst] else [] }

/-- `d` takes a value, once for the weave, and the lanes go on. -/
def State.answer (s : State) (k : Ctx) (act : BitVec 32) (d : Operand) (v : Word) : State :=
  (s.modWeave k.wk fun x => x.wrMask d act fun _ => v).advance k act

/-- An s register of a weave, and its successors, take words. -/
def Weave.putWords (w : Weave) (d : Operand) (vs : List Word) : Weave :=
  vs.zipIdx.foldl (fun w (v, i) => w.wr (nextReg d i) 0 v) w

/-! ### Remote atomics (R317 to R319) -/

/-- The new value of a word or doubleword, `n` bytes wide. -/
def ratomValue (op n m x c : Nat) : Nat :=
  let w := 8 * n
  let sg (v : Nat) : Int := if v < 2 ^ (w - 1) then v else (v : Int) - 2 ^ w
  match op with
  | 0x0 => (m + x) % 2 ^ w
  | 0x1 => (fadd32 .rn false (BitVec.ofNat 32 m) (BitVec.ofNat 32 x)).1.toNat
  | 0x2 => if sg x < sg m then x else m
  | 0x3 => if sg m < sg x then x else m
  | 0x4 => min m x
  | 0x5 => max m x
  | 0x6 => Nat.land m x
  | 0x7 => Nat.lor m x
  | 0x8 => Nat.xor m x
  | 0x9 => x
  | 0xA => if m = c then x else m
  | 0xB => (fminmax32 false (BitVec.ofNat 32 m) (BitVec.ofNat 32 x)).1.toNat
  | _ => (fminmax32 true (BitVec.ofNat 32 m) (BitVec.ofNat 32 x)).1.toNat

def ratomOp (m : BitVec 5) : Nat := (m.extractLsb' 0 4).toNat
def ratomWide (m : BitVec 5) : Bool := m.getLsbD 4

/-- A pair's operand of a `.b64` RATOM: even and within the demand, or a constant. -/
def wideOk (g : Gang) (o : Operand) : Bool := isConst o || (isPair o && inDemand g o 2)

/-- An operand's value: a pair for a register of a `.b64` RATOM; a constant has a high word of zero. -/
def Env.wideAt (e : Env) (ops : Table AsyncOp) (wide : Bool) (slot : Nat) (o : Operand) (l : Nat) : Dbl :=
  let lo := e.rd ops slot o l
  if wide && isVS o then pair lo (e.rd ops (slot + 4) (nextReg o 1) l) else pair lo 0

/-- The fields of a RATOM word. -/
def ratomLegal (g : Gang) (w : F3) : Bool :=
  let op := ratomOp w.mods
  let wide := ratomWide w.mods
  decide (op ≤ 12) && !(wide && (op == 1 || op == 11 || op == 12)) && inDemand g w.a 2 &&
  (!wide || ((isZero w.dst || (isPair w.dst && inDemand g w.dst 2)) && wideOk g w.b)) &&
  (if op == 10 then isVS w.srcC && (!wide || wideOk g w.srcC) else isUnused w.srcC)

/-- The values that a RATOM reads. -/
def ratomSrcs (w : F3) : List Operand :=
  let two (o : Operand) : List Operand := if ratomWide w.mods && isVS o then [o, nextReg o 1] else [o]
  [w.a, nextReg w.a 1] ++ two w.b ++ (if ratomOp w.mods == 10 then two w.srcC else [])

/-- The registers that a RATOM writes. -/
def ratomDsts (w : F3) : List Operand :=
  if isZero w.dst then [] else if ratomWide w.mods then [w.dst, nextReg w.dst 1] else [w.dst]

/-- The elements of `regs` that lanes write, as zeros until the values come. -/
def zeroWrites (regs : List Operand) (ls : List Nat) : List LLWrite :=
  ls.flatMap fun l => regs.map fun d => { dst := d, lane := laneKey d l, val := 0 }

/-- RATOM: checked at issue, performed when its store-queue entry leaves; a helper lane receives 0 (R318). -/
def execRatom (w : F3) (s : State) : Out :=
  weaveOnly s fun k =>
    let g := s.gang k.gk
    let gt := seGate g w isVSZ isPair isVSConst (some fun _ => true) (ratomLegal g w) true (ratomSrcs w)
    s.runWord k { gt with legal := gt.legal && uniformOk w.dst (ratomSrcs w), drops := vregsOf (ratomDsts w) } fun e act s =>
      let s0 := s
      let wide := ratomWide w.mods
      let n := if wide then 8 else 4
      let uni := !perLane w.dst
      let m := act &&& ~~~k.helpers
      let zeros := if uni then 0 else act &&& k.helpers
      let one := if uni then maskOf fun l => some l == (lanesOf m).head? else m
      if m != 0 && (s.weave k.wk).sqFull then s0.holdIssue k e .queueFull
      else
        let addr (l : Nat) : Nat := e.pairAt s.ops w.a l
        let (s, a) := s.checkLanes k one addr n n .rmw true
        let spread (f : List (Nat × Word × Nat)) : List (Nat × Word × Nat) :=
          if uni then f.flatMap fun x => (lanesOf m).map fun l => (l, x.2.1, x.2.2) else f
        let a := if uni then { a with fault := spread a.fault, park := a.park.flatMap fun x => (lanesOf m).map fun l => (l, x.2.1, x.2.2) } else a
        let items : List SqItem := a.pass.map fun r =>
          { lane := r.1, addr := r.2, va := BitVec.ofNat 64 (addr r.1), x := e.wideAt s.ops wide 1 w.b r.1, y := e.wideAt s.ops wide 2 w.srcC r.1 }
        let s := items.foldl (fun s i => s.l1Drop k.core fun x => x.pline == i.addr / 64) s
        let (free, s) := s.takeFree 128
        let ws := zeroWrites (ratomDsts w) (a.pass.map (·.1) ++ lanesOf zeros)
        let s := if items.isEmpty && zeros = 0 then s
          else
            let id := (s.weave k.wk).nextId
            (s.modWeave k.wk fun x => x.issueLL free k.run ws false 0 items.isEmpty).enqueue k
              (.ratom (ratomOp w.mods) wide w.dst id uni) k.lanes items
        s.finishAcc k (act &&& ~~~(maskOfPairs a.fault ||| maskOfPairs a.park)) a .rmw

/-- Performs a RATOM entry at its home slices, in ascending lane order, and delivers its result: what each lane's atom found
(R318, R319). The issuing core's L1 holds nothing older (R120). -/
def State.performRatom (s : State) (wk op : Nat) (wide : Bool) (dst : Operand) (ll : Nat) (items : List SqItem) : State :=
  let g := s.gang (s.weave wk).gang
  let n := if wide then 8 else 4
  let (s, old) := items.foldl (fun (s, old) i =>
    let m := leNat (memRead s.mem i.addr n)
    let s := s.commitWrite i.addr (bytesOf n (ratomValue op n m (i.x.toNat % 2 ^ (8 * n)) (i.y.toNat % 2 ^ (8 * n))))
    ((s.l1Fresh g.core g.part none i.addr n).countOp g.part i.addr n (g.core / 256), old ++ [(laneKey dst i.lane, BitVec.ofNat 64 m)]))
    (s, ([] : List (Nat × Dbl)))
  let (free, s) := s.takeFree 128
  let mine := ((s.weave wk).ll.find? fun p => p.id == ll).getD { id := ll }
  let vals := mine.writes.map fun x => match old.find? fun o => o.1 == x.lane with
    | some o => { x with val := if x.dst == dst then loWord o.2 else hiWord o.2 }
    | none => x
  s.modWeave wk fun w => w.deliverLL ll free vals

/-! ### Slice queues (R320 to R324) -/

/-- A queue record (R320). -/
structure QRec where
  at_ : Nat
  base : Nat
  depth : Nat
  esz : Nat
  v : Bool
  head : Nat
  tail : Nat
  count : Nat
  waiters : Nat
  deriving DecidableEq, Repr

/-- Bytes of an entry. -/
def QRec.bytes (q : QRec) : Nat := 8 * 2 ^ q.esz

/-- The record of queue `q` of a partition. -/
def State.qrec (s : State) (p q : Nat) : QRec :=
  let a := (s.part p).ctl.qtbase.toNat + 32 * q
  let w (i : Nat) : Nat := memQword s.mem (a + 8 * i)
  { at_ := a, base := w 0, depth := bits (w 1) 15 0, esz := bits (w 1) 17 16, v := bit (w 1) 18
    head := bits (w 2) 15 0, tail := bits (w 2) 31 16, count := bits (w 2) 47 32, waiters := bits (w 2) 55 48 }

/-- Writes a record. -/
def State.setQrec (s : State) (q : QRec) : State :=
  s.commitWrite q.at_ (bytesOf 8 q.base ++ bytesOf 8 (q.depth + q.esz * 2 ^ 16 + (if q.v then 2 ^ 18 else 0)) ++
    bytesOf 8 (q.head + q.tail * 2 ^ 16 + q.count * 2 ^ 32 + q.waiters * 2 ^ 48) ++ bytesOf 8 0)

/-- The waiters of a queue, oldest first. -/
def State.waitersOf (s : State) (p q : Nat) (r : QRec) : List Waiter :=
  (s.slice (s.homeSlice r.at_)).waiters.filter fun x => x.part == p && x.queue == q

/-- Removes a waiter, and the record counts those that stay (R320). -/
def State.dropWaiter (s : State) (p q : Nat) (r : QRec) (x : Waiter) : State :=
  let s := s.modSlice (s.homeSlice r.at_) fun y => { y with waiters := y.waiters.filter (· != x) }
  s.setQrec { r with waiters := min 255 (s.waitersOf p q r).length }

/-- A weave leaves the queues where it is parked, or waits to be (R322, R324). -/
def State.withdraw (s : State) (wk : Nat) : State :=
  let xs := s.slices.flatMap fun e => e.2.waiters.filter fun x => x.wk == wk
  let s := { s with slices := s.slices.mapVals fun _ y => { y with
    parkq := y.parkq.filter (· != wk), waiters := y.waiters.filter fun x => x.wk != wk } }
  let s := { s with ports := s.ports.mapVals fun _ y => { y with rx := y.rx.mapVals fun _ b => { b with pollq := b.pollq.filter (· != wk) } } }
  xs.foldl (fun s x => s.dropWaiter x.part x.queue (s.qrec x.part x.queue) x) s

/-- A waiter goes on with a status and words: an acquire at `.pkg` where it received an entry. -/
def State.wakeWaiter (s : State) (x : Waiter) (q : Nat) (st : Word) (ws : List Word) : State :=
  let g := s.gang (s.weave x.wk).gang
  (s.modWeave x.wk fun w =>
    (w.putWords (.s (Fin.ofNat 64 x.dst)) (st :: ws)).passHeld fun h => h == .parkedOn q x.dst).acquire g.core g.part

/-- The words of bytes. -/
def wordsOf (n : Nat) (bs : List Byte) : List Word :=
  (List.range n).map fun j => BitVec.ofNat 32 (leNat ((bs.drop (4 * j)).take 4))

/-- The check of a queue's ring at entry `i`, at master class 0 of the partition, and its home (R323). -/
def State.ringCheck (s : State) (p i : Nat) (r : QRec) (k : AccessKind) : State × Check :=
  s.checkPhysical p (8 * p) (r.base + r.bytes * i) r.bytes k true

/-- Enqueues an entry: to the oldest waiter, or at the tail; false where the queue is full. -/
def State.queuePut (s : State) (p q : Nat) (bs : List Byte) : State × Bool :=
  let r := s.qrec p q
  match s.waitersOf p q r with
  | x :: _ => ((s.dropWaiter p q r x).wakeWaiter x q 0 (wordsOf (r.bytes / 4) bs), true)
  | [] =>
    if r.count = r.depth then (s, false)
    else
      let a := r.base + r.bytes * r.tail
      (((s.commitWrite a bs).lineRequest p a true (lineMask (a % 64) r.bytes)).setQrec
        { r with tail := (r.tail + 1) % r.depth, count := r.count + 1 }, true)

/-- Dequeues the head entry. -/
def State.queueGet (s : State) (p q : Nat) : State × List Word :=
  let r := s.qrec p q
  let a := r.base + r.bytes * r.head
  let ws := wordsOf (r.bytes / 4) (memRead s.mem a r.bytes)
  ((s.lineRequest p a false (lineMask (a % 64) r.bytes)).setQrec { r with head := (r.head + 1) % r.depth, count := r.count - 1 }, ws)

/-- A queue can be used. -/
def State.queueOk (s : State) (p q : Nat) : Bool := decide (q ≤ 4095) && (s.qrec p q).v

/-- Counts an operation on a queue at its record's slice; a number above 4,095 names no record. -/
def State.countQ (s : State) (k : Ctx) (q : Nat) : State :=
  if q ≤ 4095 then s.countOp k.part (s.qrec k.part q).at_ 32 (k.core / 256) else s

/-- A queue's slice, or that of the entry at hand, holds its requests while a way wakes (R315). -/
def State.queueWakes (s : State) (p q : Nat) : Bool :=
  let r := s.qrec p q
  decide (q ≤ 4095) && (s.sliceWakes r.at_ || (r.v && (s.sliceWakes (r.base + r.bytes * r.tail) || s.sliceWakes (r.base + r.bytes * r.head))))

/-- QENQ: a release at `.pkg`, so the weave's queue drains first. The ring is written at class 0 (R323). -/
def execQenq (w : F3) (s : State) : Out :=
  weaveOnly s fun k =>
    s.runWord k (seGate (s.gang k.gk) w isS isSorInt isS none (w.mods == 0) true [w.a, w.b]) fun e act s =>
      onceReal k act s fun s =>
        let q := (e.rd s.ops 0 w.a 0).toNat
        if s.queueWakes k.part q then s.holdIssue k e .sliceWake
        else if !s.queueOk k.part q then (s.countQ k q).answer k act w.dst 2
        else
          let r := s.qrec k.part q
          let n := r.bytes / 4
          let max := (s.launch k.launch).queueOcc.find q
          if !inDemand (s.gang k.gk) w.b n || 64 < regNum w.b + n then s.fault k act 0x01#32 0
          else if (match max with | some m => decide (m < r.count + 1) | none => false) then s.fault k act 0x48#32 0
          else if !e.w.sq.isEmpty then s.holdIssue k e .queueBusy
          else
            let put (s : State) : State :=
              let bs := (List.range n).flatMap fun j => bytesOf 4 (e.rd s.ops (8 + j) (nextReg w.b j) 0).toNat
              let (s, ok) := (s.countQ k q).queuePut k.part q bs
              s.answer k act w.dst (if ok then 0 else 1)
            if r.count = r.depth || !(s.waitersOf k.part q r).isEmpty then put s
            else match s.ringCheck k.part r.tail r .write with
              | (s, .fault st) => s.fault k act st (BitVec.ofNat 64 (r.base + r.bytes * r.tail))
              | (s, _) => put s

/-- The group of a dequeue: status, then the entry's words, within the demand. -/
def entryFits (g : Gang) (d : Operand) (n : Nat) : Bool := inDemand g d (n + 1) && decide (regNum d + n + 1 ≤ 64)

/-- QDEQ: long-latency; its status and words are bound together. -/
def execQdeq (w : F3) (s : State) : Out :=
  weaveOnly s fun k =>
    s.runWord k (seGate (s.gang k.gk) w isS isSorInt isUnused none (w.mods == 0) true [w.a]) fun e act s =>
      onceReal k act s fun s =>
        let q := (e.rd s.ops 0 w.a 0).toNat
        let give (s : State) (vs : List Word) : State :=
          let (free, s) := s.takeFree 128
          (s.modWeave k.wk fun x => x.issueLL free k.run
            (vs.zipIdx.map fun (v, i) => { dst := nextReg w.dst i, lane := 0, val := v }) false 0 true).advance k act
        let r := s.qrec k.part q
        if s.queueWakes k.part q then s.holdIssue k e .sliceWake
        else if !s.queueOk k.part q then give (s.countQ k q) [2]
        else if !entryFits (s.gang k.gk) w.dst (r.bytes / 4) then s.fault k act 0x01#32 0
        else if r.count = 0 then give (s.countQ k q) [1]
        else match s.ringCheck k.part r.head r .read with
          | (s, .fault st) => s.fault k act st (BitVec.ofNat 64 (r.base + r.bytes * r.head))
          | (s, _) =>
            let (s, ws) := (s.countQ k q).queueGet k.part q
            give (s.acquire k.core k.part) (0 :: ws)

/-- QPARKs that wait for a waiter record take their turns as they arrived (R322): whether it is this weave's, since none that
came before it still waits. -/
def State.parkTurn (s : State) (n wk : Nat) : Bool :=
  let x := s.slice n
  let waits (k : Nat) : Bool := (s.weave k).lanes.any fun e => match e.2.hold with
    | some (.waiterFull _) => true
    | _ => false
  decide (x.waiters.length < 512) &&
  match x.parkq.find? fun k => k == wk || waits k with
  | some k => k == wk
  | none => true

/-- QPARK: as QDEQ, but an empty queue parks the weave. -/
def execQpark (w : F3) (s : State) : Out :=
  weaveOnly s fun k =>
    s.runWord k (seGate (s.gang k.gk) w isS isSorInt isUnused none (w.mods == 0) true [w.a]) fun e act s =>
      onceReal k act s fun s =>
        let q := (e.rd s.ops 0 w.a 0).toNat
        let r := s.qrec k.part q
        let leave (s : State) : State := s.modSlice (s.homeSlice r.at_) fun y => { y with parkq := y.parkq.filter (· != k.wk) }
        if s.queueWakes k.part q then s.holdIssue k e .sliceWake
        else if !s.queueOk k.part q then (leave (s.countQ k q)).answer k act w.dst 2
        else if !entryFits (s.gang k.gk) w.dst (r.bytes / 4) then (leave s).fault k act 0x01#32 0
        else if r.count ≠ 0 then
          match s.ringCheck k.part r.head r .read with
          | (s, .fault st) => (leave s).fault k act st (BitVec.ofNat 64 (r.base + r.bytes * r.head))
          | (s, _) =>
            let (s, ws) := (leave (s.countQ k q)).queueGet k.part q
            ((s.modWeave k.wk fun x => x.putWords w.dst (0 :: ws)).acquire k.core k.part).advance k act
        else if s.parkTurn (s.homeSlice r.at_) k.wk then
          let x : Waiter := { part := k.part, queue := q, wk := k.wk, dst := regNum w.dst }
          let s := (leave (s.countQ k q)).modSlice (s.homeSlice r.at_) fun y => { y with waiters := y.waiters ++ [x] }
          (s.setQrec { r with waiters := min 255 (s.waitersOf k.part q r).length }).holdLanes k act (.parkedOn q (regNum w.dst))
        else (s.modSlice (s.homeSlice r.at_) fun y =>
          { y with parkq := if y.parkq.contains k.wk then y.parkq else y.parkq ++ [k.wk] }).holdIssue k e (.waiterFull q)

/-- QSTAT. -/
def execQstat (w : F3) (s : State) : Out :=
  weaveOnly s fun k =>
    s.runWord k (seGate (s.gang k.gk) w isS isSorInt isUnused none (w.mods == 0) false [w.a]) fun e act s =>
      onceReal k act s fun s =>
        let q := (e.rd s.ops 0 w.a 0).toNat
        let r := s.qrec k.part q
        if s.queueWakes k.part q then s.holdIssue k e .sliceWake
        else (s.countQ k q).answer k act w.dst (if s.queueOk k.part q then BitVec.ofNat 32 (r.count + r.waiters * 2 ^ 16 + 2 ^ 24) else 2)

/-- Every waiter of a queue leaves with status 2. -/
def State.releaseWaiters (s : State) (p q : Nat) : State :=
  let r := s.qrec p q
  let ws := s.waitersOf p q r
  let s := s.modSlice (s.homeSlice r.at_) fun y => { y with waiters := y.waiters.filter fun x => !(x.part == p && x.queue == q) }
  ws.foldl (fun s x => s.wakeWaiter x q 2 []) s

/-- The ring is writable by master class 0 of the partition, line by line (R321). -/
def State.ringWritable (s : State) (p base n : Nat) : Bool :=
  (List.range ((n + 63) / 64)).all fun i =>
    let a := base + 64 * i
    s.populated a && (s.refuser (8 * p) a (min 64 (n - 64 * i)) .write).isNone

/-- QINIT, privileged. -/
def execQinit (w : F3) (s : State) : Out :=
  weaveOnly s fun k =>
    let g := s.gang k.gk
    let vals := [w.a, w.b, nextReg w.b 1, nextReg w.b 2]
    let gt := seGate g w isS isSorInt isS none (w.mods == 0 && inDemand g w.b 3) true vals
    s.runWord k { gt with privileged := true } fun e act s =>
      onceReal k act s fun s =>
        let q := (e.rd s.ops 0 w.a 0).toNat
        let base := (pair (e.rd s.ops 1 w.b 0) (e.rd s.ops 4 (nextReg w.b 1) 0)).toNat
        let c := (e.rd s.ops 5 (nextReg w.b 2) 0).toNat
        let depth := if bits c 15 0 = 0 then 32768 else bits c 15 0
        let esz := bits c 17 16
        let n := depth * (8 * 2 ^ esz)
        let s := s.countQ k q
        if 4095 < q ∨ depth < 2 ∨ 32768 < depth ∨ esz = 3 ∨ base % 64 ≠ 0 ∨ hbmEnd < base + n ∨ s.ringWritable k.part base n = false then
          s.answer k act w.dst 1
        else
          let s := s.releaseWaiters k.part q
          let r := s.qrec k.part q
          (s.setQrec { r with base := base, depth := depth, esz := esz, v := true, head := 0, tail := 0, count := 0, waiters := 0 }).answer k act w.dst 0

/-- QINIT.inv, privileged. -/
def execQinitInv (w : F3) (s : State) : Out :=
  weaveOnly s fun k =>
    let gt := seGate (s.gang k.gk) w isS isSorInt isUnused none (w.mods == 1) true [w.a]
    s.runWord k { gt with privileged := true } fun e act s =>
      onceReal k act s fun s =>
        let q := (e.rd s.ops 0 w.a 0).toNat
        let s := s.countQ k q
        if 4095 < q then s.answer k act w.dst 1
        else
          let s := s.releaseWaiters k.part q
          let r := s.qrec k.part q
          (s.setQrec { r with v := false, head := 0, tail := 0, count := 0, waiters := 0 }).answer k act w.dst 0

/-! ### Request counters (R325, R326) -/

/-- The counter of a kind of a partition, at a slice. -/
def State.counter (s : State) (p slice kind : Nat) : Nat := (Table.get 0 (s.slice slice).counts (8 * p + kind)).toNat

/-- What CNTRD reads. -/
def State.readCounters (s : State) (p sel : Nat) : Word :=
  let kind := bits sel 2 0
  let die := bits sel 4 3
  if bits sel 31 11 ≠ 0 then 0
  else if bit sel 10 then
    BitVec.ofNat 32 (min (2 ^ 32 - 1) ((List.range 32).foldl (fun t i => t + s.counter p (32 * die + i) kind) 0))
  else BitVec.ofNat 32 (s.counter p (32 * die + bits sel 9 5) kind)

/-- CNTRD: long-latency. -/
def execCntrd (w : F3) (s : State) : Out :=
  weaveOnly s fun k =>
    s.runWord k (seGate (s.gang k.gk) w isS isSorInt isUnused none (w.mods == 0) false [w.a]) fun e act s =>
      onceReal k act s fun s =>
        let v := s.readCounters k.part (e.rd s.ops 0 w.a 0).toNat
        let (free, s) := s.takeFree 128
        (s.modWeave k.wk fun x => x.issueLL free k.run [{ dst := w.dst, lane := 0, val := v }] false 0 true).advance k act

/-- CNTCLR. -/
def execCntclr (w : F3) (s : State) : Out :=
  weaveOnly s fun k =>
    s.runWord k (seGate (s.gang k.gk) w isUnused isSorInt isUnused none (w.mods == 0) true [w.a]) fun e act s =>
      onceReal k act s fun s =>
        let m := (e.rd s.ops 0 w.a 0).toNat
        ({ s with slices := s.slices.mapVals fun _ x =>
            { x with counts := x.counts.filter fun c => !(c.1 / 8 == k.part && bit m (c.1 % 8)) } }).advance k act

/-! ### Watches (R327 to R329) -/

/-- Arms a watch, which evaluates the word at once; none where the partition's quota or the pool is used up. -/
def State.armWatch (s : State) (x : Watch) : State × Option Nat :=
  match (List.range 4096).find? fun n => (s.watches.find n).isNone with
  | none => (s, none)
  | some n =>
    if (s.part x.part).ctl.wquota ≤ (s.watches.filter fun e => e.2.part == x.part).length then (s, none)
    else ({ s with watches := s.watches.insert n { x with fired := watchHolds x.cond (memQword s.mem x.pa) x.value.toNat } }, some n)

/-- WATCH. -/
def execWatch (w : F3) (s : State) : Out :=
  weaveOnly s fun k =>
    let g := s.gang k.gk
    let c := (List.range 5).map (nextReg w.srcC)
    let vals := [w.a, nextReg w.a 1, w.b, nextReg w.b 1] ++ c
    let gt := seGate g w isS isPairS isPairS (some isS) (modsIn w.mods 3 && inDemand g w.a 2 && inDemand g w.b 2 && inDemand g w.srcC 5 && decide (regNum w.srcC + 5 ≤ 64)) true vals
    s.runWord k gt fun e act s =>
      onceReal k act s fun s =>
        let m := act &&& ~~~k.helpers
        let va := e.pairAt s.ops w.a 0
        let r (i : Nat) : Word := e.rd s.ops (6 + i) (nextReg w.srcC i) 0
        let host := pair (r 0) (r 1)
        match s.check k.part (8 * k.part) k.asker va 8 8 .read true false with
        | (s, .fault st) => (s.advance k (act &&& k.helpers)).fault k m st (BitVec.ofNat 64 va)
        | (s, .park t) => (s.advance k (act &&& k.helpers)).parkLanes k.wk ((lanesOf m).map fun l => (l, t, va)) .read
        | (s, .pass pa) =>
          if s.sliceWakes pa then s.holdIssue k e .sliceWake
          else if host.toNat % 8 ≠ 0 then s.fault k act 0x12#32 host
          else
            let x : Watch := { part := k.part, pa := pa, cond := w.mods.toNat % 4, value := pair (e.rd s.ops 1 w.b 0) (e.rd s.ops 5 (nextReg w.b 1) 0)
                               hostAddr := host, hostVal := pair (r 2) (r 3), vector := (r 4).toNat % 2048 }
            match s.armWatch x with
            | (s, some n) => (s.countOp k.part pa 8 (k.core / 256)).answer k act w.dst (BitVec.ofNat 32 n)
            | (s, none) => s.answer k act w.dst 0xFFFFFFFF#32

/-- WATCH.cancel. -/
def execWatchCancel (w : F3) (s : State) : Out :=
  weaveOnly s fun k =>
    s.runWord k (seGate (s.gang k.gk) w isS isSorInt isUnused (some isUnused) (w.mods == 16) true [w.a]) fun e act s =>
      onceReal k act s fun s =>
        let n := (e.rd s.ops 0 w.a 0).toNat
        match s.watches.find n with
        | some x => if x.part = k.part ∧ x.fired = false
            then ({ s with watches := s.watches.erase n }).answer k act w.dst 0
            else s.answer k act w.dst 1
        | none => s.answer k act w.dst 1

/-- WATCH_FIRE (R328): the watch is freed, the host word is written and the MSI-X vector raised. -/
def execWatchFire (s : State) : Out :=
  match s.watches.find s.ev.a with
  | some x =>
    .next (if x.fired then
      { s with
        watches := s.watches.erase s.ev.a
        hostMem := memWrite s.hostMem x.hostAddr.toNat (bytesOf 8 x.hostVal.toNat)
        msix := s.msix ++ [(x.part, x.vector)] }
    else s)
  | none => .next s

/-! ### Flushing (R330) -/

/-- A slice writes back, or also drops, a line: a dirty sector that is held in part is filled and merged first (R313,
R330), a fill for partition `p`. -/
def State.flushLine (s : State) (p pa : Nat) (inv : Bool) : State :=
  s.modSlice (s.homeSlice pa) fun x =>
    let l := x.line (pa / 64)
    let x := (List.range 2).foldl (fun x i => if l.dirty.getLsbD i && l.partly i then x.bump p 7 else x) x
    { x with
      lines := if inv then x.lines.filter fun l => l.line != pa / 64
        else x.lines.map fun l => if l.line == pa / 64 then { l.fill l.dirty with dirty := 0 } else l }

/-- Flushes `n` lines from a virtual line on. -/
def State.flushFrom (s : State) (k : Ctx) (act m : BitVec 32) (inv : Bool) (line : Nat) : Nat → State
  | 0 => s.advance k act
  | n + 1 =>
    let va := 64 * line % 2 ^ 64
    match s.check k.part (8 * k.part) k.asker va 1 1 .read false false with
    | (s, .fault st) => (s.advance k (act &&& k.helpers)).fault k m st (BitVec.ofNat 64 va)
    | (s, .park t) => (s.advance k (act &&& k.helpers)).parkLanes k.wk ((lanesOf m).map fun l => (l, t, va)) .read
    | (s, .pass pa) => State.flushFrom (if inMmio pa then s else s.flushLine k.part pa inv) k act m inv (line + 1) n

/-- SFLUSH. -/
def execSflush (w : F3) (s : State) : Out :=
  weaveOnly s fun k =>
    let g := s.gang k.gk
    s.runWord k (seGate g w isUnused isPairS isS none (modsIn w.mods 1 && inDemand g w.a 2) false [w.a, nextReg w.a 1, w.b]) fun e act s =>
      onceReal k act s fun s =>
        let a := e.pairAt s.ops w.a 0
        let n := (e.rd s.ops 1 w.b 0).toNat
        s.flushFrom k act (act &&& ~~~k.helpers) (w.mods.getLsbD 0) (a / 64) (if n = 0 then 0 else (a + n - 1) / 64 - a / 64 + 1)

/-! ### Guarded tiles (R331 to R333, R416) -/

/-- FMAX of residuals, a NaN overriding every number. -/
def residualMax (a b : Word) : Word :=
  if (FVal.ofBits .f32 a.toNat).isNan || (FVal.ofBits .f32 b.toNat).isNan then 0x7FC00000#32 else (fminmax32 true a b).1

/-- The regulator takes a residual for a tile. -/
def State.takeResidual (s : State) (l t : Nat) (r : Word) : State :=
  s.modLaunch l fun x => { x with tiles := x.tiles.modify t fun y =>
    { y with res := match y.res with
      | none => some (residualMax r r)
      | some o => some (residualMax o r) } }

/-- GRES. -/
def execGres (w : F3) (s : State) : Out :=
  weaveOnly s fun k =>
    s.runWord k (seGate (s.gang k.gk) w isUnused isVSConst isUnused none (w.mods == 0) false [w.a]) fun e act s =>
      let m := act &&& ~~~k.helpers
      let g := s.gang k.gk
      match (lanesOf m).map (e.rd s.ops 0 w.a), g.tag with
      | v :: vs, some _ => (s.takeResidual k.launch g.tile (vs.foldl residualMax v)).advance k act
      | _, _ => s.advance k act

/-- PROVISIONAL_WRITE (R331). -/
def execProvisionalWrite (s : State) : Out :=
  .next (s.provWrite s.ev.a s.ev.b s.ev.c s.ev.bytes (s.ev.bytes.length / 32 + 2))

/-- Runs of bytes of a sector that a mask selects, as (address, bytes). -/
def maskedRuns (sector : Nat) (data : List Byte) (m : BitVec 32) : List (Nat × Byte) :=
  (List.range 32).filterMap fun i => if m.getLsbD i then some (32 * sector + i, data.getD i 0) else none

/-- Merges a provisional sector into memory as one write, then evaluates the watches (R332). -/
def State.mergeSector (s : State) (e : ProvEntry) : State :=
  State.evalWatches { s with mem := (maskedRuns e.sector e.data e.mask).foldl (fun m b => Table.set 0 m b.1 b.2) s.mem } (32 * e.sector) 32

/-- A commit is a write of the line, which takes no miss entry (R314). -/
def State.mergeLine (s : State) (n : Nat) (e : ProvEntry) : State :=
  (s.mergeSector e).modSlice n fun x => x.take
    { part := e.part, line := e.sector / 2, write := true, mask := e.mask.setWidth 64 <<< (32 * (e.sector % 2)) }

/-- TILE_COMMIT. -/
def execTileCommit (s : State) : Out :=
  let mine (e : ProvEntry) : Bool := e.part == s.ev.b && e.tag == s.ev.c
  let es := (s.slice s.ev.a).prov.filter mine
  .next ((es.foldl (fun s e => s.mergeLine s.ev.a e) s).modSlice s.ev.a fun x =>
    { x with prov := x.prov.filter fun e => !mine e, overfull := x.overfull.filter (· != (s.ev.b, s.ev.c)) })

/-- TILE_DISCARD. -/
def execTileDiscard (s : State) : Out :=
  .next (s.modSlice s.ev.a fun x =>
    { x with prov := x.prov.filter fun e => !(e.part == s.ev.b && e.tag == s.ev.c), overfull := x.overfull.filter (· != (s.ev.b, s.ev.c)) })

/-! ### Requests of agents outside the cores at a slice (R312 to R315, R325) -/

/-- A request that carries its write reaches a slice: the write is committed when the request is performed, which no line's
earlier request, wake-up or want of a place may hold up (R314, R315). -/
def State.sliceRequest (s : State) (n : Nat) (r : SliceReq) : State :=
  (if (s.slice n).accepts r && !r.bytes.isEmpty then s.commitWrite r.pa r.bytes else s).modSlice n (·.take r)

/-- The requests that wait at a slice's input try again, in the order in which they arrived. -/
def State.serveInput (s : State) (n : Nat) : State :=
  ((s.slice n).input).foldl (fun s r => s.sliceRequest n r) (s.modSlice n fun x => { x with input := [] })

/-- The registers that a host function sees in its BAR0 (R426): the qword at an offset. -/
def State.barQword (s : State) (fn o : Nat) : Nat :=
  if fn = 8 then
    match o with
    | 0 => devid
    | 0x1000 => s.mailbox.cmd + s.mailbox.part * 2 ^ 8 + flagAt s.mailbox.go 63
    | 0x1008 => s.mailbox.arg.toNat
    | 0x1010 => s.mailbox.mst
    | 0x2000 => s.alarm.word
    | _ => if 0x3000 ≤ o ∧ o < 0x6000 then s.statusQword (o - 0x3000) else 0
  else if 0x100000 ≤ o ∧ o < 0x101000 then (s.part fn).trans.qword (o - 0x100000)
  else if 0x200000 ≤ o ∧ o < 0x201000 then (s.part fn).front.qword (o - 0x200000)
  else if 0x300000 ≤ o ∧ o < 0x301000 then (s.part fn).ctl.qword (o - 0x300000)
  else 0

/-- A host read completes. -/
def State.hostCpl (s : State) (fn : Nat) (aborted : Bool) (bs : List Byte) : State :=
  { s with hostReads := s.hostReads ++ [{ fn := fn, aborted := aborted, bytes := bs }] }

/-- A read by a host function of `n` bytes at an offset of its BAR0, or of the memory window: as master 8 p + 7, or 64 for
the physical function. One that no memory answers or that a table refuses ends with Completer Abort (R160, R426;
notes/assumptions/122.md). -/
def State.hostRead (s : State) (fn at_ n : Nat) (bar0 : Bool) : State :=
  let master := if fn = 8 then 64 else 8 * fn + 7
  if s.status.svc = 3 && !(bar0 && fn = 8) then s.hostCpl fn true []
  else if bar0 then s.hostCpl fn false ((List.range n).map fun i => BitVec.ofNat 8 (s.barQword fn ((at_ + i) / 8 * 8) >>> (8 * ((at_ + i) % 8))))
  else if !s.populated at_ then (if fn = 8 then s else s.logUnpopulated fn at_).hostCpl fn true []
  else match s.refuser master at_ n .read with
    | some t => (s.logRefusal t master at_ .read).hostCpl fn true []
    | none =>
      if inMmio at_ then s.hostCpl fn false (s.mmioRead at_ n)
      else if s.poisoned at_ n then s.hostCpl fn true []
      else (if fn = 8 then s.lineRequest 0 at_ false (lineMask (at_ % 64) n) else s.count fn at_ 0 0).hostCpl fn false (memRead s.mem at_ n)

/-- SLICE_READ_REQUEST: of a line by an agent of a partition, counted where it names a kind; or a host read. -/
def execSliceReadRequest (s : State) : Out :=
  let e := s.ev
  .next (if e.on then s.hostRead e.a e.b e.d (e.c = 1)
    else s.modSlice e.a fun x =>
      (if e.d < 8 then x.bump e.c e.d else x).take { part := e.c, line := e.b, mask := lineMask 0 64 })

/-- A write of a line by host virtual function `p` at its home slice; dropped where no memory stands or the access table
refuses it (R141, R160). -/
def State.hostWriteLine (s : State) (p kind pa : Nat) (bs : List Byte) : State :=
  if bs.isEmpty || s.status.svc = 3 then s
  else if !s.populated pa then s.logUnpopulated p pa
  else match s.refuser (8 * p + 7) pa bs.length .write with
    | some t => s.logRefusal t (8 * p + 7) pa .write
    | none =>
      let n := s.homeSlice pa
      (if kind < 8 then s.modSlice n (·.bump p kind) else s).sliceRequest n
        { part := p, line := pa / 64, write := true, mask := lineMask (pa % 64) bs.length, pa := pa, bytes := bs }

/-- SLICE_WRITE_REQUEST: a write of host virtual function `c` through the BAR window, line by line. -/
def execSliceWriteRequest (s : State) : Out :=
  let e := s.ev
  .next ((List.range (e.bytes.length / 64 + 2)).foldl (fun (s, pa, bs) _ =>
    let k := 64 - pa % 64
    (s.hostWriteLine e.c e.d pa ((bs : List Byte).take k), pa + k, bs.drop k)) ((s, e.b, e.bytes) : State × Nat × List Byte)).1

/-- SECTOR_FILL_COMPLETE: the sectors that the line's miss needs are filled and merged under the mask of what was written,
its entry is freed, and the requests at the input try again; it waits while the line has no place (R313, R314). -/
def execSectorFillComplete (s : State) : Out :=
  let n := s.ev.a
  .next (match (s.slice n).miss.find? fun e => e.line == s.ev.b with
    | none => s
    | some m =>
      if (s.slice n).room m.line then
        (s.modSlice n fun x =>
          let l := x.line m.line
          let now := sectors fun i => m.need.getLsbD i && !l.valid.getLsbD i
          let x := (List.range 2).foldl (fun x i => if now.getLsbD i then x.bump m.part 7 else x) x
          { x with miss := x.miss.filter fun e => e.line != m.line }.place m.part (l.fill m.need)).serveInput n
      else s)

/-- WRITE_BACK_DRAIN: the oldest buffered sector reaches memory, whose bytes are the committed ones already. -/
def execWriteBackDrain (s : State) : Out :=
  .next ((s.modSlice s.ev.a fun x => { x with wb := x.wb.drop 1 }).serveInput s.ev.a)

/-! ### Page-fault upcalls (R155) -/

/-- Appends an entry to a partition's firmware log, which keeps the last 256 (R427). -/
def State.logFirmware (s : State) (p : Nat) (ws : List Word) : State :=
  s.modPart p fun q => { q with flog := (q.flog ++ [ws]).drop (q.flog.length + 1 - 256) }

/-- The upcall message of a ticket. -/
def upcallMessage (n : Nat) (t : Ticket) : List Byte :=
  bytesOf 8 t.va.toNat ++ bytesOf 4 t.status.toNat ++ bytesOf 4 n ++
  bytesOf 8 (t.core % 1024 + t.weave * 2 ^ 10 + t.source * 2 ^ 14 + t.mask.toNat * 2 ^ 16 + t.region * 2 ^ 48) ++ bytesOf 8 0

/-- PAGER_UPCALL: the message goes to the region's queue, a slice operation of the firmware complex; an unusable queue, or
one whose ring is refused, closes the ticket with detail 0x05; a full one keeps it. -/
def execPagerUpcall (s : State) : Out :=
  match s.tickets.find s.ev.a with
  | none => .next s
  | some t =>
    let q := bits (s.regionWord t.part t.region 4) 15 0
    let r := s.qrec t.part q
    let refused := (s.waitersOf t.part q r).isEmpty && r.count != r.depth && (match s.ringCheck t.part r.tail r .write with
      | (_, .pass _) => false
      | _ => true)
    .next (if t.sent || s.queueWakes t.part q then s
      else if !(s.queueOk t.part q && r.esz == 2) || refused then
        (s.closeTicket s.ev.a (some 5)).logFirmware t.part [BitVec.ofNat 32 t.region, BitVec.ofNat 32 q]
      else match (s.countOp t.part r.at_ 32 0).queuePut t.part q (upcallMessage s.ev.a t) with
        | (s, true) => { s with tickets := s.tickets.insert s.ev.a { t with sent := true } }
        | (_, false) => s)

/-- TLB_WALK (R146, R150): a cluster's walker fetches a translation. -/
def execTlbWalk (s : State) : Out :=
  let e := s.ev
  .next (s.useLeaf e.a e.b e.value.toNat e.kind (s.walk e.b e.value.toNat)).1

/-! ### Invalidation (R156, R157) -/

/-- TINVVA as a whole virtual address: bit 56 stands for those above it (R142, R156). -/
def TransBlock.invVa (x : TransBlock) : Nat := if bit x.tinvva 56 then x.tinvva + (2 ^ 64 - 2 ^ 57) else x.tinvva

/-- An invalidation of a partition has removed its translations: BUSY is set, and the accesses that were translated before
it are the stale ones (R157). -/
def State.invalidating (s : State) (p : Nat) : State :=
  let s := s.modPart p fun q => { q with trans := { q.trans with busy := true } }
  { s with
    weaves := s.weaves.mapVals fun _ w => if (s.gang w.gang).part = p then { w with sq := w.sq.map fun e => { e with stale := true } } else w
    ops := s.ops.mapVals fun _ o => if o.part = p then { o with cmds := o.cmds.map fun c => { c with stale := true } } else o }

/-- An access of a partition that was translated before the invalidation has yet to complete (R157). -/
def State.staleAccess (s : State) (p : Nat) : Bool :=
  s.weaves.any (fun e => (s.gang e.2.gang).part == p && e.2.sq.any (·.stale)) ||
  s.ops.any fun e => e.2.part == p && e.2.cmds.any fun c => c.stale && c.status.isNone

/-- INVALIDATE_PAGE: the page at TINVVA, of any size. The L1 lines that go are those of the largest page that can hold it. -/
def execInvalidatePage (s : State) : Out :=
  let va := (s.part s.ev.a).trans.invVa
  .next ((s.tlbDrop s.ev.a (va / 2 ^ 30 * 2 ^ 30) (2 ^ 30) fun t => t.meets va 1).invalidating s.ev.a)

/-- INVALIDATE_RANGE: NPAGES 4 KiB pages from TINVVA. -/
def execInvalidateRange (s : State) : Out :=
  let va := (s.part s.ev.a).trans.invVa
  let n := 4096 * s.ev.b
  .next ((s.tlbDrop s.ev.a va n fun t => t.meets va n).invalidating s.ev.a)

/-- INVALIDATE_PARTITION: every translation of the partition. -/
def execInvalidatePartition (s : State) : Out :=
  .next ((s.tlbDrop s.ev.a 0 (2 ^ 64) fun _ => true).invalidating s.ev.a)

/-- INVALIDATION_DONE: BUSY clears once no access through a removed translation is left. -/
def execInvalidationDone (s : State) : Out :=
  .next (if s.staleAccess s.ev.a then s else s.modPart s.ev.a fun q => { q with trans := { q.trans with busy := false } })

end Sys2Proof.Machine
end

