-- ==== Sys2Proof/Machine/Stamps.lean ====
section
/-! DEFINITION. The stamp engine (spec/14_stamps.md, R335 to R355). -/

namespace Sys2Proof.Machine

open Sys2Proof

/-! ### Decay (R335, R336) -/

def rne32Mul (a b : Word) : Word := (fmul32 .rn false a b).1

/-- Square and multiply over the bits of `d` from bit `i` on: `n` bits, power `p`, base `b`. -/
def powerFrom (d : Nat) (p b : Word) (i : Nat) : Nat → Word
  | 0 => p
  | n + 1 => powerFrom d (if bit d i then rne32Mul p b else p) (rne32Mul b b) (i + 1) n

/-- The factor power f^d of R335. -/
def factorPower (f : Word) (d : Nat) : Word := powerFrom d 0x3F800000#32 f 0 24

/-- The age of a stamp at a step, mod 2^24. -/
def stampAge (step : Nat) (stamp : Nat) : Nat := (step % 2 ^ 24 + 2 ^ 24 - stamp % 2 ^ 24) % 2 ^ 24

def outOfWindow (d : Nat) : Bool := decide (2 ^ 23 ≤ d)

/-- The fields of a stamped word (R94). -/
def stampedVal (w : Nat) : Word := BitVec.ofNat 32 w
def stampedStamp (w : Nat) : Nat := bits w 55 32
def stampedIndex (w : Nat) : Nat := bits w 63 56
def stampedWord (v : Word) (step fi : Nat) : Nat := v.toNat + step % 2 ^ 24 * 2 ^ 32 + fi % 256 * 2 ^ 56

/-- Factor `i` of a partition; an unlisted one is 1.0. -/
def Stamp.factor (t : Stamp) (i : Nat) : Word := Table.get 0x3F800000#32 t.ft i

/-- The decay of a word at a step: 1.0 when it is out of window (R336). -/
def Stamp.decay (t : Stamp) (w : Nat) : Word :=
  let d := stampAge t.step.toNat (stampedStamp w)
  if outOfWindow d then 0x3F800000#32 else factorPower (t.factor (stampedIndex w)) d

/-! ### The word operations (R341 to R347) -/

/-- The gate of a data instruction: `d` is DST, which DADD and DSET read. -/
def steGate (g : Gang) (w : F3) (dst b : Operand → Bool) (ok guarded : Bool) (vals : List Operand) : Gate :=
  { legal := f3Legal g w dst isPair b none false true (b (.v 1)) ok && inDemand g w.a 2
    engine := .ste, guarded := guarded, pred := w.pred.toNat, neg := w.neg
    srcs := [w.a, nextReg w.a 1] ++ vals, regs := vregsOf ([w.a, nextReg w.a 1] ++ vals), holds := holdsOf w
    drops := if vals.isEmpty then vregsOf [w.dst] else [] }

/-- A queued store or operation touches [pa, pa+8). -/
def Weave.sqTouches (w : Weave) (pa n : Nat) : Bool := w.sq.any fun e => !e.kind.isScratch && e.touches pa n

/-- DLD and DRAW: the words that the lanes read, then the writes that `val` makes of each; a lane whose word is out of
window takes the window fault later. -/
def State.stampRead (s : State) (k : Ctx) (e : Env) (act : BitVec 32) (w : F3) (n : Nat) (val : Stamp → Nat → List Word) (window : Bool) : State :=
  let s0 := s
  let uni := isS w.a
  let m := if uni then maskOf fun l => some l == (lanesOf (act &&& ~~~k.helpers)).head? else act
  if uni && (act &&& ~~~k.helpers) == 0 then s.advance k act
  else
    let addr (l : Nat) : Nat := e.pairAt s.ops w.a l
    let (s, a) := s.checkLanes k m addr 8 8 .read true
    if a.pass.any fun r => (s.weave k.wk).sqTouches r.2 8 then s0.holdIssue k e .forwarding
    else if a.pass.any fun r => s.sliceWakes r.2 then s0.holdIssue k e .sliceWake
    else
      let g := s.gang k.gk
      let t := (s.part k.part).stamp
      let got := a.pass.map fun r => (r.1, leNat (s.viewBytes k.part g.tag r.2 8))
      let s := a.pass.foldl (fun s r => (s.l1Fresh k.core k.part g.tag r.2 8).count k.part r.2 4 (k.core / 256)) s
      let ls (l : Nat) : List Nat := if uni then (if perLane w.dst then lanesOf act else [0]) else [l]
      let ws : List LLWrite :=
        (got.flatMap fun r => (ls r.1).flatMap fun l => (val t r.2).zipIdx.map fun (v, j) => { dst := nextReg w.dst j, lane := l, val := v }) ++
        (lanesOf (zeroHelpers k (if uni then 0 else act) a.pass)).flatMap fun l => (List.range n).map fun j => { dst := nextReg w.dst j, lane := l, val := 0 }
      let id := (s.weave k.wk).nextId
      let bad : List WinFault := if !window then [] else got.flatMap fun r =>
        let d := stampAge t.step.toNat (stampedStamp r.2)
        if outOfWindow d then (if uni then lanesOf (act &&& ~~~k.helpers) else (if k.helpers.getLsbD r.1 then [] else [r.1])).map fun l =>
          { lane := l, addr := BitVec.ofNat 64 (addr r.1), detail := BitVec.ofNat 32 d, ll := some id } else []
      let (free, s) := s.takeFree 128
      let s := if ws.isEmpty && act != 0 then s
        else s.modWeave k.wk fun x => { x.issueLL free k.run ws false 0 true with win := x.win ++ bad }
      let all (f : List (Nat × Word × Nat)) : List (Nat × Word × Nat) :=
        if uni then f.flatMap fun x => (lanesOf (act &&& ~~~k.helpers)).map fun l => (l, x.2) else f
      let a := { a with fault := all a.fault, park := if uni then a.park.flatMap fun x => (lanesOf (act &&& ~~~k.helpers)).map fun l => (l, x.2) else a.park }
      s.finishAcc k (act &&& ~~~(maskOfPairs a.fault ||| maskOfPairs a.park)) a .read

/-- DLD. -/
def execDld (w : F3) (s : State) : Out :=
  weaveOnly s fun k =>
    s.runWord k (steGate (s.gang k.gk) w isVS isUnused (w.mods == 0 && (isS w.a || isV w.dst)) false []) fun e act s =>
      s.stampRead k e act w 1 (fun t v =>
        [if outOfWindow (stampAge t.step.toNat (stampedStamp v)) then stampedVal v else rne32Mul (stampedVal v) (t.decay v)]) true

/-- DRAW. -/
def execDraw (w : F3) (s : State) : Out :=
  weaveOnly s fun k =>
    let g := s.gang k.gk
    let gt := steGate g w isPair isUnused (w.mods == 0 && (isS w.a || isV w.dst) && inDemand g w.dst 2) false []
    s.runWord k { gt with drops := vregsOf [w.dst, nextReg w.dst 1] } fun e act s =>
      s.stampRead k e act w 2 (fun _ v => [BitVec.ofNat 32 v, BitVec.ofNat 32 (v / 2 ^ 32)]) false

/-- DADD and DSET: one store-queue entry; the lanes are held until it is performed (R346), and with them those whose
predicate failed, which have gone past the word (notes/assumptions/112.md). -/
def State.stampWrite (s : State) (k : Ctx) (e : Env) (act : BitVec 32) (w : F3) (kind : SqKind) (acc : AccessKind) : State :=
  let uni := isS w.a
  let v := act &&& ~~~k.helpers
  let m := if uni then maskOf fun l => some l == (lanesOf v).head? else v
  if v = 0 then s.advance k act
  else if (s.weave k.wk).sqFull then s.holdIssue k e .queueFull
  else
    let addr (l : Nat) : Nat := e.pairAt s.ops w.a l
    let (s, a) := s.checkLanes k m addr 8 8 acc true
    let items : List SqItem := a.pass.map fun r =>
      { lane := r.1, addr := r.2, va := BitVec.ofNat 64 (addr r.1), x := (e.rd s.ops 1 w.dst r.1).setWidth 64, y := (e.rd s.ops 2 w.b r.1).setWidth 64 }
    let s := items.foldl (fun s i => s.l1Drop k.core fun x => x.pline == i.addr / 64) s
    let held := if uni then (if items.isEmpty then 0 else v) else maskOfPairs a.pass
    let also := k.lanes &&& ~~~act
    let s := if items.isEmpty then s
      else (s.modWeave k.wk fun x =>
        { x with sq := x.sq ++ [{ kind := kind, items := items, mask := k.lanes, wait := held, also := also, tag := none }] }).holdLanes k (held ||| also) .performed
    let spread (f : List (Nat × Word × Nat)) : List (Nat × Word × Nat) := if uni then f.flatMap fun x => (lanesOf v).map fun l => (l, x.2) else f
    let a := { a with fault := spread a.fault, park := if uni then a.park.flatMap fun x => (lanesOf v).map fun l => (l, x.2) else a.park }
    s.finishAcc k (act &&& k.helpers) a acc

/-- A uniform pair allows only uniform sources (R341). -/
def stampUniform (w : F3) (srcs : List Operand) : Bool := isV w.a || !srcs.any perLane

/-- DADD. -/
def execDadd (w : F3) (s : State) : Out :=
  weaveOnly s fun k =>
    let at_ := w.mods.getLsbD 0
    let vals := if at_ then [w.dst, w.b] else [w.dst]
    s.runWord k (steGate (s.gang k.gk) w isVSConst (if at_ then isVS else isUnused) (modsIn w.mods 1 && stampUniform w vals) true vals)
      fun e act s => s.stampWrite k e act w (.dadd at_) .rmw

/-- DSET. -/
def execDset (w : F3) (s : State) : Out :=
  weaveOnly s fun k =>
    s.runWord k (steGate (s.gang k.gk) w isVSConst (fun o => isVS o || isInt o) (w.mods == 0 && stampUniform w [w.dst, w.b]) true [w.dst, w.b])
      fun e act s => s.stampWrite k e act w .dset .write

/-- Performs one DADD (R344): the word's new value, and the detail of a window fault. -/
def daddWord (t : Stamp) (at_ : Bool) (w : Nat) (x : Word) (tw : Nat) : Nat × Option Nat :=
  let step := t.step.toNat
  let e := stampAge step tw
  let d := stampAge step (stampedStamp w)
  let x := if at_ && !outOfWindow e then rne32Mul x (factorPower (t.factor (stampedIndex w)) e) else x
  let v := (ffma32 .rn false (stampedVal w) (t.decay w) x).1
  (stampedWord v step (stampedIndex w), if at_ && outOfWindow e then some e else if outOfWindow d then some d else none)

/-- Performs a DADD or DSET entry at the home slices, in ascending lane order; its lanes go on (R346). -/
def State.performStamp (s : State) (wk : Nat) (set at_ : Bool) (en : SqEntry) : State :=
  let g := s.gang (s.weave wk).gang
  let t := (s.part g.part).stamp
  let s := en.items.foldl (fun s i =>
    let w := memQword s.mem i.addr
    let r := if set then (stampedWord (loWord i.x) t.step.toNat i.y.toNat, none) else daddWord t at_ w (loWord i.x) (bits i.y.toNat 23 0)
    let s := ((s.commitWrite i.addr (bytesOf 8 r.1)).l1Fresh g.core g.part none i.addr 8).countOp g.part i.addr 8 (g.core / 256)
    match r.2 with
    | none => s
    | some d =>
      let ls := if en.items.length = 1 then lanesOf en.wait else [i.lane]
      s.modWeave wk fun x => { x with win := x.win ++ ls.map fun l => { lane := l, addr := i.va, detail := BitVec.ofNat 32 d, ll := none } }) s
  s.modWeave wk fun x => (x.passHeldIn en.wait .performed).modLanes en.also fun l => if l.hold = some .performed then { l with hold := none } else l

/-! ### Step and factor instructions (R348 to R350) -/

/-- The gate of a weave-acting word of the stamp engine. -/
def stepGate (g : Gang) (w : F3) (dst a b : Operand → Bool) (ok guarded : Bool) (vals : List Operand) : Gate :=
  { legal := f3Legal g w dst a b none false false false ok, engine := .ste, guarded := guarded, pred := w.pred.toNat, neg := w.neg, srcs := vals }

/-- A pair takes a 64-bit value, and the lanes go on. -/
def State.answer2 (s : State) (k : Ctx) (act : BitVec 32) (d : Operand) (v : Dbl) : State :=
  (s.modWeave k.wk fun x => (x.wrMask d act fun _ => loWord v).wrMask (nextReg d 1) act fun _ => hiWord v).advance k act

/-- STEPRD. -/
def execSteprd (w : F3) (s : State) : Out :=
  weaveOnly s fun k =>
    let g := s.gang k.gk
    s.runWord k (stepGate g w isPairS isUnused isUnused (w.mods == 0 && inDemand g w.dst 2) false []) fun _ act s =>
      onceReal k act s fun s => s.answer2 k act w.dst (s.part k.part).stamp.step

/-- STEPRD.ge. -/
def execSteprdGe (w : F3) (s : State) : Out :=
  weaveOnly s fun k =>
    let g := s.gang k.gk
    s.runWord k (stepGate g w isPairS isSorConst isUnused (w.mods == 1 && inDemand g w.dst 2) false [w.a]) fun e act s =>
      onceReal k act s fun s =>
        let step := (s.part k.part).stamp.step
        let n := e.rd s.ops 0 w.a 0
        if (loWord step - n).toNat < 2 ^ 31 then s.answer2 k act w.dst step else s.holdIssue k e (.stepGe n)

/-- STEPRD.pend. -/
def execSteprdPend (w : F3) (s : State) : Out :=
  weaveOnly s fun k =>
    let g := s.gang k.gk
    s.runWord k (stepGate g w isPairS isUnused isUnused (w.mods == 2 && inDemand g w.dst 2) false []) fun _ act s =>
      onceReal k act s fun s => s.answer2 k act w.dst (BitVec.ofNat 64 (s.part k.part).stamp.pend)

def State.modStamp (s : State) (p : Nat) (f : Stamp → Stamp) : State := s.modPart p fun q => { q with stamp := f q.stamp }

/-- The partition manager accepts a request for a solo boundary. -/
def Partition.askSolo (q : Partition) (clk : Dbl) : Partition := { q with solo := true, soloSince := clk }

/-- STEPADV: the partition manager answers. -/
def execStepadv (w : F3) (s : State) : Out :=
  weaveOnly s fun k =>
    s.runWord k (stepGate (s.gang k.gk) w isS isSorConst isUnused (w.mods == 0) true [w.a]) fun e act s =>
      onceReal k act s fun s =>
        let n := (e.rd s.ops 0 w.a 0).toNat
        if n = 0 ∨ 65536 < n then s.answer k act w.dst 1
        else if 2 ^ 20 < (s.part k.part).stamp.pend + n then s.answer k act w.dst 2
        else ((s.modStamp k.part fun t => { t with pend := t.pend + n }).modPart k.part fun q => q.askSolo s.clk).answer k act w.dst 0

/-- FTSET. -/
def execFtset (w : F3) (s : State) : Out :=
  weaveOnly s fun k =>
    s.runWord k (stepGate (s.gang k.gk) w isS isSorConst isSorConst (w.mods == 0) true [w.a, w.b]) fun e act s =>
      onceReal k act s fun s =>
        let i := (e.rd s.ops 0 w.a 0).toNat
        if 255 < i then s.answer k act w.dst 1
        else ((s.modStamp k.part fun t =>
            { t with stg := Table.set 0 t.stg i (e.rd s.ops 1 w.b 0), stgv := Table.set false t.stgv i true }).modPart k.part
          fun q => q.askSolo s.clk).answer k act w.dst 0

/-! ### Boundaries and sweeps (R338, R351 to R353) -/

/-- A sweep of a region begins. -/
def Sweep.begin_ (r : Sweep) (step : Dbl) : Sweep := { r with sw := true, cursor := 0, start := step, skipPage := none }

/-- The advance that the sweeps permit (R352). -/
def Stamp.allowed (t : Stamp) : Nat :=
  t.regs.foldl (fun a e => if e.2.v then min a (e.2.floor.toNat + (2 ^ 23 - 1) - t.step.toNat) else a) t.pend

/-- A boundary of a partition's stamp state: the advance, the staged factors, the sweeps that begin. Staged values stay in
their registers; STGV is cleared (R338). -/
def Stamp.boundary (t : Stamp) : Stamp :=
  let a := t.allowed
  let t := { t with cut := decide (a < t.pend), step := t.step + BitVec.ofNat 64 a, pend := t.pend - a }
  let ft := t.stgv.foldl (fun f e => if e.2 then Table.set 0x3F800000#32 f e.1 (Table.get 0 t.stg e.1) else f) t.ft
  let t := { t with ft := ft, stgv := [] }
  { t with regs := t.regs.mapVals fun _ r =>
      if r.v && !r.sw && decide (t.thr ≤ t.step.toNat - r.floor.toNat) then r.begin_ t.step else r }

/-- SOLO_BOUNDARY (R338): only while no region of the partition is stitched, at least 64 cycles after the request. -/
def execSoloBoundary (s : State) : Out :=
  let p := s.ev.a
  .next (if !(s.part p).solo || !(s.part p).regions.isEmpty || decide ((s.clk - (s.part p).soloSince).toNat < 64) then s
    else (s.modStamp p Stamp.boundary).modPart p fun q => { q with solo := false })

/-- A sweep in progress still holds the pending advance back. -/
def Stamp.held (t : Stamp) : Bool :=
  t.regs.any fun e => e.2.v && e.2.sw && decide (e.2.floor.toNat + (2 ^ 23 - 1) - t.step.toNat < t.pend)

/-- After a boundary whose advance was cut short, a further solo boundary is asked for once no sweep holds the rest back
and no region is stitched (R338). -/
def State.askFurther (s : State) (p : Nat) : State :=
  s.modPart p fun q =>
    if q.stamp.cut && q.stamp.pend != 0 && !q.stamp.held && q.regions.isEmpty && !q.solo then q.askSolo s.clk else q

/-- A sweep of a region has completed: its `.now` commands resolve, or the sweep that they wait for begins. -/
def State.sweepDone (s : State) (p r : Nat) : State :=
  let ws := (s.part p).nowWait.filter fun x => x.2 == r
  let fin := ws.filter fun x => (s.op x.1).phase == 1
  let s := fin.foldl (fun s x => s.resolve x.1 0) s
  let rest := ws.filter fun x => (s.op x.1).phase != 1
  let s := s.modPart p fun q => { q with
    nowWait := q.nowWait.filter fun x => !fin.contains x }
  let s := s.askFurther p
  if rest.isEmpty then s
  else
    let s := rest.foldl (fun s x => s.modOp x.1 fun o => { o with phase := 1 }) s
    s.modStamp p fun t => { t with regs := t.regs.modify r fun x => x.begin_ t.step }

/-- An accepted SWPREG takes effect (R351). -/
def State.swpregEffect (s : State) (r : Nat) : State :=
  let o := s.op r
  let s := s.modOp r fun o => { o with unit := 1 }
  let p := o.part
  let t := (s.part p).stamp
  match o.fx with
  | none => s
  | some x =>
    let rg := (x.imm.extractLsb' 0 4).toNat
    let region := Table.get {} t.regs rg
    let wait := (s.part p).nowWait.filter fun y => y.2 == rg
    match x.subop.toNat with
    | 0 =>
      let region : Sweep := { vbase := pair (o.desc.getD 0 0) (o.desc.getD 1 0), cntm1 := bits (o.desc.getD 2 0).toNat 25 0, v := true, floor := t.step }
      let s := s.modStamp p fun t => { t with regs := t.regs.insert rg (region.begin_ t.step) }
      ((wait.foldl (fun s y => s.modOp y.1 fun o => { o with phase := 1 }) s).resolve r 0).askFurther p
    | 1 =>
      let s := s.modStamp p fun t => { t with regs := t.regs.modify rg fun y => { y with v := false, sw := false } }
      let s := wait.foldl (fun s y => s.resolve y.1 0) s
      ((s.modPart p fun q => { q with nowWait := q.nowWait.filter fun y => y.2 != rg }).resolve r 0).askFurther p
    | 2 => (s.modStamp p fun t => { t with thr := (x.imm.extractLsb' 0 23).toNat }).resolve r 0
    | _ =>
      if !region.v then s.resolve r 0
      else
        let s := s.modPart p fun q => { q with nowWait := q.nowWait ++ [(r, rg)] }
        if region.sw then s
        else (s.modOp r fun o => { o with phase := 1 }).modStamp p fun t => { t with regs := t.regs.modify rg fun y => y.begin_ t.step }

/-- The accepted SWPREGs of a partition that have not taken effect, in program order. -/
def State.startSte (s : State) (p : Nat) : State :=
  s.ops.foldl (fun s e => if e.2.engine = .ste ∧ e.2.part = p ∧ e.2.accepted = true ∧ e.2.stopped = false ∧ e.2.unit = 0 then s.swpregEffect e.1 else s) s

/-- Adds one to a saturating 16-bit count. -/
def satInc16 (h : Half) : Half := if h == 0xFFFF#16 then h else h + 1

/-- The bytes of the page of an address: those of its leaf; where no leaf is reached, 4 KiB (notes/assumptions/30.md). -/
def State.pageSpan (s : State) (p va : Nat) : Nat :=
  match s.walk p va with
  | .leaf _ _ e => pageBytes (bits e 6 5)
  | _ => 4096

/-- The sweeper visits the next word of a region, or skips the whole page that it cannot use (R353). -/
def State.sweepVisit (s : State) (p r : Nat) : State :=
  let t := (s.part p).stamp
  let g := Table.get {} t.regs r
  let go (s : State) (next : Nat) (g : Sweep) : State :=
    if g.cntm1 < next then
      (s.modStamp p fun t => { t with regs := t.regs.insert r { g with sw := false, floor := g.start, cursor := next % 2 ^ 26 } }).sweepDone p r
    else s.modStamp p fun t => { t with regs := t.regs.insert r { g with cursor := next } }
  if !g.sw || (s.part p).suspended then s
  else
    let va := (g.vbase + BitVec.ofNat 64 (8 * g.cursor)).toNat
    match s.check p (8 * p) { cluster := 65, core := 0 } va 8 8 .rmw true true with
    | (s, .pass pa) =>
      if s.sliceWakes pa then s
      else
        let w := memQword s.mem pa
        let d := stampAge t.step.toNat (stampedStamp w)
        let s := s.countOp p pa 8 (s.homeSlice pa / 32)
        if outOfWindow d then go s (g.cursor + 1) { g with winw := satInc16 g.winw }
        else if d = 0 then go s (g.cursor + 1) g
        else go (s.commitWrite pa (bytesOf 8 (stampedWord (rne32Mul (stampedVal w) (t.decay w)) t.step.toNat (stampedIndex w)))) (g.cursor + 1) g
    | (s, _) =>
      let n := s.pageSpan p va
      go s (g.cursor + (n - va % n + 7) / 8) { g with skippg := satInc16 g.skippg }

/-- SWEEP_VISIT. -/
def execSweepVisit (s : State) : Out := .next ((s.startSte s.ev.a).sweepVisit s.ev.a s.ev.b)

/-- The gate of an FX word. -/
def fxGate (g : Gang) (w : FX) (eng : Engine) (n : Nat) (ok guarded : Bool) : Gate :=
  { legal := fxLegal g w n ok, engine := eng, guarded := guarded }

/-- SWPREG: registration. -/
def execSwpreg (w : FX) (s : State) : Out :=
  weaveOnly s fun k =>
    s.runWord k (fxGate (s.gang k.gk) w .ste 3 (w.subop == 0 && w.imm.extractLsb' 4 20 == 0) true) fun e act s =>
      let vb := pair (e.dreg w 0) (e.dreg w 1)
      if vb.toNat % 8 ≠ 0 then s.fault k act 0x12#32 vb
      else if !canonical vb.toNat then s.fault k act 0x310#32 vb
      else s.command k e w (.swpreg w) .ste id

/-- SWPREG.inv. -/
def execSwpregInv (w : FX) (s : State) : Out :=
  weaveOnly s fun k =>
    s.runWord k (fxGate (s.gang k.gk) w .ste 0 (w.dbase == 0 && w.imm.extractLsb' 4 20 == 0) true) fun e _ s =>
      s.command k e w (.swpregInv w) .ste id

/-- SWPREG.thr. -/
def execSwpregThr (w : FX) (s : State) : Out :=
  weaveOnly s fun k =>
    let n := (w.imm.extractLsb' 0 23).toNat
    s.runWord k (fxGate (s.gang k.gk) w .ste 0 (w.dbase == 0 && w.imm.extractLsb' 23 1 == 0 && n != 0 && decide (n ≤ 2 ^ 22)) true) fun e _ s =>
      s.command k e w (.swpregThr w) .ste id

/-- SWPREG.now. -/
def execSwpregNow (w : FX) (s : State) : Out :=
  weaveOnly s fun k =>
    s.runWord k (fxGate (s.gang k.gk) w .ste 0 (w.dbase == 0 && w.imm.extractLsb' 4 20 == 0) true) fun e _ s =>
      s.command k e w (.swpregNow w) .ste id

/-- What SWPSTAT reads (R354). -/
def Stamp.stat (t : Stamp) (sel : Nat) : Word :=
  if sel = 64 then BitVec.ofNat 32 t.thr
  else if sel = 65 then BitVec.ofNat 32 t.pend
  else if 64 ≤ sel then 0
  else
    let r := Table.get {} t.regs (sel / 4)
    match sel % 4 with
    | 0 => BitVec.ofNat 32 ((if r.v then 1 else 0) + (if r.sw then 2 else 0))
    | 1 => loWord r.floor
    | 2 => BitVec.ofNat 32 (r.cursor % 2 ^ 26)
    | _ => r.winw ++ r.skippg

/-- SWPSTAT. -/
def execSwpstat (w : F3) (s : State) : Out :=
  weaveOnly s fun k =>
    s.runWord k (stepGate (s.gang k.gk) w isS isSorConst isUnused (w.mods == 0) false [w.a]) fun e act s =>
      onceReal k act s fun s => s.answer k act w.dst ((s.part k.part).stamp.stat (e.rd s.ops 0 w.a 0).toNat)

end Sys2Proof.Machine
end

