-- ==== Sys2Proof/Machine/Engine.lean ====
section
/-! DEFINITION. How an engine reads and writes memory for a command after it was accepted: line by line, at its master
class, for its partition and guard tag (spec/01_engines.md, R20; spec/05_ordering.md, R136; spec/06_translation.md,
R153, R158, R160; R325). -/

namespace Sys2Proof.Machine

open Sys2Proof

/-- Who an engine's accesses are made for. -/
structure EngAsk where
  part : Nat
  master : Nat
  core : Nat
  weave : Nat
  tag : Option Nat
  deriving DecidableEq, Repr

/-- The accesses of a command at a master class of its partition (R158). -/
def AsyncOp.ask (o : AsyncOp) (cls : Nat) : EngAsk :=
  { part := o.part, master := 8 * o.part + cls, core := o.core, weave := o.wk % 16, tag := o.tag }

/-- The asker of its page faults: source 1 (R155). -/
def EngAsk.who (q : EngAsk) : Asker := { cluster := q.core / 16, core := q.core, weave := q.weave, source := 1 }

/-- The pieces of [va, va+n) within 64-byte lines, as (address, length). -/
def linePieces (va n : Nat) : List (Nat × Nat) :=
  if n = 0 then []
  else (List.range ((va % 64 + n + 63) / 64)).map fun i =>
    let a := max va ((va / 64 + i) * 64)
    (a, min ((va / 64 + i + 1) * 64) (va + n) - a)

/-- What an engine's access gives. -/
inductive Got where
  | bytes (b : List Byte)
  /-- It failed with this status at this address. -/
  | fault (status : Word) (va : Nat)
  /-- An access of this kind waits: on a page-fault ticket, or, with none, for a slice that wakes (R315). -/
  | wait (ticket : Option Nat) (kind : AccessKind)
  deriving DecidableEq, Repr

/-- An access that must wait has made no request yet. -/
def State.unasked (s s0 : State) : State := { s with slices := s0.slices }

/-- Reads [va, va+n), counting each line. -/
def State.engRead (s : State) (q : EngAsk) (va n : Nat) : State × Got :=
  let s0 := s
  (linePieces va n).foldl (fun (s, g) e => match g with
    | .bytes b =>
      match s.check q.part q.master q.who (e.1 % 2 ^ 64) e.2 1 .read false false with
      | (s, .pass pa) =>
        if s.sliceWakes pa then (s.unasked s0, .wait none .read)
        else (s.count q.part pa 0 (q.core / 256), .bytes (b ++ if inMmio pa then s.mmioRead pa e.2 else s.viewBytes q.part q.tag pa e.2))
      | (s, .fault st) => (s, .fault st (e.1 % 2 ^ 64))
      | (s, .park t) => (s.unasked s0, .wait (some t) .read)
    | g => (s, g)) (s, .bytes [])

/-- The physical pieces of [va, va+n), checked for writing, as (address, length); or why they cannot be written. -/
def State.engPlaces (s : State) (q : EngAsk) (va n : Nat) (k : AccessKind) : State × (List (Nat × Nat) ⊕ Got) :=
  (linePieces va n).foldl (fun (s, g) e => match g with
    | .inl ps =>
      match s.check q.part q.master q.who (e.1 % 2 ^ 64) e.2 1 k false false with
      | (s, .pass pa) => (s, if s.sliceWakes pa then .inr (.wait none k) else .inl (ps ++ [(pa, e.2)]))
      | (s, .fault st) => (s, .inr (.fault st (e.1 % 2 ^ 64)))
      | (s, .park t) => (s, .inr (.wait (some t) k))
    | g => (s, g)) (s, .inl [])

/-- Writes bytes at checked places, counting each line. -/
def State.engPut (s : State) (q : EngAsk) (ps : List (Nat × Nat)) (bs : List Byte) : State :=
  (ps.foldl (fun (s, bs) e =>
    ((s.agentWrite q.part q.master q.tag e.1 ((bs : List Byte).take e.2)).countWrite q.part q.tag e.1 e.2 (q.core / 256), bs.drop e.2)) (s, bs)).1

/-- Writes bytes at [va, …): every piece is checked before any is written. -/
def State.engWrite (s : State) (q : EngAsk) (va : Nat) (bs : List Byte) : State × Got :=
  match s.engPlaces q va bs.length .write with
  | (s, .inl ps) => (s.engPut q ps bs, .bytes [])
  | (s, .inr g) => (s, g)

/-- A command stalls on a ticket and goes on when the ticket is closed (R153); with none it tries again. -/
def State.stallOp (s : State) (r : Nat) (t : Option Nat) (k : AccessKind) : State :=
  s.modOp r fun o => { o with tickets := (t.toList ++ o.tickets).dedup, waitKind := k }

/-- A command that is accepted, not finished, and neither stalled nor stopped by a pre-emption. -/
def AsyncOp.ready (o : AsyncOp) : Bool := o.accepted && !o.stopped && !o.paused && o.tickets.isEmpty

/-- A descriptor register of a command as it was read. -/
def AsyncOp.reg (o : AsyncOp) (i : Nat) : Word := o.desc.getD i 0

/-- A descriptor pair. -/
def AsyncOp.reg2 (o : AsyncOp) (i : Nat) : Nat := (pair (o.reg i) (o.reg (i + 1))).toNat

end Sys2Proof.Machine
end

