-- ==== Sys2Proof/Machine/LaneFloat.lean ====
section
/-! DEFINITION. The floating-point, packed-half, conversion, exchange and generator instructions of the lane arithmetic
engine, and the D2 word (spec/07_lane_arithmetic.md, R161 to R166, R173 to R185; R69, R70). -/

namespace Sys2Proof.Machine

open Sys2Proof

/-- A value with the flags it raises and the generator after it. -/
abbrev Val := Word × Flags × Word

/-- The rounding mode of a three-bit code; .sr steps the generator (R97, R101). -/
def rndOf (code : Nat) (gen : Word) (d : Option Nat) : Rnd × Word :=
  match code with
  | 0 => (.rn, gen)
  | 1 => (.rz, gen)
  | 2 => (.rd, gen)
  | 3 => (.ru, gen)
  | _ => (.sr (genStep gen) d, genStep gen)

/-- A rounding code of an instruction (R97). -/
def rndOk (code : Nat) : Bool := decide (code ≤ 4)

def rndCode (m : BitVec 5) : Nat := (m.extractLsb' 0 3).toNat

/-! ### Values -/

def vFadd (m : BitVec 5) (neg : Bool) (a b gen : Word) : Val :=
  let (r, g) := rndOf (rndCode m) gen none
  let (x, f) := fadd32 r (m.getLsbD 3) a (if neg then b ^^^ 0x80000000#32 else b)
  (x, f, g)
def vFmul (m : BitVec 5) (a b gen : Word) : Val :=
  let (r, g) := rndOf (rndCode m) gen none
  let (x, f) := fmul32 r (m.getLsbD 3) a b
  (x, f, g)
def vFfma (m : BitVec 5) (a b c gen : Word) : Val :=
  let (r, g) := rndOf (rndCode m) gen none
  let (x, f) := ffma32 r (m.getLsbD 3) a b c
  (x, f, g)
def vFminmax (wantMax : Bool) (a b gen : Word) : Val :=
  let (x, f) := fminmax32 wantMax a b
  (x, f, gen)
/-- A comparison of FP32 values (R174). -/
def vFcmp (m : BitVec 5) (a b : Word) : Word :=
  let x := FVal.ofBits .f32 a.toNat
  let y := FVal.ofBits .f32 b.toNat
  let uno := x.isNan || y.isNan
  let c := FVal.cmp x y
  let r := match rndCode m with
    | 0 => !uno && c == 0
    | 1 => uno || c != 0
    | 2 => !uno && decide (c < 0)
    | 3 => !uno && decide (c ≤ 0)
    | 4 => !uno && decide (0 < c)
    | 5 => !uno && decide (0 ≤ c)
    | 6 => !uno
    | _ => uno
  if r then 1 else 0

/-- The 16-bit format that MODS selects (R176). -/
def halfFmt (m : BitVec 5) : Fmt := if m.getLsbD 3 then .bf16 else .f16
/-- Element `e` of a packed-half register (R94). -/
def halfVal (f : Fmt) (a : Word) (e : Nat) : FVal := FVal.ofBits f (bits a.toNat (16 * e + 15) (16 * e))
/-- One rounded element. -/
def roundHalf (f : Fmt) (m : BitVec 5) (v : FVal × Bool) (gen : Word) : Val :=
  let (r, g) := rndOf (rndCode m) gen none
  let (x, fl) := roundTo f r (m.getLsbD 4) v.1
  (BitVec.ofNat 32 x, fl ||| flagIf v.2 flagIV, g)
/-- Both elements of a packed-half result, element 0 first (R176). -/
def vHalf2 (m : BitVec 5) (op : Bool → Nat → FVal × Bool) (gen : Word) : Val :=
  let f := halfFmt m
  let down := rndCode m == 2
  let (x0, f0, g0) := roundHalf f m (op down 0) gen
  let (x1, f1, g1) := roundHalf f m (op down 1) g0
  ((x1 <<< 16) ||| x0, f0 ||| f1, g1)
def vHadd2 (m : BitVec 5) (a b gen : Word) : Val :=
  vHalf2 m (fun z e => FVal.add z (halfVal (halfFmt m) a e) (halfVal (halfFmt m) b e)) gen
def vHmul2 (m : BitVec 5) (a b gen : Word) : Val :=
  vHalf2 m (fun _ e => FVal.mul (halfVal (halfFmt m) a e) (halfVal (halfFmt m) b e)) gen
def vHfma2 (m : BitVec 5) (a b c gen : Word) : Val :=
  vHalf2 m (fun z e => FVal.fma z (halfVal (halfFmt m) a e) (halfVal (halfFmt m) b e) (halfVal (halfFmt m) c e)) gen
/-- The exact two-term dot product with an FP32 addend, rounded once (R177). -/
def vHdot2 (m : BitVec 5) (a b c gen : Word) : Val :=
  let f := halfFmt m
  let z := rndCode m == 2
  let (p0, i0) := FVal.mul (halfVal f a 0) (halfVal f b 0)
  let (p1, i1) := FVal.mul (halfVal f a 1) (halfVal f b 1)
  let (q, i2) := FVal.add z p0 p1
  let cv := FVal.ofBits .f32 c.toNat
  let (v, i3) := FVal.add z q cv
  let nanIn := (halfVal f a 0).isNan || (halfVal f b 0).isNan || (halfVal f a 1).isNan || (halfVal f b 1).isNan || cv.isNan
  let (r, g) := rndOf (rndCode m) gen none
  let (x, fl) := roundTo .f32 r (m.getLsbD 4) v
  (BitVec.ofNat 32 x, fl ||| flagIf ((i0 || i1 || i2 || i3) && !nanIn) flagIV, g)
/-- A packed-half source: an entry of the FP32 table is rounded and placed in both halves (R75). -/
def halfConst (m : BitVec 5) (o : Operand) (v : Word) : Word :=
  match o with
  | .fp _ =>
    let x : Word := BitVec.ofNat 32 (roundTo (halfFmt m) .rn false (FVal.ofBits .f32 v.toNat)).1
    (x <<< 16) ||| x
  | _ => v

/-! ### Conversions (R178 to R181) -/

/-- The floating-point format of a CVT code 0 to 4. -/
def cvtFmt (c : Nat) : Fmt :=
  match c with
  | 0 => .f32 | 1 => .f16 | 2 => .bf16 | 3 => .e4m3 | _ => .e5m2
/-- The range of a CVT integer code 5 to 9. -/
def cvtRange (c : Nat) : Int × Int :=
  match c with
  | 5 => (-(2 ^ 31), 2 ^ 31 - 1)
  | 6 => (0, 2 ^ 32 - 1)
  | 7 => (-128, 127)
  | 8 => (0, 255)
  | _ => (-8, 7)
def cvtWidth (c : Nat) : Nat :=
  match c with
  | 0 | 5 | 6 => 32 | 1 | 2 => 16 | 3 | 4 | 7 | 8 => 8 | _ => 4
/-- The source value of a conversion. -/
def cvtSource (c : Nat) (b : Word) : FVal :=
  let x := b.toNat % 2 ^ cvtWidth c
  if c ≤ 4 then FVal.ofBits (cvtFmt c) x
  else if c = 6 ∨ c = 8 then FVal.ofInt x
  else FVal.ofInt (if x < 2 ^ (cvtWidth c - 1) then x else (x : Int) - 2 ^ cvtWidth c)
/-- Significand bits of a source format (R101). -/
def cvtPrecision (c : Nat) : Nat := if c ≤ 4 then (cvtFmt c).frac + 1 else cvtWidth c
/-- D of R101: the source's significand bits that lie below the target's unit. -/
def cvtD (src dst : Nat) (v : FVal) : Nat :=
  match v with
  | .fin _ num _ exp =>
    let ue : Int := if dst ≤ 4 then max (floorLog2 num 1 exp) (1 - ((cvtFmt dst).bias : Int)) - (cvtFmt dst).frac else 0
    min (cvtPrecision src) (bitsBelow num exp ue)
  | _ => 0
/-- A conversion: one rounding of the exact source value (R178). -/
def vCvt (src dst code : Nat) (sat : Bool) (b gen : Word) : Val :=
  let v := cvtSource src b
  let (r, g) := rndOf code gen (some (cvtD src dst v))
  if dst ≤ 4 then
    let (x, f) := roundTo (cvtFmt dst) r sat v
    (BitVec.ofNat 32 x, f, g)
  else
    let (lo, hi) := cvtRange dst
    let (i, f) := roundInt r lo hi v
    ((BitVec.ofInt 32 i) &&& BitVec.ofNat 32 (2 ^ cvtWidth dst - 1), f, g)
/-- A legal conversion selector and rounding code. -/
def cvtOk (sel : BitVec 9) (m : BitVec 5) : Bool :=
  let src := (sel.extractLsb' 4 4).toNat
  let dst := (sel.extractLsb' 0 4).toNat
  decide (src ≤ 9) && decide (dst ≤ 9) && src != dst && rndOk (rndCode m) && m.extractLsb' 3 2 == 0 &&
  (decide (dst ≤ 4) || !sel.getLsbD 8) && (decide (src ≤ 4) || decide (dst ≤ 4) || rndCode m == 0)
/-- The NaN of FP16 (1) or BF16 (2) that PACK makes of an FP32 NaN: R102 has PACK keep NaN bits, which do not fit, and
states no other value, so sign and payload are free (notes/assumptions/121.md). -/
def packedNan (mode : Nat) (x : Word) : Word :=
  let v := (Config.packNan mode x).toNat
  let frac := if mode = 1 then 10 else 7
  let f := if v % 2 ^ frac = 0 then 2 ^ (frac - 1) else v % 2 ^ frac
  BitVec.ofNat 32 ((v / 2 ^ 15) * 2 ^ 15 + (2 ^ 15 - 2 ^ frac) + f)

/-- One element of PACK. -/
def packElem (mode code : Nat) (x gen : Word) : Val :=
  let (v, f, g) := vCvt 0 mode code false x gen
  (if (FVal.ofBits .f32 x.toNat).isNan then packedNan mode x else v, f, g)

/-- PACK (R180), a first. -/
def vPack (m : BitVec 5) (a b gen : Word) : Val :=
  let mode := (m.extractLsb' 0 2).toNat
  if mode = 0 then ((b <<< 16) ||| (a &&& 0xFFFF#32), 0, gen)
  else
    let code := (m.extractLsb' 2 3).toNat
    let (x0, f0, g0) := packElem mode code a gen
    let (x1, f1, g1) := packElem mode code b g0
    ((x1 <<< 16) ||| x0, f0 ||| f1, g1)
/-- An exact widening to FP32 that keeps a NaN's sign and payload (R181). -/
def widen (f : Fmt) (x : Nat) : Word :=
  match FVal.ofBits f x with
  | .nan => BitVec.ofNat 32 ((x >>> (f.width - 1)) <<< 31 + 0x7F800000 + ((x % pow2 f.frac) <<< (23 - f.frac)))
  | v => BitVec.ofNat 32 (roundTo .f32 .rn false v).1
def vUnpack (m : BitVec 5) (b : Word) : Word :=
  let j := (m.extractLsb' 3 2).toNat
  let byte := bits b.toNat (8 * j + 7) (8 * j)
  match rndCode m with
  | 0 => widen .f16 (bits b.toNat 15 0)
  | 1 => widen .f16 (bits b.toNat 31 16)
  | 2 => widen .bf16 (bits b.toNat 15 0)
  | 3 => widen .bf16 (bits b.toNat 31 16)
  | 4 => (BitVec.ofNat 8 byte).signExtend 32
  | 5 => BitVec.ofNat 32 byte
  | 6 => widen .e4m3 byte
  | _ => widen .e5m2 byte
def unpackOk (m : BitVec 5) : Bool := decide (4 ≤ rndCode m) || m.extractLsb' 3 2 == 0

/-! ### The shared effect -/

/-- Applies a value function to the lanes that execute (R163): results are written, or issued as one long-latency result,
flags are raised unless only helpers raise them, and generators step; a uniform destination takes one value, with the
generator of the lowest lane. -/
def State.laApply (s : State) (k : Ctx) (act : BitVec 32) (dst : Operand) (ll : Bool) (val : Nat → Word → Val) : State :=
  let lanes := if perLane dst then lanesOf act else (lanesOf act).take 1
  if lanes.isEmpty then s.modWeave k.wk (·.dropDst dst)
  else
    let w := s.weave k.wk
    let rs := lanes.map fun l => (l, val l (w.lane l).gen)
    let silent (l : Nat) : Bool := if perLane dst then k.helpers.getLsbD l else act &&& ~~~k.helpers == 0
    let flags := rs.foldl (fun f (e : Nat × Val) => if silent e.1 then f else f ||| e.2.2.1) (0 : Flags)
    let w := rs.foldl (fun w (e : Nat × Val) =>
      if e.2.2.2 = (w.lane e.1).gen then w else w.modLane e.1 fun l => { l with gen := e.2.2.2 }) w
    if ll then
      let w := w.issueLL s.free k.run (rs.map fun e => { dst := dst, lane := laneKey dst e.1, val := e.2.1 }) true flags true
      { s with weaves := s.weaves.modify k.wk fun _ => w, free := s.free + 32 }
    else
      let w := rs.foldl (fun w (e : Nat × Val) => w.wr dst (laneKey dst e.1) e.2.1) w
      s.modWeave k.wk fun _ => { w with fpsw := w.fpsw ||| flags.setWidth 32 }

/-- An F3 floating-point word. -/
def laFloat (s : State) (w : F3) (dst a b : Operand → Bool) (c : Option (Operand → Bool)) (modb mods ll half : Bool)
    (val : Word → Word → Word → Word → Val) : Out :=
  weaveOnly s fun k =>
    s.runWord k (laGate (s.gang k.gk) w dst a b c modb mods false) fun e act s =>
      let h (o : Operand) (v : Word) : Word := if half then halfConst w.mods o v else v
      (s.laApply k act w.dst ll fun l g =>
        val (h w.a (e.a3 s.ops w l)) (h w.b (e.b3 s.ops w c.isSome l)) (e.c3 s.ops w l) g).advance k act

/-- An FI floating-point word: the immediate is bits [31:8] of an FP32 value (R68). -/
def laFloatImm (s : State) (w : FI) (dst : Operand → Bool) (mods : Bool) (val : Word → Word → Word → Val) : Out :=
  weaveOnly s fun k =>
    s.runWord k
      { legal := fiLegal (s.gang k.gk) w dst isSource mods && uniformOk w.dst [w.a]
        engine := .la, privileged := privDst w.dst, pred := w.pred.toNat, neg := w.neg, srcs := [w.a]
        regs := vregsOf [w.a] } fun e act s =>
      (s.laApply k act w.dst false fun l g => val (e.rd s.ops 0 w.a l) (w.imm ++ (0 : BitVec 8)) g).advance k act

/-- A unary long-latency function (R175). -/
def laUnaryLL (s : State) (w : F3) (f : Word → Word × Flags) : Out :=
  laFloat s w isDest isUnused isSource none true (w.mods == 0) true false fun _ b _ g => ((f b).1, (f b).2, g)

/-- FADD, FSUB, FMUL, FFMA (R173). -/
def execFadd (w : F3) (s : State) : Out :=
  laFloat s w isDest isSource isSource none true (rndOk (rndCode w.mods) && !w.mods.getLsbD 4) false false fun a b _ g => vFadd w.mods false a b g
def execFaddFi (w : FI) (s : State) : Out :=
  laFloatImm s w isDest (rndOk (rndCode w.mods) && !w.mods.getLsbD 4) fun a b g => vFadd w.mods false a b g
def execFsub (w : F3) (s : State) : Out :=
  laFloat s w isDest isSource isSource none true (rndOk (rndCode w.mods) && !w.mods.getLsbD 4) false false fun a b _ g => vFadd w.mods true a b g
def execFsubFi (w : FI) (s : State) : Out :=
  laFloatImm s w isDest (rndOk (rndCode w.mods) && !w.mods.getLsbD 4) fun a b g => vFadd w.mods true a b g
def execFmul (w : F3) (s : State) : Out :=
  laFloat s w isDest isSource isSource none true (rndOk (rndCode w.mods) && !w.mods.getLsbD 4) false false fun a b _ g => vFmul w.mods a b g
def execFmulFi (w : FI) (s : State) : Out :=
  laFloatImm s w isDest (rndOk (rndCode w.mods) && !w.mods.getLsbD 4) fun a b g => vFmul w.mods a b g
def execFfma (w : F3) (s : State) : Out :=
  laFloat s w isDest isSource isSource (some isSource) false (rndOk (rndCode w.mods) && !w.mods.getLsbD 4) false false fun a b c g => vFfma w.mods a b c g
/-- FMIN and FMAX (R103, R173). -/
def execFmin (w : F3) (s : State) : Out :=
  laFloat s w isDest isSource isSource none true (w.mods == 0) false false fun a b _ g => vFminmax false a b g
def execFmax (w : F3) (s : State) : Out :=
  laFloat s w isDest isSource isSource none true (w.mods == 0) false false fun a b _ g => vFminmax true a b g
/-- FCMP (R174). -/
def execFcmp (w : F3) (s : State) : Out :=
  laFloat s w isPredDest isSource isSource none true (w.mods.extractLsb' 3 2 == 0) false false fun a b _ g => (vFcmp w.mods a b, 0, g)
def execFcmpFi (w : FI) (s : State) : Out :=
  laFloatImm s w isPredDest (w.mods.extractLsb' 3 2 == 0) fun a b g => (vFcmp w.mods a b, 0, g)
/-- FRCP and FSQRT, correctly rounded, and the six functions of R105 (R175). -/
def execFrcp (w : F3) (s : State) : Out := laUnaryLL s w frcp32
def execFsqrt (w : F3) (s : State) : Out := laUnaryLL s w fsqrt32
def execFrsq (w : F3) (s : State) : Out := laUnaryLL s w (transcendental .frsq)
def execFexp2 (w : F3) (s : State) : Out := laUnaryLL s w (transcendental .fexp2)
def execFlog2 (w : F3) (s : State) : Out := laUnaryLL s w (transcendental .flog2)
def execFsin (w : F3) (s : State) : Out := laUnaryLL s w (transcendental .fsin)
def execFcos (w : F3) (s : State) : Out := laUnaryLL s w (transcendental .fcos)
def execFtanh (w : F3) (s : State) : Out := laUnaryLL s w (transcendental .ftanh)
/-- The packed-half instructions (R176, R177). -/
def execHadd2 (w : F3) (s : State) : Out :=
  laFloat s w isDest isSource isSource none true (rndOk (rndCode w.mods)) false true fun a b _ g => vHadd2 w.mods a b g
def execHmul2 (w : F3) (s : State) : Out :=
  laFloat s w isDest isSource isSource none true (rndOk (rndCode w.mods)) false true fun a b _ g => vHmul2 w.mods a b g
def execHfma2 (w : F3) (s : State) : Out :=
  laFloat s w isDest isSource isSource (some isSource) false (rndOk (rndCode w.mods)) false true fun a b c g =>
    vHfma2 w.mods a b (halfConst w.mods w.srcC c) g
def execHdot2 (w : F3) (s : State) : Out :=
  laFloat s w isDest isSource isSource (some isSource) false (rndOk (rndCode w.mods)) false true fun a b c g => vHdot2 w.mods a b c g
/-- CVT (R178): the SRCA field is the selector. -/
def execCvt (w : F3) (s : State) : Out :=
  let sel := encodeOperand w.a
  laFloat s { w with a := .v 0 } isDest isUnused isSource none true (cvtOk sel w.mods) false false fun _ b _ g =>
    vCvt (sel.extractLsb' 4 4).toNat (sel.extractLsb' 0 4).toNat (rndCode w.mods) (sel.getLsbD 8) b g
/-- PACK (R180). -/
def packOk (m : BitVec 5) : Bool :=
  let mode := (m.extractLsb' 0 2).toNat
  mode != 3 && (if mode == 0 then m.extractLsb' 2 3 == 0 else rndOk (m.extractLsb' 2 3).toNat)
def execPack (w : F3) (s : State) : Out :=
  laFloat s w isDest isSource isSource none true (packOk w.mods) false false fun a b _ g => vPack w.mods a b g
/-- UNPACK (R181). -/
def execUnpack (w : F3) (s : State) : Out :=
  laFloat s w isDest isUnused isSource none true (unpackOk w.mods) false false fun _ b _ g => (vUnpack w.mods b, 0, g)

/-! ### Quad and weave exchange (R182 to R184) -/

/-- A per-lane destination. -/
def isLaneDest (o : Operand) : Bool := isDest o && perLane o

/-- A word that reads the vector register SRCA of another lane, as it stands. -/
def laExchange (s : State) (w : F3) (b : Operand → Bool) (mods : Bool) (pick : (Nat → Word) → Nat → Nat) : Out :=
  weaveOnly s fun k =>
    s.runWord k (laGate (s.gang k.gk) w isLaneDest isV b none false mods false) fun e act s =>
      (s.modWeave k.wk fun x => x.wrMask w.dst act fun l =>
        match w.a with
        | .v i => e.readV 0 i.val (pick (fun l => e.rd s.ops 1 w.b l) l) i
        | _ => 0).advance k act

def execQswap (w : F3) (s : State) : Out :=
  laExchange s w isUnused (w.mods.extractLsb' 2 3 == 0 && w.mods != 0) fun _ l => Nat.xor l (w.mods.extractLsb' 0 2).toNat
def execQbcast (w : F3) (s : State) : Out :=
  laExchange s w isUnused (w.mods.extractLsb' 2 3 == 0) fun _ l => 4 * (l / 4) + (w.mods.extractLsb' 0 2).toNat
def execShfl (w : F3) (s : State) : Out :=
  laExchange s w isSource (w.mods.extractLsb' 3 2 == 0 && decide (rndCode w.mods ≤ 5)) fun b l =>
    let n := 2 ^ rndCode w.mods
    l - l % n + (b l).toNat % n

/-- The combination of WRED (R184). -/
def wredOp (code : Nat) (x y : Word) : Word × Flags :=
  match code with
  | 0 => (x + y, 0)
  | 1 => (if BitVec.slt y x then y else x, 0)
  | 2 => (if BitVec.slt x y then y else x, 0)
  | 3 => (if BitVec.ult y x then y else x, 0)
  | 4 => (if BitVec.ult x y then y else x, 0)
  | 5 => (x &&& y, 0)
  | 6 => (x ||| y, 0)
  | 7 => (x ^^^ y, 0)
  | 8 => fadd32 .rn false x y
  | 9 => fminmax32 false x y
  | _ => fminmax32 true x y

/-- One level of the tree: neighbours combine, an absent one gives the other. -/
def wredPairs (code : Nat) : List (Option Word) → List (Option Word) × Flags
  | x :: y :: rest =>
    let (zs, f) := wredPairs code rest
    match x, y with
    | some a, some b => let (r, g) := wredOp code a b; (some r :: zs, f ||| g)
    | some a, none => (some a :: zs, f)
    | none, y => (y :: zs, f)
  | [x] => ([x], 0)
  | [] => ([], 0)

/-- The five levels of the tree. -/
def wredTree (code : Nat) (xs : List (Option Word)) : Nat → List (Option Word) × Flags
  | 0 => (xs, 0)
  | n + 1 =>
    let (ys, f) := wredPairs code xs
    let (zs, g) := wredTree code ys n
    (zs, f ||| g)

def execWred (w : F3) (s : State) : Out :=
  weaveOnly s fun k =>
    let g := s.gang k.gk
    let gt := laGate g w isDest isSource isUnused none false (!w.mods.getLsbD 4 && decide (w.mods.toNat ≤ 10)) false
    s.runWord k { gt with
        legal := f3Legal g w isDest isSource isUnused none false true false (!w.mods.getLsbD 4 && decide (w.mods.toNat ≤ 10)) }
      fun e act s =>
        let v := act &&& ~~~k.helpers
        let xs := (List.range 32).map fun l => if v.getLsbD l then some (e.rd s.ops 0 w.a l) else none
        let (r, f) := wredTree w.mods.toNat xs 5
        match r.head?.join with
        | some x => (s.modWeave k.wk fun y =>
            let y := y.wrMask w.dst act fun _ => x
            { y with fpsw := y.fpsw ||| f.setWidth 32 }).advance k act
        | none => (s.modWeave k.wk (·.dropDst w.dst)).advance k act

/-- SRND (R185). -/
def execSrnd (w : F3) (s : State) : Out :=
  weaveOnly s fun k =>
    s.runWord k (laGate (s.gang k.gk) w isV isUnused isUnused none false (modsIn w.mods 1) false) fun _ act s =>
      (s.laApply k act w.dst false fun _ g =>
        let g := genStep g
        (if w.mods.getLsbD 0 then
          BitVec.ofNat 32 (roundTo .f32 .rn false (.fin false (g.toNat / 256) 1 (-24))).1 else g, 0, g)).advance k act

/-! ### The D2 word (R69, R70, R166, R179) -/

/-- Whether a D2 operation reads only S (R69). -/
def d2Unary : D2Op → Bool
  | .iabs | .ineg | .not | .popc | .clz | .ctz | .brev | .mov => true
  | .frcp | .fsqrt | .frsq | .fexp2 | .flog2 | .fsin | .fcos | .ftanh => true
  | .cvt | .unpack => true
  | _ => false

/-- Whether its result is long-latency (R84). -/
def d2LL : D2Op → Bool
  | .frcp | .fsqrt | .frsq | .fexp2 | .flog2 | .fsin | .fcos | .ftanh => true
  | _ => false

/-- Whether it is an integer opcode 0x000 to 0x07F. -/
def d2Int (o : D2Op) : Bool := decide (d2Code o < 0x20)

/-- The F3 modifiers that a half's MODS map to, where they are legal (R166). -/
def d2Mods (o : D2Op) (m : BitVec 2) : Option (BitVec 5) :=
  let u := m.getLsbD 1
  let t := m.getLsbD 0
  let ints : BitVec 5 := (if u then 8 else 0) ||| (if t then 4 else 0)
  let only (ok : Bool) : Option (BitVec 5) := if ok then some ints else none
  match o with
  | .iadd | .isub => only (!u || t)
  | .imulh | .imin | .imax | .shr => only (!t)
  | .iabs | .ineg => only (!u)
  | .imul | .and | .or | .xor | .andn | .shl | .rot | .not | .popc | .clz | .ctz | .brev | .mov => only (m == 0)
  | .fadd | .fsub | .fmul => some (m.setWidth 5)
  | .fmin | .fmax => if m == 0 then some 0 else none
  | .frcp | .fsqrt | .frsq | .fexp2 | .flog2 | .fsin | .fcos | .ftanh => if m == 0 then some 0 else none
  | .hadd2 | .hmul2 => some ((if u then 1 else 0) ||| (if t then 8 else 0))
  | .cvt => some (m.setWidth 5)
  | .pack => if m == 3 then none else some (m.setWidth 5)
  | .unpack => some (m.setWidth 5)

/-- The value of a half. -/
def d2Val (o : D2Op) (m : BitVec 5) (sop : Operand) (a b gen : Word) : Val :=
  let i (v : Word) : Val := (v, 0, gen)
  let t (r : Word × Flags) : Val := (r.1, r.2, gen)
  match o with
  | .iadd => i (vAdd m a b) | .isub => i (vSub m a b) | .imul => i (a * b) | .imulh => i (vMulh m a b)
  | .iabs => i (vAbs m b) | .ineg => i (vNeg m b) | .imin => i (vMin m a b) | .imax => i (vMax m a b)
  | .and => i (a &&& b) | .or => i (a ||| b) | .xor => i (a ^^^ b) | .not => i (~~~b) | .andn => i (a &&& ~~~b)
  | .shl => i (vShl a b) | .shr => i (vShr m a b) | .rot => i (vRot m a b)
  | .popc => i (vPopc b) | .clz => i (vClz b) | .ctz => i (vCtz b) | .brev => i (vBrev b) | .mov => i b
  | .fadd => vFadd m false a b gen | .fsub => vFadd m true a b gen | .fmul => vFmul m a b gen
  | .fmin => vFminmax false a b gen | .fmax => vFminmax true a b gen
  | .frcp => t (frcp32 b) | .fsqrt => t (fsqrt32 b) | .frsq => t (transcendental .frsq b)
  | .fexp2 => t (transcendental .fexp2 b) | .flog2 => t (transcendental .flog2 b) | .fsin => t (transcendental .fsin b)
  | .fcos => t (transcendental .fcos b) | .ftanh => t (transcendental .ftanh b)
  | .hadd2 => vHadd2 m a (halfConst m sop b) gen | .hmul2 => vHmul2 m a (halfConst m sop b) gen
  | .cvt =>
    match m.toNat with
    | 0 => vCvt 5 0 0 false b gen
    | 1 => vCvt 0 5 1 false b gen
    | 2 => vCvt 0 2 0 false b gen
    | _ => vCvt 2 0 0 false b gen
  | .pack => vPack m a b gen
  | .unpack => i (vUnpack m b)

/-- The vector registers that a half reads (R70). -/
def halfReads (h : D2Half) : List Nat := vregsOf (if d2Unary h.op then [h.s] else [h.d, h.s])

/-- No two numbers of a list are in one bank. -/
def banksDiffer : List Nat → Bool
  | [] => true
  | x :: xs => xs.all (fun y => x % 4 != y % 4) && banksDiffer xs

/-- One half's fields. -/
def halfLegal (g : Gang) (h : D2Half) : Bool :=
  isVS h.d && isSource h.s && (isV h.d || !perLane h.s) && inDemand g h.d 1 && inDemand g h.s 1 &&
  inDemand g (.p (Fin.ofNat 16 h.pred.toNat)) 1 && (d2Mods h.op h.mods).isSome

/-- R70: legal halves, distinct destinations, and the registers read from banks lie in different banks; a register
served from the hold latch does not count. -/
def d2Legal (g : Gang) (w : Weave) (hi lo : D2Half) : Bool :=
  halfLegal g hi && halfLegal g lo && hi.d != lo.d &&
  banksDiffer (((halfReads hi ++ halfReads lo).dedup).filter fun i => !w.hold.any fun e => e.reg == i)

/-- The operands that a half reads as values. -/
def halfSrcs (h : D2Half) : List Operand := if d2Unary h.op then [h.s] else [h.d, h.s]

/-- A half's lanes (R69): those of the set in which its own predicate passes. -/
def halfLanes (h : D2Half) (w : Weave) (m : BitVec 32) : BitVec 32 := activeOf w m h.pred.toNat h.neg

/-- The lanes of a half that wait for a handle that it reads (with its number), and those that fault at one (R73). -/
def State.halfBlock (s : State) (w : Weave) (h : D2Half) (m : BitVec 32) : Option (Nat × BitVec 32) × BitVec 32 :=
  match s.handleBlock w (halfSrcs h) with
  | some (i, .pending _) => (some (i, halfLanes h w m), 0)
  | some _ => (none, halfLanes h w m)
  | none => (none, 0)

/-- D2 (R69): both halves read before either writes; each has its own predicate; the high half is first. A lane in which
a half reads a handle that is not Resolved waits, or faults, as a whole (R73). -/
def execD2Word (hi lo : D2Half) (s : State) : Out :=
  weaveOnly s fun k =>
    let uni (h : D2Half) : Bool := d2Int h.op && !perLane h.d
    s.runWord k
      { legal := d2Legal (s.gang k.gk) (s.weave k.wk) hi lo, engine := .la, laUni := uni hi && uni lo
        regs := vregsOf ((halfSrcs hi) ++ (halfSrcs lo)) } fun e act s =>
      let reads (h : D2Half) (o : Operand) : Bool := (halfSrcs h).contains o && halfLanes h e.w act != 0
      if (reads hi (.special .fpsw) || reads lo (.special .fpsw)) && e.w.ll.any (·.lane) then s.holdIssue k e .llOut
      else
        let (waitHi, badHi) := s.halfBlock e.w hi act
        let (waitLo, badLo) := s.halfBlock e.w lo (act &&& ~~~((waitHi.map (·.2)).getD 0 ||| badHi))
        let held := (waitHi.map (·.2)).getD 0 ||| (waitLo.map (·.2)).getD 0
        let hold (s : State) (x : Option (Nat × BitVec 32)) : State := match x with
          | some (i, m) => s.holdLanes k m (.handleRead i)
          | none => s
        if held = act ∧ act ≠ 0 then hold (hold (s.modWeave k.wk fun _ => e.w) waitHi) waitLo else
        let go := act &&& ~~~(held ||| badHi ||| badLo)
        let acts (h : D2Half) : Bool := halfLanes h e.w go != 0
        let s := s.modWeave k.wk fun w => (w.latchHigh e (if acts hi then (halfSrcs hi) else [])).latchHigh e (if acts lo then (halfSrcs lo) else [])
        let half (s : State) (slot : Nat) (h : D2Half) : State :=
          let m := halfLanes h e.w go
          let e := { e with act := m }
          s.laApply k m h.d (d2LL h.op) fun l g =>
            d2Val h.op ((d2Mods h.op h.mods).getD 0) h.s (e.rd s.ops slot h.d l) (e.rd s.ops (slot + 1) h.s l) g
        let s := half (half s 0 hi) 2 lo
        let s := if (acts hi && (halfSrcs hi).any isH) || (acts lo && (halfSrcs lo).any isH)
          then (s.modWeave k.wk (·.dropLatches)).acquire k.core k.part else s
        let s := hold (hold (s.advance k go) waitHi) waitLo
        if badHi ||| badLo = 0 then s else s.fault k (badHi ||| badLo) 0x18#32 0

end Sys2Proof.Machine
end

