-- ==== Sys2Proof/Machine/Array.lean ====
section
/-! DEFINITION. The arithmetic of the matrix array (spec/04_numbers.md, R95, R96, R106 to R114) and shape records
(spec/12_copy.md, R290, R292). -/

namespace Sys2Proof.Machine

open Sys2Proof

/-! ### Accumulator entries (R95, R96) -/

/-- The value of F extended by GUARD. -/
def partialVal (f guard : Nat) : FVal :=
  match FVal.ofBits .f32 f with
  | .fin neg num _ exp => .fin neg (num * 256 + guard) 1 (exp - 8)
  | v => v

/-- The 40-bit partial of an entry: F in [31:0] and GUARD in [39:32]. -/
def entryVal (e : BitVec 48) : FVal := partialVal (bits e.toNat 31 0) (bits e.toNat 39 32)

/-- ACC40: rounds to the 40-bit partial, F and GUARD. -/
def acc40 (v : FVal) : Nat :=
  match v with
  | .nan => 0x7FC00000
  | .inf neg => signBit .f32 neg + 0x7F800000
  | .fin neg num den exp =>
    if num = 0 then signBit .f32 neg
    else
      let e := floorLog2 num den exp
      let ue : Int := max e (-126) - 31
      let (a, b) := scale2 num den (exp - ue)
      let (q, _) := roundQuot .rn neg a b
      let (q, ue) := if q = pow2 32 then (pow2 31, ue + 1) else (q, ue)
      let field : Nat := if q < pow2 31 then 0 else (ue + 31 + 127).toNat
      if 255 ≤ field then signBit .f32 neg + 0x7F800000
      else
        let f := if field = 0 then q / 256 else field * pow2 23 + (q / 256 - pow2 23)
        signBit .f32 neg + f + q % 256 * pow2 32

def partialOf (p : Nat) : FVal := partialVal (bits p 31 0) (bits p 39 32)

/-- A finite value that is not zero. -/
def FVal.isNonzero : FVal → Bool
  | .fin _ n _ _ => n != 0
  | _ => false

def FVal.isFin : FVal → Bool
  | .fin _ _ _ _ => true
  | _ => false

/-- The addition of a partial into an entry (R107), counting an absorbed one (R113). -/
def accumulate (e : BitVec 48) (p : Nat) : BitVec 48 :=
  let old := bits e.toNat 39 0
  let new_ := acc40 (FVal.add false (partialOf p) (entryVal e)).1
  let ab := bits e.toNat 47 40
  let ab := if (partialOf p).isNonzero && (entryVal e).isFin && new_ == old then min 255 (ab + 1) else ab
  BitVec.ofNat 48 (new_ + ab * pow2 40)

/-- An entry of F alone. -/
def entryOf (f : Word) : BitVec 48 := f.setWidth 48

/-- The read-out of an entry (R108): rn, or sr with a stepped generator. -/
def readOut (sr : Option Word) (e : BitVec 48) : Word :=
  BitVec.ofNat 32 (roundTo .f32 (match sr with
    | some g => .sr g (some 8)
    | none => .rn) false (entryVal e)).1

/-- The conversion of a read-out to BF16 (R259). -/
def toBf16 (sr : Option Word) (f : Word) : Nat :=
  let v := FVal.ofBits .f32 f.toNat
  (roundTo .bf16 (match sr with
    | some g => .sr g (some (cvtD 0 2 v))
    | none => .rn) false v).1

/-! ### Formats (R241, R242) -/

/-- A matrix format's element format; the code formats are no floating-point formats. -/
def mxFmt (c : Nat) : Option Fmt :=
  match c with
  | 1 => some .f16 | 2 => some .bf16 | 3 => some .e4m3 | 4 => some .e5m2 | _ => none

/-- Element bits of a weight format. -/
def mxBits (c : Nat) : Nat :=
  match c with
  | 1 => 16 | 2 => 16 | 3 => 8 | 4 => 8 | 11 => 4 | 12 => 1 | _ => 2

/-- Products per cell per cycle. -/
def mxPpc (w : Nat) : Nat := if w ≤ 2 then 2 else if w ≤ 4 then 4 else 8

/-- A weight and an activation format form a pair. -/
def mxPairs (w a : Nat) : Bool :=
  match w with
  | 1 => a == 1
  | 2 => a == 2
  | 3 | 4 => a == 3 || a == 4
  | 11 | 12 | 13 => decide (1 ≤ a) && decide (a ≤ 4)
  | _ => false

/-- N of a sparsity code, 0 for dense. -/
def sparseN (spn : Nat) : Nat := match spn with | 1 => 4 | 2 => 6 | 3 => 8 | 4 => 12 | _ => 0

/-- Groups of a sparse column. -/
def sparseGroups (wfmt spn : Nat) : Nat := if sparseN spn = 0 then 0 else 32 * mxPpc wfmt / sparseN spn

/-- G: the registers of one operand A. -/
def mxGroup (wfmt spn afmt : Nat) : Nat :=
  match spn with
  | 0 => if wfmt ≤ 4 then 1 else if afmt ≤ 2 then 4 else 2
  | 1 => 6 | 2 => 4 | 3 => 3 | _ => 2

/-- The bytes that a tile spans in the scratchpad (R247). -/
def tileSpan (wfmt spn : Nat) : Nat :=
  if spn ≠ 0 then 4096 + 256 * sparseGroups wfmt spn
  else match wfmt with | 12 => 1024 | 13 => 2048 | _ => 4096

/-! ### Products of a cell row (R106, R109 to R111, R252) -/

/-- The element bits at an index of packed data. -/
def packedAt (b : Nat) (data : Table Byte) (i : Nat) : Nat :=
  let o := b * i
  bits ((Table.get 0 data (o / 8)).toNat + 256 * (Table.get 0 data (o / 8 + 1)).toNat) (o % 8 + b - 1) (o % 8)

/-- An activation of A's bytes. -/
def activation (afmt : Nat) (a : List Byte) (q : Nat) : FVal :=
  let b := mxBits afmt / 8
  FVal.ofBits ((mxFmt afmt).getD .f16) (leNat ((a.drop (q * b)).take b))

/-- The factors by which weight `k` of column `n` multiplies its activation: one, or two of a two-bit LUT weight. -/
def Plane.weight (p : Plane) (n k : Nat) : List FVal :=
  let kp := 32 * mxPpc p.wfmt
  let x := packedAt (mxBits p.wfmt) p.bytes (n * kp + k)
  let sign (one : Bool) (m : Nat) : FVal := .fin (!one) m 1 0
  match p.wfmt with
  | 11 => [FVal.ofBits .bf16 (Table.get 0 p.codebook x).toNat]
  | 12 => [sign (bit x 0) 1]
  | 13 => [sign (bit x 1) 2, sign (bit x 0) 1]
  | w => [FVal.ofBits ((mxFmt w).getD .f16) x]

/-- The metadata word of a group. -/
def Plane.meta_ (p : Plane) (n g : Nat) : Nat :=
  leNat ((List.range 8).map fun i => Table.get 0 p.bytes (4096 + 8 * (n * sparseGroups p.wfmt p.spn + g) + i))

/-- The indices of a group. -/
def metaIndices (nkept m : Nat) : List Nat := (List.range nkept).map fun t => bits m (5 * t + 4) (5 * t)

/-- A group's metadata fails the check (R112). -/
def metaBad (nkept m : Nat) : Bool :=
  let is := metaIndices nkept m
  is.any (fun i => decide (24 ≤ i)) || decide (is.dedup.length ≠ nkept) || m >>> (5 * nkept) != 0

/-- The products that cell row `i` forms for column `n`, as (dense K position, weight factors). -/
def Plane.rowTerms (p : Plane) (n i : Nat) : List (Nat × List FVal) :=
  let ppc := mxPpc p.wfmt
  let nk := sparseN p.spn
  (List.range ppc).filterMap fun j =>
    let k := i * ppc + j
    if nk = 0 then some (k, p.weight n k)
    else if sparseGroups p.wfmt p.spn ≤ k / nk then none
    else
      let g := k / nk
      let is := metaIndices nk (p.meta_ n g)
      let sorted := sortBy (fun (a b : Nat × Nat) => decide (a.1 ≤ b.1)) is.zipIdx
      (sorted[k % nk]?).map fun e => (24 * g + e.1, p.weight n (g * nk + e.2))

/-- Multiplies exactly by the scale of a position's block: 2^(e − 127), NaN for 0xFF; a block that does not pass
contributes +0 (R253). -/
def scaled (scales : Option (List Nat)) (k : Nat) (v : FVal) : FVal :=
  match scales with
  | none => v
  | some es => match es[k / 32]? with
    | none => .fin false 0 1 0
    | some 255 => .nan
    | some e => match v with
      | .fin neg a d x => .fin neg a d (x + e - 127)
      | v => v

/-- The exact sum of values; none for an empty list. -/
def exactSum : List FVal → Option FVal
  | [] => none
  | v :: vs => some (vs.foldl (fun a b => (FVal.add false a b).1) v)

/-- One bond row's operands: the planes of its cores from west to east and what enters from the west. -/
structure ArrayRow where
  planes : List Plane
  a : List Byte
  afmt : Nat
  scales : Option (List Nat)
  deriving DecidableEq, Repr

/-- The partial that leaves the south edge for column `n` of core column `c` (R107). A cell row without a kept product adds
nothing, so that a partial of −0 stays −0 (R111, R252; DESIGN CHOICE, log 129). -/
def southPartial (rows : List ArrayRow) (c n : Nat) : Nat :=
  rows.foldl (fun p r =>
    let pl := r.planes.getD c {}
    (List.range 32).foldl (fun p i =>
      let terms := (pl.rowTerms n i).flatMap fun e =>
        e.2.map fun w => scaled r.scales e.1 (FVal.mul w (activation r.afmt r.a e.1)).1
      match exactSum terms with
      | none => p
      | some v => acc40 (FVal.add false (partialOf p) v).1) p) 0

/-- Adds the partials of core column `c` into a gang's accumulator row. -/
def Gang.addRow (g : Gang) (row : Nat) (p : Nat → Nat) : Gang :=
  { g with acc := (List.range 32).foldl (fun t n =>
      Table.set 0 t (32 * row + n) (accumulate (Table.get 0 t (32 * row + n)) (p n))) g.acc }

/-! ### Scale streams (R117, R253) -/

/-- The scales of the next `nb` blocks of a stream, up to the first that fails. The header is checked for the blocks of this
multiply, of which none passes where it fails (log 128). -/
def streamScales (g : Gang) (st : Stream) (nb : Nat) : List Nat :=
  let at_ (o n : Nat) : Nat := leNat (memRead g.scratch (st.off.toNat + o) n)
  let first := at_ 0 4
  let count := at_ 4 4
  if at_ 8 8 ≠ 0 ∨ st.b0.toNat < first ∨ first + count < st.ctr.toNat + nb then []
  else
    let ok (b : Nat) : Option Nat :=
      let e := at_ (16 + 2 * (b - first)) 2
      if bits e 15 8 = b % 256 then some (bits e 7 0) else none
    let es := (List.range nb).map fun i => ok (st.ctr.toNat + i)
    (es.takeWhile (·.isSome)).filterMap id

/-! ### Shape records (R290, R292) -/

/-- A shape record as an engine reads it. -/
structure ShapeRec where
  ndim : Nat
  fmt : Nat
  spad : Bool
  prom : Bool
  athr : Nat
  base : Nat
  f32base : Nat
  rmap : Nat
  /-- Extents and signed strides of its dimensions. -/
  dims : List (Nat × Int)
  /-- Some reserved field is not zero. -/
  dirty : Bool
  deriving DecidableEq, Repr

/-- Reads a shape record: its head and the entries of its dimensions, which alone are read (R290); the rest is given as
zeros. -/
def State.readRecord (s : State) (q : EngAsk) (va : Nat) : State × Got :=
  match s.engRead q va 64 with
  | (s, .bytes h) =>
    let n := bits (leNat (h.take 8)) 3 0
    if n = 0 ∨ 14 < n then (s, .bytes (h ++ List.replicate 224 0))
    else match s.engRead q (va + 64) (16 * n) with
      | (s, .bytes d) => (s, .bytes (h ++ d ++ List.replicate (224 - 16 * n) 0))
      | r => r
  | r => r

/-- The record that 288 bytes hold. -/
def shapeOf (b : List Byte) : ShapeRec :=
  let q (o : Nat) : Nat := leNat ((b.drop o).take 8)
  let n := bits (q 0) 3 0
  let dim (d : Nat) : Nat × Int := (bits (q (0x40 + 16 * d)) 31 0, (BitVec.ofNat 64 (q (0x48 + 16 * d))).toInt)
  { ndim := n, fmt := bits (q 0) 7 4, spad := bit (q 0) 8, prom := bit (q 0) 9, athr := bits (q 0) 17 10
    base := q 8, f32base := q 16, rmap := q 24, dims := (List.range n).map dim
    dirty := bits (q 0) 63 18 != 0 || q 0x20 != 0 || q 0x28 != 0 || q 0x30 != 0 || q 0x38 != 0 ||
      (List.range n).any fun d => bits (q (0x40 + 16 * d)) 63 32 != 0 }

/-- What reading a shape record gives. -/
inductive GotShape where
  | shape (x : ShapeRec)
  | fault (status : Word)
  | wait (ticket : Option Nat)
  deriving DecidableEq, Repr

/-- Reads a shape record for an engine. -/
def State.readShape (s : State) (q : EngAsk) (va : Nat) : State × GotShape :=
  match s.readRecord q va with
  | (s, .bytes b) => (s, .shape (shapeOf b))
  | (s, .fault st _) => (s, .fault st)
  | (s, .wait t _) => (s, .wait t)

/-- Where the bit of region `i` stands: its byte's address and its place in it. -/
def ShapeRec.mapBit (x : ShapeRec) (i : Nat) : Nat × Nat := ((x.rmap + i / 8) % 2 ^ 64, i % 8)

/-- The region in which a BF16 address lies, for a record whose regions begin at BASE. -/
def ShapeRec.regionAt (x : ShapeRec) (a : Nat) : Nat := (a + 2 ^ 64 - x.base) % 2 ^ 64 / 2048

/-- The FP32 storage of a BF16 address. -/
def ShapeRec.f32At (x : ShapeRec) (a : Nat) : Nat := (x.f32base + 2 * ((a + 2 ^ 64 - x.base) % 2 ^ 64)) % 2 ^ 64

/-- Sets or clears a bit of the byte at an address, as an engine's write. -/
def State.engBit (s : State) (q : EngAsk) (va i : Nat) (on : Bool) : State × Got :=
  match s.engRead q va 1 with
  | (s, .bytes b) => s.engWrite q va [setBit (b.getD 0 0) i on]
  | r => r

/-- A region is marked promoted: PROM is set and its map bit too. -/
def State.isPromoted (s : State) (q : EngAsk) (x : ShapeRec) (i : Nat) : State × (Bool ⊕ Got) :=
  if !x.prom then (s, .inl false)
  else match s.engRead q (x.mapBit i).1 1 with
    | (s, .bytes b) => (s, .inl ((b.getD 0 0).getLsbD (x.mapBit i).2))
    | (s, g) => (s, .inr g)

end Sys2Proof.Machine
end

