-- ==== Sys2Proof/Machine/Exchange.lean ====
section
/-! DEFINITION. The exchange engine: stitched regions, shadow halves, the escapement and the Huapol buffers
(spec/16_exchange.md, R373 to R395). -/

namespace Sys2Proof.Machine

open Sys2Proof

/-! ### Routes (R373, R376) -/

/-- The grid position of a device cluster (R373). -/
def clusterX (c : Nat) : Nat := 4 * (c / 16 % 2) + c % 16 % 4
def clusterY (c : Nat) : Nat := 4 * (c / 16 / 2) + c % 16 / 4

def natDist (a b : Nat) : Nat := (a - b) + (b - a)

/-- The cost E of an edge between two clusters (R376). -/
def edgeCost (a b : Nat) : Nat :=
  2 * (natDist (clusterX a) (clusterX b) + natDist (clusterY a) (clusterY b)) +
  6 * (natDist (clusterX a / 4) (clusterX b / 4) + natDist (clusterY a / 4) (clusterY b / 4))

/-- The indices passed on a ring of `n` from `i` to `j`, the shorter way; a tie goes up. -/
def ringPath (n i j : Nat) : List Nat :=
  let d := (j + n - i) % n
  if 2 * d ≤ n then (List.range (d + 1)).map fun k => (i + k) % n
  else (List.range (n - d + 1)).map fun k => (i + n - k) % n

/-- The path from a tree entry to the root, `k` children to a node. -/
def treeUp (k : Nat) (i : Nat) : Nat → List Nat
  | 0 => [i]
  | f + 1 => if i = 0 then [0] else i :: treeUp k ((i - 1) / k) f

/-- The path between two tree entries over their lowest common ancestor. -/
def treePath (k i j : Nat) : List Nat :=
  let up := treeUp k i 64
  let down := treeUp k j 64
  up.takeWhile (fun x => !down.contains x) ++
    ((up.find? fun x => down.contains x).toList ++ (down.takeWhile fun x => !up.contains x).reverse)

/-- The list indices that the route from entry `i` to entry `j` passes (R376). -/
def Region.path (r : Region) (i j : Nat) : List Nat :=
  if i = j then [i]
  else match r.topo with
    | 0 => [i, j]
    | 1 => ringPath r.cls.length i j
    | 2 => treePath 2 i j
    | 3 => treePath 4 i j
    | _ =>
      let tx := r.txm1 + 1
      let ty := r.cls.length / tx
      (ringPath tx (i % tx) (j % tx)).map (fun x => i / tx * tx + x) ++
        ((ringPath ty (i / tx) (j / tx)).drop 1).map fun y => y * tx + j % tx

/-- The sum of E along a path. -/
def Region.pathCost (r : Region) : List Nat → Nat
  | i :: j :: rest => edgeCost (r.cls.getD i 0) (r.cls.getD j 0) + r.pathCost (j :: rest)
  | _ => 0

/-- L between two ranks: 4 and the cost of the route between their clusters (R376). -/
def Region.latency (r : Region) (a b : Nat) : Nat := 4 + r.pathCost (r.path (a / 16) (b / 16))

/-- Rmax: the largest cost from CL_0 to any cluster of the region (R378). -/
def Region.rmax (r : Region) : Nat :=
  (List.range r.cls.length).foldl (fun m j => max m (r.pathCost (r.path 0 j))) 0

/-! ### The bound launch -/

/-- The region to which a gang's launch is bound, with its number. -/
def State.boundRegion (s : State) (g : Gang) : Option (Nat × Region) :=
  g.region.bind fun n => ((s.part g.part).regions.find n).map fun r => (n, r)

def State.modRegion (s : State) (p n : Nat) (f : Region → Region) : State :=
  s.modPart p fun q => { q with regions := q.regions.modify n f }

/-- The gang of a rank of a launch, unless it has ended. -/
def State.rankGang (s : State) (l r : Nat) : Option Nat :=
  (s.gangs.find? fun e => e.2.launch == l && e.2.g == r && !e.2.ended && (s.weavesOf e.1).any fun wk => (s.weave wk).counts).map (·.1)

/-- The exchange status word of a failure (R379). -/
def exchangeStatus (detail rank : Nat) : Word := BitVec.ofNat 32 (0x40 + detail * 256 + rank % 2 ^ 16 * 2 ^ 16)

/-- Records a failure in a weave's exchange status word, if that is zero (R379, R381). -/
def Weave.note (w : Weave) (detail rank : Nat) : Weave :=
  if w.xstatus = 0 then { w with xstatus := exchangeStatus detail rank } else w

/-- Adds to a counter of a gang's XCNT that saturates (R385). -/
def Gang.addX (g : Gang) (i n : Nat) : Gang :=
  { g with xcnt := Table.set 0 g.xcnt i (BitVec.ofNat 32 (min (2 ^ 32 - 1) ((Table.get 0 g.xcnt i).toNat + n))) }

/-! ### XST (R381) -/

/-- The gate of an F3 word of the exchange engine. -/
def xeGate (g : Gang) (w : F3) (dst a b : Operand → Bool) (ok guarded : Bool) (vals : List Operand) : Gate :=
  { legal := f3Legal g w dst a b none false (a (.v 1)) (b (.v 1)) ok
    engine := .xe, guarded := guarded, pred := w.pred.toNat, neg := w.neg, srcs := vals, regs := vregsOf vals, holds := holdsOf w }

def isVSInt (o : Operand) : Bool := isVS o || isInt o

/-- XST: one store-queue entry for the lanes that have a place to go. -/
def execXst (w : F3) (s : State) : Out :=
  weaveOnly s fun k =>
    let g := s.gang k.gk
    let data := dataRegs w.dst w.mods
    s.runWord k (xeGate g w isStoreData isVSInt isVS (modsIn w.mods 7 && storeOk g w.dst w.mods) true ([w.a, w.b] ++ data)) fun e act s =>
      let n := widthBytes (widthCode w.mods)
      let m := act &&& ~~~k.helpers
      if m != 0 && (s.weave k.wk).sqFull then s.holdIssue k e .queueFull
      else
        let off (l : Nat) : Nat := (e.rd s.ops 1 w.b l).toNat
        let rank (l : Nat) : Nat := (e.rd s.ops 0 w.a l).toNat
        let bad := (lanesOf m).filterMap fun l => (g.spCheck (off l) n).map fun st => (l, st, off l)
        let fit := (lanesOf m).filter fun l => (g.spCheck (off l) n).isNone
        let fail (l : Nat) : Nat :=
          if (s.boundRegion g).isNone then 1 else if (s.launch k.launch).gangCount ≤ rank l then 2 else 0
        let s := s.modWeave k.wk fun x => fit.foldl (fun x l => if fail l = 0 then x else x.note (fail l) (rank l)) x
        let items : List SqItem := (fit.filter fun l => fail l == 0).map fun l =>
          { lane := l, addr := off l, bytes := e.dataAt s.ops w.dst w.mods l, x := BitVec.ofNat 64 (rank l) }
        ((s.enqueue k .xst k.lanes items).advance k (act &&& ~~~maskOfPairs bad)).deliverFaults k bad

/-- An XST entry leaves the queue: each lane's datum sets out for its rank's shadow half (R381). -/
def State.sendXst (s : State) (wk : Nat) (en : SqEntry) : State :=
  let g := s.gang (s.weave wk).gang
  match s.boundRegion g with
  | none => s.modWeave wk fun x => en.items.foldl (fun x i => x.note 1 i.x.toNat) x
  | some (n, r) =>
    en.items.foldl (fun s i =>
      match s.rankGang g.launch i.x.toNat with
      | none => s.modWeave wk fun x => x.note 3 i.x.toNat
      | some t =>
        (s.modRegion g.part n fun y => { y with flight := y.flight ++
          [{ gang := t, off := i.addr, bytes := i.bytes, due := s.clk.toNat + r.latency g.g i.x.toNat, wk := wk, op := none, units := 1 }] }).modGang
            (s.weave wk).gang fun x => x.addX 2 1) s

/-! ### XBCAST (R382) -/

/-- XBCAST: its ranges are checked at issue. -/
def State.issueXbcast (s : State) (k : Ctx) (e : Env) (act : BitVec 32) (w : FX) (i : Instr) : State :=
  let g := s.gang k.gk
  let d (j : Nat) : Nat := (e.dreg w j).toNat
  if d 0 % 8 ≠ 0 ∨ d 1 % 8 ≠ 0 ∨ d 2 % 8 ≠ 0 then
    s.fault k act 0x12#32 (BitVec.ofNat 64 (if d 0 % 8 ≠ 0 then d 0 else if d 1 % 8 ≠ 0 then d 1 else d 2))
  else if d 2 = 0 ∨ g.spSize < d 0 + d 2 ∨ g.spSize < d 1 + d 2 then
    s.fault k act 0x13#32 (BitVec.ofNat 64 (if g.spSize < d 0 + d 2 then d 0 else d 1))
  else s.command k e w i .xe id

/-- XBCAST.rng. -/
def execXbcast (w : FX) (s : State) : Out :=
  weaveOnly s fun k =>
    let rng := w.subop == 0
    s.runWord k (fxGate (s.gang k.gk) w .xe (if rng then 5 else 3) (decide (w.subop.toNat ≤ 1) && w.imm == 0) true) fun e act s =>
      s.issueXbcast k e act w (.xbcast w)

/-- An accepted XBCAST reads its source and sends it to every rank that can take it. -/
def State.startXbcast (s : State) (r : Nat) : State :=
  let o := s.op r
  let s := s.modOp r fun o => { o with unit := 1 }
  let g := s.gang o.gang
  let all := match o.fx with
    | some x => x.subop == 1
    | none => false
  match s.boundRegion g with
  | none => s.resolve r (exchangeStatus 1 (if all then 0 else (o.reg 3).toNat))
  | some (n, rg) =>
    let count := (s.launch o.launch).gangCount
    let first := if all then 0 else (o.reg 3).toNat
    let past := if all then count else first + (o.reg 4).toNat
    let ranks := (List.range count).filter fun i => decide (first ≤ i) && decide (i < past)
    let ended := ranks.filter fun i => (s.rankGang o.launch i).isNone
    let st : Word := match ended with
      | i :: _ => exchangeStatus 3 i
      | [] => if count < past ∧ first < past then exchangeStatus 2 (max first count) else 0
    let bs := g.spRead (o.reg 0).toNat (o.reg 2).toNat
    let data := ranks.filterMap fun i => (s.rankGang o.launch i).map fun t =>
      ({ gang := t, off := (o.reg 1).toNat, bytes := bs, due := s.clk.toNat + rg.latency g.g i, wk := o.wk, op := some r,
         units := (o.reg 2).toNat / 8 } : XDatum)
    if data.isEmpty then s.resolve r st
    else
      ((s.modRegion o.part n fun y => { y with flight := y.flight ++ data }).modGang o.gang fun x =>
        x.addX 2 (data.length * ((o.reg 2).toNat / 8))).modOp r fun o => { o with phase := data.length, aux := [st] }

/-- XST_LAND (R376, R381): the datum at a place of the flight list lands once its cycle has come. -/
def State.landDatum (s : State) (p n : Nat) (i : Nat) : State :=
  match (s.part p).regions.find n with
  | none => s
  | some r =>
    match r.flight[i]? with
    | none => s
    | some d =>
      if s.clk.toNat < d.due then s
      else
        let s := s.modRegion p n fun y => { y with flight := y.flight.eraseIdx i }
        let gone := !(s.weavesOf d.gang).any fun wk => (s.weave wk).counts
        let s := if gone then s.modWeave d.wk fun x => if d.op.isNone then x.note 3 (s.gang d.gang).g else x
          else s.modGang d.gang fun g => { g.addX 0 d.units with shadow := memWrite g.shadow d.off d.bytes }
        match d.op with
        | none => s
        | some o =>
          let s := s.modOp o fun x => { x with
            phase := x.phase - 1
            aux := if gone && x.aux.getD 0 0 == 0 then [exchangeStatus 3 (s.gang d.gang).g] else x.aux }
          if (s.op o).phase = 0 then s.resolve o ((s.op o).aux.getD 0 0) else s

/-- XST_LAND. -/
def execXstLand (s : State) : Out := .next (s.landDatum s.ev.a s.ev.b s.ev.c)

/-! ### XSTEP and the escapement (R377, R378, R383) -/

/-- A command is held, or has issued: the record it made. -/
def State.issuedOp (s s' : State) : Option Nat := if s'.nextKey = s.nextKey then none else some s.nextKey

/-- XSTEP: after the weave's store queue has drained; the lanes are held until the release. -/
def execXstep (w : FX) (s : State) : Out :=
  weaveOnly s fun k =>
    s.runWord k (fxGate (s.gang k.gk) w .xe 0 (w.dbase == 0 && w.subop == 0 && w.imm == 0) true) fun e act s =>
      if !(s.weave k.wk).sq.isEmpty then s.holdIssue k e .queueBusy
      else
        let t := s.command k e w (.xstep w) .xe id
        match s.issuedOp t with
        | none => t
        | some r =>
          let t := t.accept r
          if (s.boundRegion (s.gang k.gk)).isNone then t.resolve r (exchangeStatus 1 0)
          else t.modWeave k.wk fun x => { x with lanes := (lanesOf act).foldl (fun ls l =>
            ls.insert l { (s.weave k.wk).lane l with hold := some (.xstep (some r)) }) x.lanes }

def Hold.isXstep : Hold → Bool
  | .xstep _ => true
  | _ => false

/-- Every live lane of a weave is held at an XSTEP (R209, R378). -/
def Weave.atStep (w : Weave) : Bool :=
  (lanesOf w.liveMask).all fun l => (match (w.lane l).hold with
    | some h => h.isXstep
    | none => false) && (w.lane l).parked.isNone

/-- The weaves of the launch bound to a region that count for its escapement. -/
def State.stepWeaves (s : State) (l : Nat) : List Nat :=
  (s.gangsOf l).flatMap fun g => (s.weavesOf g).filter fun wk => (s.weave wk).counts

/-- Every gang of the bound launch has arrived and all that was sent has landed (R378). -/
def State.stepComplete (s : State) (r : Region) : Bool :=
  match r.launch with
  | none => false
  | some l =>
    let ws := s.stepWeaves l
    !ws.isEmpty && r.flight.isEmpty && (s.launch l).saved.isEmpty && (s.launch l).escalated.isEmpty &&
    (ws.all fun wk => (s.weave wk).atStep && (s.weave wk).sq.isEmpty) &&
    !s.ops.any fun e => e.2.launch == l && e.2.engine == .xe && !e.2.stopped && (match e.2.instr with
      | .xbcast _ => true
      | _ => false)

/-- The release of a superstep (R378): halves swap, the lanes go on, the handles resolve, the counters move on, the
partition's stamp state crosses a boundary, and each core of the region acquires what was released at its arrivals
(R128, R134). -/
def State.releaseStep (s : State) (p n l : Nat) : State :=
  let ws := s.stepWeaves l
  let s := ws.foldl (fun s wk =>
    let recs := ((lanesOf (s.weave wk).liveMask).filterMap fun i => match ((s.weave wk).lane i).hold with
      | some (.xstep r) => r
      | _ => none).dedup
    let s := recs.foldl (fun s r =>
      if (s.op r).named then (s.resolve r (s.weave wk).xstatus).modWeave wk fun w => { w with xstatus := 0 }
      else s.resolve r 0) s
    s.modWeave wk (·.passHeld Hold.isXstep)) s
  let s := (s.gangsOf l).foldl (fun s g => s.modGang g fun x =>
    { x with
      scratch := x.shadow
      shadow := x.scratch
      xcnt := Table.set 0 (Table.set 0 (Table.set 0 (Table.set 0 x.xcnt 1 (Table.get 0 x.xcnt 0)) 3 (Table.get 0 x.xcnt 2)) 0 0) 2 0 }) s
  let s := (s.gangsOf l).foldl (fun s g => s.acquire (s.gang g).core p) s
  ((s.modRegion p n fun r => { r with steps := r.steps + 1, t := none }).modStamp p Stamp.boundary).modPart p
    fun q => { q with solo := false }

/-- ESCAPEMENT_RELEASE: T is noted when the step is complete, and the release comes at B = T + 8 + 2 Rmax. -/
def execEscapementRelease (s : State) : Out :=
  let p := s.ev.a
  let n := s.ev.b
  .next (match (s.part p).regions.find n with
    | none => s
    | some r =>
      if !s.stepComplete r then s.modRegion p n fun y => { y with t := none }
      else match r.t with
        | none => s.modRegion p n fun y => { y with t := some s.clk.toNat }
        | some t => if s.clk.toNat < t + 8 + 2 * r.rmax then s else s.releaseStep p n (r.launch.getD 0))

/-! ### Status and counters (R384, R385) -/

/-- What XSTAT reads. -/
def State.xstat (s : State) (k : Ctx) (sel : Nat) : Word :=
  let g := s.gang k.gk
  match s.boundRegion g with
  | none => if sel = 3 then (s.weave k.wk).xstatus else if 0x100 ≤ sel then 0xFFFFFFFF#32 else 0
  | some (n, r) =>
    let count := (s.launch k.launch).gangCount
    match sel with
    | 0 => BitVec.ofNat 32 (n + r.topo * 8 + 64)
    | 1 => BitVec.ofNat 32 count
    | 2 => r.steps
    | 3 => (s.weave k.wk).xstatus
    | _ => if sel < 0x100 then 0
      else if count ≤ sel - 0x100 then 0xFFFFFFFF#32 else BitVec.ofNat 32 (r.latency g.g (sel - 0x100))

/-- XSTAT. -/
def execXstat (w : F3) (s : State) : Out :=
  weaveOnly s fun k =>
    s.runWord k (xeGate (s.gang k.gk) w isS isSorInt isUnused (modsIn w.mods 1) false [w.a]) fun e act s =>
      onceReal k act s fun s =>
        let sel := (e.rd s.ops 0 w.a 0).toNat
        if w.mods.getLsbD 0 then
          if sel ≠ 3 then s.fault k act 0x01#32 0
          else (s.modWeave k.wk fun x => { x with xstatus := 0 }).answer k act w.dst (s.xstat k sel)
        else s.answer k act w.dst (s.xstat k sel)

/-- Buffer or channel `n` is at a port of the partition. -/
def State.ownsPort (s : State) (p n : Nat) : Bool := decide (n < 192) && (s.port (n / 16)).owner == some p

def State.rxBuf (s : State) (n : Nat) : RxBuf := Table.get {} (s.port (n / 16)).rx (n % 16)
def State.setRx (s : State) (n : Nat) (x : RxBuf) : State := s.modPort (n / 16) fun q => { q with rx := Table.set {} q.rx (n % 16) x }

/-- The number of full bits. -/
def RxBuf.fulls (x : RxBuf) : Nat := ((List.range 16).filter fun i => x.full.getLsbD i).length

/-- What XCNT reads. -/
def State.xcntRead (s : State) (k : Ctx) (sel : Nat) : Word :=
  if sel < 4 then Table.get 0 (s.gang k.gk).xcnt sel
  else if 0x100 ≤ sel ∧ sel < 0x100 + 192 then
    if s.ownsPort k.part (sel - 0x100) && (s.rxBuf (sel - 0x100)).v
    then BitVec.ofNat 32 ((s.rxBuf (sel - 0x100)).fulls - (s.rxBuf (sel - 0x100)).taken) else 0
  else if 0x200 ≤ sel ∧ sel < 0x200 + 192 then
    if s.ownsPort k.part (sel - 0x200) && (s.txChan (sel - 0x200)).v then BitVec.ofNat 32 (s.txChan (sel - 0x200)).credits else 0
  else 0

/-- XCNT. -/
def execXcnt (w : F3) (s : State) : Out :=
  weaveOnly s fun k =>
    s.runWord k (xeGate (s.gang k.gk) w isS isSorInt isUnused (w.mods == 0) false [w.a]) fun e act s =>
      onceReal k act s fun s => s.answer k act w.dst (s.xcntRead k (e.rd s.ops 0 w.a 0).toNat)

/-! ### Flits (R391) -/

/-- One step of the CRC-64 of polynomial 0x42F0_E1EB_A9EA_3693, most significant bit first. -/
def crcBit (c : Dbl) : Dbl := if c.getLsbD 63 then (c <<< 1) ^^^ 0x42F0E1EBA9EA3693#64 else c <<< 1

def crcByte (c : Dbl) (b : Byte) : Dbl := (List.range 8).foldl (fun c _ => crcBit c) (c ^^^ (b.setWidth 64 <<< 56))

def crc64 (bs : List Byte) : Dbl := bs.foldl crcByte 0

/-- A flit's bytes. -/
def flitBytes (kind buf slot : Nat) (last : Bool) (off : Nat) (payload : List Byte) (seq ack : Word) : List Byte :=
  let head := kind + buf * 16 + slot * 256 + (if last then 4096 else 0) + payload.length * 2 ^ 16 + off / 8 * 2 ^ 32
  let b := bytesOf 8 head ++ payload ++ List.replicate (232 - payload.length) 0 ++ bytesOf 4 seq.toNat ++ bytesOf 4 ack.toNat
  b ++ bytesOf 8 (crc64 b).toNat

/-- A port sends a flit, keeping the last 128. -/
def Port.send (q : Port) (kind buf slot : Nat) (last : Bool) (off : Nat) (payload : List Byte) : Port :=
  let f : Flit := { seq := q.seqOut, bytes := flitBytes kind buf slot last off payload q.seqOut (q.seqIn - 1) }
  { q with seqOut := q.seqOut + 1, sent := (q.sent ++ [f]).drop (q.sent.length + 1 - 128) }

/-- A port sends a slot's payload: at most 232 bytes to a flit. -/
def Port.sendSlot (q : Port) (buf slot : Nat) (bs : List Byte) : Port :=
  let n := (bs.length + 231) / 232
  (List.range n).foldl (fun q i => q.send 0 buf slot (i + 1 == n) (232 * i) ((bs.drop (232 * i)).take 232)) q

/-! ### Configuration (R387) -/

/-- The channel number of an LSEND that is in progress. -/
def AsyncOp.channel (o : AsyncOp) : Option Nat :=
  match o.instr, o.fx with
  | .lsend _, some x => if o.stopped then none else some (x.imm.toNat % 256)
  | _, _ => none

/-- Resolves the LSENDs in progress that a test of channel and record picks; one that was not accepted yet is now. -/
def State.failSends (s : State) (f : Nat → AsyncOp → Bool) (st : Word) : State :=
  s.ops.foldl (fun s e => match e.2.channel with
    | some n => if f n e.2 then (s.accept e.1).resolve e.1 st else s
    | none => s) s

/-- The pages of a receive buffer, translated with W; none where one does not translate. -/
def State.bufferPages (s : State) (k : Ctx) (base n : Nat) : State × Option (Table Nat) :=
  (List.range ((base % 4096 + n + 4095) / 4096)).foldl (fun (s, r) i => match r with
    | none => (s, none)
    | some t =>
      let va := (base / 4096 + i) * 4096
      if !canonical (va % 2 ^ 64) || decide (2 ^ 64 ≤ va) then (s, none)
      else match s.translate (k.core / 16) k.part va .write with
        | (s, .pa pa) => (s, some (t.insert i (pa / 4096 * 4096)))
        | (s, _) => (s, none)) (s, some [])

/-- LBUFCFG.rx. -/
def execLbufcfgRx (w : F3) (s : State) : Out :=
  weaveOnly s fun k =>
    let g := s.gang k.gk
    let vals := [w.a, w.b, nextReg w.b 1, nextReg w.b 2]
    let gt := xeGate g w isS isSorInt isS (w.mods == 0) true vals
    s.runWord k { gt with legal := gt.legal && inDemand g w.b 3 && decide (regNum w.b + 3 ≤ 64) } fun e act s =>
      onceReal k act s fun s =>
        let n := (e.rd s.ops 0 w.a 0).toNat
        let base := pair (e.rd s.ops 1 w.b 0) (e.rd s.ops 4 (nextReg w.b 1) 0)
        let c := (e.rd s.ops 5 (nextReg w.b 2) 0).toNat
        let size := 256 * bits c 12 0
        let slots := bits c 16 13 + 1
        if !s.ownsPort k.part n then s.answer k act w.dst 2
        else if size = 0 ∨ 4096 * 256 < size ∨ bits c 31 17 ≠ 0 ∨ base.toNat % 256 ≠ 0 then s.answer k act w.dst 1
        else if (s.rxBuf n).v then s.answer k act w.dst 3
        else match s.bufferPages k base.toNat (slots * size) with
          | (_, none) => s.answer k act w.dst 4
          | (t, some pages) => (t.setRx n { v := true, base := base, size := size, slots := slots, pages := pages }).answer k act w.dst 0

/-- LBUFCFG.tx: the peer's answer is the environment's, a free value. -/
def execLbufcfgTx (w : F3) (s : State) : Out :=
  weaveOnly s fun k =>
    s.runWord k (xeGate (s.gang k.gk) w isS isSorInt isUnused (w.mods == 1) true [w.a]) fun e act s =>
      onceReal k act s fun s =>
        let n := (e.rd s.ops 0 w.a 0).toNat
        if !s.ownsPort k.part n || !(s.port (n / 16)).up then s.answer k act w.dst 2
        else
          let (f, s) := s.takeFree 3
          if !Config.freeBit f then s.answer k act w.dst 3
          else
            let slots := Config.freeNat (f + 1) % 16 + 1
            let s := s.failSends (fun c _ => c == n) 0x441#32
            (s.setTx n { v := true, slots := slots, size := 256 * (Config.freeNat (f + 2) % 4096 + 1), credits := slots }).answer k act w.dst 0

/-- LBUFCFG.off; a discard report for the slot next to be filled tells the peer (notes/assumptions/113.md). -/
def execLbufcfgOff (w : F3) (s : State) : Out :=
  weaveOnly s fun k =>
    s.runWord k (xeGate (s.gang k.gk) w isS isSorInt isUnused (w.mods == 2) true [w.a]) fun e act s =>
      onceReal k act s fun s =>
        let n := (e.rd s.ops 0 w.a 0).toNat
        let x := s.rxBuf n
        if !s.ownsPort k.part n then s.answer k act w.dst 2
        else
          let s := if x.v then s.modPort (n / 16) fun q => q.send 5 (n % 16) x.fill false 0 [] else s
          (s.setRx n {}).answer k act w.dst 0

/-! ### Sending (R388) -/

/-- LSEND. -/
def execLsend (w : FX) (s : State) : Out :=
  weaveOnly s fun k =>
    s.runWord k (fxGate (s.gang k.gk) w .xe 3 (decide (w.subop.toNat ≤ 1) && w.imm.extractLsb' 8 16 == 0) true) fun e act s =>
      let a := pair (e.dreg w 0) (e.dreg w 1)
      if a.toNat % 8 ≠ 0 then s.fault k act 0x12#32 a else s.command k e w (.lsend w) .xe id

/-- An LSEND that has not taken a slot, of those that were accepted. -/
def AsyncOp.waitsSlot (o : AsyncOp) : Bool := o.accepted && !o.stopped && o.unit == 0

/-- An LSEND waits for a credit, or for the LSENDs that were accepted before it: to take their slots, and to send. -/
def State.sendWaits (s : State) (o : AsyncOp) (n : Nat) : Bool :=
  (s.txChan n).credits == 0 || s.ops.any fun e => e.2.channel == some n && (e.2.holdsSlot || (e.2.waitsSlot && decide (e.2.phase < o.phase)))

/-- An LSEND can send now. -/
def State.sendReady (s : State) (o : AsyncOp) : Bool :=
  match o.channel with
  | none => false
  | some n => o.unit == 0 && o.ready && s.ownsPort o.part n && (s.txChan n).v && !(s.txChan n).failed && !s.sendWaits o n

/-- A launch has traffic for the exchange network on a core (R393): an XST entry that can leave, an XBCAST that can be
accepted, or an LSEND that can send. -/
def State.xeReady (s : State) (core l : Nat) : Bool :=
  (s.weaves.any fun e => (s.gang e.2.gang).core == core && (s.gang e.2.gang).launch == l && (match e.2.sq with
    | x :: _ => x.kind == .xst
    | [] => false)) ||
  s.ops.any fun e => e.2.core == core && e.2.launch == l && (s.sendReady e.2 || (match e.2.instr with
    | .xbcast _ => !e.2.begun && e.2.ahead == 0 && !e.2.stopped && !e.2.paused
    | _ => false))

/-- The core's entry into the exchange network serves a launch in this cycle (R393). -/
def State.xeServes (s : State) (core l : Nat) : Bool := s.serves core 3 l (s.xeReady core)

/-- An LSEND that holds a slot reads its bytes at master class 4 and sends them; where the read fails, the slot is given back. -/
def State.sendBytes (s : State) (r n : Nat) : State :=
  let o := s.op r
  let k := (o.aux.getD 0 0).toNat
  if !o.ready then s
  else match s.engRead (o.ask 4) (o.reg2 0) (o.reg 2).toNat with
    | (s, .fault st _) => s.failOp r st
    | (s, .wait t kd) => s.stallOp r t kd
    | (s, .bytes bs) => ((s.modPort (n / 16) fun q => q.sendSlot (n % 16) k bs).modOp r fun o => { o with unit := 1 }).modLaunch o.launch
        fun x => { x with unacked := x.unacked ++ [(n, k)] }

/-- An accepted LSEND takes the next slot of its channel and sends its bytes, or waits for a credit, for the LSENDs that were
accepted before it, or for the core's entry into the network. -/
def State.trySend (s : State) (r : Nat) : State :=
  let o := s.op r
  match o.channel with
  | none => s
  | some n =>
    let len := (o.reg 2).toNat
    let ch := s.txChan n
    if o.holdsSlot then s.sendBytes r n
    else if o.unit ≠ 0 ∨ !o.ready then s
    else if !(s.ownsPort o.part n && ch.v) then s.resolve r 0x141#32
    else if ch.failed then s.resolve r 0x441#32
    else if len = 0 ∨ len % 8 ≠ 0 ∨ ch.size < len then s.resolve r 0x341#32
    else if s.sendWaits o n || !s.xeServes o.core o.launch then s
    else
      let s := (s.takeTurn o.core 3 o.launch).setTx n { ch with sidx := (ch.sidx + 1) % ch.slots, credits := ch.credits - 1 }
      (s.modOp r fun o => { o with unit := 2, aux := [BitVec.ofNat 32 ch.sidx] }).sendBytes r n

/-- The LSENDs that wait on a channel try again, in the order of their acceptance. -/
def State.retrySends (s : State) (n : Nat) : State :=
  let rs := sortBy (fun (a b : Nat × AsyncOp) => decide (a.2.phase ≤ b.2.phase))
    (s.ops.filter fun e => e.2.channel == some n && e.2.waitsSlot)
  rs.foldl (fun s e => s.trySend e.1) s

/-- An accepted LSEND notes its place in the order of acceptance and tries. -/
def State.startSend (s : State) (r : Nat) : State :=
  let (q, s) := s.fresh
  (s.modOp r fun o => { o with phase := q }).trySend r

/-- A command of the exchange engine may be accepted: an older LSEND of its weave on the same channel has its slot (R388). -/
def State.sendTurn (s : State) (r : Nat) : Bool :=
  match (s.op r).channel with
  | none => true
  | some n => !s.ops.any fun e => decide (e.1 < r) && e.2.wk == (s.op r).wk && e.2.channel == some n && e.2.unit == 0 && !e.2.stopped

/-- LSEND_DEPARTURE: an LSEND that still waits tries again; a non-`.ack` one whose bytes have left resolves. -/
def execLsendDeparture (s : State) : Out :=
  let r := s.ev.a
  let o := s.op r
  .next (match o.channel, o.fx with
    | some _, some x =>
      if o.unit = 0 ∨ o.unit = 2 then s.trySend r else if x.subop.getLsbD 0 then s else s.resolve r 0
    | _, _ => s)

/-- The `.ack` LSENDs that sent a slot of a channel. -/
def ackOf (n k : Nat) (c : Nat) (o : AsyncOp) : Bool :=
  c == n && o.unit == 1 && o.aux == [BitVec.ofNat 32 k] && (match o.fx with
    | some x => x.subop.getLsbD 0
    | none => false)

/-- A send of a slot of a channel is no longer waited for (R138). -/
def State.acked (s : State) (n k : Nat) : State :=
  { s with launches := s.launches.mapVals fun _ l => { l with unacked := l.unacked.erase (n, k) } }

/-- Nor is any send of a channel. -/
def State.ackedAll (s : State) (n : Nat) : State :=
  { s with launches := s.launches.mapVals fun _ l => { l with unacked := l.unacked.filter fun e => e.1 != n } }

/-- FULL_ACKNOWLEDGEMENT (R388). -/
def execFullAcknowledgement (s : State) : Out :=
  let n := 16 * s.ev.a + s.ev.b
  .next ((s.failSends (ackOf n s.ev.c) 0).acked n s.ev.c)

/-- A channel fails: the LSENDs that wait for a credit resolve (R388). -/
def State.failChannel (s : State) (n : Nat) : State :=
  (s.setTx n { s.txChan n with failed := true }).failSends (fun c o => c == n && o.accepted && o.unit == 0) 0x441#32

/-- DISCARD_REPORT (R387). -/
def execDiscardReport (s : State) : Out :=
  let n := 16 * s.ev.a + s.ev.b
  .next (((s.failSends (ackOf n s.ev.c) 0x441#32).acked n s.ev.c).failChannel n)

/-- CREDIT_RECEIVE (R390). -/
def execCreditReceive (s : State) : Out :=
  let n := 16 * s.ev.a + s.ev.b
  let c := s.txChan n
  .next (if !c.v then s else (s.setTx n { c with credits := min c.slots (c.credits + 1) }).retrySends n)

/-! ### Receiving (R389, R390, R391) -/

/-- Writes a payload piece of a slot at the held translations, byte by byte of at most a line, each checked under R160. -/
def State.receivePayload (s : State) (port p buf slot off : Nat) (x : RxBuf) (bs : List Byte) : State :=
  let o := x.base.toNat % 4096 + slot * x.size + off
  let ps := linePieces o bs.length
  (ps.foldl (fun (s, bs) e =>
    let pa := Table.get 0 x.pages (e.1 / 4096) + e.1 % 4096
    let n := 16 * port + buf
    let y := s.rxBuf n
    let dropped (s : State) : State × List Byte := (s.setRx n { y with refused := setBit y.refused slot true }, bs.drop e.2)
    if !s.populated pa then dropped (s.logUnpopulated p pa)
    else match s.refuser (8 * p + 4) pa e.2 .write with
      | some t => dropped (s.logRefusal t (8 * p + 4) pa .write)
      | none => ((s.agentWrite p (8 * p + 4) none pa ((bs : List Byte).take e.2)).countWrite p none pa e.2 (port / 3), bs.drop e.2)) (s, bs)).1

/-- An event of the agenda comes next. -/
def State.next_ (s : State) (i : Instr) (a b c : Nat) : State :=
  { s with agenda := { what := i, args := { a := a, b := b, c := c } } :: s.agenda }

/-- Acts on a flit that was received in order. -/
def State.actFlit (s : State) (port : Nat) (f : List Byte) : State :=
  let h := leNat (f.take 8)
  let buf := bits h 7 4
  let slot := bits h 11 8
  match bits h 3 0 with
  | 0 =>
    let n := 16 * port + buf
    let x := s.rxBuf n
    let len := bits h 23 16
    let off := 8 * bits h 48 32
    match (s.port port).owner with
    | none => s
    | some p =>
      if !x.v || decide (x.slots ≤ slot) || decide (x.size < off + len) then
        if bit h 12 then s.modPort port fun q => q.send 5 buf slot false 0 [] else s
      else
        let s := s.receivePayload port p buf slot off x ((f.drop 8).take len)
        let y := s.rxBuf n
        s.setRx n { y with got := Table.set 0 y.got slot (Table.get 0 y.got slot + len), lastSeen := setBit y.lastSeen slot (y.lastSeen.getLsbD slot || bit h 12) }
  | 1 => s.next_ .creditReceive port buf 0
  | 2 => s.next_ .fullAcknowledgement port buf slot
  | 5 => s.next_ .discardReport port buf slot
  | _ => s

/-- HUAPOL_FLIT_RECEIVE: a flit that fails its CRC, or has a kind that is never sent, is asked for again. -/
def execHuapolFlitReceive (s : State) : Out :=
  let port := s.ev.a
  let f := s.ev.bytes
  let q := s.port port
  let seq : Word := BitVec.ofNat 32 (leNat ((f.drop 240).take 4))
  .next (if !q.up then s
    else if f.length ≠ 256 ∨ (crc64 (f.take 248)).toNat ≠ leNat (f.drop 248) ∨ 6 ≤ bits (leNat (f.take 8)) 3 0 ∨ seq ≠ q.seqIn then
      s.modPort port fun q => q.send 3 0 0 false 0 []
    else (s.modPort port fun q => { q with seqIn := q.seqIn + 1 }).actFlit port f)

/-- SLOT_FULL: every byte of a received slot is visible; its full bit is set and acknowledged. -/
def execSlotFull (s : State) : Out :=
  let n := 16 * s.ev.a + s.ev.b
  let k := s.ev.c
  let x := s.rxBuf n
  .next (if !x.v || !x.lastSeen.getLsbD k then s
    else (s.setRx n { x with
        full := setBit x.full k true
        lens := Table.set 0 x.lens k (if x.refused.getLsbD k then 0xFFFFFFFF#32 else BitVec.ofNat 32 (Table.get 0 x.got k))
        fill := (k + 1) % x.slots
        got := Table.set 0 x.got k 0
        lastSeen := setBit x.lastSeen k false
        refused := setBit x.refused k false }).modPort s.ev.a fun q => q.send 2 s.ev.b k false 0 [])

/-- Weaves that poll one buffer take its slots in the order in which their LPOLLs came (R389): whether it is a weave's turn,
since none that came before it still waits. -/
def State.pollTurn (s : State) (n wk : Nat) : Bool :=
  match (s.rxBuf n).pollq.find? fun k => k == wk || (s.weave k).lanes.any fun e => e.2.hold == some (.slotEmpty n) with
  | some k => k == wk
  | none => true

/-- LPOLL: an acquire where it returns a slot. -/
def execLpoll (w : F3) (s : State) : Out :=
  weaveOnly s fun k =>
    let g := s.gang k.gk
    s.runWord k (xeGate g w isPairS isSorInt isUnused (modsIn w.mods 1 && inDemand g w.dst 2) true [w.a]) fun e act s =>
      onceReal k act s fun s =>
        let n := (e.rd s.ops 0 w.a 0).toNat
        let x := s.rxBuf n
        if !(s.ownsPort k.part n && x.v) then s.answer2 k act w.dst (pair 0xFFFFFFFF#32 2)
        else if x.full.getLsbD x.take && decide (x.taken < x.fulls) && s.pollTurn n k.wk then
          ((s.setRx n { x with pollq := x.pollq.filter (· != k.wk), take := (x.take + 1) % x.slots, taken := x.taken + 1 }).acquire k.core k.part).answer2 k act w.dst
            (pair (BitVec.ofNat 32 x.take) (Table.get 0 x.lens x.take))
        else if w.mods.getLsbD 0 then s.answer2 k act w.dst (pair 0xFFFFFFFF#32 1)
        else (s.setRx n { x with pollq := if x.pollq.contains k.wk then x.pollq else x.pollq ++ [k.wk] }).holdIssue k e (.slotEmpty n)

/-- LRET: a release, so the weave's stores leave first. -/
def execLret (w : F3) (s : State) : Out :=
  weaveOnly s fun k =>
    s.runWord k (xeGate (s.gang k.gk) w isS isSorInt isUnused (w.mods == 0) true [w.a]) fun e act s =>
      onceReal k act s fun s =>
        let n := (e.rd s.ops 0 w.a 0).toNat
        let x := s.rxBuf n
        if !(s.ownsPort k.part n && x.v) then s.answer k act w.dst 2
        else if x.taken = 0 then s.answer k act w.dst 1
        else if !e.w.sq.isEmpty then s.holdIssue k e .queueBusy
        else
          ((s.setRx n { x with full := setBit x.full x.ret false, ret := (x.ret + 1) % x.slots, taken := x.taken - 1 }).modPort (n / 16)
            fun q => q.send 1 (n % 16) 0 false 0 []).answer k act w.dst 0

end Sys2Proof.Machine
end

