-- ==== Sys2Proof/Machine/Queue.lean ====
section
/-! DEFINITION. What leaves a weave's store queue (R122, R132, R224, R319, R346, R381). -/

namespace Sys2Proof.Machine

open Sys2Proof

/-- The distinct lines that the items of an entry write. -/
def SqEntry.lines (e : SqEntry) : List Nat := (e.items.map fun i => i.addr / 64).dedup

/-- One write of a line by an entry: the bytes of its items there (R313, R325). -/
def State.writeLine (s : State) (p : Nat) (e : SqEntry) (line die : Nat) : State :=
  let s := s.countOnly p (64 * line) 2 die
  if e.tag.isSome then s
  else s.lineRequest p (64 * line) true ((e.items.filter fun i => i.addr / 64 == line).foldl
    (fun m i => m ||| lineMask (i.addr % 64) i.bytes.length) 0)

/-- A global entry becomes visible: its lanes' writes in ascending lane order (R123), the L1's held lines, and one line
write for each line. -/
def State.performStores (s : State) (wk : Nat) (e : SqEntry) : State :=
  let g := s.gang (s.weave wk).gang
  let s := e.items.foldl (fun s i =>
    (s.agentWrite g.part (8 * g.part) e.tag i.addr i.bytes).l1Fresh g.core g.part e.tag i.addr i.bytes.length) s
  e.lines.foldl (fun s l => s.writeLine g.part e l (g.core / 256)) s

/-- The effect of an entry that leaves. -/
def State.performEntry (s : State) (wk : Nat) (e : SqEntry) : State :=
  match e.kind with
  | .global => s.performStores wk e
  | .scratch => s.modGang (s.weave wk).gang fun g => e.items.foldl (fun g i => g.spWrite i.addr i.bytes) g
  | .ratom op wide dst ll _ => s.performRatom wk op wide dst ll e.items
  | .dadd at_ => s.performStamp wk false at_ e
  | .dset => s.performStamp wk true false e
  | .xst => s.sendXst wk e

/-- The oldest entry of a weave's store queue leaves: commands that waited behind it come closer, and a barrier that
waited for it may complete. -/
def State.leaveQueue (s : State) (wk : Nat) : State :=
  match (s.weave wk).sq with
  | [] => s
  | e :: rest =>
    let g := s.gang (s.weave wk).gang
    if (e.kind == .xst && !s.xeServes g.core g.launch) || (!e.kind.isScratch && e.items.any fun i => s.sliceWakes i.addr) then s
    else
    let s := if e.kind == .xst then s.takeTurn g.core 3 g.launch else s
    let s := (s.modWeave wk fun w => { w with sq := rest }).performEntry wk e
    let s := { s with ops := s.ops.mapVals fun _ o => if o.wk = wk then { o with ahead := o.ahead - 1 } else o }
    let gk := (s.weave wk).gang
    ((s.gbarCheck gk).cbarCheck gk).deliverPend wk

/-- STORE_QUEUE_LEAVE. -/
def execStoreQueueLeave (s : State) : Out := .next (s.leaveQueue s.ev.a)

end Sys2Proof.Machine
end

