-- ==== Sys2Proof/Machine/Matrix.lean ====
section
/-! DEFINITION. The matrix engine's configuration, weights, accumulator store and drain (spec/10_matrix.md, R238 to R267);
the multiplies stand beside the bonds, in Bonds.lean. -/

namespace Sys2Proof.Machine

open Sys2Proof

/-! ### The order of a gang's matrix operations (R239) -/

/-- What a matrix operation touches, kept in the first five words of `aux`: two ranges of accumulator rows, and a mask of
core planes (bits 0 to 3), scaled streams (16, 17), the codebook register (20), the drain record (21) or everything
(31). -/
def touches (lo n lo2 n2 mask : Nat) : List Word := [lo, n, lo2, n2, mask].map (BitVec.ofNat 32)

def touchAll : Nat := 2 ^ 31
def touchCodebook : Nat := 2 ^ 20
def touchDrain : Nat := 2 ^ 21

/-- A word of `aux` after those five. -/
def AsyncOp.arg (o : AsyncOp) (i : Nat) : Nat := (o.aux.getD (5 + i) 0).toNat

/-- Two operations touch something in common. -/
def AsyncOp.conflicts (a b : AsyncOp) : Bool :=
  let x (o : AsyncOp) (i : Nat) : Nat := (o.aux.getD i 0).toNat
  let meet (i j : Nat) : Bool := decide (x a i < x b j + x b (j + 1)) && decide (x b j < x a i + x a (i + 1))
  bit (x a 4) 31 || bit (x b 4) 31 || Nat.land (x a 4) (x b 4) != 0 || meet 0 0 || meet 0 2 || meet 2 0 || meet 2 2

/-- No earlier operation of the gang at the matrix issue port that is still to finish touches what an operation touches. A
bonded share has its place from its grant on (R239, R255, R281). -/
def State.mxFree (s : State) (o : AsyncOp) : Bool :=
  !s.ops.any fun e => e.2.port != 0 && decide (e.2.port < o.port) && e.2.gang == o.gang && (e.2.engine == .mx || e.2.engine == .bc) &&
    !e.2.stopped && !e.2.paused && o.conflicts e.2

/-- A matrix operation may go on. -/
def State.mxReady (s : State) (r : Nat) : Bool := (s.op r).ready && s.mxFree (s.op r)

/-- An instruction of the MMA family. -/
def isMma : Instr → Bool
  | .mma _ | .mmas _ | .mmal _ | .mmac _ => true
  | _ => false

/-- A report to the handle; without one, the first fault of an MMA-family instruction, and a metadata fault, is kept in the
sticky fault word, and nothing else is (R254). -/
def State.mxReport (s : State) (r : Nat) (st : Word) : State :=
  let o := s.op r
  let kept := !o.named && st != 0 && (isMma o.instr || st &&& 0xFF#32 == 0x2A#32)
  let s := if kept then s.modGang o.gang fun g => if g.sticky = 0 then { g with sticky := st } else g else s
  s.resolve r st

/-- The record of an F3 matrix operation, its values in `aux` and `amat`: accepted as it issues, but for a share of a bonded
round, which is accepted as its core grants it (R239, R255). -/
def State.mxRecord (s : State) (k : Ctx) (i : Instr) (named share : Bool) (aux amat : List Word) : Nat × State :=
  let (r, s) := s.fresh
  (r, { s with ops := s.ops.insert r {
    part := k.part, launch := k.launch, gang := k.gk, wk := k.wk, core := k.core, engine := .mx, instr := i, named := named
    accepted := !share, begun := true, port := if share then 0 else r + 1, aux := aux, amat := amat, tag := (s.gang k.gk).tag } })

/-- The gate of an F3 word of the matrix engine. -/
def mxGate (g : Gang) (w : F3) (dst a b : Operand → Bool) (ok : Bool) (vals : List Operand) : Gate :=
  { legal := f3Legal g w dst a b none false false false ok, engine := .mx, pred := w.pred.toNat, neg := w.neg
    srcs := vals, regs := vregsOf vals }

/-- Accumulator row out of range: 0x13, detail 0x02. -/
def rowFault : Word := 0x213#32

/-! ### Bonds, as the matrix engine sees them (R243, R270) -/

/-- The bond of which a gang is a member. -/
def State.bondOf (s : State) (gk : Nat) : Option (Nat × Bond) := s.bonds.find? fun e => e.2.members.contains gk

/-- The shape that a gang's bond requires: 1 by 1 without one. -/
def State.bondShape (s : State) (gk : Nat) : Nat × Nat :=
  match s.bondOf gk with
  | some (_, b) => if b.state = .none ∨ b.state = .forming then (1, 1) else (b.h, b.w)
  | none => (1, 1)

/-- A share of the gang is bound to a round that has not issued (R283). -/
def State.shareWaits (s : State) (gk : Nat) : Bool :=
  match s.bondOf gk with
  | some (_, b) =>
    let m := b.members.idxOf gk
    (b.shares.find m).isSome || (match b.armed with
      | some x => (x.shares.find m).isSome
      | none => false)
  | none => false

/-! ### TCFG (R243 to R246) -/

/-- A TCW and SPN break R245's rules of format and shape. -/
def tcwBad (h w : Nat) (tcw spn : Nat) (sc0 sc1 : Bool) : Bool :=
  let wf := bits tcw 3 0
  let a0 := bits tcw 7 4
  let a1 := bits tcw 11 8
  let ppc := mxPpc wf
  bits tcw 31 20 != 0 || !mxPairs wf a0 || !mxPairs wf a1 || (spn != 0 && decide (11 ≤ wf)) ||
    decide (32 < h * ppc) || bits tcw 16 12 + 1 != h * ppc || bits tcw 19 17 + 1 != w ||
    (sc0 && (!(a0 == 3 || a0 == 4) || spn != 0)) || (sc1 && (!(a1 == 3 || a1 == 4) || spn != 0))

/-- Reduced service has the formats f16 and bf16 alone (R442). -/
def State.fmtBad (s : State) (tcw : Nat) : Bool :=
  s.status.svc == 1 && (decide (2 < bits tcw 3 0) || decide (2 < bits tcw 7 4) || decide (2 < bits tcw 11 8))

/-- The gang's latest configuration breaks R245. -/
def State.cfgBad (s : State) (gk : Nat) : Bool :=
  let c := (s.gang gk).cfgNew
  let (h, w) := s.bondShape gk
  s.fmtBad c.tcw.toNat || tcwBad h w c.tcw.toNat c.spn (c.off0 != 0xFFFFFFFF#32) (c.off1 != 0xFFFFFFFF#32)

/-- Core planes that no gang has claimed. -/
def Core.freePlanes (c : Core) : List Nat := (List.range 4).filter fun i => (Table.get {} c.planes i).owner.isNone

def Core.setPlane (c : Core) (i : Nat) (p : Plane) : Core := { c with planes := Table.set {} c.planes i p }

def Core.plane (c : Core) (i : Nat) : Plane := Table.get {} c.planes i

/-- Claims and marks planes at issue, so that the gang has `npl`; answers the planes to release (R244). -/
def State.claimPlanes (s : State) (gk npl : Nat) : State × List Nat :=
  let g := s.gang gk
  let have_ := g.planes.length
  let fresh := ((s.core g.core).freePlanes).take (npl - have_)
  let drop := g.planes.drop npl
  let s := s.modCore g.core fun c =>
    let c := fresh.foldl (fun c i => c.setPlane i { owner := some gk }) c
    drop.foldl (fun c i => c.setPlane i { c.plane i with releasing := true }) c
  (s.modGang gk fun g => { g with planes := g.planes.take npl ++ fresh }, drop)

/-- TCFG.cfg. -/
def execTcfgCfg (w : FX) (s : State) : Out :=
  weaveOnly s fun k =>
    let npl := (w.imm.extractLsb' 0 3).toNat
    let spn := (w.imm.extractLsb' 3 3).toNat
    s.runWord k (fxGate (s.gang k.gk) w .mx 5 (w.subop == 0 && decide (npl ≤ 4) && decide (spn ≤ 4) && w.imm.extractLsb' 6 18 == 0) false) fun e act s =>
      let d (i : Nat) : Word := e.dreg w i
      let g := s.gang k.gk
      let (h, bw) := s.bondShape k.gk
      if s.fmtBad (d 0).toNat || tcwBad h bw (d 0).toNat spn (d 1 != 0xFFFFFFFF#32) (d 3 != 0xFFFFFFFF#32)
          || decide (g.planes.length + (s.core k.core).freePlanes.length < npl) || s.shareWaits k.gk then
        s.fault k act 0x28#32 0
      else
        let t := s.command k e w (.tcfgCfg w) .mx fun o =>
          { o with aux := touches 0 0 0 0 touchAll ++ [d 0, BitVec.ofNat 32 npl, BitVec.ofNat 32 spn, d 1, d 2, d 3, d 4] }
        match s.issuedOp t with
        | none => t
        | some r =>
          let (t, drop) := t.claimPlanes k.gk npl
          (t.modGang k.gk fun g => { g with cfgNew := { g.cfgNew with
            tcw := d 0, npl := npl, spn := spn, off0 := d 1, first0 := d 2, off1 := d 3, first1 := d 4 } }).modOp r
              fun o => { o with amat := drop.map (BitVec.ofNat 32) }

/-- TCFG.tile. -/
def execTcfgTile (w : FX) (s : State) : Out :=
  weaveOnly s fun k =>
    let j := (w.imm.extractLsb' 0 3).toNat
    let off : Word := ((w.imm.extractLsb' 3 12).setWidth 32) <<< 6
    s.runWord k (fxGate (s.gang k.gk) w .mx 0 (w.dbase == 0 && w.imm.extractLsb' 15 9 == 0 && decide (j < (s.gang k.gk).treg)) false) fun e _ s =>
      let t := s.command k e w (.tcfgTile w) .mx fun o =>
        { o with aux := touches 0 0 0 0 touchAll ++ [BitVec.ofNat 32 j, off] }
      match s.issuedOp t with
      | none => t
      | some _ => t.modGang k.gk fun g => { g with cfgNew := { g.cfgNew with tiles := Table.set 0 g.cfgNew.tiles j off } }

/-- TCFG_EFFECT (R244): once every earlier matrix operation of the gang has finished. -/
def State.tcfgEffect (s : State) (r : Nat) : State :=
  let o := s.op r
  if !s.mxReady r then s
  else match o.instr with
    | .tcfgCfg _ =>
      let a (i : Nat) : Word := o.aux.getD (5 + i) 0
      let s := s.modCore o.core fun c => o.amat.foldl (fun c i => c.setPlane i.toNat {}) c
      (s.modGang o.gang fun g => { g with
        cfg := { g.cfg with tcw := a 0, npl := o.arg 1, spn := o.arg 2, off0 := a 3, first0 := a 4, off1 := a 5, first1 := a 6 }
        str0 := { off := a 3, b0 := a 4, ctr := a 4 }
        str1 := { off := a 5, b0 := a 6, ctr := a 6 } }).resolve r 0
    | .tcfgTile _ =>
      (s.modGang o.gang fun g => { g with cfg := { g.cfg with tiles := Table.set 0 g.cfg.tiles (o.arg 0) (o.aux.getD 6 0) } }).resolve r 0
    | _ => s

/-- TCFG_EFFECT. -/
def execTcfgEffect (s : State) : Out := .next (s.tcfgEffect s.ev.a)

/-- What TCFGRD reads (R246). -/
def Gang.tcfgWord (g : Gang) (sel : Nat) : Word :=
  let c := g.cfgNew
  match sel with
  | 0 => c.tcw
  | 1 => BitVec.ofNat 32 (c.npl + 8 * c.spn)
  | 2 => c.off0
  | 3 => c.first0
  | 4 => c.off1
  | 5 => c.first1
  | _ => if sel - 6 < min 8 g.treg then Table.get 0 c.tiles (sel - 6) else 0

/-- TCFGRD. -/
def execTcfgrd (w : F3) (s : State) : Out :=
  weaveOnly s fun k =>
    s.runWord k (mxGate (s.gang k.gk) w isS isSorInt isUnused (w.mods == 0) [w.a]) fun e act s =>
      onceReal k act s fun s => s.answer k act w.dst ((s.gang k.gk).tcfgWord (e.rd s.ops 0 w.a 0).toNat)

/-! ### Weights (R247 to R249) -/

/-- WLATCH. -/
def execWlatch (w : FX) (s : State) : Out :=
  weaveOnly s fun k =>
    let p := (w.imm.extractLsb' 0 2).toNat
    let j := (w.imm.extractLsb' 2 3).toNat
    s.runWord k (fxGate (s.gang k.gk) w .mx 0 (w.dbase == 0 && w.subop == 0 && w.imm.extractLsb' 5 19 == 0 && decide (j < (s.gang k.gk).treg)) false)
      fun e act s =>
        let g := s.gang k.gk
        let c := g.cfgNew
        let wf := bits c.tcw.toNat 3 0
        let off := (Table.get 0 c.tiles j).toNat
        match g.planes[p]? with
        | none => s.fault k act 0x28#32 0
        | some i =>
          if s.cfgBad k.gk then s.fault k act 0x28#32 0
          else if g.spSize < off + tileSpan wf c.spn then s.fault k act 0x13#32 (BitVec.ofNat 64 off)
          else
            let mask := 2 ^ i + if wf = 11 then touchCodebook else 0
            let t := s.command k e w (.wlatch w) .mx fun o =>
              { o with aux := touches 0 0 0 0 mask ++ [BitVec.ofNat 32 i, BitVec.ofNat 32 off, c.tcw, BitVec.ofNat 32 c.spn] }
            match s.issuedOp t with
            | none => t
            | some _ => t.modCore k.core fun x => x.setPlane i { x.plane i with issued := true, iwfmt := wf, ispn := c.spn }

/-- The scratchpad bytes [o, o+n) as a plane's table. -/
def Gang.tileBytes (g : Gang) (o n : Nat) : Table Byte :=
  (List.range n).foldl (fun t i => Table.set 0 t i (Table.get 0 g.scratch (o + i))) []

/-- The lowest n·NG + g of a sparse plane whose metadata fails (R112, R248). -/
def Plane.badGroup (p : Plane) : Option Nat :=
  let ng := sparseGroups p.wfmt p.spn
  (List.range (32 * ng)).find? fun x => metaBad (sparseN p.spn) (p.meta_ (x / ng) (x % ng))

/-- WLATCH in its turn: it latches the plane, or, where it was cancelled, leaves it unlatched. -/
def State.latchPlane (s : State) (r : Nat) : State :=
  let o := s.op r
  let i := o.arg 0
  if o.state ≠ .pending then
    (s.modCore o.core fun c => c.setPlane i { c.plane i with latched := false }).modOp r fun o => { o with stopped := true }
  else
    let g := s.gang o.gang
    let wf := bits (o.arg 2) 3 0
    let old := (s.core o.core).plane i
    let p : Plane := { old with
      latched := true, faulted := false, fgroup := 0, wfmt := wf, spn := o.arg 3, rk := bits (o.arg 2) 16 12, cb := bits (o.arg 2) 19 17
      codebook := if wf = 11 then g.codebook else []
      bytes := g.tileBytes (o.arg 1) (tileSpan wf (o.arg 3)) }
    let p := match p.badGroup with
      | some x => { p with faulted := true, fgroup := x }
      | none => p
    (s.modCore o.core fun c => c.setPlane i p).mxReport r (if p.faulted then BitVec.ofNat 32 (0x2A + p.fgroup * 256) else 0)

/-- CBKLD. -/
def execCbkld (w : FX) (s : State) : Out :=
  weaveOnly s fun k =>
    let off := w.imm.toNat
    s.runWord k (fxGate (s.gang k.gk) w .mx 0 (w.dbase == 0 && w.subop == 0) false) fun e act s =>
      if off % 32 ≠ 0 then s.fault k act 0x12#32 (BitVec.ofNat 64 off)
      else if (s.gang k.gk).spSize < off + 32 then s.fault k act 0x13#32 (BitVec.ofNat 64 off)
      else s.command k e w (.cbkld w) .mx fun o => { o with aux := touches 0 0 0 0 touchCodebook ++ [BitVec.ofNat 32 off] }

/-- A codebook of 32 bytes. -/
def codebookOf (b : List Byte) : Table Half :=
  (List.range 16).foldl (fun t i => Table.set 0 t i (BitVec.ofNat 16 (leNat ((b.drop (2 * i)).take 2)))) []

def codebookBytes (t : Table Half) : List Byte := (List.range 16).flatMap fun i => bytesOf 2 (Table.get 0 t i).toNat

/-! ### Accumulator rows (R257, R258) -/

/-- ACCZ. -/
def execAccz (w : FX) (s : State) : Out :=
  weaveOnly s fun k =>
    let r0 := (w.imm.extractLsb' 0 11).toNat
    let n := (w.imm.extractLsb' 11 11).toNat + 1
    s.runWord k (fxGate (s.gang k.gk) w .mx 0 (w.dbase == 0 && w.subop == 0 && w.imm.extractLsb' 22 2 == 0) false) fun e act s =>
      if (s.gang k.gk).accr < r0 + n then s.fault k act rowFault 0
      else s.command k e w (.accz w) .mx fun o => { o with aux := touches r0 n 0 0 0 }

/-- The rows of unit `u` of a range: those of one region (R257). -/
def unitRows (r0 n u : Nat) : List Nat :=
  let lo := max r0 (32 * (r0 / 32 + u))
  let hi := min (r0 + n) (32 * (r0 / 32 + u + 1))
  (List.range (hi - lo)).map (lo + ·)

/-- The units of a range. -/
def unitCount (r0 n : Nat) : Nat := (r0 + n - 1) / 32 - r0 / 32 + 1

def Gang.entry (g : Gang) (row col : Nat) : BitVec 48 := Table.get 0 g.acc (32 * row + col)
def Gang.setEntry (g : Gang) (row col : Nat) (e : BitVec 48) : Gang := { g with acc := Table.set 0 g.acc (32 * row + col) e }

/-- Writes whole rows: `f` gives the entry of a row and column. -/
def Gang.setRows (g : Gang) (rows : List Nat) (f : Nat → Nat → BitVec 48) : Gang :=
  rows.foldl (fun g r => (List.range 32).foldl (fun g c => g.setEntry r c (f r c)) g) g

/-- A unit of an operation over rows is done; after the last it reports 0. -/
def State.unitDone (s : State) (r : Nat) : State :=
  let o := s.op r
  let n := unitCount (o.aux.getD 0 0).toNat (o.aux.getD 1 0).toNat
  let s := s.modOp r fun o => { o with unit := o.unit + 1 }
  if n ≤ o.unit + 1 then s.mxReport r 0 else s

/-- The register writes of an ACCRD (R258): F read out, or the whole entry. -/
def accWrites (g : Gang) (row : Nat) (act : BitVec 32) (dst : Operand) (ent : Bool) (gens : Option (List Word)) : List LLWrite :=
  (lanesOf act).flatMap fun l =>
    let e := g.entry row l
    if ent then [{ dst := dst, lane := l, val := e.setWidth 32 }, { dst := nextReg dst 1, lane := l, val := (e.extractLsb' 32 16).setWidth 32 }]
    else [{ dst := dst, lane := l, val := readOut (gens.map fun gs => gs.getD l 0) e }]

/-- ACCRD: after the earlier operations on its row, long-latency. -/
def execAccrd (w : F3) (s : State) : Out :=
  weaveOnly s fun k =>
    let g := s.gang k.gk
    let ent := w.mods.getLsbD 3
    let sr := (w.mods.extractLsb' 0 3).toNat == 4
    let ok := !w.mods.getLsbD 4 && (if ent then w.mods.extractLsb' 0 3 == 0 && isPair w.dst && inDemand g w.dst 2 else sr || w.mods.extractLsb' 0 3 == 0)
    let regs := w.dst :: if ent then [nextReg w.dst 1] else []
    s.runWord k { mxGate g w isV isSorInt isUnused ok [w.a] with drops := vregsOf regs } fun e act s =>
      onceReal k act s fun s =>
        let row := (e.rd s.ops 0 w.a 0).toNat
        if g.accr ≤ row then s.fault k act rowFault 0
        else
          let gens := (List.range 32).map fun l => genStep (e.w.lane l).gen
          let s := if sr then s.modWeave k.wk fun x => x.modLanes act fun l => { l with gen := genStep l.gen } else s
          let srG := if sr then some gens else none
          let o : AsyncOp := { gang := k.gk, engine := .mx, aux := touches row 1 0 0 0, port := s.nextKey + 1 }
          let (free, s) := s.takeFree 128
          if s.mxFree o then
            (s.modWeave k.wk fun x => x.issueLL free k.run (accWrites (s.gang k.gk) row act w.dst ent srG) false 0 true).advance k act
          else
            let id := (s.weave k.wk).nextId
            let none_ := (lanesOf act).flatMap fun l => regs.map fun d => { dst := d, lane := l, val := 0 }
            let s := s.modWeave k.wk fun x => x.issueLL free k.run none_ false 0 false
            (s.mxRecord k (.accrd w) false false (o.aux ++ [BitVec.ofNat 32 id, act]) (srG.getD [])).2.advance k act

/-- A deferred ACCRD reads its row: its result arrives (R65). -/
def State.accrdNow (s : State) (r : Nat) (w : F3) : State :=
  let o := s.op r
  let g := s.gang o.gang
  let ws := accWrites g (o.aux.getD 0 0).toNat (o.aux.getD 6 0) w.dst (w.mods.getLsbD 3) (if o.amat.isEmpty then none else some o.amat)
  let (free, s) := s.takeFree 64
  (s.modWeave o.wk fun x => x.deliverLL (o.arg 0) free ws).resolve r 0

/-- Writes part of a row: the lanes of a mask, from the words of two registers. -/
def Gang.writeRow (g : Gang) (row : Nat) (m : BitVec 32) (ent : Bool) (vals : List Word) : Gang :=
  (lanesOf m).foldl (fun g l =>
    let hi : BitVec 16 := if ent then (vals.getD (32 + l) 0).setWidth 16 else 0
    g.setEntry row l ((hi ++ vals.getD l 0 : BitVec 48))) g

/-- ACCWR. -/
def execAccwr (w : F3) (s : State) : Out :=
  weaveOnly s fun k =>
    let g := s.gang k.gk
    let ent := w.mods.getLsbD 3
    let ok := w.mods &&& 0b10111#5 == 0 && (!ent || (isPair w.dst && inDemand g w.dst 2))
    let vals := if ent then [w.dst, nextReg w.dst 1, w.a] else [w.dst, w.a]
    s.runWord k (mxGate g w isV isSorInt isUnused ok vals) fun e act s =>
      onceReal k act s fun s =>
        let row := (e.rd s.ops 0 w.a 0).toNat
        let m := act &&& ~~~k.helpers
        if g.accr ≤ row then s.fault k act rowFault 0
        else
          let data := (List.range 32).map (e.rd s.ops 1 w.dst) ++ (if ent then (List.range 32).map (e.rd s.ops 5 (nextReg w.dst 1)) else [])
          let o : AsyncOp := { gang := k.gk, engine := .mx, aux := touches row 1 0 0 0, port := s.nextKey + 1 }
          if s.mxFree o then (s.modGang k.gk fun g => g.writeRow row m ent data).advance k act
          else (s.mxRecord k (.accwr w) false false (o.aux ++ [m, if ent then 1 else 0]) data).2.advance k act

/-! ### ACCLD and ACCST (R259, R260) -/

/-- Bytes of an element in a memory format. -/
def accFmtBytes (f : Nat) : Nat := match f with | 0 => 4 | 1 => 2 | _ => 8

/-- The rows field of a descriptor word: first row, rows, and whether its reserved bits are zero. -/
def rowsField (d : Word) : Nat × Nat × Bool := (bits d.toNat 10 0, bits d.toNat 21 11 + 1, bits d.toNat 31 22 == 0)

/-- Issues an ACCLD or ACCST: the address keeps the alignment of an element, the pitch is a multiple of 8
(log entry 52). -/
def State.issueAcc (s : State) (k : Ctx) (e : Env) (act : BitVec 32) (w : FX) (i : Instr) : State :=
  let d (j : Nat) : Word := e.dreg w j
  let a := pair (d 0) (d 1)
  let (r0, n, ok) := rowsField (d 3)
  let ctx := w.subop == 3
  if !ok then s.fault k act 0x01#32 0
  else if a.toNat % accFmtBytes w.subop.toNat ≠ 0 then s.fault k act 0x12#32 a
  else if !ctx && (d 2).toNat % 8 != 0 then s.fault k act 0x12#32 ((d 2).setWidth 64)
  else if !ctx && decide ((s.gang k.gk).accr < r0 + n) then s.fault k act rowFault 0
  else s.command k e w i .mx fun o => { o with aux := if ctx then touches 0 0 0 0 touchAll else touches r0 n 0 0 0 }

/-- The gate of a command that is privileged in its context form. -/
def accGate (g : Gang) (w : FX) (n : Nat) (ok : Bool) : Gate :=
  { fxGate g w .mx n (ok && decide (w.subop.toNat ≤ 3)) false with privileged := w.subop == 3 }

/-- ACCLD. -/
def execAccld (w : FX) (s : State) : Out :=
  weaveOnly s fun k =>
    s.runWord k (accGate (s.gang k.gk) w 4 (w.imm == 0)) fun e act s => s.issueAcc k e act w (.accld w)

/-- ACCST. -/
def execAccst (w : FX) (s : State) : Out :=
  weaveOnly s fun k =>
    let rnd := (w.imm.extractLsb' 0 3).toNat
    let ok := w.imm.extractLsb' 3 21 == 0 && (rnd == 0 || (rnd == 4 && decide (w.subop.toNat ≤ 1)))
    s.runWord k (accGate (s.gang k.gk) w 6 ok) fun e act s => s.issueAcc k e act w (.accst w)

/-- The element entry that memory bytes give. -/
def loadEntry (f : Nat) (b : List Byte) : BitVec 48 :=
  match f with
  | 0 => entryOf (BitVec.ofNat 32 (leNat b))
  | 1 => entryOf (widen .bf16 (leNat b))
  | _ => BitVec.ofNat 48 (leNat b)

/-- A read that failed or waits ends or stalls its command. -/
def State.gotStop (s : State) (r : Nat) (g : Got) : State :=
  match g with
  | .fault st _ => s.mxReport r st
  | .wait t k => s.stallOp r t k
  | .bytes _ => s

/-- Reads several ranges, in order. -/
def State.engReadAll (s : State) (q : EngAsk) (rs : List (Nat × Nat)) : State × Got :=
  rs.foldl (fun (s, g) e => match g with
    | .bytes b => match s.engRead q (e.1 % 2 ^ 64) e.2 with
      | (s, .bytes c) => (s, .bytes (b ++ c))
      | x => x
    | g => (s, g)) (s, .bytes [])

/-- Writes several ranges: every place is checked before any byte is written. -/
def State.engWriteAll (s : State) (q : EngAsk) (ws : List (Nat × List Byte)) : State × Got :=
  let (s, g) := ws.foldl (fun (s, g) e => match g with
    | .inl ps => match s.engPlaces q (e.1 % 2 ^ 64) e.2.length .write with
      | (s, .inl p) => (s, .inl (ps ++ [(p, e.2)]))
      | (s, .inr g) => (s, .inr g)
    | g => (s, g)) ((s, .inl []) : State × (List (List (Nat × Nat) × List Byte) ⊕ Got))
  match g with
  | .inl ps => (ps.foldl (fun s e => s.engPut q e.1 e.2) s, .bytes [])
  | .inr g => (s, g)

/-- A unit of ACCLD: the rows of one region. -/
def State.accldUnit (s : State) (r : Nat) (f : Nat) : State :=
  let o := s.op r
  let r0 := (o.aux.getD 0 0).toNat
  let rows := unitRows r0 (o.aux.getD 1 0).toNat o.unit
  let n := accFmtBytes f
  match s.engReadAll (o.ask 2) (rows.map fun x => (o.reg2 0 + (o.reg 2).toNat * (x - r0), 32 * n)) with
  | (s, .bytes b) =>
    let lo := rows.headD 0
    (s.modGang o.gang fun g => g.setRows rows fun x c => loadEntry f ((b.drop (n * (32 * (x - lo) + c))).take n)).unitDone r
  | (s, g) => s.gotStop r g

/-- The counter of a region: the largest ABS of its entries (R114). -/
def Gang.regionAbs (g : Gang) (region : Nat) : Nat :=
  (List.range 1024).foldl (fun m i => max m (bits (g.entry (32 * region + i / 32) (i % 32)).toNat 47 40)) 0

/-- Reads out the columns of a row from `c0` to `c1` for storing: the lanes' generators after it, and the bytes (R108,
R259). -/
def storeRow (g : Gang) (row c0 c1 : Nat) (f : Nat) (sr wide : Bool) (gens : List Word) : List Word × List Byte :=
  ((List.range (c1 - c0)).map (c0 + ·)).foldl (fun (gs, b) c =>
    let e := g.entry row c
    let g1 := genStep (gs.getD c 0)
    let g2 := genStep g1
    let x := readOut (if sr then some g1 else none) e
    let step (h : Word) : List Word := if sr then gs.set c h else gs
    if f = 2 then (gs, b ++ bytesOf 8 e.toNat)
    else if f = 0 ∨ wide = true then (step g1, b ++ bytesOf 4 x.toNat)
    else (step g2, b ++ bytesOf 2 (toBf16 (if sr then some g2 else none) x))) (gens, [])

/-- The parts of a row of 32 BF16 elements from an address on that lie in one region each, as (first column, column past the
last, region): a row may cross into the next region (R260). -/
def ShapeRec.rowParts (x : ShapeRec) (a : Nat) : List (Nat × Nat × Nat) :=
  let at_ (c : Nat) : Nat := x.regionAt ((a + 2 * c) % 2 ^ 64)
  let cut := ((List.range 32).find? fun c => at_ c != at_ 0).getD 32
  if cut = 32 then [(0, 32, at_ 0)] else [(0, cut, at_ 0), (cut, 32, at_ cut)]

/-- The weave's generators, and their writing. -/
def Weave.gens (w : Weave) : List Word := (List.range 32).map fun l => (w.lane l).gen
def Weave.setGens (w : Weave) (gs : List Word) : Weave :=
  (List.range 32).foldl (fun w l => if (w.lane l).gen = gs.getD l 0 then w else w.modLane l fun x => { x with gen := gs.getD l 0 }) w

/-- Marks regions of a record promoted: their map bits, then PROM (R260, R264). Their places have been checked. -/
def State.markPromoted (s : State) (q : EngAsk) (rec_ : Nat) (x : ShapeRec) (is : List Nat) (prom : Bool) : State :=
  let s := is.foldl (fun s i => (s.engBit q (x.mapBit i).1 (x.mapBit i).2 true).1) s
  if is.isEmpty || !prom then s else (s.engBit q (rec_ + 1) 1 true).1

/-- The places of the map bits and of PROM can be written. -/
def State.canMark (s : State) (q : EngAsk) (rec_ : Nat) (x : ShapeRec) (is : List Nat) : State × Got :=
  if is.isEmpty then (s, .bytes [])
  else (is.map (fun i => (x.mapBit i).1) ++ [rec_ + 1]).foldl (fun (s, g) a => match g with
    | .bytes _ => match s.engPlaces q (a % 2 ^ 64) 1 .rmw with
      | (s, .inl _) => (s, .bytes [])
      | (s, .inr g) => (s, g)
    | g => (s, g)) (s, .bytes [])

/-- A unit of ACCST: the rows of one region of the accumulator; each element stands where its own region of the record is
stored, promoted where the record says so (R260). -/
def State.accstUnit (s : State) (r : Nat) (f : Nat) (sr : Bool) : State :=
  let o := s.op r
  let q := o.ask 2
  let r0 := (o.aux.getD 0 0).toNat
  let rows := unitRows r0 (o.aux.getD 1 0).toNat o.unit
  let g := s.gang o.gang
  let rec_ := o.reg2 4
  let at_ (x : Nat) : Nat := (o.reg2 0 + (o.reg 2).toNat * (x - r0)) % 2 ^ 64
  let parts (x : Option ShapeRec) : List (Nat × Nat × Nat × Nat) := rows.flatMap fun row => match x with
    | some x => (x.rowParts (at_ row)).map fun e => (row, e)
    | none => [(row, 0, 32, 0)]
  let store (s : State) (ps : List (Nat × Nat × Nat × Nat)) (wide : Nat → Bool) (x : ShapeRec) (new_ : List Nat) : State :=
    let (gens, ws) := ps.foldl (fun (gs, ws) (row, c0, c1, i) =>
      let a := (at_ row + c0 * accFmtBytes f) % 2 ^ 64
      let (gs, b) := storeRow g row c0 c1 f sr (wide i) gs
      (gs, ws ++ [(if wide i then x.f32At a else a, b)])) ((s.weave o.wk).gens, ([] : List (Nat × List Byte)))
    match s.canMark q rec_ x new_ with
    | (s, .bytes _) => match s.engWriteAll q ws with
      | (s, .bytes _) => ((s.modWeave o.wk (·.setGens gens)).markPromoted q rec_ x new_ true).unitDone r
      | (s, g) => s.gotStop r g
    | (s, g) => s.gotStop r g
  if f ≠ 1 ∨ rec_ = 0 then store s (parts none) (fun _ => false) (shapeOf []) []
  else match s.readShape q rec_ with
    | (s, .fault st) => s.mxReport r st
    | (s, .wait t) => s.stallOp r t .read
    | (s, .shape x) =>
      if x.fmt ≠ 2 then store s (parts none) (fun _ => false) x []
      else
        let above := decide (x.athr < g.regionAbs (rows.headD 0 / 32))
        let ps := parts (some x)
        let regions := (ps.map (·.2.2.2)).dedup
        let (s, got) := regions.foldl (fun (s, got) i => match got with
          | .inl ps => match s.isPromoted q x i with
            | (s, .inl b) => (s, .inl (if b then ps ++ [i] else ps))
            | (s, .inr g) => (s, .inr g)
          | g => (s, g)) ((s, .inl []) : State × (List Nat ⊕ Got))
        match got with
        | .inr g => s.gotStop r g
        | .inl old =>
          let new_ := if above then regions.filter fun i => !old.contains i else []
          store s ps (old ++ new_).contains x new_

/-! ### The context block (R265) -/

def Stream.bytes (t : Stream) : List Byte :=
  bytesOf 4 t.off.toNat ++ bytesOf 4 t.b0.toNat ++ bytesOf 4 (bits t.ctr.toNat 30 0 + if t.skewed then 2 ^ 31 else 0)

def streamOf (b : List Byte) : Stream :=
  let w (i : Nat) : Nat := leNat ((b.drop (4 * i)).take 4)
  { off := BitVec.ofNat 32 (w 0), b0 := BitVec.ofNat 32 (w 1), ctr := BitVec.ofNat 32 (bits (w 2) 30 0), skewed := bit (w 2) 31 }

/-- The drain record word (R266). -/
def DrainRec.word (d : DrainRec) : Word :=
  let b (x : Bool) (i : Nat) : Nat := if x then 2 ^ i else 0
  BitVec.ofNat 32 (b d.valid 0 + b d.eager 1 + b d.known 2 + b d.nonfin 3 + b d.prom 4 + b d.setProm 5 + d.shards % 128 * 2 ^ 16)

/-- A plane's part of the block. -/
def Plane.block (p : Plane) : List Byte :=
  let b (x : Bool) (i : Nat) : Nat := if x then 2 ^ i else 0
  bytesOf 8 (p.wfmt + p.spn * 16 + p.rk * 2 ^ 8 + p.cb * 2 ^ 13 + b p.latched 16 + b p.faulted 17 + p.fgroup * 2 ^ 32) ++
  List.replicate 24 0 ++ codebookBytes p.codebook ++ (List.range 12288).map fun i => Table.get 0 p.bytes i

/-- The unfinished DRAIN of a gang: its next shard and the verdict. -/
def State.drainState (s : State) (gk : Nat) : Nat × Nat :=
  match s.ops.find? fun e => e.2.gang == gk && !e.2.stopped && (match e.2.instr with
    | .drain _ => true
    | _ => false) with
  | some e => (e.2.unit, e.2.phase)
  | none => (0, 0)

/-- The core planes that a gang has claimed, in claim order: its own, and those that a TCFG which has not taken effect is to
release (R244). -/
def State.claimed (s : State) (gk : Nat) : List Nat :=
  let g := s.gang gk
  g.planes ++ (List.range 4).filter fun i =>
    let p := (s.core g.core).plane i
    p.owner == some gk && p.releasing && !g.planes.contains i

/-- The engine's context block of a gang: 0xC200 bytes. The configuration is the one that the latest TCFG set, as TCFGRD
reads it. -/
def State.contextBlock (s : State) (gk : Nat) : List Byte :=
  let g := s.gang gk
  let c := s.core g.core
  bytesOf 4 g.cfgNew.tcw.toNat ++ bytesOf 4 (g.cfgNew.npl + 8 * g.cfgNew.spn) ++ g.str0.bytes ++ g.str1.bytes ++
  ((List.range 8).flatMap fun j => bytesOf 4 (Table.get 0 g.cfgNew.tiles j).toNat) ++
  bytesOf 4 g.sticky.toNat ++ bytesOf 4 g.drain.word.toNat ++ bytesOf 4 (s.drainState gk).1 ++ bytesOf 4 (s.drainState gk).2 ++
  List.replicate 48 (0 : Byte) ++ codebookBytes g.codebook ++ List.replicate 96 (0 : Byte) ++
  (List.range 4).flatMap fun (j : Nat) => match (s.claimed gk)[j]? with
    | some i => (c.plane i).block
    | none => List.replicate 0x3040 (0 : Byte)

/-- The plane that a part of the block gives. -/
def planeOf (gk : Nat) (b : List Byte) : Plane :=
  let h := leNat (b.take 8)
  let t : Table Byte := ((b.drop 64).take 12288).zipIdx.foldl (fun t e => Table.set 0 t e.2 e.1) []
  { owner := some gk, issued := bit h 16, iwfmt := bits h 3 0, ispn := bits h 7 4, latched := bit h 16, faulted := bit h 17
    fgroup := bits h 63 32, wfmt := bits h 3 0, spn := bits h 7 4, rk := bits h 12 8, cb := bits h 15 13
    codebook := codebookOf ((b.drop 32).take 32), bytes := t }

/-- A command that stands in a save names its planes by their places on another core. -/
def AsyncOp.movePlanes (o : AsyncOp) (f : Nat → Nat) : AsyncOp :=
  let m := (o.aux.getD 4 0).toNat
  let moved : Nat := m / 16 * 16 + (List.range 4).foldl (fun t i => if bit m i then Nat.lor t (2 ^ f i) else t) 0
  match o.instr with
  | .mma _ | .mmas _ | .mmal _ | .mmac _ | .wlatch _ =>
    { o with aux := (o.aux.set 4 (BitVec.ofNat 32 moved)).set 5 (BitVec.ofNat 32 (f (o.arg 0))) }
  | .tcfgCfg _ => { o with amat := o.amat.map fun i => BitVec.ofNat 32 (f i.toNat) }
  | _ => o

/-- What the issued matrix commands of a gang that have still to act have set already: a TCFG its streams, a WLATCH its
plane's formats (R246, R251). -/
def State.reissue (s : State) (gk : Nat) : State :=
  s.ops.foldl (fun s e =>
    let o := e.2
    if o.gang ≠ gk ∨ o.stopped = true then s
    else match o.instr with
      | .tcfgCfg _ =>
        let a (i : Nat) : Word := o.aux.getD (5 + i) 0
        s.modGang gk fun g => { g with cfgNew := { g.cfgNew with off0 := a 3, first0 := a 4, off1 := a 5, first1 := a 6 } }
      | .wlatch _ => s.modCore o.core fun c =>
        c.setPlane (o.arg 0) { c.plane (o.arg 0) with issued := true, iwfmt := bits (o.arg 2) 3 0, ispn := o.arg 3 }
      | _ => s) s

/-- Restores a context block: false where a plane cannot be claimed. The planes are claimed again, those too that a saved
TCFG is still to release; the drain record keeps what the block does not hold (R265). -/
def State.restoreBlock (s : State) (gk : Nat) (b : List Byte) : State × Bool :=
  let w (o : Nat) : Nat := leNat ((b.drop o).take 4)
  let npl := bits (w 4) 2 0
  let old := (s.gang gk).oldPlanes
  let all := max npl old.length
  if (s.gang gk).planes.length + (s.core (s.gang gk).core).freePlanes.length < all then (s, false)
  else
    let (s, drop) := s.claimPlanes gk all
    let s := s.modCore (s.gang gk).core fun c => drop.foldl (fun c i => c.setPlane i {}) c
    let now := (s.gang gk).planes
    let s := s.modCore (s.gang gk).core fun c => now.zipIdx.foldl (fun c e =>
      c.setPlane e.1 { planeOf gk ((b.drop (0x100 + 0x3040 * e.2)).take 0x3040) with releasing := decide (npl ≤ e.2) }) c
    let place (i : Nat) : Nat := if old.contains i then now.getD (old.idxOf i) i else i
    let s := { s with ops := s.ops.mapVals fun _ (o : AsyncOp) =>
      if o.gang ≠ gk ∨ o.stopped = true then o else o.movePlanes place }
    let s0 := streamOf ((b.drop 8).take 12)
    let s1 := streamOf ((b.drop 20).take 12)
    let cfg : TileCfg := { tcw := BitVec.ofNat 32 (w 0), npl := npl, spn := bits (w 4) 5 3, off0 := s0.off, first0 := s0.b0, off1 := s1.off, first1 := s1.b0,
                           tiles := (List.range 8).foldl (fun t j => Table.set 0 t j (BitVec.ofNat 32 (w (0x20 + 4 * j)))) [] }
    let d := w 0x44
    ((s.modGang gk fun g => { g with
      planes := now.take npl, oldPlanes := [], cfg := cfg, cfgNew := cfg, str0 := s0, str1 := s1, sticky := BitVec.ofNat 32 (w 0x40)
      codebook := codebookOf ((b.drop 0x80).take 32)
      drain := { g.drain with valid := bit d 0, eager := bit d 1, known := bit d 2, nonfin := bit d 3, prom := bit d 4, setProm := bit d 5, shards := bits d 22 16 } }).reissue gk, true)

/-- ACCST and ACCLD of the context block. -/
def State.accContext (s : State) (r : Nat) (load : Bool) : State :=
  let o := s.op r
  if load then match s.engRead (o.ask 2) (o.reg2 0) 0xC200 with
    | (s, .bytes b) => match s.restoreBlock o.gang b with
      | (s, true) => s.mxReport r 0
      | (s, false) => s.mxReport r 0x28#32
    | (s, g) => s.gotStop r g
  else match s.engWrite (o.ask 2) (o.reg2 0) (s.contextBlock o.gang) with
    | (s, .bytes _) => s.mxReport r 0
    | (s, g) => s.gotStop r g

/-! ### ACCPROM (R261) -/

/-- ACCPROM. -/
def execAccprom (w : FX) (s : State) : Out :=
  weaveOnly s fun k =>
    let off := w.imm.toNat
    s.runWord k (fxGate (s.gang k.gk) w .mx 3 (decide (w.subop.toNat ≤ 1)) false) fun e act s =>
      let (r0, n, ok) := rowsField (e.dreg w 2)
      if !ok then s.fault k act 0x01#32 0
      else if off % 8 ≠ 0 then s.fault k act 0x12#32 (BitVec.ofNat 64 off)
      else if (s.gang k.gk).spSize < off + 8 then s.fault k act 0x13#32 (BitVec.ofNat 64 off)
      else if (s.gang k.gk).accr < r0 + n then s.fault k act rowFault 0
      else s.command k e w (.accprom w) .mx fun o => { o with aux := touches (r0 / 32 * 32) (unitCount r0 n * 32) 0 0 0 }

/-- ACCPROM in its turn: the mask to the scratchpad, and with `.clr` ABS of those regions to 0. -/
def State.promNow (s : State) (r : Nat) (w : FX) : State :=
  let o := s.op r
  let g := s.gang o.gang
  match s.readShape (o.ask 2) (o.reg2 0) with
  | (s, .fault st) => s.mxReport r st
  | (s, .wait t) => s.stallOp r t .read
  | (s, .shape x) =>
    let lo := (o.aux.getD 0 0).toNat / 32
    let is := ((List.range ((o.aux.getD 1 0).toNat / 32)).map (lo + ·)).filter fun i => decide (x.athr < g.regionAbs i)
    let mask := is.foldl (fun m i => m + if i < 64 then 2 ^ i else 0) 0
    (s.modGang o.gang fun g =>
      let g := g.spWrite w.imm.toNat (bytesOf 8 mask)
      if w.subop.getLsbD 0 then is.foldl (fun g i => g.setRows ((List.range 32).map (32 * i + ·)) fun a c =>
        g.entry a c &&& 0x00FFFFFFFFFF#48) g else g).mxReport r 0

/-! ### DRAIN and DRAINUNDO (R262 to R265) -/

/-- DRAIN. -/
def execDrain (w : FX) (s : State) : Out :=
  weaveOnly s fun k =>
    let rnd := w.imm.toNat
    s.runWord k (fxGate (s.gang k.gk) w .mx 9 (decide (w.subop.toNat ≤ 3) && (rnd == 0 || rnd == 4)) false) fun e act s =>
      let d (j : Nat) : Word := e.dreg w j
      let g := s.gang k.gk
      let eager := w.subop.getLsbD 0
      let r0 := bits (d 2).toNat 10 0
      let n := bits (d 2).toNat 16 11 + 1
      let u0 := bits (d 3).toNat 10 0
      let v := pair (d 4) (d 5)
      let f := bits (d 6).toNat 3 0
      if bits (d 2).toNat 31 17 ≠ 0 ∨ bits (d 6).toNat 31 4 ≠ 0 ∨ r0 % 32 ≠ 0 ∨ (eager = true ∧ u0 % 32 ≠ 0) then
        s.fault k act 0x01#32 0
      else if v.toNat % 8 ≠ 0 then s.fault k act 0x12#32 v
      else if g.accr < r0 + 32 * n ∨ (eager = true ∧ g.accr < u0 + 32 * n) then s.fault k act rowFault 0
      else if g.hreg ≤ f then s.fault k act 0x18#32 0
      else
        let go (kind val : Nat) : State :=
          s.command k e w (.drain w) .mx fun o => { o with
            aux := touches r0 (32 * n) (if eager then u0 else 0) (if eager then 32 * n else 0) touchDrain ++
              [BitVec.ofNat 32 n, BitVec.ofNat 32 kind, BitVec.ofNat 32 val] }
        match s.handle (s.weave k.wk) f with
        | .empty => s.fault k act 0x18#32 0
        | .pending r => go 0 r
        | .resolved st => go 1 st.toNat
        | .cancelled => go 2 0

/-- A DRAIN learns its verdict, if it can: phase 1 finite, 2 non-finite. -/
def State.drainVerdict (s : State) (r : Nat) : State × Bool :=
  let o := s.op r
  if o.phase ≠ 0 then (s, true)
  else
    let set (s : State) (v : Nat) : State × Bool := (s.modOp r fun o => { o with phase := v }, true)
    let st : OpState := match o.arg 1 with
      | 0 => (s.op (o.arg 2)).state
      | 1 => .resolved (BitVec.ofNat 32 (o.arg 2))
      | _ => .cancelled
    match st with
    | .pending => (s, true)
    | .cancelled => set s 2
    | .resolved x =>
      if x ≠ 0 then set s 2
      else match s.engRead (o.ask 2) (o.reg2 4) 8 with
        | (s, .bytes b) => set s (if leNat b = 0 then 1 else 2)
        | (s, g) => (s.gotStop r g, false)

/-- The record that a DRAIN has read at its start, kept in its operand words. -/
def AsyncOp.drainShape (o : AsyncOp) : Option ShapeRec :=
  if o.amat.isEmpty then none
  else
    let w (i : Nat) : Nat := (o.amat.getD i 0).toNat
    some { ndim := 1, fmt := 2, spad := false, prom := w 0 == 1, athr := w 1, base := w 2 + w 3 * 2 ^ 32, f32base := w 4 + w 5 * 2 ^ 32,
           rmap := w 6 + w 7 * 2 ^ 32, dims := [], dirty := false }

/-- The start of a DRAIN: its record is read and checked, and the drain record begins. -/
def State.drainStart (s : State) (r : Nat) (w : FX) : State :=
  let o := s.op r
  let bf := w.subop.getLsbD 1
  let rec_ := o.reg2 7
  let begin_ (s : State) (m : List Word) : State :=
    (s.modGang o.gang fun g => { g with drain := {
      valid := true, eager := w.subop.getLsbD 0, base := BitVec.ofNat 64 (o.reg2 0), bf16 := bf, undoRow := bits (o.reg 3).toNat 10 0,
      recAddr := BitVec.ofNat 64 rec_ } }).modOp r fun o => { o with unit := 1, amat := m }
  if rec_ = 0 then begin_ s []
  else match s.readShape (o.ask 2) rec_ with
    | (s, .fault st) => s.mxReport r st
    | (s, .wait t) => s.stallOp r t .read
    | (s, .shape x) =>
      if x.fmt ≠ (if bf then 2 else 0) ∨ (o.reg2 0 + 2 ^ 64 - x.base) % 2048 ≠ 0 then s.mxReport r (statusOf 0x21 1)
      else begin_ s (if bf then [if x.prom then 1 else 0, x.athr, x.base, x.base / 2 ^ 32, x.f32base, x.f32base / 2 ^ 32, x.rmap, x.rmap / 2 ^ 32].map (BitVec.ofNat 32) else [])

/-- Where a shard's weights stand and how: address, bytes of an element read, whether its region was promoted already. -/
def State.shardPlace (s : State) (r : Nat) (bf : Bool) (sh : Nat) : State × ((Nat × Bool) ⊕ Got) :=
  let o := s.op r
  let a := (o.reg2 0 + (if bf then 2048 else 4096) * sh) % 2 ^ 64
  match o.drainShape with
  | none => (s, .inl (a, false))
  | some x => match s.isPromoted (o.ask 2) x (x.regionAt a) with
    | (s, .inl true) => (s, .inl (x.f32At a, true))
    | (s, .inl false) => (s, .inl (a, false))
    | (s, .inr g) => (s, .inr g)

/-- The new weights of a shard: the generators after it, and each w' in its format's bits. -/
def drainWords (g : Gang) (row : Nat) (sr inBf outBf : Bool) (old : List Nat) (gens : List Word) : List Word × List Nat :=
  (List.range 1024).foldl (fun (gs, ws) i =>
    let c := i % 32
    let g1 := genStep ((gs : List Word).getD c 0)
    let g2 := genStep g1
    let u := readOut (if sr then some g1 else none) (g.entry (row + i / 32) c)
    let w := FVal.ofBits (if inBf then .bf16 else .f32) (old.getD i 0)
    let v := (FVal.add false w (FVal.ofBits .f32 u.toNat)).1
    let x := (roundTo (if outBf then .bf16 else .f32) (if sr then .sr g2 none else .rn) false v).1
    (if sr then gs.set c g2 else gs, ws ++ [x])) (gens, [])

/-- A DRAIN has ended: its record takes the outcome, and the handle resolves with 0. -/
def State.drainEnd (s : State) (r : Nat) : State :=
  let o := s.op r
  (s.modGang o.gang fun g => { g with drain := { g.drain with known := o.phase != 0, nonfin := o.phase == 2 } }).mxReport r 0

/-- Elements as bytes. -/
def elemBytes (n : Nat) (ws : List Nat) : List Byte := ws.flatMap (bytesOf n)
def elemsOf (n : Nat) (b : List Byte) (count : Nat) : List Nat := (List.range count).map fun i => leNat ((b.drop (n * i)).take n)

/-- One shard of a DRAIN is read and computed: written at once when eager, held in the update rows when safe. Where the undo
rows overlap the update rows, each undo entry holds its old value or the one that this DRAIN writes (R262). -/
def State.drainShard (s : State) (r : Nat) (w : FX) (sh : Nat) : State :=
  let o := s.op r
  let q := o.ask 2
  let bf := w.subop.getLsbD 1
  let eager := w.subop.getLsbD 0
  let row := (o.aux.getD 0 0).toNat + 32 * sh
  let undo := (o.aux.getD 2 0).toNat + 32 * sh
  let g := s.gang o.gang
  match s.shardPlace r bf sh with
  | (s, .inr got) => s.gotStop r got
  | (s, .inl (a, was)) =>
    let inBf := bf && !was
    let n := if inBf then 2 else 4
    match s.engRead q a (1024 * n) with
    | (s, .bytes b) =>
      let old := elemsOf n b 1024
      let promote := inBf && (match o.drainShape with
        | some x => decide (x.athr < g.regionAbs (row / 32))
        | none => false)
      let outBf := inBf && !promote
      let (gens, ws) := drainWords g row (w.imm == 4) inBf outBf old (s.weave o.wk).gens
      let note (s : State) (written : Nat) : State :=
        (((s.modWeave o.wk (·.setGens gens)).modGang o.gang fun g => { g with drain := { g.drain with
          shards := g.drain.shards + written, prom := g.drain.prom || (promote && written != 0)
          undo := g.drain.undo ++ [{ shard := sh, wasFp32 := was, promoted := promote }] } }).modOp r fun o => { o with unit := o.unit + 1 })
      if eager then
        let x := (o.drainShape).getD (shapeOf [])
        let marks := if promote then [x.regionAt a] else []
        match s.canMark q (o.reg2 7) x marks with
        | (s, .bytes _) =>
          match s.engWrite q (if promote then x.f32At a else a) (elemBytes (if outBf then 2 else 4) ws) with
          | (s, .bytes _) =>
            let first := promote && !x.prom && !g.drain.setProm
            let (free, s) := s.takeFree 1024
            let meet := decide ((o.aux.getD 0 0).toNat < (o.aux.getD 2 0).toNat + 32 * o.arg 0) && decide ((o.aux.getD 2 0).toNat < (o.aux.getD 0 0).toNat + 32 * o.arg 0)
            let s := (s.markPromoted q (o.reg2 7) x marks first).modGang o.gang fun g =>
              { g.setRows ((List.range 32).map (undo + ·)) fun y c =>
                  if meet && Config.freeBit (free + 32 * (y - undo) + c) then g.entry y c
                  else entryOf (BitVec.ofNat 32 (old.getD (32 * (y - undo) + c) 0)) with
                drain := { g.drain with setProm := g.drain.setProm || first } }
            let s := note s 1
            if o.arg 0 ≤ sh + 1 then s.drainEnd r else s
          | (s, got) => s.gotStop r got
        | (s, got) => s.gotStop r got
      else
        note (s.modGang o.gang fun g => g.setRows ((List.range 32).map (row + ·)) fun y c =>
          let v := ws.getD (32 * (y - row) + c) 0
          entryOf (if outBf then widen .bf16 v else BitVec.ofNat 32 v)) 0
    | (s, got) => s.gotStop r got

/-- One shard of a safe DRAIN is written after a finite verdict. -/
def State.drainStore (s : State) (r : Nat) (w : FX) (sh : Nat) : State :=
  let o := s.op r
  let q := o.ask 2
  let bf := w.subop.getLsbD 1
  let row := (o.aux.getD 0 0).toNat + 32 * sh
  let g := s.gang o.gang
  let was := (g.drain.undo.find? fun u => u.shard == sh).getD {}
  let a := (o.reg2 0 + (if bf then 2048 else 4096) * sh) % 2 ^ 64
  let x := (o.drainShape).getD (shapeOf [])
  let wide := !bf || was.wasFp32 || was.promoted
  let ws := (List.range 1024).map fun i =>
    let f := bits (g.entry (row + i / 32) (i % 32)).toNat 31 0
    if wide then f else f / 2 ^ 16
  let marks := if was.promoted then [x.regionAt a] else []
  match s.canMark q (o.reg2 7) x marks with
  | (s, .bytes _) =>
    match s.engWrite q (if was.wasFp32 || was.promoted then x.f32At a else a) (elemBytes (if wide then 4 else 2) ws) with
    | (s, .bytes _) =>
      let first := was.promoted && !x.prom && !g.drain.setProm
      let s := (s.markPromoted q (o.reg2 7) x marks first).modGang o.gang fun g =>
        { g with drain := { g.drain with
            setProm := g.drain.setProm || first, prom := g.drain.prom || was.promoted, shards := g.drain.shards + 1 } }
      let s := s.modOp r fun o => { o with unit := o.unit + 1 }
      if o.arg 0 ≤ sh + 1 then s.drainEnd r else s
    | (s, got) => s.gotStop r got
  | (s, got) => s.gotStop r got

/-- DRAIN goes on by one shard: the verdict is tested before each (R263). -/
def State.drainStep (s : State) (r : Nat) : State :=
  let o := s.op r
  match o.instr with
  | .drain w =>
    if !s.mxReady r then s
    else if o.unit = 0 then s.drainStart r w
    else match s.drainVerdict r with
      | (s, false) => s
      | (s, true) =>
        let o := s.op r
        let n := o.arg 0
        if w.subop.getLsbD 0 then
          if o.phase = 2 then s.drainEnd r else s.drainShard r w (o.unit - 1)
        else if o.unit ≤ n then s.drainShard r w (o.unit - 1)
        else match o.phase with
          | 0 => s
          | 1 => s.drainStore r w (o.unit - 1 - n)
          | _ => s.drainEnd r
  | _ => s

/-- DRAIN_SHARD. -/
def execDrainShard (s : State) : Out := .next (s.drainStep s.ev.a)

/-- DRAINUNDO. -/
def execDrainundo (w : FX) (s : State) : Out :=
  weaveOnly s fun k =>
    s.runWord k (fxGate (s.gang k.gk) w .mx 0 (w.dbase == 0 && w.subop == 0 && w.imm == 0) false) fun e _ s =>
      s.command k e w (.drainundo w) .mx fun o => { o with aux := touches 0 2048 0 0 touchDrain }

/-- A unit of DRAINUNDO: one shard's weights go back bit for bit; after the last the record is cleared. -/
def State.undoUnit (s : State) (r : Nat) : State :=
  let o := s.op r
  let q := o.ask 2
  let g := s.gang o.gang
  let d := g.drain
  let finish (s : State) : State := (s.modGang o.gang fun g => { g with drain := {} }).mxReport r 0
  if !d.eager then finish s
  else match d.undo[o.unit]? with
    | none => finish s
    | some u =>
      let rec_ := d.recAddr.toNat
      let a := (d.base.toNat + (if d.bf16 then 2048 else 4096) * u.shard) % 2 ^ 64
      let n := if d.bf16 && !u.wasFp32 then 2 else 4
      let ws := (List.range 1024).map fun i => bits (g.entry (d.undoRow + 32 * u.shard + i / 32) (i % 32)).toNat 31 0
      let put (s : State) (x : ShapeRec) : State :=
        let clear := u.promoted
        match s.canMark q rec_ x (if clear then [x.regionAt a] else []) with
        | (s, .bytes _) =>
          match s.engWrite q (if u.wasFp32 then x.f32At a else a) (elemBytes n (ws.map (· % 2 ^ (8 * n)))) with
          | (s, .bytes _) =>
            let s := if clear then (s.engBit q (x.mapBit (x.regionAt a)).1 (x.mapBit (x.regionAt a)).2 false).1 else s
            let s := if d.setProm && decide (d.undo.length ≤ o.unit + 1) then (s.engBit q (rec_ + 1) 1 false).1 else s
            let s := s.modOp r fun o => { o with unit := o.unit + 1 }
            if d.undo.length ≤ o.unit + 1 then finish s else s
          | (s, got) => s.gotStop r got
        | (s, got) => s.gotStop r got
      if rec_ = 0 then put s (shapeOf [])
      else match s.readShape q rec_ with
        | (s, .fault st) => s.mxReport r st
        | (s, .wait t) => s.stallOp r t .read
        | (s, .shape x) => put s x

/-! ### ACCSTAT and OPFENCE (R256, R266) -/

/-- What ACCSTAT reads. -/
def State.accstat (s : State) (gk sel : Nat) : Word :=
  let g := s.gang gk
  let c := s.core g.core
  let b (x : Bool) (i : Nat) : Nat := if x then 2 ^ i else 0
  let ctr (t : Stream) : Word := BitVec.ofNat 32 (bits t.ctr.toNat 30 0 + b t.skewed 31)
  match sel with
  | 0 => g.sticky
  | 1 => g.drain.word
  | 2 => BitVec.ofNat 32 (g.planes.zipIdx.foldl (fun t e =>
      let p := c.plane e.1
      let busy := s.ops.any fun o => o.2.gang == gk && o.2.engine == .mx && !o.2.stopped && bit (o.2.aux.getD 4 0).toNat e.1
      t + 2 ^ (4 * e.2) * (1 + b p.latched 1 + b p.faulted 2 + b busy 3)) 0)
  | 3 => ctr g.str0
  | 4 => ctr g.str1
  | _ => 0

/-- ACCSTAT. -/
def execAccstat (w : F3) (s : State) : Out :=
  weaveOnly s fun k =>
    s.runWord k (mxGate (s.gang k.gk) w isS isSorInt isUnused (modsIn w.mods 1) [w.a]) fun e act s =>
      onceReal k act s fun s =>
        let sel := (e.rd s.ops 0 w.a 0).toNat
        if w.mods.getLsbD 0 && sel != 0 then s.fault k act 0x01#32 0
        else
          let v := s.accstat k.gk sel
          (if w.mods.getLsbD 0 then s.modGang k.gk fun g => { g with sticky := 0 } else s).answer k act w.dst v

/-- OPFENCE: the weave's stores have left and its results are written back. -/
def execOpfence (w : F3) (s : State) : Out :=
  weaveOnly s fun k =>
    s.runWord k (mxGate (s.gang k.gk) w isUnused isUnused isUnused (w.mods == 0) []) fun e act s =>
      onceReal k act s fun s =>
        if e.w.sq.isEmpty && e.w.ll.isEmpty then s.advance k act else s.holdIssue k e .opFence

end Sys2Proof.Machine
end

