-- ==== Sys2Proof/Machine/Bonds.lean ====
section
/-! DEFINITION. The multiplies of the matrix engine (spec/10_matrix.md, R250 to R255), seam pairing, bonds, leases, rounds and
the weighted slot tables (spec/11_bonds.md, R268 to R289), and the units of the other matrix and bond commands (R267). -/

namespace Sys2Proof.Machine

open Sys2Proof

/-! ### Contexts of a core (R31) -/

/-- A launch has a gang on a core. -/
def State.onCore (s : State) (core l : Nat) : Bool := s.gangs.any fun e => e.2.core == core && e.2.launch == l

/-- The leaf controller deals the four tables of a core afresh next (R425). -/
def State.dealNext (s : State) (core : Nat) : State :=
  (List.range 4).foldl (fun s u => s.next_ .slotTableDeal core u 0) s

/-- A gang of a launch stands on a core: its context has a slot, the lowest free one if it is new. -/
def State.enterCore (s : State) (core l : Nat) : State :=
  let x := s.core core
  if x.ctxs.any fun e => e.2 == some l then s
  else match (List.range 4).find? fun i => Table.get none x.ctxs i == none with
    | some i => (s.modCore core fun x => { x with ctxs := Table.set none x.ctxs i (some l) }).dealNext core
    | none => s

/-- A gang has left a core: the slot of a launch without a gang there is free. -/
def State.leaveCore (s : State) (core l : Nat) : State :=
  if s.onCore core l then s
  else if ((s.core core).ctxs.any fun e => e.2 == some l) then
    (s.modCore core fun x => { x with ctxs := x.ctxs.filter fun e => e.2 != some l }).dealNext core
  else s

/-! ### Shapes and members (R268, R269) -/

/-- The cluster that faces a cluster across a seam (R15): 0 north, 1 east, 2 south, 3 west. -/
def facing (cl dir : Nat) : Option Nat :=
  let x := clusterX cl
  let y := clusterY cl
  let at_ (x y : Nat) : Nat := 16 * (x / 4 + 2 * (y / 4)) + (x % 4 + 4 * (y % 4))
  match dir with
  | 0 => if y = 4 then some (at_ x 3) else none
  | 1 => if x = 3 then some (at_ 4 y) else none
  | 2 => if y = 3 then some (at_ x 4) else none
  | 3 => if x = 4 then some (at_ 3 y) else none
  | _ => none

/-- A shape is one of R268: `seam` is the direction of the seam from the first side, 1 east or 2 south, or none. -/
def shapeOk (h w : Nat) (seam : Option Nat) : Bool :=
  match seam with
  | none => decide (1 ≤ h) && decide (h ≤ 4) && decide (1 ≤ w) && decide (w ≤ 4)
  | some 1 => decide (1 ≤ h) && decide (h ≤ 4) && decide (1 ≤ w) && decide (w ≤ 8) && w % 2 == 0
  | some _ => decide (1 ≤ h) && decide (h ≤ 8) && h % 2 == 0 && decide (1 ≤ w) && decide (w ≤ 4)

/-- The seam of a bond as `shapeOk` takes it. -/
def Bond.seamDir (b : Bond) : Option Nat := if b.seam then some b.dir else none

/-- The position (row, col) of member `m` (R269). -/
def positionOf (h w : Nat) (seam : Option Nat) (m : Nat) : Nat × Nat :=
  match seam with
  | none => (m / w, m % w)
  | some 1 =>
    let r := m % (h * w / 2)
    (r / (w / 2), (if m < h * w / 2 then 0 else w / 2) + r % (w / 2))
  | some _ =>
    let r := m % (h * w / 2)
    ((if m < h * w / 2 then 0 else h / 2) + r / w, r % w)

def Bond.pos (b : Bond) (m : Nat) : Nat × Nat := positionOf b.h b.w b.seamDir m

/-- The member at a position. -/
def Bond.at_ (b : Bond) (r c : Nat) : Nat := ((List.range (b.h * b.w)).find? fun m => b.pos m == (r, c)).getD 0

def Bond.gangOf (b : Bond) (m : Nat) : Nat := b.members.getD m 0

/-- The member number of a gang. -/
def Bond.memberOf (b : Bond) (gk : Nat) : Nat := b.members.idxOf gk

/-- The core of member `m` when the rectangle's first row and column on each side are `r0` and `c0`, on the clusters of the
two sides; each half of a seam bond lies against the seam. -/
def coreOfMember (h w : Nat) (seam : Option Nat) (k1 k2 r0 c0 m : Nat) : Nat :=
  let r := m % (h * w / 2)
  match seam with
  | none => 16 * k1 + 4 * (r0 + m / w) + c0 + m % w
  | some 1 =>
    if m < h * w / 2 then 16 * k1 + 4 * (r0 + r / (w / 2)) + (4 - w / 2) + r % (w / 2)
    else 16 * k2 + 4 * (r0 + r / (w / 2)) + r % (w / 2)
  | some _ =>
    if m < h * w / 2 then 16 * k1 + 4 * (4 - h / 2 + r / w) + c0 + r % w
    else 16 * k2 + 4 * (r / w) + c0 + r % w

/-- The rectangles of a shape on the clusters of its sides: the members' cores, in member order. -/
def rectangles (h w : Nat) (seam : Option Nat) (k1 k2 : Nat) : List (List Nat) :=
  let rows := match seam with | some 2 => [0] | _ => List.range (5 - h)
  let cols := match seam with | some 1 => [0] | _ => List.range (5 - w)
  rows.flatMap fun r => cols.map fun c => (List.range (h * w)).map (coreOfMember h w seam k1 k2 r c)

/-- The cluster of a cohort. -/
def State.cohortCluster (s : State) (c : Nat) : Nat := (s.cohort c).cluster

/-- The bond of a cohort, or of its pair: one that either cohort formed before they were paired too (R268, R275). -/
def State.bondAt (s : State) (home : Nat) : Option (Nat × Bond) :=
  s.bonds.find? fun e => s.convHome e.2.cohort == s.convHome home

def State.modBond (s : State) (bk : Nat) (f : Bond → Bond) : State := { s with bonds := s.bonds.modify bk f }

/-! ### The end of a bond (R280, R285) -/

/-- The leases of a bond and its lost leases are all ended and nothing is in flight: the bond is dissolved. -/
def State.bondTidy (s : State) (bk : Nat) : State :=
  match s.bonds.find bk with
  | some b =>
    if (b.state == .dissolving || b.state == .lost) && b.leases.isEmpty && b.lost.isEmpty && b.flight.isEmpty then
      { s with bonds := s.bonds.erase bk }
    else s
  | none => s

/-- Every share of a round that has not issued reports 0x29, and the lanes that signed for it go on. -/
def State.dropUnissued (s : State) (bk : Nat) : State :=
  match s.bonds.find bk with
  | none => s
  | some b =>
    let fail (s : State) (t : Table Share) : State := t.foldl (fun s e => s.mxReport e.2.op 0x29#32) s
    let v := s.conv (s.bondHome b) b.c
    let s := match b.armed with
      | some x => (fail s x.shares).releaseSigners (s.bondHome b) b.c (v.round - 1)
      | none => s
    let s := if b.shares.isEmpty then s
      else ((fail s b.shares).setConv (s.bondHome b) b.c { v with sig := [], round := v.round + 1, bound := false }).releaseSigners (s.bondHome b) b.c v.round
    s.modBond bk fun b => { b with shares := [], armed := none }

/-- A lease mask moved to another table of masks. -/
def addMask (t : Table (BitVec 16)) (m : Nat) (x : BitVec 16) : Table (BitVec 16) := Table.set 0 t m (Table.get 0 t m ||| x)

/-- Every lease of a bond becomes lost. -/
def Bond.loseLeases (b : Bond) : Bond :=
  { b with lost := b.leases.foldl (fun t e => addMask t e.1 e.2) b.lost, leases := [] }

/-- A formed bond is lost; a surrendered one that was formed is lost too (R285). -/
def State.loseBond (s : State) (bk : Nat) : State :=
  match s.bonds.find bk with
  | none => s
  | some b =>
    if b.state == .formed then ((s.dropUnissued bk).modBond bk fun b => { b.loseLeases with state := .lost }).bondTidy bk
    else if b.state == .surrendered && b.before_ == .formed then
      (s.dropUnissued bk).modBond bk fun b => { b.loseLeases with before_ := .lost }
    else s

/-- Ends leases of a gang: when its last one ends, the bond dissolves. -/
def State.endLeases (s : State) (gk : Nat) (mask : BitVec 16) : State :=
  match s.bondOf gk with
  | none => s
  | some (bk, b) =>
    let m := b.memberOf gk
    let had := Table.get 0 b.leases m
    let now := had &&& ~~~mask
    let s := s.modBond bk fun b => { b with leases := Table.set 0 b.leases m now, lost := Table.set 0 b.lost m (Table.get 0 b.lost m &&& ~~~mask) }
    let s := if had != 0 && now == 0 && b.state == .formed then
        (s.dropUnissued bk).modBond bk fun b => { b.loseLeases with state := .dissolving }
      else s
    s.bondTidy bk

/-! ### The multiplies (R250, R251) -/

/-- Which opcode of the family. -/
inductive MmaKind where
  | dense | sparse | lut | codebook
  deriving DecidableEq, Repr

/-- The plane, as its latest WLATCH latches it, is of the opcode's kind. -/
def MmaKind.takes (k : MmaKind) (p : Plane) : Bool :=
  match k with
  | .dense => p.ispn == 0 && decide (p.iwfmt ≤ 4)
  | .sparse => p.ispn != 0
  | .lut => p.ispn == 0 && (p.iwfmt == 12 || p.iwfmt == 13)
  | .codebook => p.ispn == 0 && p.iwfmt == 11

/-- A share that is bound disagrees with another: the kind of its plane, which is its opcode's, the format of its stream, or
its row (R255). -/
def AsyncOp.disagrees (a b : AsyncOp) : Bool :=
  a.arg 2 != b.arg 2 || a.arg 6 != b.arg 6 || (a.aux.getD 0 0) != (b.aux.getD 0 0)

/-- The words of `n` vector registers from `a`, all 32 lanes as they stand. -/
def Env.groupWords (e : Env) (a n : Nat) : List Word :=
  (List.range n).flatMap fun j => (List.range 32).map fun l => e.readV j (a + j) l (Fin.ofNat 320 (a + j))

/-- Binds a multiply as its gang's share of the current round (R255). -/
def State.bindShare (s : State) (bk m : Nat) (sh : Share) : State :=
  let s := s.modBond bk fun b => { b with shares := Table.insert b.shares m sh }
  match s.bonds.find bk with
  | none => s
  | some b =>
    let s := if b.shares.length = b.members.length then s.setConv (s.bondHome b) b.c { s.conv (s.bondHome b) b.c with bound := true } else s
    s.convCheck (s.bondHome b) b.c

/-- An instruction of the MMA family: R251's checks, the hold of its handle, and then a record of its own or a share of a
bonded round. -/
def State.issueMma (s : State) (k : Ctx) (e : Env) (act : BitVec 32) (kind : MmaKind) (w : F3) (i : Instr) : State :=
  let g := s.gang k.gk
  let st := (w.mods.extractLsb' 2 1).toNat
  match g.planes[(w.mods.extractLsb' 0 2).toNat]? with
  | none => s.fault k act 0x28#32 0
  | some n =>
    let p := (s.core k.core).plane n
    let tcw := g.cfgNew.tcw.toNat
    let afmt := if st = 1 then bits tcw 11 8 else bits tcw 7 4
    let scaled := (if st = 1 then g.cfgNew.off1 else g.cfgNew.off0) != 0xFFFFFFFF#32
    let size := mxGroup p.iwfmt p.ispn afmt
    let a := regNum w.a
    let row := (e.rd s.ops 6 w.b 0).toNat
    if !p.issued || !kind.takes p || !mxPairs p.iwfmt afmt then s.fault k act 0x28#32 0
    else if g.vreg < a + size then s.fault k act 0x01#32 0
    else if g.accr ≤ row then s.fault k act rowFault 0
    else
      match (if isH w.dst then s.handle (s.weave k.wk) (handleIndex w.dst) else .empty) with
      | .pending r => s.holdIssue k e (.destPending (handleIndex w.dst) r)
      | _ =>
        let latched := match e.w.reuse with
          | some (f, ws) => if w.reuse && f == a && ws.length == 32 * size then some ws else none
          | none => none
        let data := latched.getD (e.groupWords a size)
        let aux := touches row 1 0 0 (2 ^ n + if scaled then 2 ^ (16 + st) else 0) ++
          [n, st, afmt, p.iwfmt, p.ispn, a, match kind with | .dense => 0 | .sparse => 1 | .lut => 2 | .codebook => 3, if latched.isSome then 1 else 0].map (BitVec.ofNat 32)
        let record (s : State) (share : Bool) : Nat × State :=
          let (r, s) := s.mxRecord k i (isH w.dst) share aux data
          (r, (s.modWeave k.wk fun x =>
            let x := if isH w.dst then x.setHandle (handleIndex w.dst) (some r) else x
            { x with reuse := if w.reuse then some (a, data) else none }).advance k act)
        match s.bondOf k.gk with
        | none => (record s false).2
        | some (bk, b) =>
          let m := b.memberOf k.gk
          if Table.get 0 b.leases m = 0 then
            if Table.get 0 b.lost m = 0 then (record s false).2
            else
              let (r, s) := record s false
              s.mxReport r 0x29#32
          else if !(Table.get 0 b.leases m).getLsbD e.w.num then s.fault k act 0x28#32 0
          else if s.shareWaits k.gk then s.holdIssue k e .shareBound
          else
            let mine : AsyncOp := { aux := aux }
            if b.shares.any fun x => (s.op x.2.op).disagrees mine then s.fault k act 0x28#32 0
            else
              let (r, s) := record s true
              s.bindShare bk m { op := r, wk := k.wk, opc := 0x204 + mine.arg 6, srca := a, row := row, plane := (w.mods.extractLsb' 0 2).toNat, stream := st }

/-- Runs a word of the family: once for the weave. -/
def State.runMma (s : State) (k : Ctx) (kind : MmaKind) (w : F3) (i : Instr) : State :=
  let gt := mxGate (s.gang k.gk) { w with reuse := false } (fun d => isH d || isZero d) isV isSorInt (w.mods.extractLsb' 3 2 == 0) [w.b]
  s.runWord k gt fun e act s => onceReal k act s fun s => s.issueMma k e act kind w i

/-- MMA. -/
def execMma (w : F3) (s : State) : Out := weaveOnly s fun k => s.runMma k .dense w (.mma w)

/-- MMAS. -/
def execMmas (w : F3) (s : State) : Out := weaveOnly s fun k => s.runMma k .sparse w (.mmas w)

/-- MMAL. -/
def execMmal (w : F3) (s : State) : Out := weaveOnly s fun k => s.runMma k .lut w (.mmal w)

/-- MMAC. -/
def execMmac (w : F3) (s : State) : Out := weaveOnly s fun k => s.runMma k .codebook w (.mmac w)

/-- Operand words as bytes. -/
def wordBytes (ws : List Word) : List Byte := ws.flatMap fun w => bytesOf 4 w.toNat

/-- The scales that the next multiply on a stream takes, the stream after it, and what it reports (R253). -/
def Gang.takeScales (g : Gang) (st : Stream) (nb : Nat) : Option (List Nat) × Stream × Word :=
  if st.off = 0xFFFFFFFF#32 then (none, st, 0)
  else if st.skewed then (some [], st, 0x20#32 ||| ((st.ctr - st.b0) <<< 8))
  else
    let es := streamScales g st nb
    let ctr := st.ctr + BitVec.ofNat 32 es.length
    if es.length = nb then (some es, { st with ctr := ctr }, 0)
    else (some es, { st with ctr := ctr, skewed := true }, 0x20#32 ||| ((ctr - st.b0) <<< 8))

def Gang.stream (g : Gang) (i : Nat) : Stream := if i = 1 then g.str1 else g.str0
def Gang.setStream (g : Gang) (i : Nat) (x : Stream) : Gang := if i = 1 then { g with str1 := x } else { g with str0 := x }

/-- The record is a share of a bonded round. -/
def State.isShare (s : State) (r : Nat) : Bool :=
  let has (t : Table Share) : Bool := t.any fun e => e.2.op == r
  s.bonds.any fun e => has e.2.shares || e.2.flight.any (fun x => has x.shares) || (match e.2.armed with
    | some x => has x.shares
    | none => false)

/-- A multiply in its turn: it accumulates its K-slice and reports. -/
def State.multiply (s : State) (r : Nat) : State :=
  let o := s.op r
  let p := (s.core o.core).plane (o.arg 0)
  let g := s.gang o.gang
  if !s.mxReady r || s.isShare r then s
  else if !p.latched then s.mxReport r 0x28#32
  else if p.faulted then s.mxReport r (0x2A#32 ||| (BitVec.ofNat 32 p.fgroup <<< 8))
  else
    let st := g.stream (o.arg 1)
    let (es, st', rep) := g.takeScales st (mxPpc p.wfmt)
    let s := if st.skewed then s
      else s.modGang o.gang fun g =>
        (g.addRow (o.aux.getD 0 0).toNat fun n => southPartial [{ planes := [p], a := wordBytes o.amat, afmt := o.arg 2, scales := es }] 0 n).setStream (o.arg 1) st'
    s.mxReport r rep

/-- MATRIX_OPERATION_EXECUTE. -/
def execMatrixOperationExecute (s : State) : Out :=
  .next (match (s.op s.ev.a).instr with
    | .mma _ | .mmas _ | .mmal _ | .mmac _ => s.multiply s.ev.a
    | _ => s)

/-! ### Rounds (R281, R282) -/

/-- A member core grants the armed round its cycle: the operands of its share are read, each element as it was bound or as
it now stands (R133), and the share is accepted, in its place in the order of the core's port (R239, R281). -/
def State.roundGrant (s : State) (bk m : Nat) : State :=
  match s.bonds.find bk with
  | none => s
  | some b =>
    match b.armed with
    | none => s
    | some x =>
      match x.shares.find m, x.granted.find m with
      | some sh, none =>
        let g := s.gang (b.gangOf m)
        if !s.serves g.core 0 g.launch (s.grantWaits g.core) then s
        else
          let s := s.takeTurn g.core 0 g.launch
          let o := s.op sh.op
          let (free, s) := s.takeFree o.amat.length
          let w := s.weave sh.wk
          let words := if o.arg 7 = 1 then o.amat
            else o.amat.zipIdx.map fun e => choiceOf (free + e.2) e.1 (some (w.vget (o.arg 5 + e.2 / 32) (e.2 % 32)))
          let x := { x with granted := Table.insert x.granted m words }
          let (n, s) := s.fresh
          let s := s.modOp sh.op fun o => { o with accepted := true, port := n + 1 }
          let s := s.modBond bk fun b => { b with armed := some x }
          if x.granted.length = b.members.length then
            s.releaseSigners (s.bondHome b) b.c ((s.conv (s.bondHome b) b.c).round - 1)
          else s
      | _, _ => s

/-- ROUND_GRANT. -/
def execRoundGrant (s : State) : Out := .next (s.roundGrant s.ev.a s.ev.b)

/-- The round issues into the array once every member has granted it, behind its gangs' earlier operations. -/
def State.roundIssue (s : State) (bk : Nat) : State :=
  match s.bonds.find bk with
  | none => s
  | some b =>
    match b.armed with
    | none => s
    | some x =>
      if x.granted.length < b.members.length || !x.shares.all fun e =>
          s.mxFree (s.op e.2.op) || b.flight.any fun y => y.shares.any fun z => z.1 == e.1 then s
      else (s.modBond bk fun b => { b with
        armed := none, flight := b.flight ++ [{ x with issued := true }], rounds := b.rounds + 1 }).convCheck (s.bondHome b) b.c

/-- ROUND_ISSUE. -/
def execRoundIssue (s : State) : Out := .next (s.roundIssue s.ev.a)

/-- The core plane of a member's share. -/
def State.sharePlane (s : State) (b : Bond) (x : Round) (m : Nat) : Plane :=
  match x.shares.find m with
  | some sh => (s.core (s.gang (b.gangOf m)).core).plane ((s.op sh.op).arg 0)
  | none => {}

/-- The oldest round in flight completes: what it accumulates, and its report to every share. -/
def State.roundComplete (s : State) (bk : Nat) : State :=
  match s.bonds.find bk with
  | none => s
  | some b =>
    match b.flight with
    | [] => s
    | x :: rest =>
      let ms := List.range (b.h * b.w)
      let finish (s : State) (rep : Word) : State :=
        let s := x.shares.foldl (fun s e => s.mxReport e.2.op rep) s
        (s.modBond bk fun b => { b with flight := rest, badCols := if rest.isEmpty then [] else b.badCols }).bondTidy bk
      let struck := !b.badCols.isEmpty
      match ms.find? fun m => !(s.sharePlane b x m).latched with
      | some m => finish s (if struck then 0x29#32 else 0x28#32 ||| (BitVec.ofNat 32 m <<< 8))
      | none => match ms.find? fun m => (s.sharePlane b x m).faulted with
        | some m => finish s (if struck then 0x29#32 else 0x2A#32 ||| (BitVec.ofNat 32 (s.sharePlane b x m).fgroup <<< 8))
        | none =>
          let (s, rows, rep) := (List.range b.h).foldl (fun (s, rows, rep) i =>
            let m := b.at_ i 0
            let o := s.op ((x.shares.find m).getD {}).op
            let g := s.gang (b.gangOf m)
            let (es, st', r) := g.takeScales (g.stream (o.arg 1)) (mxPpc (s.sharePlane b x m).wfmt)
            let row : ArrayRow := { planes := (List.range b.w).map fun c => s.sharePlane b x (b.at_ i c), a := wordBytes (Table.get [] x.granted m), afmt := o.arg 2, scales := es }
            (s.modGang (b.gangOf m) (·.setStream (o.arg 1) st'), rows ++ [row], match rep with
              | some (m0, r0) => if r != 0 && decide (m < m0) then some (m, r) else some (m0, r0)
              | none => if r = 0 then none else some (m, r))) ((s, [], none) : State × List ArrayRow × Option (Nat × Word))
          let s := (List.range b.w).foldl (fun s c =>
            if b.badCols.contains c then s
            else
              let row := ((x.shares.find (b.at_ (b.h - 1) c)).getD {}).row
              s.modGang (b.gangOf (b.at_ (b.h - 1) c)) fun g => g.addRow row (southPartial rows c)) s
          finish s (if struck then 0x29#32 else (rep.map (·.2)).getD 0)

/-- ROUND_COMPLETE. -/
def execRoundComplete (s : State) : Out := .next (s.roundComplete s.ev.a)

/-! ### Forming (R276, R277) -/

/-- Status 0x28 with a detail. -/
def bondStatus (d : Nat) : Word := BitVec.ofNat 32 (0x28 + d * 256)

/-- The gangs of the lowest `n` ranks of a cohort, where all are there. -/
def State.ranks (s : State) (c n : Nat) : Option (List Nat) :=
  let gs := (List.range n).filterMap fun r => (s.cohort c).gangs.find r
  if gs.length = n && gs.all fun g => !(s.gang g).ended then some gs else none

/-- BFORM's checks and its start, as it is accepted. -/
def State.startBond (s : State) (r : Nat) : State :=
  let o := s.op r
  match o.instr with
  | .bform w =>
    let h := (w.imm.extractLsb' 0 3).toNat + 1
    let wd := (w.imm.extractLsb' 3 3).toNat + 1
    let c := (w.imm.extractLsb' 7 3).toNat
    let g := s.gang o.gang
    let own := s.cohort g.cohort
    let home := s.convHome g.cohort
    let dir := (s.cohort home).dir
    let seam := w.imm.getLsbD 6
    let sd := if seam then some dir else none
    let v := s.conv home c
    let bad (d : Nat) : State := s.resolve r (bondStatus d)
    let other := (s.cohort home).partner.getD home
    let outOfService := !(s.status.dies.getLsbD (s.cohortCluster home / 16)) || !(s.status.dies.getLsbD (s.cohortCluster other / 16))
    if g.rank ≠ 0 ∨ (seam = true ∧ home ≠ g.cohort) then bad 1
    else if seam != own.partner.isSome || !shapeOk h wd sd || (seam && outOfService) then bad 2
    else
      let n := if seam then h * wd / 2 else h * wd
      match s.ranks home n, s.ranks other n with
      | some a, some b =>
        let ms := if seam then a ++ b else a
        if (s.bondAt home).isSome then bad 4
        else if !v.decl.isEmpty || v.bound then bad 5
        else if g.tag.isSome && ms.any fun m => (s.gang m).tile != g.tile then bad 6
        else
          let (bk, s) := s.fresh
          { s with bonds := Table.insert s.bonds bk { h := h, w := wd, seam := seam, dir := if seam then dir else 0, cohort := home, c := c, members := ms, state := .forming, op := r } }
      | _, _ => bad 3
  | _ => s

/-- BFORM. -/
def execBform (w : FX) (s : State) : Out :=
  weaveOnly s fun k =>
    s.runWord k (fxGate (s.gang k.gk) w .bc 0 (w.dbase == 0 && w.subop == 0 && w.imm.extractLsb' 10 14 == 0 && !w.noh) false) fun e _ s =>
      s.command k e w (.bform w) .bc fun o => o

/-- The planes of a gang, with what they hold. -/
def State.heldPlanes (s : State) (gk : Nat) : List Plane := (s.gang gk).planes.map (s.core (s.gang gk).core).plane

/-- Gangs may stand on these cores: no core of another bond is among them, each is free, or holds members, and what else
stands on it leaves planes enough (R268, R277). -/
def State.rectangleFree (s : State) (ms cores : List Nat) : Bool :=
  !(s.bonds.any fun e => e.2.state != .forming && e.2.members.any fun m => (s.gangs.find m).isSome && cores.contains (s.gang m).core) &&
  cores.all (fun c => s.gangs.all fun e => e.2.core != c || e.2.ended || ms.contains e.1 || (ms.any fun m => (s.gang m).core == c && e.2.launch == (s.gang m).launch)) &&
  (ms.zip cores).all fun e => decide ((s.gang e.1).planes.length ≤
    ((List.range 4).filter fun i => match ((s.core e.2).plane i).owner with
      | none => true
      | some o => ms.contains o).length)

/-- A gang that is to move has no queued store, no command that is not accepted and no matrix operation in hand (R135). -/
def State.canMove (s : State) (gk : Nat) : Bool :=
  (s.weavesOf gk).all (fun wk => (s.weave wk).sq.isEmpty) &&
  !s.ops.any fun e => e.2.gang == gk && !e.2.stopped && (e.2.engine == .mx || !e.2.accepted)

/-- Moves gangs to cores (R135): a release and an acquire, with their planes and operations. -/
def State.moveGangs (s : State) (mv : List (Nat × Nat)) : State :=
  let held := mv.map fun e => (e.1, e.2, s.heldPlanes e.1, (s.gang e.1).core)
  let s := held.foldl (fun s e => s.modCore e.2.2.2 fun c => (s.gang e.1).planes.foldl (fun c i => c.setPlane i {}) c) s
  let s := held.foldl (fun s e =>
    let free := ((s.core e.2.1).freePlanes).take e.2.2.1.length
    let s := s.modCore e.2.1 fun c => (free.zip e.2.2.1).foldl (fun c x => c.setPlane x.1 x.2) c
    let s := { s with ops := s.ops.mapVals fun _ (o : AsyncOp) => if o.gang = e.1 then { o with core := e.2.1 } else o }
    ((s.modGang e.1 fun g => { g with core := e.2.1, planes := free }).enterCore e.2.1 (s.gang e.1).launch).acquire e.2.1 (s.gang e.1).part) s
  held.foldl (fun s e => s.leaveCore e.2.2.2 (s.gang e.1).launch) s

/-- BOND_FORM_COMPLETE: the members stand at their positions, those that do not are moved. -/
def State.formBond (s : State) (bk : Nat) : State :=
  match s.bonds.find bk with
  | none => s
  | some b =>
    if b.state ≠ .forming ∨ b.stopped = true then s
    else if (s.op b.op).state ≠ .pending then { s with bonds := s.bonds.erase bk }
    else
      let k1 := s.cohortCluster b.cohort
      let k2 := s.cohortCluster ((s.cohort b.cohort).partner.getD b.cohort)
      let rs := rectangles b.h b.w b.seamDir k1 k2
      let here := b.members.map fun m => (s.gang m).core
      let fits := rs.filter fun r => s.rectangleFree b.members r && (b.members.zip r).all fun e => (s.gang e.1).core == e.2 || s.canMove e.1
      let (n, s) := s.takeFree 1
      match (if fits.contains here then some here else fits[Config.freeNat n % max 1 fits.length]?) with
      | none => s
      | some r =>
        let s := s.moveGangs ((b.members.zip r).filter fun e => (s.gang e.1).core != e.2)
        let s := (s.modBond bk fun b => { b with state := .formed }).setConv (s.bondHome b) b.c { s.conv (s.bondHome b) b.c with bound := false }
        s.resolve b.op 0

/-- BOND_FORM_COMPLETE. -/
def execBondFormComplete (s : State) : Out := .next (s.formBond s.ev.a)

/-! ### Leases and status (R278, R280, R284) -/

/-- The gate of an F3 word of the bond controller. -/
def bcGate (g : Gang) (w : F3) (dst a b : Operand → Bool) (ok : Bool) (vals : List Operand) : Gate :=
  { mxGate g w dst a b ok vals with engine := .bc }

/-- The weaves of a mask that are of the general or matrix role. -/
def Gang.matrixWeaves (g : Gang) (m : BitVec 16) : Bool :=
  (List.range g.weaves).any fun n => m.getLsbD n && roleOf g n % 2 == 0

/-- BLEASE. -/
def execBlease (w : F3) (s : State) : Out :=
  weaveOnly s fun k =>
    s.runWord k (bcGate (s.gang k.gk) w isS isSorInt isUnused (w.mods == 0) [w.a]) fun e act s =>
      onceReal k act s fun s =>
        let g := s.gang k.gk
        let mask : BitVec 16 := (e.rd s.ops 0 w.a 0).setWidth 16
        match (match s.bondOf k.gk with | some x => some x | none => s.bondAt g.cohort) with
        | none => s.holdIssue k e .bondForming
        | some (bk, b) =>
          let m := b.memberOf k.gk
          let all := Table.get 0 b.leases m ||| mask
          if b.state == .forming || b.state == .surrendered then s.holdIssue k e .bondForming
          else if !b.members.contains k.gk then s.answer k act w.dst 1
          else if mask = 0 || decide (2 ^ g.weaves ≤ mask.toNat) || !g.matrixWeaves all then s.answer k act w.dst 2
          else if b.state ≠ .formed then s.answer k act w.dst 3
          else (s.modBond bk fun b => { b with leases := Table.set 0 b.leases m all }).answer k act w.dst 0

/-- BREL. -/
def execBrel (w : F3) (s : State) : Out :=
  weaveOnly s fun k =>
    s.runWord k (bcGate (s.gang k.gk) w isUnused isSorInt isUnused (w.mods == 0) [w.a]) fun e act s =>
      onceReal k act s fun s => (s.endLeases k.gk ((e.rd s.ops 0 w.a 0).setWidth 16)).advance k act

/-- The number of a bond's state. -/
def bondCode : BondState → Nat
  | .none => 0 | .forming => 1 | .formed => 2 | .dissolving => 3 | .lost => 4 | .surrendered => 5

/-- What BSTAT reads. -/
def State.bstat (s : State) (gk sel : Nat) : Word :=
  match s.bondOf gk with
  | none => 0
  | some (_, b) =>
    let m := b.memberOf gk
    let (r, c) := b.pos m
    match sel with
    | 0 => BitVec.ofNat 32 (bondCode b.state + (b.h - 1) * 2 ^ 3 + (b.w - 1) * 2 ^ 6 + (if b.seam then 2 ^ 9 else 0) +
        (if b.seam then (s.cohort (s.gang gk).cohort).dir else 0) * 2 ^ 10 + b.c * 2 ^ 12 + m * 2 ^ 15 + r * 2 ^ 20 + c * 2 ^ 23)
    | 1 => (Table.get 0 b.lost m) ++ (Table.get 0 b.leases m)
    | 2 => b.rounds
    | _ => 0

/-- BSTAT. -/
def execBstat (w : F3) (s : State) : Out :=
  weaveOnly s fun k =>
    s.runWord k (bcGate (s.gang k.gk) w isS isSorInt isUnused (w.mods == 0) [w.a]) fun e act s =>
      onceReal k act s fun s => s.answer k act w.dst (s.bstat k.gk (e.rd s.ops 0 w.a 0).toNat)

/-! ### Seam pairing (R274, R275) -/

/-- The unpaired cohorts of a launch on a cluster, lowest number first. -/
def State.unpaired (s : State) (l cl : Nat) : List Nat :=
  (sortBy (fun (a b : Nat × Cohort) => decide (a.2.idx ≤ b.2.idx))
    (s.cohorts.filter fun e => e.2.launch == l && e.2.partner.isNone && !e.2.gangs.isEmpty && s.cohortCluster e.1 == cl)).map (·.1)

/-- The gang of rank 0 of a cohort and the request that it waits with. -/
def State.pairAsk (s : State) (c : Nat) : Option (Nat × Nat × Nat) :=
  ((s.cohort c).gangs.find 0).bind fun g => (s.gang g).seamAsk.map fun x => (g, x.1, x.2)

def State.pairCohorts (s : State) (c d dir : Nat) : State :=
  (s.modCohort c fun x => { x with partner := some d, dir := dir }).modCohort d fun x => { x with partner := some c, dir := (dir + 2) % 4 }

/-- BSEAM.pair in its turn: its answer, or none while it waits. -/
def State.seamPair (s : State) (k : Ctx) (dir : Nat) : State × Option Word :=
  let g := s.gang k.gk
  let me := g.cohort
  let asked := g.seamAsk
  let clear (s : State) : State := s.modGang k.gk fun g => { g with seamAsk := none }
  match (if dir ≤ 3 then facing (g.core / 16) dir else none) with
  | none => (s, some 1)
  | some cl =>
    if asked == some (k.wk, dir + 8) then (clear s, some 5)
    else if (s.cohort me).partner.isSome then
      if asked == some (k.wk, dir) then (clear s, some 0) else (s, some 2)
    else match s.unpaired g.launch cl with
      | [] => (clear s, some 3)
      | c :: _ =>
        if g.rank ≠ 0 then (s, some 4)
        else match s.pairAsk c with
          | some (pg, pw, pd) =>
            if pd = (dir + 2) % 4 then
              let second := if dir = 1 ∨ dir = 2 then c else me
              if (s.cohort second).conv.any fun e => !e.2.decl.isEmpty then
                (clear (s.modGang pg fun x => { x with seamAsk := some (pw, pd + 8) }), some 5)
              else (clear (s.pairCohorts me c dir), some 0)
            else (s.modGang k.gk fun g => { g with seamAsk := some (k.wk, dir) }, none)
          | none => (s.modGang k.gk fun g => { g with seamAsk := some (k.wk, dir) }, none)

/-- BSEAM.pair. -/
def execBseamPair (w : F3) (s : State) : Out :=
  weaveOnly s fun k =>
    s.runWord k (bcGate (s.gang k.gk) w isS isSorInt isUnused (w.mods.extractLsb' 2 3 == 0) [w.a]) fun e act s =>
      onceReal k act s fun s =>
        let dir := (e.rd s.ops 0 w.a 0).toNat
        match s.seamPair k dir with
        | (s, some v) => s.answer k act w.dst v
        | (s, none) => s.holdIssue k e (.seamAsk dir)

/-- BSEAM.q. -/
def execBseamQ (w : F3) (s : State) : Out :=
  weaveOnly s fun k =>
    s.runWord k (bcGate (s.gang k.gk) w isS isSorInt isUnused (w.mods == 0) [w.a]) fun e act s =>
      onceReal k act s fun s =>
        let dir := (e.rd s.ops 0 w.a 0).toNat
        let c := s.cohort (s.gang k.gk).cohort
        let there := decide (dir ≤ 3) && (facing (k.core / 16) dir).isSome
        s.answer k act w.dst (BitVec.ofNat 32 ((if there then 1 else 0) + if c.partner.isSome then 2 + 4 * c.dir else 0))

/-- BSEAM.un. -/
def execBseamUn (w : F3) (s : State) : Out :=
  weaveOnly s fun k =>
    s.runWord k (bcGate (s.gang k.gk) w isS isUnused isUnused (w.mods.extractLsb' 2 3 == 0) []) fun _ act s =>
      onceReal k act s fun s =>
        let me := (s.gang k.gk).cohort
        match (s.cohort me).partner with
        | none => s.answer k act w.dst 2
        | some _ => if (s.bondAt me).isSome then s.answer k act w.dst 6 else (s.unpair me).answer k act w.dst 0

/-! ### Weighted slot tables (R289) -/

def State.modTab (s : State) (core unit : Nat) (f : SlotTable → SlotTable) : State :=
  s.modCore core fun c => { c with tabs := Table.set {} c.tabs unit (f (Table.get {} c.tabs unit)) }

/-- The partition of a slot's context. -/
def State.slotPart (s : State) (core n : Nat) : Option Nat := (Table.get none (s.core core).ctxs n).map fun l => (s.launch l).part

/-- The table after a write of sixteen 4-bit entries, filtered by partition. -/
def State.slotWrite (s : State) (core unit part v : Nat) : List (Bool × Nat) :=
  let t := Table.get {} (s.core core).tabs unit
  let others (n : Nat) : Bool := match s.slotPart core n with
    | some q => q != part
    | none => false
  (List.range 16).map fun i =>
    let now := t.ents.getD i (false, 0)
    let old := (t.next.getD t.ents).getD i (false, 0)
    let x := bits v (4 * i + 3) (4 * i)
    if (now.1 && others now.2) || (bit x 3 && others (x % 4)) then old else (bit x 3, x % 4)

/-- WSLOT. -/
def execWslot (w : F3) (s : State) : Out :=
  weaveOnly s fun k =>
    s.runWord k { bcGate (s.gang k.gk) w isUnused isS isS (w.mods.extractLsb' 3 2 == 0) [w.a, w.b] with privileged := true } fun e act s =>
      onceReal k act s fun s =>
        let v := (pair (e.rd s.ops 0 w.a 0) (e.rd s.ops 1 w.b 0)).toNat
        let u := (w.mods.extractLsb' 0 2).toNat
        (s.modTab k.core u fun t => { t with next := some (s.slotWrite k.core u k.part v) }).advance k act

/-- Eight entries as a word. -/
def slotWord (es : List (Bool × Nat)) : Word :=
  BitVec.ofNat 32 (es.zipIdx.foldl (fun t e => t + ((if e.1.1 then 8 else 0) + e.1.2 % 4) * 16 ^ e.2) 0)

/-- WSLOT.rd. -/
def execWslotRd (w : F3) (s : State) : Out :=
  weaveOnly s fun k =>
    let gt := bcGate (s.gang k.gk) w isPairS isUnused isUnused (w.mods.extractLsb' 3 2 == 0 && inDemand (s.gang k.gk) w.dst 2) []
    s.runWord k { gt with privileged := true } fun _ act s =>
      onceReal k act s fun s =>
        let es := (Table.get {} (s.core k.core).tabs (w.mods.extractLsb' 0 2).toNat).ents
        s.answer2 k act w.dst (pair (slotWord (es.take 8)) (slotWord (es.drop 8)))

/-! ### BSAVE and BRESUME (R286 to R288) -/

/-- The gate and the record of BSAVE and BRESUME. -/
def State.bondCommand (s : State) (k : Ctx) (w : FX) (i : Instr) : State :=
  s.runWord k { fxGate (s.gang k.gk) w .bc 0 (w.dbase == 0 && w.subop == 0 && w.imm == 0 && !w.noh) false with privileged := true } fun e _ s =>
    s.command k e w i .bc fun o => { o with aux := touches 0 0 0 0 touchAll }

/-- BSAVE. -/
def execBsave (w : FX) (s : State) : Out := weaveOnly s fun k => s.bondCommand k w (.bsave w)

/-- BRESUME. -/
def execBresume (w : FX) (s : State) : Out := weaveOnly s fun k => s.bondCommand k w (.bresume w)

/-- The size of a weave block of the save area (R217). -/
def Gang.weaveBlock (g : Gang) : Nat := (2560 + 128 * g.vreg + 4 * g.sreg + 63) / 64 * 64

/-- The offset of the accumulator section of the save area. -/
def Gang.accSection (g : Gang) : Nat := 0x440 + g.weaves * g.weaveBlock + 256 * g.spb

/-- The bond block of a gang (R287). -/
def State.bondBlock (s : State) (gk : Nat) : List Byte :=
  match s.bondOf gk with
  | none => List.replicate 256 (0 : Byte)
  | some (_, b) =>
    let m := b.memberOf gk
    let (r, c) := b.pos m
    let st := if b.state = .surrendered then b.before_ else b.state
    let q0 := b.h - 1 + (b.w - 1) * 2 ^ 3 + (if b.seam then 2 ^ 6 else 0) + (if b.seam then (s.cohort (s.gang gk).cohort).dir else 0) * 2 ^ 7 +
      b.c * 2 ^ 9 + m * 2 ^ 12 + r * 2 ^ 17 + c * 2 ^ 20 + bondCode st * 2 ^ 23 + (s.gang (b.gangOf 0)).g * 2 ^ 32
    let q1 := (Table.get 0 b.leases m).toNat + (Table.get 0 b.lost m).toNat * 2 ^ 16 + b.rounds.toNat * 2 ^ 32
    let q2 := match b.shares.find m with
      | none => 0
      | some sh =>
        let hnd := ((List.range 16).find? fun i => Table.get none (s.weave sh.wk).handles i == some sh.op).getD 16
        1 + sh.wk % 16 * 2 + sh.opc * 2 ^ 5 + sh.srca * 2 ^ 15 + sh.row * 2 ^ 24 + sh.plane * 2 ^ 35 + sh.stream * 2 ^ 37 + hnd * 2 ^ 38
    bytesOf 8 q0 ++ bytesOf 8 q1 ++ bytesOf 8 q2 ++ List.replicate 232 (0 : Byte)

/-- Every entry of a gang's rows, 8 bytes each. -/
def Gang.accBytes (g : Gang) : List Byte :=
  (List.range (32 * g.accr)).flatMap fun i => bytesOf 8 (Table.get 0 g.acc i).toNat

/-- BSAVE in its turn. -/
def State.bondSave (s : State) (r : Nat) : State :=
  let o := s.op r
  let g := s.gang o.gang
  let at_ := g.saveb.toNat + g.accSection
  match s.engWriteAll (o.ask 2) [(at_, g.accBytes), (at_ + 256 * g.accr, s.contextBlock o.gang), (at_ + 256 * g.accr + 0xC200, s.bondBlock o.gang)] with
  | (s, .bytes _) => s.mxReport r 0
  | (s, x) => s.gotStop r x

/-- The unfinished BRESUME of a member. -/
def State.resumeOp (s : State) (gk : Nat) : Option Nat :=
  (s.ops.find? fun e => e.2.gang == gk && e.2.phase == 1 && !e.2.stopped && (match e.2.instr with
    | .bresume _ => true
    | _ => false)).map (·.1)

/-- The share that a bond block records for member `m`: its record is that of its handle, else the one that the bond kept; one
that neither names is no share. -/
def State.restoreShare (s : State) (b : Bond) (m q2 : Nat) : State × Option Share :=
  if !bit q2 0 then (s, none)
  else
    let gk := b.gangOf m
    let wk := 16 * gk + bits q2 4 1
    let hnd := bits q2 42 38
    let sh : Share := { wk := wk, opc := bits q2 14 5, srca := bits q2 23 15, row := bits q2 34 24, plane := bits q2 36 35, stream := bits q2 37 37 }
    let byHandle := if hnd < 16 then Table.get none (s.weave wk).handles hnd else none
    match byHandle, b.shares.find m with
    | some r, _ => (s, some { sh with op := r })
    | none, some old => (s, some { sh with op := old.op })
    | none, none => (s, none)

/-- The leases of a bond in the order in which they are surrendered (R286): weaves of the vector role, of the copy role, then
the others by member and weave number, and last the anchor weave. -/
def State.leaseOrder (s : State) (b : Bond) : List (Nat × Nat) :=
  let all := b.members.zipIdx.flatMap fun e =>
    ((List.range 16).filter fun w => (Table.get 0 b.leases e.2).getLsbD w).map fun w => (e.2, w)
  let role (x : Nat × Nat) : Nat := roleOf (s.gang (b.gangOf x.1)) x.2
  let mx := all.filter fun x => role x % 2 == 0
  let anchor := mx.filter fun x => x.1 == 0
  all.filter (role · == 3) ++ all.filter (role · == 1) ++ (mx.filter fun x => !(anchor.take 1).contains x) ++ anchor.take 1

/-- All members have resumed: the shares come back, and the leases are to be granted again, in the reverse of the order of
their surrender. -/
def State.bondRestore (s : State) (bk : Nat) (b : Bond) : State :=
  let ops := b.members.filterMap fun gk => (s.resumeOp gk).map fun r => (b.memberOf gk, r)
  let (s, shares, leases, lost, rounds) := ops.foldl (fun (s, sh, le, lo, _) e =>
    let q (i : Nat) : Nat := ((s.op e.2).amat.getD i 0).toNat
    let (s, x) := s.restoreShare b e.1 (q 4 + q 5 * 2 ^ 32)
    (s, (match x with | some x => Table.insert sh e.1 x | none => sh), Table.set 0 le e.1 (BitVec.ofNat 16 (q 2)),
      Table.set 0 lo e.1 (BitVec.ofNat 16 (q 2 / 2 ^ 16)), BitVec.ofNat 32 (q 3))) ((s, [], [], [], 0) : State × Table Share × Table (BitVec 16) × Table (BitVec 16) × Word)
  let held : Bond := { b with leases := leases }
  s.modBond bk fun b => { b with
    shares := shares, leases := [], lost := lost, rounds := rounds, given := [], regrant := (s.leaseOrder held).reverse }

/-- The next lease of a bond whose members have all resumed is granted again; after the last, every BRESUME resolves with 0
and the bond is what it was (R288). -/
def State.regrantNext (s : State) (bk : Nat) (b : Bond) : State :=
  match b.regrant with
  | (m, w) :: rest => s.modBond bk fun b => { b with leases := addMask b.leases m (BitVec.ofNat 16 (2 ^ w)), regrant := rest }
  | [] =>
    let s := s.modBond bk fun b => { b with
      state := if b.before_ = .none then .formed else b.before_, before_ := .none, stopped := false, resumed := [] }
    let s := b.members.foldl (fun s gk => match s.resumeOp gk with
      | some r => s.mxReport r 0
      | none => s) s
    s.convCheck (s.bondHome b) b.c

/-- BRESUME in its turn: it reads its gang's areas back, and the last member's completes all. -/
def State.bondResume (s : State) (r : Nat) : State :=
  let o := s.op r
  let g := s.gang o.gang
  let at_ := g.saveb.toNat + g.accSection
  if o.phase = 1 then (match s.bondOf o.gang with
    | some (bk, x) => if x.resumed.length = x.members.length then s.regrantNext bk x else s
    | none => s)
  else match s.engReadAll (o.ask 2) [(at_, 256 * g.accr), (at_ + 256 * g.accr, 0xC200), (at_ + 256 * g.accr + 0xC200, 256)] with
    | (s, .bytes b) =>
      let s := s.modGang o.gang fun g => g.setRows (List.range g.accr) fun x c => BitVec.ofNat 48 (leNat ((b.drop (256 * x + 8 * c)).take 8))
      let (s, ok) := s.restoreBlock o.gang ((b.drop (256 * g.accr)).take 0xC200)
      let words := (List.range 6).map fun i => BitVec.ofNat 32 (leNat ((b.drop (256 * g.accr + 0xC200 + 4 * i)).take 4))
      match s.bondOf o.gang with
      | none => s.mxReport r (if ok then 0 else 0x29#32)
      | some (bk, x) =>
        if x.state ≠ .surrendered then s.mxReport r (if ok && x.state ≠ .lost then 0 else 0x29#32)
        else if !ok || x.before_ = .lost then
          let s := x.members.foldl (fun s gk => match s.resumeOp gk with
            | some q => s.mxReport q 0x29#32
            | none => s) (s.mxReport r 0x29#32)
          (s.loseBond bk).modBond bk fun b => { b with state := .lost, before_ := .none, stopped := false, resumed := [], given := [], regrant := [] }
        else
          let s := s.modOp r fun o => { o with phase := 1, amat := words }
          let all := (x.memberOf o.gang :: x.resumed).dedup
          let s := s.modBond bk fun b => { b with resumed := all }
          if all.length = x.members.length then s.bondRestore bk { x with resumed := all } else s
    | (s, x) => s.gotStop r x

/-- Pre-emption of a bonded launch reaches it (R286): no further round issues; a forming bond is given up. -/
def State.stopBond (s : State) (bk : Nat) : State :=
  match s.bonds.find bk with
  | none => s
  | some b => if b.state == .forming then { s with bonds := s.bonds.erase bk } else s.modBond bk fun b => { b with stopped := true }

/-- A stopped bond is drained: nothing is armed or in flight. -/
def Bond.drained (b : Bond) : Bool := b.stopped && b.armed.isNone && b.flight.isEmpty

/-- The next lease of a drained bond is surrendered: the weave's commands that target the bond's edges stop at their unit
boundary, and its gang's bound share stays in the record; after the last, the anchor weave's, the bond is in the surrendered
state (R286). -/
def State.surrenderNext (s : State) (bk : Nat) (b : Bond) : State :=
  match (s.leaseOrder b).find? fun x => !b.given.contains x with
  | some x =>
    let edge (o : AsyncOp) : Bool := o.wk == 16 * b.gangOf x.1 + x.2 && (match o.instr with
      | .tmcast w => w.subop != 0
      | _ => false)
    { s with ops := s.ops.mapVals fun _ (o : AsyncOp) => if edge o && !o.stopped then { o with paused := true } else o }.modBond bk
      fun b => { b with given := b.given ++ [x] }
  | none => s.modBond bk fun b => { b with before_ := b.state, state := .surrendered }

/-! ### Units of the other commands (R267) -/

/-- MATRIX_COMMAND_UNIT. -/
def State.mxUnit (s : State) (r : Nat) : State :=
  let o := s.op r
  if !s.mxReady r then s
  else match o.instr with
    | .wlatch _ => s.latchPlane r
    | .cbkld w => (s.modGang o.gang fun g => { g with codebook := codebookOf (g.spRead w.imm.toNat 32) }).mxReport r 0
    | .accz _ => (s.modGang o.gang fun g => g.setRows (unitRows (o.aux.getD 0 0).toNat (o.aux.getD 1 0).toNat o.unit) fun _ _ => 0).unitDone r
    | .accrd w => s.accrdNow r w
    | .accwr _ => (s.modGang o.gang fun g => g.writeRow (o.aux.getD 0 0).toNat (o.aux.getD 5 0) (o.arg 1 == 1) o.amat).resolve r 0
    | .accld w => if w.subop = 3 then s.accContext r true else s.accldUnit r w.subop.toNat
    | .accst w => if w.subop = 3 then s.accContext r false else s.accstUnit r w.subop.toNat (w.imm.extractLsb' 0 3 == 4)
    | .accprom w => s.promNow r w
    | .drainundo _ => s.undoUnit r
    | .bsave _ => s.bondSave r
    | .bresume _ => s.bondResume r
    | _ => s

/-- MATRIX_COMMAND_UNIT. -/
def execMatrixCommandUnit (s : State) : Out := .next (s.mxUnit s.ev.a)

end Sys2Proof.Machine
end

