-- ==== Sys2Proof/Machine/Copy.lean ====
section
/-! DEFINITION. The copy engine and the stride-gather unit: copies, fills, multicast, quantisation, storage transfers,
prefetch and patterns (spec/12_copy.md, R290 to R310; spec/04_numbers.md, R115 to R117). -/

namespace Sys2Proof.Machine

open Sys2Proof

/-! ### Issue (R293, R294) -/

/-- The gate of an FX word of the copy engine: IMM has no bit outside `mask`, a rounding code where `rnd`, and the seed
register after the descriptor when the code is sr. -/
def ceGate (g : Gang) (w : FX) (n : Nat) (mask : BitVec 24) (rnd guarded ok : Bool) : Gate :=
  let code := (w.imm.extractLsb' 0 3).toNat
  let n := if rnd && code == 4 then n + 1 else n
  fxGate g w .ce n (w.imm &&& ~~~(mask ||| 0x800000#24) == 0 && (!rnd || decide (code ≤ 4)) && (n != 0 || w.dbase == 0) && ok) guarded

/-- Issues a command of this engine, its address registers aligned as R294 says, as (register, alignment). -/
def State.issueCe (s : State) (k : Ctx) (e : Env) (act : BitVec 32) (w : FX) (i : Instr) (al : List (Nat × Nat)) : State :=
  let at_ (j : Nat) : Dbl := pair (e.dreg w j) (e.dreg w (j + 1))
  match al.find? fun x => (at_ x.1).toNat % x.2 != 0 with
  | some x => s.fault k act 0x12#32 (at_ x.1)
  | none => s.command k e w i .ce id

/-- TCOPY. -/
def execTcopy (w : FX) (s : State) : Out :=
  weaveOnly s fun k => s.runWord k (ceGate (s.gang k.gk) w 4 0xF true false (w.subop == 0)) fun e act s =>
    s.issueCe k e act w (.tcopy w) [(0, 64), (2, 64)]

/-- Element width in bits of a format code (R290); 0 for none. -/
def elemBits (f : Nat) : Nat :=
  match f with
  | 0 => 32 | 1 => 16 | 2 => 16 | 3 => 8 | 4 => 8 | 5 => 32 | 6 => 32 | 7 => 8 | 8 => 8 | 9 => 4 | 11 => 4 | 12 => 1 | 13 => 2
  | _ => 0

/-- TCOPY.g. -/
def execTcopyG (w : FX) (s : State) : Out :=
  weaveOnly s fun k =>
    let sf := (w.imm.extractLsb' 8 4).toNat
    s.runWord k (ceGate (s.gang k.gk) w 4 0xFFF true false (w.subop == 1 && decide (sf ≤ 9))) fun e act s =>
      s.issueCe k e act w (.tcopyG w) [(0, max 1 (elemBits sf / 8)), (2, 64)]

/-- TMCAST. -/
def execTmcast (w : FX) (s : State) : Out :=
  weaveOnly s fun k => s.runWord k (ceGate (s.gang k.gk) w 5 0xF true false (decide (w.subop.toNat ≤ 3))) fun e act s =>
    s.issueCe k e act w (.tmcast w) [(0, 64), (2, 64)]

/-- TQNT. -/
def execTqnt (w : FX) (s : State) : Out :=
  weaveOnly s fun k => s.runWord k (ceGate (s.gang k.gk) w 7 0x7 true false (decide (w.subop.toNat ≤ 3))) fun e act s =>
    s.issueCe k e act w (.tqnt w) [(0, 64), (2, 64), (4, 16)]

/-- TDQ. -/
def execTdq (w : FX) (s : State) : Out :=
  weaveOnly s fun k => s.runWord k (ceGate (s.gang k.gk) w 7 0xF true false (decide (w.subop.toNat ≤ 3))) fun e act s =>
    s.issueCe k e act w (.tdq w) [(0, 64), (2, 16), (4, 64)]

/-- SLOAD: guard fault in a surrogate gang. -/
def execSload (w : FX) (s : State) : Out :=
  weaveOnly s fun k => s.runWord k (ceGate (s.gang k.gk) w 5 0xF false true (w.subop == 0)) fun e act s =>
    s.issueCe k e act w (.sload w) []

/-- SSTORE: guard fault in a surrogate gang. -/
def execSstore (w : FX) (s : State) : Out :=
  weaveOnly s fun k => s.runWord k (ceGate (s.gang k.gk) w 5 0xF false true (decide (w.subop.toNat ≤ 1))) fun e act s =>
    s.issueCe k e act w (.sstore w) []

/-- BPREF. -/
def execBpref (w : FX) (s : State) : Out :=
  weaveOnly s fun k => s.runWord k (ceGate (s.gang k.gk) w (if w.subop = 1 then 5 else 3) 0 false false (decide (w.subop.toNat ≤ 1))) fun e act s =>
    s.issueCe k e act w (.bpref w) []

/-- SGPAT. -/
def execSgpat (w : FX) (s : State) : Out :=
  weaveOnly s fun k => s.runWord k (ceGate (s.gang k.gk) w 5 0xF false false (w.subop == 0)) fun e act s =>
    s.issueCe k e act w (.sgpat w) []

/-- SGPAT.inv. -/
def execSgpatInv (w : FX) (s : State) : Out :=
  weaveOnly s fun k => s.runWord k (ceGate (s.gang k.gk) w 0 0xF false false (w.subop == 1)) fun e act s =>
    s.issueCe k e act w (.sgpatInv w) []

/-- TFILL. -/
def execTfill (w : FX) (s : State) : Out :=
  weaveOnly s fun k => s.runWord k (ceGate (s.gang k.gk) w 3 0 false false (w.subop == 0)) fun e act s =>
    s.issueCe k e act w (.tfill w) [(0, 64)]

/-- SGSTAT (R309). -/
def execSgstat (w : F3) (s : State) : Out :=
  weaveOnly s fun k =>
    s.runWord k { mxGate (s.gang k.gk) w isS isSorInt isUnused (modsIn w.mods 1) [w.a] with engine := .ce } fun e act s =>
      once act s fun s =>
        let a := (e.rd s.ops 0 w.a 0).toNat
        let x := Table.get {} (s.part k.part).gather (a / 4)
        let v : Word :=
          if 32 ≤ a then 0
          else match a % 4 with
            | 0 => if x.valid then BitVec.ofNat 32 (x.detail % 256 + x.pattern % 16 * 256) else 0
            | 1 => loWord x.addr
            | 2 => hiWord x.addr
            | _ => x.count
        let s := if w.mods.getLsbD 0 && decide (a < 32) then s.modPart k.part fun p => { p with gather := p.gather.erase (a / 4) } else s
        s.answer k act w.dst v

/-! ### Records (R290 to R292) -/

/-- The element count of a record, its rows, and the elements of a row. -/
def ShapeRec.count (x : ShapeRec) : Nat := x.dims.foldl (fun n d => n * d.1) 1
def ShapeRec.rows (x : ShapeRec) : Nat := (x.dims.drop 1).foldl (fun n d => n * d.1) 1
def ShapeRec.ext0 (x : ShapeRec) : Nat := ((x.dims.head?).map (·.1)).getD 1
def ShapeRec.stride0 (x : ShapeRec) : Int := ((x.dims.head?).map (·.2)).getD 0

/-- The least and the greatest address of an element, or of a row's first byte, before wrapping. -/
def ShapeRec.lowest (x : ShapeRec) : Int := x.dims.foldl (fun a d => a + min 0 (((d.1 : Int) - 1) * d.2)) x.base
def ShapeRec.highest (x : ShapeRec) : Int := x.dims.foldl (fun a d => a + max 0 (((d.1 : Int) - 1) * d.2)) x.base

/-- Why a record is refused: the detail of R310. `size` is the issuing gang's scratchpad allocation. -/
def ShapeRec.bad (x : ShapeRec) (size : Nat) : Option Nat :=
  let b := elemBits x.fmt
  let span := if b < 8 then x.ext0 * b / 8 else b / 8
  if x.ndim = 0 ∨ 14 < x.ndim ∨ b = 0 ∨ x.dirty = true ∨ x.dims.any (·.1 == 0) ∨ 2 ^ 40 < x.count ∨ (x.spad = true ∧ x.base / 2 ^ 32 ≠ 0) ∨
      (b < 8 ∧ (x.stride0 ≠ 0 ∨ x.ext0 * b % 8 ≠ 0)) then some 1
  else if 8 ≤ b ∧ (x.base % (b / 8) ≠ 0 ∨ x.dims.any fun d => decide (1 < d.1) && d.2 % ((b / 8 : Nat) : Int) != 0) then some 2
  else if x.spad = true ∧ (x.lowest < 0 ∨ (size : Int) < x.highest + span) then some 8
  else none

/-- The address of row `r`, before wrapping. -/
def ShapeRec.rowAt (x : ShapeRec) (r : Nat) : Int :=
  ((x.dims.drop 1).foldl (fun (a : Int × Nat) d => (a.1 + ((a.2 % max 1 d.1 : Nat) : Int) * d.2, a.2 / max 1 d.1)) ((x.base : Int), r)).1

/-- The byte address of element `k` in traversal order (R291). -/
def ShapeRec.elemAt (x : ShapeRec) (k : Nat) : Nat :=
  let b := elemBits x.fmt
  let i := k % x.ext0
  let a := x.rowAt (k / x.ext0) + (if b < 8 then ((i * b / 8 : Nat) : Int) else (i : Int) * x.stride0)
  (a % 2 ^ 64).toNat

/-- The regions in which elements of a record lie, where promotion is to be looked up. -/
def ShapeRec.regions (x : ShapeRec) : List Nat :=
  if x.prom && x.fmt == 2 then ((List.range x.count).map fun k => x.regionAt (x.elemAt k)).dedup else []

/-- The promoted regions of a record, read once. -/
def State.promotedOf (s : State) (q : EngAsk) (x : ShapeRec) : State × (List Nat ⊕ Got) :=
  x.regions.foldl (fun (s, g) i => match g with
    | .inl ps => match s.isPromoted q x i with
      | (s, .inl b) => (s, .inl (if b then ps ++ [i] else ps))
      | (s, .inr g) => (s, .inr g)
    | g => (s, g)) (s, .inl [])

/-- Bytes and numbers as words to keep in a command's record, and back: 72 words of a shape record, then pairs. -/
def wordsOfBytes (b : List Byte) : List Word := wordsOf (b.length / 4) b
def wordsOfNats (ns : List Nat) : List Word := ns.flatMap fun n => [BitVec.ofNat 32 n, BitVec.ofNat 32 (n / 2 ^ 32)]
def natsOfWords : List Word → List Nat
  | a :: b :: rest => (pair a b).toNat :: natsOfWords rest
  | _ => []

/-- A kept record and its promoted regions. -/
def recOf (ws : List Word) : ShapeRec × List Nat := (shapeOf (wordBytes (ws.take 72)), natsOfWords (ws.drop 72))

/-- Reads and checks a record and its region map. -/
def State.loadRec (s : State) (o : AsyncOp) (va : Nat) : State × (List Word ⊕ Got) :=
  match s.readRecord (o.ask 1) va with
  | (s, .bytes b) =>
    match (shapeOf b).bad (s.gang o.gang).spSize with
    | some d => (s, .inr (.fault (statusOf 0x21 d) va))
    | none => match s.promotedOf (o.ask 1) (shapeOf b) with
      | (s, .inl ps) => (s, .inl (wordsOfBytes b ++ wordsOfNats ps))
      | (s, .inr g) => (s, .inr g)
  | (s, g) => (s, .inr g)

/-! ### Elements in memory and in scratchpads -/

/-- Where an element, or a byte of packed elements, stands: its first element, address, bytes, in a scratchpad or not, and
whether it is FP32 storage of a promoted region. -/
structure Place where
  elem : Nat
  a : Nat
  n : Nat
  sp : Bool
  wide : Bool
  deriving DecidableEq, Repr

/-- The places of consecutive elements. -/
def ShapeRec.places (x : ShapeRec) (ps ks : List Nat) : List Place :=
  let b := elemBits x.fmt
  ks.filterMap fun k =>
    let a := x.elemAt k
    if b < 8 then if k % x.ext0 * b % 8 = 0 then some { elem := k, a := a, n := 1, sp := x.spad, wide := false } else none
    else if ps.contains (x.regionAt a) then some { elem := k, a := x.f32At a, n := 4, sp := false, wide := true }
    else some { elem := k, a := a, n := b / 8, sp := x.spad, wide := false }

/-- Reads places. -/
def State.readPlaces (s : State) (o : AsyncOp) (ps : List Place) : State × Got :=
  ps.foldl (fun (s, g) p => match g with
    | .bytes b =>
      if p.sp then (s, .bytes (b ++ (s.gang o.gang).spRead p.a p.n))
      else match s.engRead (o.ask 1) p.a p.n with
        | (s, .bytes c) => (s, .bytes (b ++ c))
        | x => x
    | g => (s, g)) (s, .bytes [])

/-- The elements that bytes of places hold, each with its format: FP32 in a promoted region. -/
def elemsAt (fmt : Nat) : List Place → List Byte → List (Nat × Nat)
  | [], _ => []
  | p :: ps, b =>
    let w := elemBits fmt
    (if w < 8 then (List.range (8 / w)).map fun i => (fmt, bits (b.headD 0).toNat (w * i + w - 1) (w * i))
      else [(if p.wide then 0 else fmt, leNat (b.take p.n))]) ++ elemsAt fmt ps (b.drop p.n)

/-- The formats in which places take elements. -/
def formatsAt (fmt : Nat) (ps : List Place) : List Nat :=
  ps.flatMap fun p => if elemBits fmt < 8 then List.replicate (8 / elemBits fmt) fmt else [if p.wide then 0 else fmt]

/-- The bytes of places for elements. -/
def placeBytes (fmt : Nat) : List Place → List Nat → List (Place × List Byte)
  | [], _ => []
  | p :: ps, vs =>
    let w := elemBits fmt
    if w < 8 then
      (p, [BitVec.ofNat 8 (((vs.take (8 / w)).zipIdx.foldl (fun t e => t + e.1 % 2 ^ w * 2 ^ (w * e.2)) 0))]) :: placeBytes fmt ps (vs.drop (8 / w))
    else (p, bytesOf p.n (vs.headD 0)) :: placeBytes fmt ps (vs.drop 1)

/-- The strides are nested, so that no two elements overlap. -/
def ShapeRec.nested (x : ShapeRec) : Bool :=
  let b := elemBits x.fmt
  let first := if b < 8 then x.ext0 * b / 8 else b / 8
  let ds := sortBy (fun (a c : Nat × Nat) => decide (a.2 ≤ c.2)) (((if b < 8 then x.dims.drop 1 else x.dims).filter fun d => decide (1 < d.1)).map fun d => (d.1, d.2.natAbs))
  (ds.foldl (fun (t : Bool × Nat) d => (t.1 && decide (t.2 ≤ d.2), t.2 + (d.1 - 1) * d.2)) (true, first)).1

/-- Element `k` of a destination overlaps an earlier one. -/
def ShapeRec.meetsEarlier (x : ShapeRec) (k : Nat) : Bool :=
  let n := max 1 (elemBits x.fmt / 8)
  !x.nested && (List.range k).any fun j =>
    decide ((x.elemAt k + 2 ^ 64 - x.elemAt j) % 2 ^ 64 < n) || decide ((x.elemAt j + 2 ^ 64 - x.elemAt k) % 2 ^ 64 < n)

/-- Writes elements at places of record `x`, into the scratchpads of `targets` where they stand in one; of elements that
overlap any may stay (R297). Every place is checked before any is written. -/
def State.putElems (s : State) (o : AsyncOp) (x : ShapeRec) (targets : List Nat) (ps : List Place) (vs : List Nat) : State × Got :=
  let ws := placeBytes x.fmt ps vs
  let (free, s) := s.takeFree ws.length
  let ws := (ws.zipIdx.filter fun e => !x.meetsEarlier e.1.1.elem || Config.freeBit (free + e.2)).map (·.1)
  match s.engWriteAll (o.ask 1) ((ws.filter fun e => !e.1.sp).map fun e => (e.1.a, e.2)) with
  | (s, .bytes _) =>
    (targets.foldl (fun s t => s.modGang t fun g => (ws.filter fun e => e.1.sp).foldl (fun g e => g.spWrite e.1.a e.2) g) s, .bytes [])
  | r => r

/-- A pair of different formats that the engine does not convert (R295). -/
def pairBad (sf df code : Nat) (sat : Bool) : Bool :=
  sf != df && (decide (10 ≤ sf) || decide (10 ≤ df) || (decide (5 ≤ df) && (sat || (decide (5 ≤ sf) && code != 0))))

/-- One element converted, and the generator after it. -/
def convertElem (sf df code : Nat) (sat : Bool) (v : Nat) (gen : Word) : Nat × Word :=
  if sf = df then (v, gen)
  else
    let (y, _, g) := vCvt sf df code sat (BitVec.ofNat 32 v) gen
    (y.toNat, g)

/-- Elements converted in order. -/
def convertAll (code : Nat) (sat : Bool) (gen : Word) (xs : List ((Nat × Nat) × Nat)) : List Nat × Word :=
  xs.foldl (fun (t : List Nat × Word) e =>
    let (y, g) := convertElem e.1.1 e.2 code sat e.1.2 t.2
    (t.1 ++ [y], g)) ([], gen)

/-! ### The course of a command -/

/-- A command's result, or its stall. -/
def State.ceStop (s : State) (r : Nat) (g : Got) : State :=
  match g with
  | .fault st _ => s.resolve r st
  | .wait t k => s.stallOp r t k
  | .bytes _ => s

def State.ceRefuse (s : State) (r d : Nat) : State := s.resolve r (statusOf 0x21 d)

/-- A unit is done; after the last of `n` the handle resolves with 0. -/
def State.ceDone (s : State) (r n : Nat) : State :=
  let u := (s.op r).unit + 1
  let s := s.modOp r fun o => { o with unit := u }
  if n ≤ u then s.resolve r 0 else s

/-- A command with `.ord` waits for the weave's earlier commands of this engine (R294). -/
def State.ceTurn (s : State) (r : Nat) : Bool :=
  let o := s.op r
  match o.fx with
  | some w => !w.imm.getLsbD 23 || !s.ops.any fun e => decide (e.1 < r) && e.2.wk == o.wk && e.2.engine == .ce && !e.2.stopped
  | none => true

/-- The command's own generator at its start: its seed, 1 where that is 0 (R295). -/
def seedOf (w : FX) (o : AsyncOp) (i : Nat) : Word :=
  if (w.imm.extractLsb' 0 3).toNat = 4 then (if o.reg i = 0 then 1 else o.reg i) else 1

/-- Two records are read for a command: source (or data) and destination. -/
def State.loadTwo (s : State) (r : Nat) (a b : Nat) (go : State → List Word → List Word → State) : State :=
  let o := s.op r
  match s.loadRec o (o.reg2 a) with
  | (s, .inr g) => s.ceStop r g
  | (s, .inl x) => match s.loadRec o (o.reg2 b) with
    | (s, .inr g) => s.ceStop r g
    | (s, .inl y) => go s x y

def ShapeRec.exts (x : ShapeRec) : List Nat := x.dims.map (·.1)

/-- A command begins its units. -/
def State.ceBegin (s : State) (r : Nat) (a b : List Word) (gen : Word) : State :=
  s.modOp r fun o => { o with phase := 1, amat := a, aux := b, gen := gen }

/-! ### Rows whose source overlaps the destination (R297) -/

/-- How a copy reads and writes the rows of a command: the bytes of a row's source, in parts of an element or a packed byte
each, and a row's elements from such bytes and the generator's state. -/
structure RowMove where
  rows : Nat
  /-- The lengths of a row's parts. -/
  parts : Nat → List Nat
  read : State → Nat → State × Got
  write : State → Nat → List Byte → Word → State × Got × Word

/-- A range of bytes meets another. -/
def rangesMeet (a b : Int × Int) : Bool := decide (a.1 < b.2) && decide (b.1 < a.2)

/-- The bytes that a record may touch. -/
def ShapeRec.span (x : ShapeRec) : Int × Int :=
  (x.lowest, x.highest + ((if elemBits x.fmt < 8 then x.ext0 * elemBits x.fmt / 8 else elemBits x.fmt / 8 : Nat) : Int))

/-- Where a command's source may overlap its destination, it keeps the source as it stands at its start; what cannot be read
there counts as zeros, and faults in its row. -/
def State.keepSource (s : State) (r : Nat) (m : RowMove) (meets : Bool) : State :=
  if !meets then s
  else
    let b := (List.range m.rows).flatMap fun u => match (m.read s u).2 with
      | .bytes b => b
      | _ => List.replicate (m.parts u).sum 0
    s.modOp r fun o => { o with snap := b }

/-- The bytes of row `u` once this row and the later ones are written, from a source read as it stands. -/
def State.rowAfter (s : State) (m : RowMove) (u : Nat) (gen : Word) : Option (List Byte) :=
  let (t, _) := ((List.range m.rows).drop u).foldl (fun (t : State × Word) i =>
    match m.read t.1 i with
    | (s, .bytes b) => let (s, _, g) := m.write s i b t.2; (s, g)
    | (s, _) => (s, t.2)) (s, gen)
  match (m.read t u).2 with
  | .bytes b => some b
  | _ => none

/-- The row's source as it is read, where the destination may overlap it: each element as it stood at the start, as it
stands, or as it stands when the rows are written. -/
def State.mixRow (s : State) (o : AsyncOp) (m : RowMove) (now : List Byte) : State × List Byte :=
  if o.snap.isEmpty then (s, now)
  else
    let old := (o.snap.drop ((List.range o.unit).map fun u => (m.parts u).sum).sum).take now.length
    let new := (s.rowAfter m o.unit o.gen).getD now
    let (free, s) := s.takeFree now.length
    (s, ((m.parts o.unit).zipIdx.flatMap fun e => List.replicate e.1 e.2).zipIdx.map fun e =>
      match Config.freeNat (free + e.1) % 3 with
      | 0 => old.getD e.2 0
      | 1 => now.getD e.2 0
      | _ => new.getD e.2 0)

/-- A row of a copy is the unit (R296). -/
def State.moveRow (s : State) (r : Nat) (m : RowMove) : State :=
  let o := s.op r
  match m.read s o.unit with
  | (s, .bytes b) =>
    let (s, b) := s.mixRow o m b
    match m.write s o.unit b o.gen with
    | (s, .bytes _, g) => (s.modOp r fun o => { o with gen := g }).ceDone r m.rows
    | (s, g, _) => s.ceStop r g
  | (s, g) => s.ceStop r g

/-- The bond whose lease the issuing weave holds. -/
def State.leasedBond (s : State) (o : AsyncOp) : Option Bond :=
  (s.bondOf o.gang).bind fun e =>
    if (Table.get 0 e.2.leases (e.2.memberOf o.gang)).getLsbD (s.weave o.wk).num && e.2.state != .lost then some e.2 else none

/-- The targets of a TMCAST (R299); none without the lease that an edge form needs. -/
def State.mcastTargets (s : State) (o : AsyncOp) (w : FX) : Option (List Nat) :=
  if w.subop = 0 then
    some (((s.cohort (s.gang o.gang).cohort).gangs.filter fun e => (o.reg 4).getLsbD e.1 && !(s.gang e.2).ended).map (·.2))
  else (s.leasedBond o).map fun b =>
    ((List.range (b.h * b.w)).filter fun m => match w.subop.toNat with
      | 1 => (b.pos m).2 == 0
      | 2 => (b.pos m).1 == 0
      | _ => true).map b.gangOf

/-- The rows of a copy between two records. -/
def AsyncOp.copyMove (o : AsyncOp) (w : FX) (targets : List Nat) : RowMove :=
  let (x, xs) := recOf o.amat
  let (y, ys) := recOf o.aux
  let ks (u : Nat) : List Nat := (List.range y.ext0).map (y.ext0 * u + ·)
  { rows := y.rows, parts := fun u => (x.places xs (ks u)).map (·.n)
    read := fun s u => s.readPlaces o (x.places xs (ks u))
    write := fun s u b gen =>
      let dst := y.places ys (ks u)
      let (out, g) := convertAll (w.imm.extractLsb' 0 3).toNat (w.imm.getLsbD 3) gen
        ((elemsAt x.fmt (x.places xs (ks u)) b).zip (formatsAt y.fmt dst))
      let (s, got) := s.putElems o y targets dst out
      (s, got, g) }

/-- The start of TCOPY and TMCAST. -/
def State.startCopy (s : State) (r : Nat) (w : FX) (mcast : Bool) : State :=
  let o := s.op r
  if mcast && (s.mcastTargets o w).isNone then s.resolve r 0x29#32
  else s.loadTwo r 0 2 fun s a b =>
    let x := (recOf a).1
    let y := (recOf b).1
    if mcast && !y.spad then s.ceRefuse r 8
    else if x.exts ≠ y.exts then s.ceRefuse r 5
    else if pairBad x.fmt y.fmt (w.imm.extractLsb' 0 3).toNat (w.imm.getLsbD 3) then s.ceRefuse r 6
    else
      let s := s.ceBegin r a b (seedOf w o (if mcast then 5 else 4))
      s.keepSource r ((s.op r).copyMove w [o.gang]) 
        (x.spad == y.spad && (rangesMeet x.span y.span || !(recOf a).2.isEmpty || !(recOf b).2.isEmpty))

/-- A row of a copy: read, converted and written to every target. -/
def State.copyRow (s : State) (r : Nat) (w : FX) (targets : List Nat) : State := s.moveRow r ((s.op r).copyMove w targets)

/-! ### The stride-gather unit (R307, R308) -/

/-- The stack on which a physical address stands (R148). -/
def State.stackOf (s : State) (pa : Nat) : Nat := s.homeSlice pa / 16

/-- Records a fault that a unit found: the first is kept, later ones are counted. -/
def State.noteGather (s : State) (p stack d pat : Nat) (a : Nat) : State :=
  s.modPart p fun q =>
    let x := Table.get {} q.gather stack
    let y : GatherRec := if x.valid then { x with count := satInc x.count }
      else { x with valid := true, detail := d, pattern := pat, addr := BitVec.ofNat 64 a }
    { q with gather := Table.set {} q.gather stack y }

/-- A gather is refused; where the spec names no stack, which one records it is free. -/
def State.gatherRefuse (s : State) (r d pat a : Nat) (stack : Option Nat) : State :=
  let (n, s) := s.takeFree 1
  (s.noteGather (s.op r).part (stack.getD (Config.freeNat n % 8)) d pat a).ceRefuse r d

/-- A pattern's five descriptor words. -/
def Pattern.words (x : Pattern) : List Word :=
  [BitVec.ofNat 32 (x.esz + if x.col then 4 else 0), BitVec.ofNat 32 x.ic, x.is, BitVec.ofNat 32 x.oc, x.os]

def patternOf (ws : List Word) : Pattern :=
  let d (i : Nat) : Word := ws.getD i 0
  { v := true, esz := bits (d 0).toNat 1 0, col := (d 0).getLsbD 2, ic := (d 1).toNat, is := d 2, oc := (d 3).toNat, os := d 4 }

/-- The address of element `k` of a gather (R307). -/
def Pattern.elemAt (x : Pattern) (base k : Nat) : Nat :=
  let (i, o) := if x.col then (k / max 1 x.oc, k % max 1 x.oc) else (k % max 1 x.ic, k / max 1 x.ic)
  (((base : Int) + (i : Int) * x.is.toInt + (o : Int) * x.os.toInt) % 2 ^ 64).toNat

/-- SGPAT: a value out of range leaves the entry. -/
def State.sgpatNow (s : State) (r : Nat) (w : FX) : State :=
  let o := s.op r
  let ok (n : Nat) : Bool := decide (1 ≤ n) && decide (n ≤ 65536)
  if (o.reg 0).toNat / 8 ≠ 0 || !ok (o.reg 1).toNat || !ok (o.reg 3).toNat then s.ceRefuse r 3
  else (s.modPart o.part fun p => { p with pats := Table.set {} p.pats (w.imm.extractLsb' 0 4).toNat (patternOf o.desc) }).resolve r 0

/-- SGPAT.inv. -/
def State.sgpatDrop (s : State) (r : Nat) (w : FX) : State :=
  let i := (w.imm.extractLsb' 0 4).toNat
  (s.modPart (s.op r).part fun p =>
    let y : Pattern := { Table.get {} p.pats i with v := false }
    { p with pats := Table.set {} p.pats i y }).resolve r 0

/-- An element of a gather, read by its stack's unit. -/
def State.gatherRead (s : State) (o : AsyncOp) (va n : Nat) : State × Got :=
  let q := o.ask 1
  match s.check q.part q.master q.who va n 1 .read false false with
  | (s, .pass pa) =>
    if s.sliceWakes pa then (s, .wait none .read) else (s.count q.part pa 0 (s.homeDie pa), .bytes (s.viewBytes q.part q.tag pa n))
  | (s, .fault st) => (s, .fault st va)
  | (s, .park t) => (s, .wait (some t) .read)

/-- The rows of a gather. -/
def AsyncOp.gatherMove (o : AsyncOp) (w : FX) : RowMove :=
  let x := patternOf o.amat
  let n := 2 ^ x.esz
  let (y, ys) := recOf o.aux
  let ks (u : Nat) : List Nat := (List.range y.ext0).map (y.ext0 * u + ·)
  { rows := y.rows, parts := fun _ => List.replicate y.ext0 n
    read := fun s u => (ks u).foldl (fun (s, g) k => match g with
      | .bytes b => match s.gatherRead o (x.elemAt (o.reg2 0) k) n with
        | (s, .bytes c) => (s, .bytes (b ++ c))
        | t => t
      | g => (s, g)) ((s, .bytes []) : State × Got)
    write := fun s u b gen =>
      let dst := y.places ys (ks u)
      let vals := (ks u).zipIdx.map fun e => ((w.imm.extractLsb' 8 4).toNat, leNat ((b.drop (n * e.2)).take n))
      let (out, g) := convertAll (w.imm.extractLsb' 0 3).toNat (w.imm.getLsbD 3) gen (vals.zip (formatsAt y.fmt dst))
      let (s, got) := s.putElems o y [o.gang] dst out
      (s, got, g) }

/-- The start of TCOPY.g: the entry, the destination and every element are checked. -/
def State.startGather (s : State) (r : Nat) (w : FX) : State :=
  let o := s.op r
  let pn := (w.imm.extractLsb' 4 4).toNat
  let sf := (w.imm.extractLsb' 8 4).toNat
  let base := o.reg2 0
  let x := Table.get {} (s.part o.part).pats pn
  if !x.v then s.gatherRefuse r 3 pn base none
  else match s.loadRec o (o.reg2 2) with
    | (s, .inr g) => s.ceStop r g
    | (s, .inl b) =>
      let y := (recOf b).1
      let n := 2 ^ x.esz
      let ks := List.range (x.ic * x.oc)
      if elemBits sf ≠ 8 * n then s.gatherRefuse r 2 pn base none
      else if x.ic * x.oc ≠ y.count then s.gatherRefuse r 5 pn base none
      else if pairBad sf y.fmt (w.imm.extractLsb' 0 3).toNat (w.imm.getLsbD 3) then s.ceRefuse r 6
      else
        let q := o.ask 1
        let (s, g) := ks.foldl (fun (t : State × Option (Got ⊕ (Nat × Nat × Option Nat))) k => match t.2 with
          | some _ => t
          | none =>
            let a := x.elemAt base k
            match t.1.check q.part q.master q.who a n 1 .read false false with
            | (s, .pass pa) => (s, if !inHbm pa then some (.inr (4, a, none)) else if a % n ≠ 0 then some (.inr (2, a, some (s.stackOf pa))) else none)
            | (s, .fault st) => (s, some (.inl (.fault st a)))
            | (s, .park tk) => (s, some (.inl (.wait (some tk) .read)))) (s, none)
        match g with
        | none =>
          let s := s.ceBegin r x.words b (seedOf w o 4)
          let as := ks.map fun k => (x.elemAt base k : Int)
          s.keepSource r ((s.op r).gatherMove w) (!y.spad && rangesMeet (as.foldl min (as.headD 0), as.foldl max 0 + n) y.span)
        | some (.inl g) => s.ceStop r g
        | some (.inr (d, a, st)) => s.gatherRefuse r d pn a st

/-- A destination row of a gather. -/
def State.gatherRow (s : State) (r : Nat) (w : FX) : State := s.moveRow r ((s.op r).gatherMove w)

/-! ### TFILL (R298) -/

/-- The start of TFILL. -/
def State.startFill (s : State) (r : Nat) : State :=
  let o := s.op r
  match s.loadRec o (o.reg2 0) with
  | (s, .inr g) => s.ceStop r g
  | (s, .inl b) => s.ceBegin r [] b 1

/-- A row of a fill. -/
def State.fillRow (s : State) (r : Nat) : State :=
  let o := s.op r
  let (y, ys) := recOf o.aux
  let dst := y.places ys ((List.range y.ext0).map (y.ext0 * o.unit + ·))
  let v := (o.reg 2).toNat
  let vs := (formatsAt y.fmt dst).map fun f => if f = 0 ∧ y.fmt = 2 then (widen .bf16 (v % 65536)).toNat else v % 2 ^ elemBits f
  match s.putElems o y [o.gang] dst vs with
  | (s, .bytes _) => s.ceDone r y.rows
  | (s, g) => s.ceStop r g

/-! ### TQNT and TDQ (R300, R301, R115 to R117) -/

/-- The elements of block `u`, and the blocks of a record: a row each, or 32 elements. -/
def ShapeRec.block (x : ShapeRec) (row : Bool) (u : Nat) : List Nat :=
  let n := if row then x.ext0 else 32
  (List.range n).map (n * u + ·)
def ShapeRec.blocks (x : ShapeRec) (row : Bool) : Nat := if row then x.rows else x.count / 32

def quantFormat (f : Nat) : Bool := f == 3 || f == 4 || f == 7 || f == 9
def realFormat (f : Nat) : Bool := f == 0 || f == 1 || f == 2

/-- The start of TQNT (`from_` false) and of TDQ. -/
def State.startQuant (s : State) (r : Nat) (w : FX) (tdq : Bool) : State :=
  let o := s.op r
  let row := w.subop.getLsbD 0
  s.loadTwo r 0 (if tdq then 4 else 2) fun s a b =>
    let x := (recOf a).1
    let y := (recOf b).1
    let ok := if tdq then quantFormat x.fmt && realFormat y.fmt else realFormat x.fmt && quantFormat y.fmt
    if !ok then s.ceRefuse r 6
    else if x.exts ≠ y.exts then s.ceRefuse r 5
    else if !row && x.count % 32 != 0 then s.ceRefuse r 7
    else if !tdq then s.ceBegin r a b (seedOf w o 7)
    else match s.engRead (o.ask 1) (o.reg2 2) 16 with
      | (s, .bytes h) =>
        let q (i : Nat) : Nat := leNat ((h.drop (4 * i)).take 4)
        let b0 := (o.reg 6).toNat
        if b0 < q 0 ∨ q 0 + q 1 < b0 + x.blocks row ∨ q 2 ≠ 0 ∨ q 3 ≠ 0 then s.resolve r 0x20#32
        else (s.ceBegin r a b (seedOf w o 7)).modOp r fun o => { o with sr := [(0, q 0)] }
      | (s, g) => s.ceStop r g

/-- The largest magnitude of a block. -/
def amaxOf (vs : List FVal) : FVal :=
  if vs.any (·.isNan) then .nan
  else vs.foldl (fun m v =>
    let v := match v with
      | .fin _ n d e => FVal.fin false n d e
      | .inf _ => .inf false
      | .nan => .nan
    if FVal.cmp m v < 0 then v else m) (.fin false 0 1 0)

/-- Top exponent E and largest value M of a target (R115). -/
def quantTop (f : Nat) : Int × Nat :=
  match f with
  | 3 => (8, 448) | 4 => (15, 57344) | 7 => (6, 127) | _ => (2, 7)

/-- The SCALE of a block: E8M0, or BF16 bits. -/
def scaleOf (f : Nat) (bf : Bool) (amax : FVal) : Nat :=
  let (e, m) := quantTop f
  match amax with
  | .fin _ num den ex =>
    if bf then (roundTo .bf16 .rn false (FVal.divBy amax (FVal.ofInt m))).1
    else if num = 0 then 0
    else (max (-127) (min 127 (floorLog2 num den ex - e)) + 127).toNat
  | _ => if bf then 0x7FC0 else 0xFF

/-- A value rounded once into a format, as its low bits. -/
def toFormat (f code : Nat) (sat : Bool) (gen : Word) (d : Option Nat) (v : FVal) : Nat × Word :=
  let (r, g) := rndOf code gen d
  if f ≤ 4 then ((roundTo (cvtFmt f) r sat v).1, g)
  else
    let (lo, hi) := cvtRange f
    (((BitVec.ofInt 32 (roundInt r lo hi v).1).toNat) % 2 ^ cvtWidth f, g)

/-- The significand bits of a value that lie below a target's unit, at most `prec` (R101). -/
def bitsUnder (f prec : Nat) (v : FVal) : Nat :=
  match v with
  | .fin _ num _ ex =>
    let ue : Int := if f ≤ 4 then max (floorLog2 num 1 ex) (1 - ((cvtFmt f).bias : Int)) - (cvtFmt f).frac else 0
    min prec (bitsBelow num ex ue)
  | _ => 0

/-- A value multiplied by 2^e. -/
def shiftVal (v : FVal) (e : Int) : FVal :=
  match v with
  | .fin s n d x => .fin s n d (x + e)
  | v => v

/-- A code of a block (R115). A BF16 scale of zero gives 0 without a conversion; under sr the generator steps for it all the
same (DESIGN CHOICE, log 130). -/
def quantCode (sf df code : Nat) (bf : Bool) (scale v : Nat) (gen : Word) : Nat × Word :=
  let x := cvtSource sf (BitVec.ofNat 32 v)
  if bf then
    match FVal.ofBits .bf16 scale with
    | .fin s n d e => if n = 0 then (0, if code = 4 then genStep gen else gen) else toFormat df code true gen none (FVal.divBy x (.fin s n d e))
    | _ => toFormat df code true gen none .nan
  else if scale = 0xFF then toFormat df code true gen none .nan
  else
    let y := shiftVal x (127 - (scale : Int))
    toFormat df code true gen (some (bitsUnder df (cvtPrecision sf) y)) y

/-- A unit of TQNT: a block's scale entry in pass 1, a block's data in pass 2. -/
def State.quantUnit (s : State) (r : Nat) (w : FX) : State :=
  let o := s.op r
  let row := w.subop.getLsbD 0
  let bf := w.subop.getLsbD 1
  let (x, xs) := recOf o.amat
  let (y, ys) := recOf o.aux
  let n := x.blocks row
  let ks := x.block row o.unit
  let src := x.places xs ks
  let first := (o.reg 6).toNat
  match s.readPlaces o src with
  | (s, .bytes b) =>
    let vals := elemsAt x.fmt src b
    if o.phase = 1 then
      let sc := scaleOf y.fmt bf (amaxOf (vals.map fun e => cvtSource e.1 (BitVec.ofNat 32 e.2)))
      let tag := (first + o.unit) % 256
      let entry := if bf then bytesOf 4 (sc + tag * 2 ^ 16) else bytesOf 2 (sc + tag * 2 ^ 8)
      let at_ := o.reg2 4 + 16 + (if bf then 4 else 2) * o.unit
      let head := if o.unit = 0 then [(o.reg2 4, bytesOf 4 first ++ bytesOf 4 n ++ bytesOf 8 0)] else []
      match s.engWriteAll (o.ask 1) (head ++ [(at_, entry)]) with
      | (s, .bytes _) =>
        s.modOp r fun o =>
          let o := { o with sr := Table.set 0 o.sr o.unit sc, unit := o.unit + 1 }
          if n ≤ o.unit then { o with phase := 2, unit := 0 } else o
      | (s, g) => s.ceStop r g
    else
      let dst := y.places ys ks
      let (out, gen) := (vals.zip (formatsAt y.fmt dst)).foldl (fun (t : List Nat × Word) e =>
        let (q, g) := quantCode e.1.1 e.2 (w.imm.extractLsb' 0 3).toNat bf (Table.get 0 o.sr o.unit) e.1.2 t.2
        (t.1 ++ [q], g)) ([], o.gen)
      match s.putElems o y [o.gang] dst out with
      | (s, .bytes _) => (s.modOp r fun o => { o with gen := gen }).ceDone r n
      | (s, g) => s.ceStop r g
  | (s, g) => s.ceStop r g

/-- An element of TDQ. D of its stochastic rounding (R101) counts the bits of the code's format, and 8 more for a BF16 scale
(DESIGN CHOICE, log 131). -/
def dequant (sf df code : Nat) (sat bf : Bool) (scale v : Nat) (gen : Word) : Nat × Word :=
  let x := cvtSource sf (BitVec.ofNat 32 v)
  let y := if bf then (FVal.mul x (FVal.ofBits .bf16 scale)).1
    else if scale = 0xFF then .nan else shiftVal x ((scale : Int) - 127)
  toFormat df code sat gen (some (bitsUnder df (cvtPrecision sf + if bf then 8 else 0) y)) y

/-- A unit of TDQ: one block, behind the check of its scale entry. -/
def State.dequantUnit (s : State) (r : Nat) (w : FX) : State :=
  let o := s.op r
  let row := w.subop.getLsbD 0
  let bf := w.subop.getLsbD 1
  let (x, xs) := recOf o.amat
  let (y, ys) := recOf o.aux
  let n := x.blocks row
  let ks := x.block row o.unit
  let b0 := (o.reg 6).toNat
  let size := if bf then 4 else 2
  match s.engRead (o.ask 1) ((o.reg2 2 + 16 + size * (b0 + o.unit - Table.get 0 o.sr 0)) % 2 ^ 64) size with
  | (s, .bytes eb) =>
    let e := leNat eb
    let bad := if bf then bits e 23 16 != (b0 + o.unit) % 256 || bits e 31 24 != 0 else bits e 15 8 != (b0 + o.unit) % 256
    if bad then s.resolve r (BitVec.ofNat 32 (0x20 + o.unit * 256))
    else
      let src := x.places xs ks
      let dst := y.places ys ks
      match s.readPlaces o src with
      | (s, .bytes b) =>
        let vals := elemsAt x.fmt src b
        let (out, gen) := (vals.zip (formatsAt y.fmt dst)).foldl (fun (t : List Nat × Word) v =>
          let (q, g) := dequant v.1.1 v.2 (w.imm.extractLsb' 0 3).toNat (w.imm.getLsbD 3) bf (if bf then bits e 15 0 else bits e 7 0) v.1.2 t.2
          (t.1 ++ [q], g)) ([], o.gen)
        match s.putElems o y [o.gang] dst out with
        | (s, .bytes _) => (s.modOp r fun o => { o with gen := gen }).ceDone r n
        | (s, g) => s.ceStop r g
      | (s, g) => s.ceStop r g
  | (s, g) => s.ceStop r g

/-! ### Storage (R302 to R305) -/

def State.stor (s : State) (p e : Nat) : Stor := Table.get {} (s.part p).ctl.stor e
def Stor.lba (x : Stor) : Nat := if x.lbas then 4096 else 512

/-- LBAs of the largest NVMe command. -/
def Stor.most (x : Stor) : Nat := max 1 (min (4096 * 2 ^ x.mdts) 131072 / x.lba)

/-- NVMe commands of an entry that are outstanding. -/
def State.storBusy (s : State) (p e : Nat) : Nat :=
  s.ops.foldl (fun n o => if o.2.part = p ∧ (o.2.storEntry.map (·.1)) = some e
    then n + (o.2.cmds.filter fun c => c.status.isNone).length else n) 0

/-- The pieces of [va, va+n) within 4 KiB pages. -/
def pagePieces (va n : Nat) : List (Nat × Nat) :=
  if n = 0 then []
  else (List.range ((va % 4096 + n + 4095) / 4096)).map fun i =>
    let a := max va ((va / 4096 + i) * 4096)
    (a, min ((va / 4096 + i + 1) * 4096) (va + n) - a)

/-- The bytes of an NVMe command of a transfer, and the pieces of memory that it names. -/
def AsyncOp.cmdPieces (o : AsyncOp) (lba : Nat) (c : NvmeCmd) : List (Nat × Nat) := pagePieces (o.reg2 0 + c.off) (c.count * lba)

/-- A transfer has a next NVMe command to submit. -/
def AsyncOp.submits (o : AsyncOp) : Bool :=
  o.ready && o.storEntry.isSome && o.state == .pending && o.failures.isEmpty && decide (o.submitted < (o.reg 4).toNat)

/-- The transfers that wait for a place in an entry's queue, in their order. -/
def State.storWaiting (s : State) (x : Stor) : List Nat := x.waiting.filter fun r => (s.op r).submits

/-- A transfer may submit to its entry now: a place is free, and it is the first of those that wait (R303). -/
def State.storTurn (s : State) (r e : Nat) : Bool :=
  let o := s.op r
  let x := s.stor o.part e
  decide (s.storBusy o.part e + 1 < x.qsize) && ((s.storWaiting x).head?.getD r == r)

def State.setStor (s : State) (p e : Nat) (f : Stor → Stor) : State :=
  s.modPart p fun q => { q with ctl := { q.ctl with stor := Table.set {} q.ctl.stor e (f (Table.get {} q.ctl.stor e)) } }

/-- A submission-queue entry: opcode 1 or 2, namespace, PRP entries, first LBA, LBA count less 1 and FUA at the places that
NVM Express gives them; the command identifier and the place of a PRP list are free (PRESUMED, log 69). -/
def nvmeEntry (x : Stor) (c : NvmeCmd) (store fua : Bool) (bar : Nat) (pas : List Nat) (free : Nat) : List Byte :=
  let prp2 : Nat := match pas with
    | [_, b] => bar + b
    | _ :: _ :: _ => Config.freeNat (free + 1)
    | _ => 0
  bytesOf 4 ((if store then 1 else 2) + Config.freeNat free % 2 ^ 16 * 2 ^ 16) ++ bytesOf 4 x.nsid.toNat ++ bytesOf 16 0 ++
  bytesOf 8 (bar + pas.headD 0) ++ bytesOf 8 prp2 ++ bytesOf 8 c.lba ++
  bytesOf 4 ((c.count - 1) % 2 ^ 16 + if fua then 2 ^ 30 else 0) ++ bytesOf 12 0

/-- A completion-queue entry: the controller's queue and the status at the places that NVM Express gives them, the rest free. -/
def nvmeCompletion (x : Stor) (st free : Nat) : List Byte :=
  bytesOf 8 (Config.freeNat free) ++ bytesOf 4 (Config.freeNat (free + 1) % 2 ^ 16 + x.qid.toNat * 2 ^ 16) ++
  bytesOf 4 (Config.freeNat (free + 2) % 2 ^ 17 + st % 2 ^ 15 * 2 ^ 17)

/-- A storage transfer submits its next NVMe command, or waits for its turn at the entry. -/
def State.storSubmit (s : State) (r e : Nat) (store fua : Bool) : State :=
  let o := s.op r
  let x := s.stor o.part e
  let n := (o.reg 4).toNat
  if o.cmds.isEmpty && ((o.reg2 0) % 512 != 0 || n == 0 || decide (1048576 < n)) then s.resolve r (statusOf 0x22 0x8003)
  else if o.cmds.isEmpty && !x.v then s.resolve r (statusOf 0x22 0x8004)
  else if !o.submits then s.storEnd r
  else if !s.storTurn r e then s.setStor o.part e fun x => if x.waiting.contains r then x else { x with waiting := s.storWaiting x ++ [r] }
  else
    let done := o.submitted
    let c : NvmeCmd := { lba := (o.reg2 2 + done) % 2 ^ 64, count := min x.most (n - done), off := done * x.lba, since := s.us }
    let q := o.ask 1
    let (s, g) := (o.cmdPieces x.lba c).foldl (fun (t : State × (List Nat ⊕ Got)) p => match t.2 with
      | .inl ps => match t.1.check q.part q.master q.who (p.1 % 2 ^ 64) p.2 1 (if store then .read else .write) false false with
        | (s, .pass pa) => (s, if inHbm pa then .inl (ps ++ [pa]) else .inr (.fault (statusOf 0x22 0x8002) p.1))
        | (s, .fault st) => (s, .inr (.fault st p.1))
        | (s, .park tk) => (s, .inr (.wait (some tk) (if store then .read else .write)))
      | _ => t) (s, .inl [])
    match g with
    | .inl ps =>
      let tail := (x.tail + 1) % max 1 x.qsize
      let (free, s) := s.takeFree 2
      let s := s.commitWrite (x.sqbase.toNat + 64 * x.tail) (nvmeEntry x c store fua (Config.bar2 o.part) ps free)
      let s := s.setStor o.part e fun x => { x with tail := tail, waiting := (s.storWaiting x).erase r }
      ({ s with doorbells := s.doorbells ++ [(x.sqdb.toNat, BitVec.ofNat 64 tail)] }).modOp r fun o =>
        { o with cmds := o.cmds ++ [c], aux := o.aux ++ wordsOfNats ps, unit := o.unit + 1 }
    | .inr (.fault st _) => s.failOp r st
    | .inr g => s.ceStop r g

/-- The physical places of a submitted command. -/
def AsyncOp.cmdPlaces (o : AsyncOp) (lba i : Nat) : List (Nat × Nat) :=
  let before := ((o.cmds.take i).map fun c => (o.cmdPieces lba c).length).sum
  let c := o.cmds.getD i {}
  ((natsOfWords o.aux).drop before).zip ((o.cmdPieces lba c).map (·.2))

/-- Data at the places of a command: all of them, or each 8-byte atom as it was or as given (R304, R305). -/
def State.storLand (s : State) (places : List (Nat × Nat)) (bs : List Byte) (all : Bool) : State :=
  (places.foldl (fun (t : State × List Byte) p =>
    let now := t.2.take p.2
    let s := if all then t.1.commitWrite p.1 now
      else
        let (free, s) := t.1.takeFree (p.2 / 8 + 1)
        (List.range ((now.length + 7) / 8)).foldl (fun s i =>
          if Config.freeBit (free + i) then s.commitWrite (p.1 + 8 * i) ((now.drop (8 * i)).take 8) else s) s
    (s, t.2.drop p.2)) (s, bs)).1

/-- An outstanding command completes with a status word. -/
def State.storDone (s : State) (r i st : Nat) : State :=
  (s.modOp r fun o => { o with cmds := o.cmds.zipIdx.map fun e => if e.2 = i then { e.1 with status := some st } else e.1 }).storEnd r

/-- NVME_COMPLETION: the data, the completion entry and head, and the status (R303 to R305); with `on`, data that arrive while
the command is outstanding still (R305). -/
def execNvmeCompletion (s : State) : Out :=
  let v := s.ev
  let o := s.op v.a
  .next (match o.storEntry, o.cmds[v.b]? with
    | some (e, store), some c =>
      let x := s.stor o.part e
      if c.status.isSome || (!store && (v.on || v.c == 0) && v.bytes.length != c.count * x.lba) then s
      else if v.on then (if store then s else s.storLand (o.cmdPlaces x.lba v.b) v.bytes false)
      else
        let s := if store then s else s.storLand (o.cmdPlaces x.lba v.b) v.bytes (v.c == 0)
        let head := (x.head + 1) % max 1 x.qsize
        let (free, s) := s.takeFree 3
        let s := s.commitWrite (x.cqbase.toNat + 16 * x.head) (nvmeCompletion x v.c free)
        let s := s.setStor o.part e fun y => { y with head := head }
        ({ s with doorbells := s.doorbells ++ [(x.cqdb.toNat, BitVec.ofNat 64 head)] }).storDone v.a v.b
          (if v.c = 0 then 0 else 0x22 + v.c % 2 ^ 15 * 256)
    | _, _ => s)

/-- NVME_TIMEOUT: four seconds after its submission; what of a read's data has landed is not known, and what they were is not
either (R304). -/
def execNvmeTimeout (s : State) : Out :=
  let o := s.op s.ev.a
  .next (match o.storEntry, o.cmds[s.ev.b]? with
    | some (e, store), some c =>
      if c.status.isNone && decide (c.since.toNat + 4000000 ≤ s.us.toNat) then
        let x := s.stor o.part e
        let (free, s) := s.takeFree (c.count * x.lba / 8)
        let s := if store then s
          else s.storLand (o.cmdPlaces x.lba s.ev.b) ((List.range (c.count * x.lba / 8)).flatMap fun i => bytesOf 8 (Config.freeNat (free + i))) false
        s.storDone s.ev.a s.ev.b (0x22 + 0x8001 * 256)
      else s
    | _, _ => s)

/-! ### BPREF (R306) -/

/-- The lines of a BPREF that are asked for and not resident. -/
def State.absentLines (s : State) (o : AsyncOp) : List Nat :=
  (natsOfWords o.aux).filter fun l => ((s.slice (s.homeSlice (64 * l))).line l).valid != 3

/-- A line is on its way to its slice. -/
def State.lineComes (s : State) (l : Nat) : Bool :=
  let x := s.slice (s.homeSlice (64 * l))
  x.miss.any (fun e => e.line == l) || x.input.any fun e => e.line == l

/-- A unit of BPREF: the next line is asked for at its slice; after the last, the lines that are not resident are asked for
again until all are resident at once. -/
def State.prefetchUnit (s : State) (r : Nat) (w : FX) : State :=
  let o := s.op r
  let q := o.ask 1
  let lines := linePieces (o.reg2 0) (o.reg 2).toNat
  match lines[o.unit]? with
  | some p => match s.check q.part q.master q.who (p.1 % 2 ^ 64) p.2 1 .read false false with
    | (s, .pass pa) =>
      (s.count q.part pa 0 (q.core / 256)).modOp r fun o => { o with unit := o.unit + 1, aux := o.aux ++ wordsOfNats [pa / 64] }
    | (s, .fault st) => s.resolve r st
    | (s, .park t) => s.stallOp r t .read
  | none =>
    let absent := s.absentLines o
    if !absent.isEmpty then (absent.filter fun l => !s.lineComes l).foldl (fun s l => s.lineRequest q.part (64 * l) false (lineMask 0 64)) s
    else if w.subop = 1 then
      match s.engBit q (o.reg2 3) 0 true with
      | (s, .bytes _) => s.resolve r 0
      | (s, g) => s.ceStop r g
    else s.resolve r 0

/-! ### COPY_UNIT -/

/-- A command only waits: a BPREF for lines that are on their way, a storage transfer for completions or for its turn at the
entry. -/
def State.ceIdle (s : State) (r : Nat) : Bool :=
  let o := s.op r
  match o.instr, o.storEntry with
  | .bpref _, _ =>
    ((linePieces (o.reg2 0) (o.reg 2).toNat)[o.unit]?).isNone && !(s.absentLines o).isEmpty && (s.absentLines o).all s.lineComes
  | _, some (e, _) =>
    !o.cmds.isEmpty && (if o.submits then !s.storTurn r e && (s.stor o.part e).waiting.contains r else o.outstanding)
  | _, _ => false

/-- A command of the queue that can go on by a unit. -/
def State.ceGoes (s : State) (r : Nat) : Bool := (s.op r).ready && s.ceTurn r && !s.ceIdle r

/-- A launch has such a command in a core's queue. -/
def State.ceReady (s : State) (core l : Nat) : Bool :=
  s.ops.any fun e => e.2.engine == .ce && e.2.core == core && e.2.launch == l && s.ceGoes e.1

/-- One unit of a copy-engine command. -/
def State.copyStep (s : State) (r : Nat) : State :=
  let o := s.op r
  match o.instr with
  | .tcopy w => if o.phase = 0 then s.startCopy r w false else s.copyRow r w [o.gang]
  | .tmcast w => if o.phase = 0 then s.startCopy r w true
    else match s.mcastTargets o w with
      | some ts => s.copyRow r w ts
      | none => s.resolve r 0x29#32
  | .tcopyG w => if o.phase = 0 then s.startGather r w else s.gatherRow r w
  | .tfill _ => if o.phase = 0 then s.startFill r else s.fillRow r
  | .tqnt w => if o.phase = 0 then s.startQuant r w false else s.quantUnit r w
  | .tdq w => if o.phase = 0 then s.startQuant r w true else s.dequantUnit r w
  | .sload w => s.storSubmit r (w.imm.extractLsb' 0 4).toNat false false
  | .sstore w => s.storSubmit r (w.imm.extractLsb' 0 4).toNat true (w.subop == 1)
  | .bpref w => s.prefetchUnit r w
  | .sgpat w => s.sgpatNow r w
  | .sgpatInv w => s.sgpatDrop r w
  | _ => s

/-- A copy-engine command goes on by one unit when the core's table serves its launch in this cycle (R32, R294). -/
def State.copyUnit (s : State) (r : Nat) : State :=
  let o := s.op r
  if s.ceGoes r && s.serves o.core 1 o.launch (s.ceReady o.core) then (s.takeTurn o.core 1 o.launch).copyStep r else s

/-- COPY_UNIT. -/
def execCopyUnit (s : State) : Out := .next (s.copyUnit s.ev.a)

end Sys2Proof.Machine
end

