-- ==== Sys2Proof/Machine/Search.lean ====
section
/-! DEFINITION. The nearest-neighbour engine: gathered distances, ranked lists and their merging
(spec/15_search.md, R356 to R372). -/

namespace Sys2Proof.Machine

open Sys2Proof

/-! ### Ranked lists (R356 to R358) -/

/-- Entry x ranks ahead of entry y: by key in the list's order, then by the smaller identifier (R357). -/
def ranksAhead (max_ : Bool) (x y : Word × Word) : Bool :=
  let c := FVal.cmp (FVal.ofBits .f32 x.1.toNat) (FVal.ofBits .f32 y.1.toNat)
  if c = 0 then decide (x.2.toNat < y.2.toNat) else if max_ then decide (0 < c) else decide (c < 0)

/-- An entry is offered to a list (R358). -/
def RankList.offer (r : RankList) (e : Word × Word) : RankList :=
  if (FVal.ofBits .f32 e.1.toNat).isNan then { r with rejected := satInc r.rejected }
  else
    let e : Word × Word := (if e.1 = 0x80000000#32 then 0 else e.1, e.2)
    if r.ents.contains e then r
    else { r with ents := (insertBy (ranksAhead r.max) e r.ents).take r.k }

/-- Empties a list and clears its rejected-key count. -/
def RankList.clear (r : RankList) : RankList := { r with ents := [], rejected := 0 }

def State.modList (s : State) (wk : Nat) (f : RankList → RankList) : State := s.modWeave wk fun w => { w with list := f w.list }

/-- A TKMRG of the weave is Pending. -/
def State.merging (s : State) (wk : Nat) : Bool := s.ops.any fun e => e.2.wk == wk && e.2.state == .pending && isTkmrg e.2.instr

/-- A word of a weave that waits while a TKMRG of the weave is Pending (R371). -/
def State.unlessMerging (s : State) (k : Ctx) (e : Env) (f : State → State) : State :=
  if s.merging k.wk then s.holdIssue k e .tkmrgOut else f s

/-- The gate of an F3 word of the engine; its lanes' sources. -/
def nnGate (g : Gang) (w : F3) (dst a b : Operand → Bool) (ok : Bool) (vals : List Operand) : Gate :=
  { legal := f3Legal g w dst a b none false (a (.v 1)) (b (.v 1)) ok, engine := .nne
    pred := w.pred.toNat, neg := w.neg, srcs := vals, regs := vregsOf vals, holds := holdsOf w }

/-- TKCFG (R365). -/
def execTkcfg (w : F3) (s : State) : Out :=
  weaveOnly s fun k =>
    s.runWord k (nnGate (s.gang k.gk) w isS isSorInt isUnused (modsIn w.mods 1) [w.a]) fun e act s =>
      onceReal k act s fun s =>
        s.unlessMerging k e fun s =>
          let n := (e.rd s.ops 0 w.a 0).toNat
          if n = 0 ∨ 64 < n then s.answer k act w.dst 1
          else (s.modList k.wk fun r => { r.clear with k := n, max := w.mods.getLsbD 0 }).answer k act w.dst 0

/-- TKCLR (R365). -/
def execTkclr (w : F3) (s : State) : Out :=
  weaveOnly s fun k =>
    s.runWord k (nnGate (s.gang k.gk) w isUnused isUnused isUnused (w.mods == 0) []) fun e act s =>
      onceReal k act s fun s => s.unlessMerging k e fun s => (s.modList k.wk RankList.clear).advance k act

/-- TKINS (R366). -/
def execTkins (w : F3) (s : State) : Out :=
  weaveOnly s fun k =>
    s.runWord k (nnGate (s.gang k.gk) w isUnused isVS isVSInt (w.mods == 0) [w.a, w.b]) fun e act s =>
      s.unlessMerging k e fun s =>
        (s.modList k.wk fun r => (lanesOf (act &&& ~~~k.helpers)).foldl (fun r l =>
          r.offer (e.rd s.ops 0 w.a l, e.rd s.ops 1 w.b l)) r).advance k act

/-- The key or the identifier of an entry (R367). -/
def RankList.item (r : RankList) (id : Bool) (x : Nat) : Word :=
  match r.ents[x]? with
  | some e => if id then e.2 else e.1
  | none => if id then 0xFFFFFFFF#32 else 0x7FC00000#32

/-- TKRD (R367); the index may be a special operand too, as the worked program of R359's chapter writes it
(notes/assumptions/110.md). -/
def execTkrd (w : F3) (s : State) : Out :=
  weaveOnly s fun k =>
    let gt := nnGate (s.gang k.gk) w isVS (fun o => isVSInt o || isSpecial o) isUnused (modsIn w.mods 1) [w.a]
    s.runWord k { gt with legal := gt.legal && uniformOk w.dst [w.a], drops := vregsOf [w.dst] } fun e act s =>
      s.unlessMerging k e fun s =>
        let ls := if perLane w.dst then lanesOf act else if act &&& ~~~k.helpers = 0 then [] else (lanesOf act).take 1
        let ws : List LLWrite := ls.map fun l =>
          { dst := w.dst, lane := laneKey w.dst l, val := (s.weave k.wk).list.item (w.mods.getLsbD 0) (e.rd s.ops 0 w.a l).toNat }
        let (free, s) := s.takeFree 32
        (if ws.isEmpty then s else s.modWeave k.wk fun x => x.issueLL free k.run ws false 0 true).advance k act

/-- What TKSTAT reads (R368). -/
def State.tkstat (s : State) (wk sel : Nat) : Word :=
  let r := (s.weave wk).list
  match sel with
  | 0 => BitVec.ofNat 32 (r.ents.length + (if r.max then 2 ^ 7 else 0) + r.k * 2 ^ 8 + (if s.merging wk then 2 ^ 15 else 0))
  | 1 => r.rejected
  | _ => 0

/-- TKSTAT. -/
def execTkstat (w : F3) (s : State) : Out :=
  weaveOnly s fun k =>
    s.runWord k (nnGate (s.gang k.gk) w isS isSorInt isUnused (w.mods == 0) [w.a]) fun e act s =>
      onceReal k act s fun s => s.answer k act w.dst (s.tkstat k.wk (e.rd s.ops 0 w.a 0).toNat)

/-! ### Commands (R359, R361, R362, R370) -/

/-- A launch has a command in a core's queue that can go on. -/
def State.nnReady (s : State) (core l : Nat) : Bool :=
  s.ops.any fun e => e.2.engine == .nne && e.2.core == core && e.2.launch == l && e.2.ready

/-- The datapath takes a unit of a command in this cycle, under the core's slot table (R362). -/
def State.nnTurn (s : State) (r : Nat) : Bool :=
  let o := s.op r
  o.ready && s.serves o.core 2 o.launch (s.nnReady o.core)

/-- The element size of a candidate format. -/
def gdistSize (f : Nat) : Nat := match f with | 0 => 4 | 1 => 2 | 2 => 2 | _ => 1

/-- What GDIST's checks at issue find in its descriptor registers: a status and the offending address (R362). -/
def gdistBad (g : Gang) (w : FX) (d : Nat → Nat) : Option (Word × Nat) :=
  let sz := gdistSize (w.subop.extractLsb' 2 3).toNat
  let dim := d 5 % 2 ^ 13
  let n := d 6 % 2 ^ 17
  let base := d 2 + 2 ^ 32 * d 3
  let glob := w.subop.getLsbD 5
  let out := d 7 + if glob then 2 ^ 32 * d 8 else 0
  let off (al a : Nat) : Option (Word × Nat) := if a % al ≠ 0 then some (0x12#32, a) else none
  let inside (a len : Nat) : Option (Word × Nat) := if g.spSize < a + len then some (0x13#32, a) else none
  if d 5 ≠ dim ∨ d 6 ≠ n ∨ dim = 0 ∨ 4096 < dim ∨ n = 0 ∨ 65536 < n then some (0x01#32, 0)
  else [off 4 (d 0), off 4 (d 1), off sz base, off sz (d 4), off 4 out, inside (d 0) (4 * dim), inside (d 1) (4 * n),
    if glob then none else inside out (4 * n)].findSome? id

/-- GDIST. -/
def execGdist (w : FX) (s : State) : Out :=
  weaveOnly s fun k =>
    let g := s.gang k.gk
    let ok := w.subop.extractLsb' 0 2 != 3 && decide ((w.subop.extractLsb' 2 3).toNat ≤ 5) && w.subop.extractLsb' 6 2 == 0 && w.imm == 0
    s.runWord k (fxGate g w .nne (if w.subop.getLsbD 5 then 9 else 8) ok false) fun e act s =>
      match gdistBad g w fun j => (e.dreg w j).toNat with
      | some (st, a) => s.fault k act st (BitVec.ofNat 64 a)
      | none => s.command k e w (.gdist w) .nne id

/-- A TKMRG issues, once no other of the weave is Pending. -/
def State.issueMerge (s : State) (k : Ctx) (e : Env) (w : FX) (i : Instr) : State :=
  s.unlessMerging k e fun s => s.command k e w i .nne id

/-- TKMRG.wv. -/
def execTkmrgWv (w : FX) (s : State) : Out :=
  weaveOnly s fun k =>
    s.runWord k (fxGate (s.gang k.gk) w .nne 0 (w.subop == 0 && w.dbase == 0 && w.imm.extractLsb' 16 8 == 0) false) fun e _ s =>
      s.issueMerge k e w (.tkmrgWv w)

/-- The address or offset of an image. -/
def imageAt (w : FX) (d : Nat → Nat) : Nat := if w.imm.getLsbD 16 then d 0 else d 0 + 2 ^ 32 * d 1

/-- TKMRG.st and TKMRG.ld. -/
def State.runImage (s : State) (k : Ctx) (w : FX) (sub : Nat) (i : Instr) : State :=
  let sp := w.imm.getLsbD 16
  s.runWord k (fxGate (s.gang k.gk) w .nne (if sp then 1 else 2) (w.subop.toNat == sub && w.imm &&& 0xFEFFFF#24 == 0) false) fun e act s =>
    let a := imageAt w fun j => (e.dreg w j).toNat
    if a % 8 ≠ 0 then s.fault k act 0x12#32 (BitVec.ofNat 64 a)
    else if sp && decide ((s.gang k.gk).spSize < a + 520) then s.fault k act 0x13#32 (BitVec.ofNat 64 a)
    else s.issueMerge k e w i

/-- TKMRG.st. -/
def execTkmrgSt (w : FX) (s : State) : Out := weaveOnly s fun k => s.runImage k w 1 (.tkmrgSt w)

/-- TKMRG.ld. -/
def execTkmrgLd (w : FX) (s : State) : Out := weaveOnly s fun k => s.runImage k w 2 (.tkmrgLd w)

/-! ### Memory, as this engine reaches it (R364) -/

/-- The physical pieces of [va, va+n) that pass the checks, in order, and what stopped the rest. -/
def State.nnPlaces (s : State) (q : EngAsk) (va n : Nat) (k : AccessKind) : State × List (Nat × Nat) × Option Got :=
  (linePieces va n).foldl (fun (t : State × List (Nat × Nat) × Option Got) e => match t.2.2 with
    | some _ => t
    | none => match t.1.check q.part q.master q.who (e.1 % 2 ^ 64) e.2 1 k true false with
      | (s, .pass pa) => if s.sliceWakes pa then (s, t.2.1, some (.wait none k)) else (s, t.2.1 ++ [(pa, e.2)], none)
      | (s, .fault st) => (s, t.2.1, some (.fault st (e.1 % 2 ^ 64)))
      | (s, .park tk) => (s, t.2.1, some (.wait (some tk) k))) (s, [], none)

/-- Reads [va, va+n). -/
def State.nnRead (s : State) (q : EngAsk) (va n : Nat) : State × Got :=
  match s.nnPlaces q va n .read with
  | (s, ps, none) =>
    (ps.foldl (fun s p => s.count q.part p.1 0 (q.core / 256)) s, .bytes (ps.flatMap fun p => s.viewBytes q.part q.tag p.1 p.2))
  | (s, _, some g) => (s, g)

/-- A command of this engine fails, or waits: code and detail of the status in bits [15:0], the candidate in [31:16]. -/
def State.nnStop (s : State) (r i : Nat) (g : Got) : State :=
  match g with
  | .fault st _ => s.resolve r (BitVec.ofNat 32 (st.toNat % 2 ^ 16 + i % 2 ^ 16 * 2 ^ 16))
  | .wait t k => s.stallOp r t k
  | .bytes _ => s

/-! ### Distances (R363) -/

/-- One rounding of an exact value to FP32. -/
def rne32 (v : FVal × Bool) : FVal := FVal.ofBits .f32 (roundTo .f32 .rn false v.1).1

/-- A candidate's element. -/
def gdistElem (f x : Nat) : FVal :=
  match f with
  | 0 => FVal.ofBits .f32 x
  | 1 => FVal.ofBits .f16 x
  | 2 => FVal.ofBits .bf16 x
  | 3 => FVal.ofBits .e4m3 x
  | 4 => FVal.ofBits .e5m2 x
  | _ => FVal.ofInt (BitVec.ofNat 8 x).toInt

/-- s + a·b, rounded once. -/
def macStep (s a b : FVal) : FVal := rne32 (FVal.fma false a b s)

/-- The exact quotient of a finite value by the square root of a positive one, rounded once. -/
def overRoot (s x : FVal) : FVal :=
  match s, x with
  | .fin n a d e, .fin _ b c f =>
    let num := a * a * c
    let den := d * d * b
    let ex := 2 * e - f
    let num := if ex % 2 = 0 then num else 2 * num
    let ex := if ex % 2 = 0 then ex else ex - 1
    let k := den.log2 + 100
    let y := num <<< (2 * k)
    let r := isqrt (y / den)
    rne32 (.fin n (2 * r + (if r * r * den = y then 0 else 1)) 1 (ex / 2 - k - 1), false)
  | _, _ => .nan

/-- The FP32 bits of a value that is exact in FP32. -/
def word32 (v : FVal) : Word := BitVec.ofNat 32 (roundTo .f32 .rn false v).1

/-- The distance of a candidate from the query. -/
def distance (m : Nat) (qc : List (FVal × FVal)) : Word :=
  let zero : FVal := .fin false 0 1 0
  match m with
  | 0 => word32 (qc.foldl (fun s e => let d := (FVal.add false e.1 e.2.negate).1; macStep s d d) zero)
  | 1 => word32 (qc.foldl (fun s e => macStep s e.1 e.2) zero)
  | _ =>
    let (s, nq, nc) := qc.foldl (fun (t : FVal × FVal × FVal) e =>
      (macStep t.1 e.1 e.2, macStep t.2.1 e.1 e.1, macStep t.2.2 e.2 e.2)) (zero, zero, zero)
    match s, nq, nc with
    | .fin .., .fin .., .fin .. => if nq.isZero || nc.isZero then 0 else word32 (overRoot s (FVal.mul nq nc).1)
    | _, _, _ => 0x7FC00000#32

/-- The elements of a candidate's row beside the query's. -/
def gdistPairs (f : Nat) (query row : List Byte) (d : Nat) : List (FVal × FVal) :=
  let sz := gdistSize f
  (List.range d).map fun j =>
    (FVal.ofBits .f32 (leNat ((query.drop (4 * j)).take 4)), gdistElem f (leNat ((row.drop (sz * j)).take sz)))

/-- Writes output i, and the command goes on to the next candidate or resolves. -/
def State.gdistPut (s : State) (r : Nat) (glob : Bool) (v : Word) : State :=
  let o := s.op r
  let i := o.unit
  let done (s : State) : State :=
    let s := s.modOp r fun o => { o with unit := i + 1 }
    if (o.reg 6).toNat ≤ i + 1 then s.resolve r 0 else s
  if !glob then done (s.modGang o.gang fun g => g.spWrite ((o.reg 7).toNat + 4 * i) (bytesOf 4 v.toNat))
  else match s.nnPlaces (o.ask 3) ((o.reg2 7 + 4 * i) % 2 ^ 64) 4 .write with
    | (s, ps, none) => done (s.engPut (o.ask 3) ps (bytesOf 4 v.toNat))
    | (s, _, some g) => s.nnStop r i g

/-- A candidate of GDIST. -/
def State.gdistCandidate (s : State) (r : Nat) : State :=
  let o := s.op r
  match o.instr with
  | .gdist w =>
    if !s.nnTurn r then s
    else
      let s := s.takeTurn o.core 2 o.launch
      let g := s.gang o.gang
      let i := o.unit
      let f := (w.subop.extractLsb' 2 3).toNat
      let d := (o.reg 5).toNat
      let glob := w.subop.getLsbD 5
      let ident := leNat (g.spRead ((o.reg 1).toNat + 4 * i) 4)
      if ident = 0xFFFFFFFF then s.gdistPut r glob 0x7FC00000#32
      else match s.nnRead (o.ask 3) ((o.reg2 2 + ident * (o.reg 4).toNat) % 2 ^ 64) (d * gdistSize f) with
        | (s, .bytes row) =>
          s.gdistPut r glob (distance (w.subop.extractLsb' 0 2).toNat (gdistPairs f (g.spRead (o.reg 0).toNat (4 * d)) row d))
        | (s, g) => s.nnStop r i g
  | _ => s

/-- GDIST_CANDIDATE. -/
def execGdistCandidate (s : State) : Out := .next (s.gdistCandidate s.ev.a)

/-! ### Merging (R369, R370) -/

/-- The image of a list. -/
def RankList.image (r : RankList) : List Byte :=
  bytesOf 8 (r.ents.length + (if r.max then 2 ^ 7 else 0) + r.k * 2 ^ 8) ++
    r.ents.flatMap fun e => bytesOf 4 e.1.toNat ++ bytesOf 4 e.2.toNat

/-- The entries of an image, of which the first qword is the head. -/
def imageCount (b : List Byte) : Nat := min 64 (leNat (b.take 8) % 128)
def imageEnts (b : List Byte) : List (Word × Word) :=
  (List.range (imageCount b)).map fun x =>
    (BitVec.ofNat 32 (leNat ((b.drop (8 + 8 * x)).take 4)), BitVec.ofNat 32 (leNat ((b.drop (12 + 8 * x)).take 4)))

/-- Writes an image to memory: whole, or where it fails each byte of the places that it may write old or new. -/
def State.storeImage (s : State) (r a : Nat) (bs : List Byte) : State :=
  let q := (s.op r).ask 3
  match s.nnPlaces q a bs.length .write with
  | (s, ps, none) => (s.engPut q ps bs).resolve r 0
  | (s, _, some (.wait t k)) => s.stallOp r t k
  | (s, ps, some g) =>
    let (free, s) := s.takeFree 520
    let cells := (ps.flatMap fun p => (List.range p.2).map (p.1 + ·)).zip bs
    (cells.zipIdx.foldl (fun s e => if Config.freeBit (free + e.2) then s.agentWrite q.part q.master q.tag e.1.1 [e.1.2] else s) s).nnStop r 0 g

/-- Offers the entries of an image in memory. -/
def State.loadImage (s : State) (r a : Nat) : State :=
  let o := s.op r
  match s.nnRead (o.ask 3) a 8 with
  | (s, .bytes h) =>
    match s.nnRead (o.ask 3) ((a + 8) % 2 ^ 64) (8 * imageCount h) with
    | (s, .bytes b) => (s.modList o.wk fun l => (imageEnts (h ++ b)).foldl RankList.offer l).resolve r 0
    | (s, g) => s.nnStop r 0 g
  | (s, g) => s.nnStop r 0 g

/-- A TKMRG takes effect and resolves. -/
def State.tkmrgResolve (s : State) (r : Nat) : State :=
  let o := s.op r
  if !s.nnTurn r then s
  else
    let s := s.takeTurn o.core 2 o.launch
    let g := s.gang o.gang
    let own := (s.weave o.wk).list
    match o.instr with
    | .tkmrgWv w =>
      let from_ := (List.range g.weaves).filter fun n => w.imm.getLsbD n && n != o.wk % 16
      let es := from_.flatMap fun n => (s.weave (16 * o.gang + n)).list.ents
      (s.modList o.wk fun l => es.foldl RankList.offer l).resolve r 0
    | .tkmrgSt w =>
      let a := imageAt w fun j => (o.reg j).toNat
      if w.imm.getLsbD 16 then (s.modGang o.gang fun g => g.spWrite a own.image).resolve r 0 else s.storeImage r a own.image
    | .tkmrgLd w =>
      let a := imageAt w fun j => (o.reg j).toNat
      if w.imm.getLsbD 16 then
        (s.modList o.wk fun l => (imageEnts (g.spRead a 520)).foldl RankList.offer l).resolve r 0
      else s.loadImage r a
    | _ => s

/-- TKMRG_RESOLVE. -/
def execTkmrgResolve (s : State) : Out := .next (s.tkmrgResolve s.ev.a)

end Sys2Proof.Machine
end

