-- ==== Sys2Proof/Machine/Accept.lean ====
section
/-! DEFINITION. Acceptance of commands by their engines (spec/03_encoding.md, R72; spec/05_ordering.md, R132). -/

namespace Sys2Proof.Machine

open Sys2Proof

/-- What an engine does with a command as it accepts it, beyond reading its descriptor. -/
def State.onAccept (s : State) (r : Nat) : State :=
  match (s.op r).instr with
  | .xbcast _ => s.startXbcast r
  | .lsend _ => s.startSend r
  | .swpreg _ => if (s.op r).unit = 0 then s.swpregEffect r else s
  | .swpregInv _ => if (s.op r).unit = 0 then s.swpregEffect r else s
  | .swpregThr _ => if (s.op r).unit = 0 then s.swpregEffect r else s
  | .swpregNow _ => if (s.op r).unit = 0 then s.swpregEffect r else s
  | .bform _ => s.startBond r
  | _ => s

/-- A command that was held because its engine's queue was full can be accepted: there is a place, and it is the oldest of
its weave that is held for the queue (R294). -/
def State.hasPlace (s : State) (r : Nat) : Bool :=
  let o := s.op r
  !o.full || (!s.queueFull o.core o.engine &&
    !s.ops.any fun e => decide (e.1 < r) && e.2.wk == o.wk && e.2.engine == o.engine && e.2.full && !e.2.stopped)

/-- A command can be accepted: it has not begun, every older store of its weave has left the queue, its engine's queue has a
place, an LSEND is in its turn (R388), and the core's entry into the exchange serves an XBCAST (R393). -/
def State.canAccept (s : State) (r : Nat) : Bool :=
  let o := s.op r
  !o.begun && o.ahead == 0 && !o.stopped && !o.paused && s.hasPlace r && s.sendTurn r && (match o.instr with
    | .xbcast _ => s.xeServes o.core o.launch
    | _ => true)

/-- The entry into the exchange gives its cycle to an XBCAST. -/
def State.acceptTurn (s : State) (r : Nat) : State :=
  let o := s.op r
  match o.instr with
  | .xbcast _ => s.takeTurn o.core 3 o.launch
  | _ => s

/-- What an engine does with an accepted command, unless it was cancelled before. -/
def State.takeUp (s : State) (r : Nat) : State :=
  let s := (s.accept r).modOp r fun o => { o with begun := true }
  if (s.op r).stopped then s else s.onAccept r

/-- COMMAND_ACCEPT. -/
def execCommandAccept (s : State) : Out :=
  let r := s.ev.a
  .next (if s.canAccept r then ((s.acceptTurn r).takeUp r).deliverPend (s.op r).wk else s)

end Sys2Proof.Machine
end

