-- ==== Sys2Proof/Machine/FrontEnd.lean ====
section
/-! DEFINITION. The front end's accesses, doorbells, queue slots and packet taking (spec/17_front_end.md, R396 to R404,
R452). -/

namespace Sys2Proof.Machine

open Sys2Proof

/-! ### Accesses at master class 6 (R398, R452) -/

/-- Reads [va, va+n) for a partition's front end; `homeOnly` where only HBM and CXL will do. -/
def State.feRead (s : State) (p va n : Nat) (homeOnly : Bool) : State × Got :=
  let s0 := s
  (linePieces va n).foldl (fun (s, g) e => match g with
    | .bytes b =>
      match s.check p (8 * p + 6) frontAsker (e.1 % 2 ^ 64) e.2 1 .read homeOnly false with
      | (s, .pass pa) =>
        if s.sliceWakes pa then (s.unasked s0, .wait none .read)
        else (s.count p pa 0 (Config.frontDie p % 4), .bytes (b ++ if inMmio pa then s.mmioRead pa e.2 else memRead s.mem pa e.2))
      | (s, .fault st) => (s, .fault st (e.1 % 2 ^ 64))
      | (s, .park t) => (s.unasked s0, .wait (some t) .read)
    | g => (s, g)) (s, .bytes [])

/-- Writes bytes at [va, …) for a partition's front end; a piece that cannot be written is dropped. -/
def State.fePut (s : State) (p va : Nat) (bs : List Byte) : State :=
  ((linePieces va bs.length).foldl (fun (s, bs) e =>
    let (now, rest) := ((bs : List Byte).take e.2, bs.drop e.2)
    match s.check p (8 * p + 6) frontAsker (e.1 % 2 ^ 64) e.2 1 .write false true with
    | (s, .pass pa) => ((s.agentWrite p (8 * p + 6) none pa now).countWrite p none pa now.length (Config.frontDie p % 4), rest)
    | (s, _) => (s, rest)) (s, bs)).1

/-- Adds to a 64-bit counter in memory, as one atom at its home slice (R399). -/
def State.feAdd (s : State) (p va n : Nat) : State :=
  match s.check p (8 * p + 6) frontAsker va 8 8 .rmw true true with
  | (s, .pass pa) => (s.commitWrite pa (bytesOf 8 (memQword s.mem pa + n))).count p pa 4 (Config.frontDie p % 4)
  | (s, _) => s

/-- The address of a queue's descriptor (R398); bit 56 of QDBASE stands for those above it (R142, R396). -/
def State.queueDesc (s : State) (p q : Nat) : Nat :=
  let b := (s.part p).front.qdbase.toNat
  ((if bit b 56 then b + (2 ^ 64 - 2 ^ 57) else b) + 256 * q) % 2 ^ 64

/-- Qword `i` of bytes. -/
def qwordAt (b : List Byte) (i : Nat) : Nat := leNat ((b.drop (8 * i)).take 8)

/-- Writes a qword of a queue's descriptor. -/
def State.putDesc (s : State) (p q o v : Nat) : State := s.fePut p (s.queueDesc p q + o) (bytesOf 8 v)

/-- A refused kick or descriptor is recorded (R397, R400). -/
def State.queueError (s : State) (p q : Nat) : State :=
  s.modPart p fun x => { x with front := { x.front with qerr := BitVec.ofNat 16 q, qerrv := true } }

/-! ### Slots -/

def State.slotAt (s : State) (n : Nat) : Option QSlot := Table.get none s.slots n

def State.modSlot (s : State) (n : Nat) (f : QSlot → QSlot) : State :=
  { s with slots := s.slots.modify n fun x => x.map f }

/-- The slot that holds a queue. -/
def State.slotOf (s : State) (p q : Nat) : Option (Nat × QSlot) :=
  s.slots.findSome? fun e => e.2.bind fun x => if x.part = p ∧ x.queue = q then some (e.1, x) else none

/-- The slot whose head packet is a launch. -/
def State.slotOfHead (s : State) (l : Nat) : Option Nat :=
  s.slots.findSome? fun e => e.2.bind fun x => if x.head = some l then some e.1 else none

/-- The launches of a queue, in the order of their takes. -/
def State.queueLaunches (s : State) (p q : Nat) : List Nat :=
  (s.launches.filter fun e => e.2.part == p && e.2.queue == q).map (·.1)

/-- A queue is pre-empted at the gang boundary (R412): it takes no packet and dispatches no gang. -/
def State.queueStopped (s : State) (p q : Nat) : Bool :=
  s.fw.switching || (s.part p).suspended || (s.part p).preempts.any fun x => x.queue == q

/-- The state of a slot whose head packet's launch is in a STATE (R401). -/
def slotStateOf (st : Nat) : SlotState :=
  match st with
  | 0 => .waiting
  | 1 => .waiting
  | 2 => .ready
  | 3 => .active
  | 4 => .active
  | _ => .idle

/-! ### Records (R404) -/

/-- The qwords of a record from 0x080 to 0x0A7. -/
def Launch.recordBytes (x : Launch) : List Byte :=
  bytesOf 8 x.status.toNat ++ bytesOf 8 (x.state + x.depmet.toNat * 8 + x.run.toNat * 2 ^ 16) ++ bytesOf 8 x.nextg ++
  bytesOf 8 (x.tpass.toNat + x.tfail.toNat * 2 ^ 32) ++ bytesOf 8 x.wnum

/-- The bytes of a packet. -/
def packetBytes (t : Table Dbl) : List Byte := (List.range 16).flatMap fun i => bytesOf 8 (Table.get 0 t i).toNat

/-- A packet as a table of its qwords. -/
def packetOf (b : List Byte) : Table Dbl :=
  (List.range 16).foldl (fun t i => Table.set 0 t i (BitVec.ofNat 64 (qwordAt b i))) []

/-- The record shows a launch's fields. -/
def State.putRecord (s : State) (l : Nat) : State :=
  let x := s.launch l
  s.fePut x.part (x.recVa.toNat + 0x80) x.recordBytes

/-- The record shows a launch's packet as processed. -/
def State.putPacket (s : State) (l : Nat) : State :=
  let x := s.launch l
  s.fePut x.part x.recVa.toNat (packetBytes x.packet)

/-- A launch enters a STATE: its record shows it, the times since it was Ready and Running are kept, and the slot whose head it is follows; a launch
past Active is no queue's head any more (R401). -/
def State.setStage (s : State) (l st : Nat) : State :=
  let s := s.modLaunch l fun x =>
    { x with
      state := st
      since := if st = 3 ∨ st = 4 then x.since else s.us
      ran := if x.state = 5 then x.ran + (s.us - x.since).toNat else x.ran
      age := if st = 3 ∨ st = 4 then 0 else x.age }
  let s := match s.slotOfHead l with
    | none => s
    | some n => s.modSlot n fun x =>
        let gone := decide (5 ≤ st)
        { x with
          state := slotStateOf st
          head := if gone then none else x.head
          since := if gone then s.us else x.since
          age := if st = 3 ∨ st = 4 then 0 else x.age }
  s.putRecord l

/-! ### Doorbells (R397, R400) -/

/-- A write index fits a ring: W is not below RPTR and W − RPTR is at most 2^LOG2N. -/
def indexOk (w rptr log2n : Nat) : Bool := decide (rptr ≤ w) && decide (w - rptr ≤ 2 ^ log2n)

/-- A queue is pending from now on, with the value of a kick that is not in its descriptor yet. -/
def State.setPending (s : State) (p q : Nat) (w : Option Dbl) : State :=
  if s.pendingOrder.any fun x => x.part == p && x.queue == q then
    { s with pendingOrder := s.pendingOrder.map fun x =>
        if x.part = p ∧ x.queue = q then { x with w := w, kick := s.us.toNat } else x }
  else { s with pendingOrder := s.pendingOrder ++ [{ part := p, queue := q, w := w, kick := s.us.toNat }] }

/-- A kick of a queue with a width and a write index. -/
def State.kick (s : State) (p q width w : Nat) : State :=
  if width ≠ 8 ∨ (s.part p).front.qcount ≤ q then s.queueError p q
  else match s.slotOf p q with
    | some (n, x) =>
      if !indexOk w x.rptr.toNat x.log2n then s.queueError p q
      else s.modSlot n fun x => { x with w := BitVec.ofNat 64 w, lastKick := s.us.toNat }
    | none =>
      match s.feRead p (s.queueDesc p q) 32 false with
      | (s, .fault _ _) => s.queueError p q
      | (s, .wait ..) => s.setPending p q (some (BitVec.ofNat 64 w))
      | (s, .bytes b) =>
        if !bit (qwordAt b 1) 7 || !indexOk w (qwordAt b 3) (bits (qwordAt b 1) 4 0) then s.queueError p q
        else (s.putDesc p q 0x10 w).setPending p q none

/-- DOORBELL_KICK. -/
def execDoorbellKick (s : State) : Out := .next (s.kick s.ev.a s.ev.b s.ev.c s.ev.value.toNat)

/-! ### Mapping (R400) -/

/-- Saves a slot's fields to its descriptor and frees it. -/
def State.unmapSlot (s : State) (n : Nat) : State :=
  match s.slotAt n with
  | none => s
  | some x =>
    let cur := match x.head with
      | some l => (s.launch l).idx.toNat % 2 ^ 63 + 2 ^ 63
      | none => 0
    let s := s.fePut x.part (s.queueDesc x.part x.queue + 0x10) (bytesOf 8 x.w.toNat ++ bytesOf 8 x.rptr.toNat)
    let s := s.fePut x.part (s.queueDesc x.part x.queue + 0x38) (bytesOf 8 cur ++ bytesOf 8 x.age)
    let s := match x.head with
      | some l => s.modLaunch l fun y => { y with age := x.age }
      | none => s
    { s with slots := s.slots.erase n }

/-- The partition's slot to evict: the oldest last kick among those not Active, ties to the lower number. -/
def State.victimSlot (s : State) (p : Nat) : Option Nat :=
  let c := s.slots.filterMap fun e => e.2.bind fun x => if x.part = p ∧ x.state ≠ .active then some (x.lastKick, e.1) else none
  (c.foldl (fun (r : Option (Nat × Nat)) e => match r with
    | some b => if e.1 < b.1 then some e else r
    | none => some e) none).map (·.2)

/-- A slot is evicted; its queue is pending again while it has packets. -/
def State.evictSlot (s : State) (n : Nat) : State :=
  match s.slotAt n with
  | none => s
  | some x =>
    let s := s.unmapSlot n
    if x.rptr.toNat < x.w.toNat then { s with pendingOrder := s.pendingOrder ++ [{ part := x.part, queue := x.queue, kick := x.lastKick }] } else s

/-- The slot that a queue of a partition takes, a slot evicted where none is free. -/
def State.roomForQueue (s : State) (p : Nat) : Option (Nat × State) :=
  let held := (s.slots.filter fun e => (e.2.map (·.part)) == some p).length
  let free := if held < (s.part p).front.quota then (List.range 128).find? fun n => (s.slotAt n).isNone else none
  match free with
  | some n => some (n, s)
  | none => (s.victimSlot p).map fun n => (n, s.evictSlot n)

/-- A descriptor is in order: valid, LOG2N in range, aligned, reserved fields zero (R400). -/
def descOk (b : List Byte) : Bool :=
  let q1 := qwordAt b 1
  let n := bits q1 4 0
  bit q1 7 && decide (1 ≤ n) && decide (n ≤ 16) && qwordAt b 0 % 4096 == 0 && qwordAt b 4 % 4096 == 0 &&
  bits q1 63 8 == 0 && bits (qwordAt b 8) 63 16 == 0 && (List.range 21).all fun i => qwordAt b (11 + i) == 0

/-- Loads a slot from a descriptor. -/
def State.loadSlot (s : State) (n : Nat) (x : PendQueue) (w : Nat) (b : List Byte) : State :=
  let cur := qwordAt b 7
  let head := if bit cur 63 then
      s.launches.findSome? fun e => if e.2.part = x.part ∧ e.2.queue = x.queue ∧ e.2.idx.toNat % 2 ^ 63 = cur % 2 ^ 63 ∧ e.2.state < 5 then some e.1 else none
    else none
  let slot : QSlot :=
    { part := x.part, queue := x.queue, w := BitVec.ofNat 64 w, rptr := BitVec.ofNat 64 (qwordAt b 3), head := head
      prio := bits (qwordAt b 1) 6 5, lastKick := x.kick, log2n := bits (qwordAt b 1) 4 0
      rbase := BitVec.ofNat 64 (qwordAt b 0), lrbase := BitVec.ofNat 64 (qwordAt b 4), since := s.us
      age := match head with
        | some l => (s.launch l).age
        | none => bits (qwordAt b 8) 15 0
      state := match head with
        | some l => slotStateOf (s.launch l).state
        | none => .idle }
  { s with slots := s.slots.insert n (some slot) }

/-- Maps a pending queue: the first of its partition that waits for no ticket. -/
def State.mapQueue (s : State) (p q : Nat) : State :=
  match s.pendingOrder.find? fun x => x.part == p && x.tickets.isEmpty with
  | none => s
  | some x =>
    if x.queue ≠ q then s
    else
      let mine (y : PendQueue) : Bool := y.part == p && y.queue == q
      let drop (s : State) : State := { s with pendingOrder := s.pendingOrder.filter fun y => !mine y }
      match (if x.refused then (s, .fault 0x10#32 0) else s.feRead p (s.queueDesc p q) 256 false) with
      | (s, .fault _ _) => (drop s).queueError p q
      | (s, .wait t _) => { s with pendingOrder := s.pendingOrder.map fun y => if mine y then { y with tickets := t.toList } else y }
      | (s, .bytes b) =>
        let w := match x.w with
          | some v => v.toNat
          | none => qwordAt b 2
        if !descOk b || !indexOk w (qwordAt b 3) (bits (qwordAt b 1) 4 0) then (drop s).queueError p q
        else match s.roomForQueue p with
          | none => s
          | some (n, s) => (drop s).loadSlot n x w b

/-- QUEUE_MAP. -/
def execQueueMap (s : State) : Out := .next (s.mapQueue s.ev.a s.ev.b)

/-- SLOT_IDLE_TIMEOUT (R402): an Idle slot that has had no kick for TOUT µs is unmapped. -/
def execSlotIdleTimeout (s : State) : Out :=
  .next (match s.slotAt s.ev.a with
    | none => s
    | some x =>
      if x.state == .idle && x.rptr == x.w && decide (max x.since.toNat x.lastKick + (s.part x.part).front.tout ≤ s.us.toNat)
      then s.unmapSlot s.ev.a else s)

/-- AGE_TICK (R403): the age of every Ready queue rises, saturating; a Ready launch that no slot holds ages by itself. -/
def execAgeTick (s : State) : Out :=
  let up (n : Nat) : Nat := min 65535 (n + 1)
  .next { s with
    slots := s.slots.mapVals fun _ e => e.map fun x => if x.state = .ready then { x with age := up x.age } else x
    launches := s.launches.mapVals fun l x => if x.state = 2 ∧ (s.slotOfHead l).isNone then { x with age := up x.age } else x }

/-! ### Taking a packet (R401, R452) -/

/-- A slot can take its next packet: no head, packets left, not pre-empted, no stalled read, and the packet whose record it
would use has completed. -/
def State.canTake (s : State) (x : QSlot) : Bool :=
  x.head.isNone && decide (x.rptr.toNat < x.w.toNat) && x.tickets.isEmpty && !s.queueStopped x.part x.queue && !s.alarm.refuse &&
  !s.launches.any fun e => e.2.part == x.part && e.2.queue == x.queue && (e.2.idx + BitVec.ofNat 64 (2 ^ x.log2n) == x.rptr || e.2.state == 6)

/-- The event that processes a packet of a TYPE (R54, R405). -/
def packetEvent (ty : Nat) : Instr :=
  match ty with
  | 0 => .directPacket
  | 1 => .indirectPacket
  | 2 => .guardedPacket
  | 3 => .signalPacket
  | 4 => .watchPacket
  | 5 => .barrierPacket
  | _ => .stitchPacket

/-- Takes the next packet of a slot. -/
def State.takePacket (s : State) (n : Nat) : State :=
  match s.slotAt n with
  | none => s
  | some x =>
    if !s.canTake x then s
    else
      let i := x.rptr.toNat % 2 ^ x.log2n
      let recVa := (x.lrbase.toNat + 512 * i) % 2 ^ 64
      match (if x.refused then (s, .fault 0x10#32 0) else s.feRead x.part ((x.rbase.toNat + 128 * i) % 2 ^ 64) 128 false) with
      | (s, .wait t _) => s.modSlot n fun x => { x with tickets := t.toList }
      | (s, .fault _ _) =>
        (s.fePut x.part recVa (List.replicate 128 0 ++ bytesOf 8 0x330 ++ bytesOf 8 7 ++ List.replicate 368 0)).modSlot n
          fun x => { x with rptr := x.rptr + 1, since := s.us, refused := false }
      | (s, .bytes b) =>
        let pkt := packetOf b
        let (l, s) := s.fresh
        let y : Launch := { part := x.part, queue := x.queue, idx := x.rptr, recVa := BitVec.ofNat 64 recVa, orig := pkt, packet := pkt, prio := x.prio, since := s.us }
        let s := { s with launches := s.launches.insert l y }
        let s := (s.fePut x.part recVa (b ++ List.replicate 384 0)).modSlot n
          fun x => { x with rptr := x.rptr + 1, head := some l, state := .waiting }
        s.next_ (packetEvent (y.field 0 3 0)) l 0 0

/-- PACKET_TAKE. -/
def execPacketTake (s : State) : Out := .next (s.takePacket s.ev.a)

end Sys2Proof.Machine
end

