-- ==== Sys2Proof/Machine/Prologue.lean ====
section
/-! DEFINITION. The prologue sequencer's own opcodes and its start and ends (spec/17_front_end.md, R408 to R411). -/

namespace Sys2Proof.Machine

open Sys2Proof

/-- A prologue-only word: outside the prologue sequencer it is fault 0x02 with detail 0x02 (R85, R409). -/
def prologueOnly (s : State) (f : Nat → Prologue → State) : Out :=
  match s.cur with
  | some (.prologue p) =>
    match (s.part p).prologue with
    | some x => .next (f p x)
    | none => .fault .noIssuer
  | _ => onWeave s fun k => s.fault k k.lanes 0x202#32 0

/-- An F3 word of this group with its fields as R409 gives them. -/
def proF3 (w : F3) (dst a : Operand → Bool) : Bool := f3Legal proGang w dst a isUnused none false false false (w.mods == 0)

/-- Writes a qword of the packet as processed, in the record too. -/
def State.setPacketQword (s : State) (l k v : Nat) : State :=
  let x := s.launch l
  (s.modLaunch l fun x => { x with packet := Table.set 0 x.packet k (BitVec.ofNat 64 v) }).fePut x.part (x.recVa.toNat + 8 * k) (bytesOf 8 v)

/-- A number with `n` bits from `lsb` on replaced. -/
def putField (q lsb n v : Nat) : Nat := q % 2 ^ lsb + v % 2 ^ n * 2 ^ lsb + q / 2 ^ (lsb + n) * 2 ^ (lsb + n)

/-- PLSET (R410). -/
def execPlset (w : FI) (s : State) : Out :=
  prologueOnly s fun p x =>
    let word := (w.imm.extractLsb' 0 5).toNat
    let lsb := (w.imm.extractLsb' 5 5).toNat
    let n := (w.imm.extractLsb' 10 5).toNat + 1
    let legal := fiLegal proGang w isUnused proOperand (w.mods == 0) && w.imm.extractLsb' 15 9 == 0
    s.runPrologue p legal w.pred.toNat w.neg fun y s =>
      if 32 < lsb + n then s.endPrologue p (prologueFault 1)
      else
        let q := (Table.get 0 (s.launch x.launch).packet (word / 2)).toNat
        s.setPacketQword x.launch (word / 2) (putField q (32 * (word % 2) + lsb) n (y.rd w.a).toNat)

/-- PLDEP (R410). -/
def execPldep (w : FI) (s : State) : Out :=
  prologueOnly s fun p x =>
    let legal := fiLegal proGang w isUnused isPairS (w.mods == 0) && w.imm.extractLsb' 1 23 == 0
    s.runPrologue p legal w.pred.toNat w.neg fun y s =>
      let l := s.launch x.launch
      let n := l.field 0 22 20
      if 4 ≤ n then s.endPrologue p 0x330#32
      else
        let a := y.pairAt w.a / 2 * 2 + (if w.imm.getLsbD 0 then 1 else 0)
        (s.setPacketQword x.launch (6 + n) a).setPacketQword x.launch 0 (putField (Table.get 0 l.packet 0).toNat 20 3 (n + 1))

/-- What PLSTAT reads (R410). -/
def plstatValue (l : Launch) (count sel : Nat) : Word :=
  match sel with
  | 0 => l.run.setWidth 32
  | 1 => BitVec.ofNat 32 count
  | 2 => l.prevStatus
  | 3 => l.prevPass
  | 4 => l.prevFail
  | _ => 0

/-- PLSTAT (R410). -/
def execPlstat (w : F3) (s : State) : Out :=
  prologueOnly s fun p x =>
    s.runPrologue p (proF3 w isS isSorInt) w.pred.toNat w.neg fun y s =>
      s.setPrologue p (y.wr w.dst (plstatValue (s.launch x.launch) y.count (y.rd w.a).toNat))

/-- The prologue's run has ended and the amended packet is processed (R411): a TYPE other than DIRECT or GUARDED is refused. -/
def State.amended (s : State) (p l : Nat) (again : Bool) : State :=
  let s := (s.modPart p fun q => { q with prologue := none }).modLaunch l fun x => { x with prologued := true, checked := false, repeat_ := again }
  let ty := (s.launch l).field 0 3 0
  if ty = 0 ∨ ty = 2 then s.next_ (packetEvent ty) l 0 0 else s.endLaunch l 0x130#32

/-- PLGO (R411). -/
def execPlgo (w : F3) (s : State) : Out :=
  prologueOnly s fun p x =>
    s.runPrologue p (proF3 w isUnused isUnused) w.pred.toNat w.neg fun _ s => s.amended p x.launch false

/-- PLCANCEL (R411). -/
def execPlcancel (w : F3) (s : State) : Out :=
  prologueOnly s fun p _ =>
    s.runPrologue p (proF3 w isUnused isUnused) w.pred.toNat w.neg fun _ s => s.endPrologue p 0x100#32

/-- PLREPEAT (R411); in run 65,535 it acts as PLGO. -/
def execPlrepeat (w : F3) (s : State) : Out :=
  prologueOnly s fun p x =>
    s.runPrologue p (proF3 w isUnused isUnused) w.pred.toNat w.neg fun _ s =>
      s.amended p x.launch ((s.launch x.launch).run != 0xFFFF#16)

/-- The start of a run (R408). -/
def State.startPrologue (s : State) (l : Nat) : State :=
  let s := s.modLaunch l fun x => { x with packet := x.orig }
  let x := s.launch l
  let karg := Table.get 0 x.packet 15
  let regs : Table Word := [loWord karg, hiWord karg, loWord x.recVa, hiWord x.recVa, x.run.setWidth 32].zipIdx.foldl
    (fun t e => Table.set 0 t e.2 e.1) []
  ((s.putPacket l).setStage l 3).setPrologue x.part { launch := l, pc := Table.get 0 x.packet 13, sregs := regs }

/-- PROLOGUE_WORD_LIMIT (R408): the 257th word is not executed. -/
def execPrologueWordLimit (s : State) : Out :=
  .next (match (s.part s.ev.a).prologue with
    | some x => if 256 ≤ x.count then s.endPrologue s.ev.a 0x630#32 else s
    | none => s)


end Sys2Proof.Machine
end

