-- ==== Sys2Proof/Machine/Packets.lean ====
section
/-! DEFINITION. The processing of packets up to their dispatch: checks, dependencies, region binding, and the packets that
run no kernel (spec/02_execution.md, R42 to R44, R54 to R56; spec/16_exchange.md, R373 to R375; spec/17_front_end.md,
R403 to R406, R414, R452). -/

namespace Sys2Proof.Machine

open Sys2Proof

/-! ### Fields (R54) -/

def Launch.qword (l : Launch) (q : Nat) : Nat := (Table.get 0 l.packet (q / 8)).toNat

/-- A demand raised to its minimum and to its granule. -/
def raised (v granule lo : Nat) : Nat := max lo ((v + granule - 1) / granule * granule)

def Launch.gangWeaves (l : Launch) : Nat := l.field 0 19 16 + 1
def Launch.depn (l : Launch) : Nat := l.field 0 22 20
def Launch.spb (l : Launch) : Nat := l.field 0x18 42 32
def Launch.vreg (l : Launch) : Nat := raised (l.field 0x20 8 0) 8 8
def Launch.sreg (l : Launch) : Nat := raised (l.field 0x20 15 9) 8 0
def Launch.preg (l : Launch) : Nat := raised (l.field 0x20 20 16) 4 4
def Launch.hreg (l : Launch) : Nat := raised (l.field 0x20 25 21) 4 0
def Launch.accr (l : Launch) : Nat := raised (l.field 0x20 37 26) 32 0
def Launch.treg (l : Launch) : Nat := l.field 0x20 41 38
def Launch.dep (l : Launch) (i : Nat) : Nat := l.qword (0x30 + 8 * i)

/-- The tiles of a guarded launch (R405, R415). -/
def Launch.tileCount (l : Launch) : Nat := (l.gangCount + l.gtile - 1) / l.gtile

/-- The vector register bytes of a gang. -/
def Launch.vregBytes (l : Launch) : Nat := l.gangWeaves * l.vreg * 128

/-! ### Checks (R56, R405) -/

/-- Dependency fields are in order. -/
def Launch.depsOk (l : Launch) : Bool := decide (l.depn ≤ 4) && (List.range 4).all fun i => bits (l.dep i) 2 1 == 0

/-- The completion fields are in order. -/
def Launch.completionOk (l : Launch) : Bool := l.qword 0x50 % 8 == 0 && l.field 0 10 9 != 3

/-- The reserved fields of qword 0x00 are zero. -/
def Launch.headOk (l : Launch) : Bool := !bit (l.qword 0) 23 && l.field 0 31 29 == 0

/-- A packet that runs a kernel, DIRECT or GUARDED, is in order under R56. -/
def Launch.kernelOk (l : Launch) : Bool :=
  l.headOk && l.depsOk && l.completionOk && decide (l.field 0 7 4 ≤ 5) &&
  l.field 0x10 20 0 != 0 && l.field 0x10 41 21 != 0 && l.field 0x10 62 42 != 0 && !bit (l.qword 0x10) 63 &&
  decide (l.spb ≤ 1024) && l.field 0x18 63 43 == 0 && l.field 0x20 63 42 == 0 && l.field 0x70 63 32 == 0 &&
  decide (l.vreg ≤ 320) && decide (l.sreg ≤ 64) && decide (l.preg ≤ 16) && decide (l.hreg ≤ 16) && decide (l.accr ≤ 2048) &&
  decide (l.treg ≤ 8) && decide (l.vregBytes ≤ 524288) && (!bit (l.qword 0) 28 || l.qword 0x28 % 64 == 0) &&
  (!l.guarded || l.gtile != 0)

/-- What a check of a packet gives: in order, refused with a status, or a stalled read. -/
inductive Verdict where
  | ok
  | refuse (status : Word)
  | stall
  deriving DecidableEq, Repr

/-! ### Declared pipelines (R42 to R44) -/

/-- A stage entry. -/
def stageOf (q : Nat) : Stage :=
  { role := bits q 1 0, wfirst := bits q 5 2, wcount := bits q 9 6 + 1, rin := bits q 13 10, rout := bits q 17 14 }

/-- A ring entry. -/
def ringOf (q : Nat) : Ring := { slots := bits q 4 0, maxocc := bits q 4 0, prod := bits q 8 5, cons := bits q 12 9 }

/-- The entries of a declaration block, after its control qword. -/
structure PipeDecl where
  stages : List Nat
  rings : List Nat
  occs : List Nat
  deriving DecidableEq, Repr

/-- The counts of a control qword: stages, rings, occupancy entries. -/
def pipeCounts (q : Nat) : Nat × Nat × Nat := (bits q 3 0, bits q 7 4, bits q 15 8)

/-- The weaves of a stage. -/
def Stage.weaves (s : Stage) : List Nat := (List.range s.wcount).map (s.wfirst + ·)

/-- A control qword's fields are in range. -/
def controlOk (q : Nat) : Bool :=
  let (n, r, o) := pipeCounts q
  bits q 63 16 == 0 && decide (2 ≤ n) && decide (n ≤ 8) && decide (1 ≤ r) && decide (r ≤ 7) && decide (o ≤ 32)

/-- A declaration is in order and agrees with a role map (R42, R43). The rules bound neither a stage's ring numbers by NRING nor
its weaves by the gang's, so both are accepted (DESIGN CHOICE, notes/assumptions/126.md and 127.md). -/
def PipeDecl.ok (d : PipeDecl) (roles : Nat) : Bool :=
  let ss := d.stages.map stageOf
  let rs := d.rings.map ringOf
  d.stages.all (fun q => bits q 63 18 == 0 && bits q 1 0 != 0) &&
  ss.all (fun s => (decide (s.rin ≤ 6) || s.rin == 15) && (decide (s.rout ≤ 6) || s.rout == 15)) &&
  (ss.flatMap Stage.weaves).dedup.length == (ss.flatMap Stage.weaves).length &&
  d.rings.all (fun q => bits q 63 13 == 0) &&
  rs.all (fun r => decide (2 ≤ r.slots) && decide (r.slots ≤ 16)) &&
  (rs.zipIdx.all fun (r, i) => ((ss[r.prod]?).map (·.rout)) == some i && ((ss[r.cons]?).map (·.rin)) == some i) &&
  d.occs.all (fun q => decide (bits q 3 0 ≤ 1) && bits q 31 24 == 0 && bits q 63 48 == 0 && bits q 23 8 != 0 &&
    (if bits q 3 0 = 0 then decide (bits q 7 4 < d.rings.length) else decide (bits q 47 32 ≤ 4095))) &&
  ss.all fun s => s.weaves.all fun w => decide (15 < w) || bits roles (2 * w + 1) (2 * w) == s.role

/-- The rings with their declared occupancies. -/
def PipeDecl.ringTable (d : PipeDecl) : Table Ring :=
  (d.rings.zipIdx).foldl (fun t e =>
    let r := ringOf e.1
    let m := (d.occs.find? fun q => bits q 3 0 == 0 && bits q 7 4 == e.2).map fun q => bits q 23 8
    Table.insert t e.2 { r with maxocc := m.getD r.slots }) []

/-- The slice-queue entries, each a queue and its MAXOCC; R44 compares every one with the queue's depth. -/
def PipeDecl.queueOccs (d : PipeDecl) : List (Nat × Nat) :=
  (d.occs.filter fun q => bits q 3 0 == 1).map fun q => (bits q 47 32, bits q 23 8)

/-- The declared occupancies of slice queues. -/
def PipeDecl.queueTable (d : PipeDecl) : Table Nat := d.queueOccs.foldl (fun t e => Table.insert t e.1 e.2) []

/-- Reads, checks and takes over a declaration. A read of it that faults is handled as R452's. -/
def State.checkPipe (s : State) (l : Nat) : State × Verdict :=
  let x := s.launch l
  if !bit (x.qword 0) 28 then (s, .ok)
  else
    let at_ := x.qword 0x28
    match s.feRead x.part at_ 8 false with
    | (s, .fault _ _) => (s, .refuse 0x330#32)
    | (s, .wait t _) => (s.modLaunch l fun x => { x with depTickets := t.toList }, .stall)
    | (s, .bytes c) =>
      let q := leNat c
      if !controlOk q then (s, .refuse 0x230#32)
      else
        let (n, r, o) := pipeCounts q
        match s.feRead x.part ((at_ + 8) % 2 ^ 64) (8 * (n + r + o)) false with
        | (s, .fault _ _) => (s, .refuse 0x330#32)
        | (s, .wait t _) => (s.modLaunch l fun x => { x with depTickets := t.toList }, .stall)
        | (s, .bytes b) =>
          let qs := (List.range (n + r + o)).map (qwordAt b)
          let d : PipeDecl := { stages := qs.take n, rings := (qs.drop n).take r, occs := qs.drop (n + r) }
          if !d.ok (x.field 0x18 31 0) then (s, .refuse 0x230#32)
          else if d.queueOccs.any fun e => decide ((s.qrec x.part e.1).depth < e.2) then (s, .refuse 0x48#32)
          else (s.modLaunch l fun x => { x with
            stages := d.stages.zipIdx.map fun e => (e.2, stageOf e.1), rings := d.ringTable, queueOcc := d.queueTable }, .ok)

/-- The check of a packet of a TYPE (R55, R56, R405). -/
def State.checkPacket (s : State) (l : Nat) : State × Verdict :=
  let x := s.launch l
  let bad : State × Verdict := (s, .refuse 0x130#32)
  match x.typ with
  | 1 => if !x.depsOk then bad else if x.qword 0x68 % 8 ≠ 0 then (s, .refuse 0x09#32) else (s, .ok)
  | 3 => if x.headOk && x.depsOk && x.completionOk then (s, .ok) else bad
  | 4 =>
    if !x.headOk || !x.depsOk || x.qword 0x50 % 8 != 0 then bad
    else if x.qword 8 % 8 ≠ 0 then (s, .refuse 0x09#32) else (s, .ok)
  | 5 => if x.headOk && x.depsOk && x.completionOk then (s, .ok) else bad
  | 6 => if x.headOk && x.completionOk && x.qword 8 % 64 == 0 then (s, .ok) else bad
  | ty =>
    if 2 < ty || !x.kernelOk then bad
    else match s.checkPipe l with
      | (s, .ok) =>
        if x.guarded && (x.gtile % x.cohortSize != 0 || decide (1024 < x.tileCount)) then (s, .refuse 0x430#32)
        else if x.qword 8 % 8 != 0 || (x.guarded && x.qword 0x60 % 8 != 0) then (s, .refuse 0x09#32)
        else (s, .ok)
      | r => r

/-! ### Dependencies (R406) -/

/-- Dependency `i` has been found met. -/
def Launch.metDep (x : Launch) (i : Nat) : Bool := Table.find x.metWords i == some (BitVec.ofNat 64 (x.dep i))

/-- Every dependency has been found met. -/
def Launch.allMet (x : Launch) : Bool := x.typ == 6 || (List.range (min 4 x.depn)).all x.metDep

/-- A dependency is found met: it stays met, and the record says so. -/
def State.depMet (s : State) (l i : Nat) : State :=
  let s := { s with deps := s.deps.filter fun d => !(d.launch == l && d.dep == i) }
  (s.modLaunch l fun x => { x with
    metWords := Table.insert x.metWords i (BitVec.ofNat 64 (x.dep i)), depmet := setBit x.depmet i true }).putRecord l

/-- Evaluates a dependency at its home slice: met, or watched by a record where one is free. -/
def State.depEval (s : State) (l i : Nat) : State :=
  let x := s.launch l
  if x.ended || x.metDep i then s
  else
    let va := x.dep i / 8 * 8
    let full := bit (x.dep i) 0
    match s.check x.part (8 * x.part + 6) frontAsker va 8 8 .read true false with
    | (s, .fault _) => s.endLaunch l 0x330#32
    | (s, .park t) => s.modLaunch l fun x => { x with depTickets := (t :: x.depTickets).dedup }
    | (s, .pass pa) =>
      let s := s.count x.part pa 0 (Config.frontDie x.part % 4)
      if bit (memQword s.mem pa) 0 == full then s.depMet l i
      else if s.deps.length < 1024 ∧ !(s.deps.any fun d => d.launch == l && d.dep == i) then
        { s with deps := s.deps ++ [{ launch := l, dep := i, pa := pa, full := full }] }
      else s

/-- The first evaluation of every dependency of a packet; one that a prologue has replaced is not met any more. -/
def State.startDeps (s : State) (l : Nat) : State :=
  let s := s.modLaunch l fun x => { x with depmet := (List.range (min 4 x.depn)).foldl (fun m i => setBit m i (x.metDep i)) 0 }
  (List.range (min 4 (s.launch l).depn)).foldl (fun s i => s.depEval l i) s

/-- DEPENDENCY_EVALUATION: a slice's record has found its word met after a write. -/
def execDependencyEvaluation (s : State) : Out :=
  let l := s.ev.a
  let i := s.ev.b
  .next (if s.deps.any fun d => d.launch == l && d.dep == i && d.met then s.depMet l i else s)

/-- DEPENDENCY_POLL: a dependency without a record is evaluated again. -/
def execDependencyPoll (s : State) : Out :=
  let l := s.ev.a
  let i := s.ev.b
  let x := s.launch l
  .next (if x.state == 1 && decide (i < min 4 x.depn) && x.depTickets.isEmpty && !(s.deps.any fun d => d.launch == l && d.dep == i)
    then s.depEval l i else s)

/-! ### Region binding (R375) -/

/-- What a launch finds of its queue's regions. -/
inductive Binding where
  /-- It binds to none. -/
  | none_
  /-- It binds to this region. -/
  | region (n : Nat)
  /-- All are bound to other launches. -/
  | wait
  | refuse
  deriving DecidableEq, Repr

/-- A launch fits a region. -/
def Launch.fits (x : Launch) (r : Region) : Bool :=
  decide (x.gangCount ≤ 16 * r.cls.length) && decide (x.spb ≤ 512) && [1, 2, 4, 8, 16].contains x.cohortSize

/-- The region that a launch binds to: of its queue's, among those not bound, the one whose STITCH completed first. -/
def State.binding (s : State) (l : Nat) : Binding :=
  let x := s.launch l
  match x.region with
  | some n => .region n
  | none =>
    let rs := ((s.part x.part).regions.filter fun e => e.2.queue == x.queue)
    if x.guarded || rs.isEmpty then .none_
    else match sortBy (fun (a b : Nat × Region) => decide (a.2.order ≤ b.2.order)) (rs.filter fun e => e.2.launch.isNone) with
      | [] => .wait
      | (n, r) :: _ => if x.fits r then .region n else .refuse

/-- The core at position `g` of a region (R375). -/
def Region.coreAt (r : Region) (g : Nat) : Nat := 16 * r.cls.getD (g / 16) 0 + g % 16

/-- No gang of another launch is on the cores of a bound launch's positions. -/
def State.regionFree (s : State) (l : Nat) (r : Region) : Bool :=
  !s.gangs.any fun e => e.2.launch != l && (List.range (s.launch l).gangCount).any fun g => r.coreAt g == e.2.core

/-- A launch whose dependencies are met binds to its region, and is ready once the region's cores are free. -/
def State.bindLaunch (s : State) (l : Nat) : State × Bool :=
  let x := s.launch l
  match s.binding l with
  | .none_ => (s, true)
  | .wait => (s, false)
  | .refuse => (s.endLaunch l 0x830#32, false)
  | .region n =>
    let s := (s.modRegion x.part n fun r => { r with launch := some l, steps := 0, t := none }).modLaunch l fun x => { x with region := some n }
    (s, match (s.part x.part).regions.find n with
      | some r => s.regionFree l r
      | none => true)

/-! ### The kernel packets (R405) -/

/-- The launch gives up the partition's dispatch stream if it holds it. -/
def State.freeStream (s : State) (l : Nat) : State :=
  s.modPart (s.launch l).part fun q => { q with stream := if q.stream = some l then none else q.stream }

/-- Gangs of a launch are left to dispatch or to restore. -/
def Launch.unfinished (x : Launch) : Bool :=
  decide (x.nextg < x.gangCount) || x.tiles.any (fun e => e.2.exactLeft != 0) || !x.saved.isEmpty

/-- Dispatch of a launch stands where gang-boundary pre-emption may stop it: at a tile boundary of a GUARDED one (R418). -/
def Launch.atBoundary (x : Launch) : Bool := !x.guarded || x.nextg % x.gtile == 0 || decide (x.gangCount ≤ x.nextg)

/-- A launch whose queue is pre-empted, or whose gangs have been escalated, enters state Pre-empted once none of its gangs
is resident and some are left (R412, R429). -/
def State.settle (s : State) (l : Nat) : State :=
  let x := s.launch l
  if (x.state == 4 || x.state == 5) && !x.ended && (s.queueStopped x.part x.queue || !x.escalated.isEmpty) && (s.gangsOf l).isEmpty && x.unfinished && x.atBoundary
  then (s.freeStream l).setStage l 6 else s

/-- A packet waits for its dependencies, for its region and then for the stream; one that holds the stream (after its
prologue) goes on to its dispatch at once, or frees the stream. -/
def State.awaitStream (s : State) (l : Nat) (bind : Bool) : State :=
  let x := s.launch l
  if x.ended then s
  else
    let (s, ready) := if x.allMet then (if bind then s.bindLaunch l else (s, true)) else (s, false)
    if (s.launch l).ended then s
    else if ready then (if (s.part x.part).stream = some l then (s.setStage l 4).settle l else s.setStage l 2)
    else if x.state = 1 then s else (s.freeStream l).setStage l 1

/-- The prologue sequencer of its partition runs for a launch. -/
def State.inPrologue (s : State) (l : Nat) : Bool :=
  match (s.part (s.launch l).part).prologue with
  | some q => q.launch == l
  | none => false

/-- A packet is checked once; then its dependencies are evaluated and it waits. -/
def State.processPacket (s : State) (l : Nat) (go : State → State) : State :=
  let x := s.launch l
  if x.ended || s.inPrologue l || !x.depTickets.isEmpty || 3 < x.state || x.state == 2 then s
  else if x.checked then go s
  else match s.checkPacket l with
    | (s, .refuse st) => s.endLaunch l st
    | (s, .stall) => s
    | (s, .ok) =>
      let s := s.modLaunch l fun x => { x with checked := true }
      let s := if x.state = 0 then s.setStage l 1 else s
      let s := if x.typ = 6 then s else s.startDeps l
      if (s.launch l).ended then s else go s

/-- A launch of a TYPE is processed by its own event. -/
def State.packetOfType (s : State) (l ty : Nat) (go : State → State) : Out :=
  .next (match s.launches.find l with
    | some x => if x.typ = ty || (ty == 6 && decide (6 < x.typ)) then s.processPacket l go else s
    | none => s)

/-- DIRECT_PACKET. -/
def execDirectPacket (s : State) : Out := s.packetOfType s.ev.a 0 fun t => t.awaitStream s.ev.a true

/-- GUARDED_PACKET. -/
def execGuardedPacket (s : State) : Out := s.packetOfType s.ev.a 2 fun t => t.awaitStream s.ev.a true

/-- INDIRECT_PACKET, up to its prologue. -/
def execIndirectPacket (s : State) : Out := s.packetOfType s.ev.a 1 fun t => t.awaitStream s.ev.a false

/-! ### The packets that run no kernel (R55, R414, R374) -/

/-- SIGNAL_PACKET: it completes when its dependencies are met. -/
def execSignalPacket (s : State) : Out :=
  let l := s.ev.a
  s.packetOfType l 3 fun t => if (t.launch l).allMet then t.endLaunch l 0 else t

/-- Every earlier packet of a launch's queue has completed. -/
def State.earlierDone (s : State) (l : Nat) : Bool :=
  let x := s.launch l
  !s.launches.any fun e => e.2.part == x.part && e.2.queue == x.queue && decide (e.2.idx.toNat < x.idx.toNat)

/-- BARRIER_PACKET. -/
def execBarrierPacket (s : State) : Out :=
  let l := s.ev.a
  s.packetOfType l 5 fun t => if (t.launch l).allMet && t.earlierDone l then t.endLaunch l 0 else t

/-- WATCH_PACKET: once its dependencies are met, it arms a watch. -/
def execWatchPacket (s : State) : Out :=
  let l := s.ev.a
  s.packetOfType l 4 fun t =>
    let x := t.launch l
    if !x.allMet then t
    else match t.check x.part (8 * x.part + 6) frontAsker (x.qword 8) 8 8 .read true false with
      | (t, .fault _) => t.endLaunch l 0x330#32
      | (t, .park n) => t.modLaunch l fun x => { x with depTickets := [n] }
      | (t, .pass pa) =>
        let w : Watch :=
          { part := x.part, pa := pa, cond := x.field 0x18 1 0, value := BitVec.ofNat 64 (x.qword 0x10)
            hostAddr := BitVec.ofNat 64 (x.qword 0x50), hostVal := BitVec.ofNat 64 (x.qword 0x58), vector := x.field 0x18 12 2 }
        match t.armWatch w with
        | (t, none) => t.endLaunch l 0x730#32
        | (t, some n) =>
          ((t.count x.part pa 4 (Config.frontDie x.part % 4)).modLaunch l fun x => { x with wnum := n }).endLaunch l 0

/-- The clusters that a region descriptor names. -/
def descClusters (b : List Byte) : List Nat := ((b.drop 16).take (bits (qwordAt b 0) 14 8)).map (·.toNat)

/-- A region descriptor of a partition is in order (R373, R374); `reg` may be stitched again. -/
def State.regionOk (s : State) (p reg : Nat) (b : List Byte) : Bool :=
  let q := qwordAt b 0
  let n := bits q 14 8
  let tx := bits q 17 15
  let cls := descClusters b
  !bit q 7 && bits q 63 18 == 0 && qwordAt b 1 == 0 && decide (bits q 2 0 ≤ 4) && decide (1 ≤ n) && decide (n ≤ 64) &&
  (if bits q 2 0 = 4 then n % (tx + 1) == 0 else tx == 0) && ((b.drop (16 + n)).take (112 - n)).all (· == 0) &&
  cls.all (fun c => decide (c < 64) && (s.part p).ctl.clmask.getLsbD c) && cls.dedup.length == cls.length &&
  !s.parts.any fun e => e.2.regions.any fun r => !(e.1 == p && r.1 == reg) && r.2.cls.any cls.contains

/-- The region's bound launch has completed, so that it can be unstitched. -/
def State.regionIdle (s : State) (p reg : Nat) : Bool :=
  match (s.part p).regions.find reg with
  | some r => r.launch.isNone
  | none => true

/-- STITCH_PACKET: a region is stitched or unstitched once nothing bound stands in its way. -/
def execStitchPacket (s : State) : Out :=
  let l := s.ev.a
  s.packetOfType l 6 fun t =>
    let x := t.launch l
    match t.feRead x.part (x.qword 8) 128 false with
    | (t, .fault _ _) => t.endLaunch l 0x330#32
    | (t, .wait n _) => t.modLaunch l fun x => { x with depTickets := n.toList }
    | (t, .bytes b) =>
      let q := qwordAt b 0
      let reg := bits q 6 4
      let cls := descClusters b
      if bit q 3 then
        if t.regionIdle x.part reg then ((t.modPart x.part fun y => { y with regions := y.regions.erase reg }).askFurther x.part).endLaunch l 0 else t
      else if !t.regionOk x.part reg b then t.endLaunch l 0x30#32
      else if !t.regionIdle x.part reg || t.gangs.any fun e => e.2.region.isSome && cls.contains (e.2.core / 16) then t
      else
        let r : Region := { topo := bits q 2 0, txm1 := bits q 17 15, cls := cls, queue := x.queue, order := (t.part x.part).stitches }
        (t.modPart x.part fun y => { y with regions := Table.insert y.regions reg r, stitches := y.stitches + 1 }).endLaunch l 0

/-! ### The dispatch stream (R403) -/

/-- A Ready launch's place in the choice: effective level, age, and slot number (128 where no slot holds it). -/
def State.readyRank (s : State) (l : Nat) : Nat × Nat × Nat :=
  match s.slotOfHead l with
  | some n => match s.slotAt n with
    | some x => (min 3 (x.prio + x.age / 8), x.age, n)
    | none => (0, 0, n)
  | none => let x := s.launch l; (min 3 (x.prio + x.age / 8), x.age, 128)

/-- One place comes before another. -/
def rankBefore (a b : Nat × Nat × Nat) : Bool :=
  decide (b.1 < a.1) || (a.1 == b.1 && (decide (b.2.1 < a.2.1) || (a.2.1 == b.2.1 && decide (a.2.2 < b.2.2))))

/-- The Ready launches that the stream of a partition may choose from. -/
def State.readyLaunches (s : State) (p : Nat) : List Nat :=
  (s.launches.filter fun e => e.2.part == p && e.2.state == 2 && !e.2.ended && !s.queueStopped p e.2.queue).map (·.1)

/-- The stream's choice. -/
def State.chooseReady (s : State) (p : Nat) : Option Nat :=
  (s.readyLaunches p).foldl (fun r l => match r with
    | none => some l
    | some b => if rankBefore (s.readyRank l) (s.readyRank b) then some l else r) none

/-- DISPATCH_STREAM_CHOICE: the chosen launch runs its prologue or dispatches. -/
def execDispatchStreamChoice (s : State) : Out :=
  let p := s.ev.a
  .next (if (s.part p).stream.isSome || s.alarm.refuse then s
    else match s.chooseReady p with
      | none => s
      | some l =>
        let s := s.modPart p fun q => { q with stream := some l }
        if (s.launch l).typ = 1 && !(s.launch l).prologued then s.startPrologue l else s.setStage l 4)

end Sys2Proof.Machine
end

