-- ==== Sys2Proof/Machine/Placement.lean ====
section
/-! DEFINITION. Placement of gangs, their ends, the regulator's decisions and the completion of launches
(spec/02_execution.md, R33 to R35, R46, R47; spec/08_sequencer.md, R198; spec/17_front_end.md, R405, R407, R411, R415 to
R418; spec/18_firmware.md, R430). -/

namespace Sys2Proof.Machine

open Sys2Proof

/-! ### Affinity (R46, R47) -/

/-- The 7-bit slot of an affinity function for gang `g`. -/
def affinitySlot (aff seed g : Nat) : Nat :=
  let v := Nat.xor g seed % 2 ^ 32
  let hash (k : Nat) : Nat := v * k % 2 ^ 32 / 2 ^ 25
  match aff with
  | 1 => (g + seed) % 128
  | 2 => hash 0x9E3779B1
  | 3 => hash 0x85EBCA77
  | 4 => hash 0xC2B2AE3D
  | 5 => hash 0x27D4EB2F
  | _ => 0

/-- The clusters of a partition. -/
def State.clustersOf (s : State) (p : Nat) : List Nat := (List.range 64).filter fun c => (s.part p).ctl.clmask.getLsbD c

/-- The dies on which a partition owns a cluster, in ascending order (R423). -/
def State.diesOf (s : State) (p : Nat) : List Nat := (List.range 4).filter fun d => (s.clustersOf p).any fun c => c / 16 == d

/-- The target die of a die that an affinity function names. -/
def State.targetDie (s : State) (p die : Nat) : Nat :=
  let ds := s.diesOf p
  if ds.contains die then die else ds.getD (die % max 1 ds.length) 0

/-- A cluster belongs to a stitched region. -/
def State.stitched (s : State) (c : Nat) : Bool := s.parts.any fun e => e.2.regions.any fun r => r.2.cls.contains c

/-- Mesh hops between two clusters of one die. -/
def hops (a b : Nat) : Nat := natDist (clusterX a) (clusterX b) + natDist (clusterY a) (clusterY b)

/-! ### Room (R31, R47) -/

/-- A core has room for a gang of a launch: a context slot, registers beside those in use and lent, scratchpad in banks that are
not gated, and accumulator rows. -/
def State.hasRoom (s : State) (l core : Nat) : Bool :=
  let x := s.launch l
  let gs := (s.gangs.filter fun e => e.2.core == core).map (·.2)
  let sum (f : Gang → Nat) : Nat := (gs.map f).foldl (· + ·) 0
  let ctxs := (s.core core).ctxs
  let banks := ((List.range 8).filter fun i => (s.core core).spgate.getLsbD i).length
  ((ctxs.any fun e => e.2 == some l) || (List.range 4).any fun i => (Table.get none ctxs i).isNone) &&
  decide (s.regBytes core + x.vregBytes ≤ 524288) &&
  decide (sum (fun g => 256 * g.spb) + 256 * x.spb ≤ 32768 * banks) && decide (sum (fun g => g.accr) + x.accr ≤ 2048)

/-- The cohort of a number of a launch. -/
def State.cohortOf (s : State) (l idx : Nat) : Option Nat :=
  (s.cohorts.find? fun e => e.2.launch == l && e.2.idx == idx).map (·.1)

/-- The cores of a cluster on which a gang of a cohort may stand: no two gangs of one cohort share a core. -/
def State.roomIn (s : State) (l idx cl : Nat) : List Nat :=
  let used := match s.cohortOf l idx with
    | some c => (s.cohort c).gangs.filterMap fun (e : Nat × Nat) => (s.gangs.find e.2).map (fun (y : Gang) => y.core)
    | none => []
  ((List.range 16).map (16 * cl + ·)).filter fun c => !used.contains c && s.hasRoom l c

/-- The cores on which gang `g` of a launch that is bound to no region may be placed now. -/
def State.coresFor (s : State) (l g : Nat) : List Nat :=
  let x := s.launch l
  let idx := g / x.cohortSize
  let free := (s.clustersOf x.part).filter fun c => !s.stitched c
  match s.cohortOf l idx with
  | some c => if free.contains (s.cohort c).cluster then s.roomIn l idx (s.cohort c).cluster else []
  | none =>
    let aff := x.field 0 7 4
    if aff = 0 then free.flatMap (s.roomIn l idx)
    else
      let slot := affinitySlot aff (x.field 0 63 32) (idx * x.cohortSize)
      let die := s.targetDie x.part (slot / 32)
      let near := 16 * die + slot % 32 / 2
      let open_ := free.filter fun c => c / 16 == die && !(s.roomIn l idx c).isEmpty
      match sortBy (fun a b => decide (hops near a < hops near b) || (hops near a == hops near b && decide (a ≤ b))) open_ with
      | c :: _ => s.roomIn l idx c
      | [] => []

/-! ### The next gang (R405, R416 to R418) -/

/-- The tag that a new tile of a partition takes: the lowest one that no live tile holds (R415). -/
def State.freeTag (s : State) (p : Nat) : Option Nat :=
  let used := s.launches.flatMap fun e => if e.2.part = p then (e.2.tiles.filter fun t => t.2.live).map (·.2.tag) else []
  (List.range (min 65536 (used.length + 1))).find? fun t => !used.contains t

/-- A launch may dispatch its next gang now: THERM is not hold, service is not refused, its queue is not pre-empted (a
tile that is begun goes on to its boundary), nothing saved is left to restore, and a new tile finds a tag. -/
def State.dispatches (s : State) (l : Nat) : Option (Nat × Bool) :=
  let x := s.launch l
  if x.ended || !x.saved.isEmpty || !x.escalated.isEmpty || s.status.therm == 1 || s.alarm.refuse then none
  else match x.nextGang with
    | none => none
    | some (g, exact) =>
      let begun := x.guarded && !exact && g % x.gtile != 0
      if s.queueStopped x.part x.queue && !begun then none
      else if !(x.state == 4 || (x.state == 5 && exact)) then none
      else if x.guarded && !exact && !begun && (s.freeTag x.part).isNone then none
      else some (g, exact)

/-! ### The start of a gang (R35) -/

/-- The generator state of a lane at gang start. -/
def laneSeed (seed g w l : Nat) : Word :=
  let v := BitVec.ofNat 32 seed ^^^ BitVec.ofNat 32 ((g * 16 + w) * 32 + l)
  if v = 0 then 1 else v

/-- A weave of a new gang. -/
def newWeave (x : Launch) (gk g w : Nat) (kaddr : Dbl) (now : Nat) : Weave :=
  let karg := Table.get 0 x.packet 15
  { gang := gk, num := w, lastIssue := now
    sregs := Table.set 0 (Table.set 0 [] 0 (loWord karg)) 1 (hiWord karg)
    lanes := (List.range 32).map fun l => (l, { pc := kaddr, hdr := true, gen := laneSeed (x.field 0 63 32) g w l }) }

/-- Gang `g` of a launch starts on a core; its dispatch acts as CCTL.ivi and as an acquire there (R120, R230). -/
def State.startGang (s : State) (l g core : Nat) (exact : Bool) : State :=
  let x := s.launch l
  let idx := g / x.cohortSize
  let (ck, s) := match s.cohortOf l idx with
    | some c => (c, s)
    | none =>
      let (c, s) := s.fresh
      (c, { s with cohorts := s.cohorts.insert c { launch := l, idx := idx, cluster := core / 16, rings := x.rings } })
  let (gk, s) := s.fresh
  let kaddr := Table.get 0 x.packet (if exact then 12 else 1)
  let t := if x.guarded then g / x.gtile else 0
  let gang : Gang :=
    { part := x.part, launch := l, core := core, g := g, weaves := x.gangWeaves, cohort := ck, rank := g % x.cohortSize
      tag := if x.guarded && !exact then (x.tiles.find t).map (·.tag) else none
      tile := t, exact := exact, region := x.region, kaddr := kaddr, vreg := x.vreg, sreg := x.sreg, preg := x.preg
      hreg := x.hreg, accr := x.accr, treg := x.treg, spb := x.spb, roles := loWord (Table.get 0 x.packet 3) }
  let s := { s with gangs := s.gangs.insert gk gang }
  let s := s.modCohort ck fun c => { c with gangs := Table.insert c.gangs (g % x.cohortSize) gk }
  let s := (List.range x.gangWeaves).foldl (fun s w =>
    { s with weaves := s.weaves.insert (16 * gk + w) (newWeave x gk g w kaddr s.clk.toNat) }) s
  ((s.enterCore core l).modCore core fun c => { c with icache := c.icache.filter fun i => i.part != x.part }).acquire core x.part

/-! ### Dispatch (R405) -/

/-- The orders of pre-emption that a launch caused end (R428). -/
def State.endOrders (s : State) (l : Nat) : State :=
  s.modPart (s.launch l).part fun q => { q with preempts := q.preempts.filter fun o => o.cause != some l }

/-- The last gang of a launch has been dispatched: the stream is free and the launch runs. -/
def State.allDispatched (s : State) (l : Nat) : State :=
  let x := s.launch l
  if x.state == 4 && decide (x.gangCount ≤ x.nextg) then ((s.freeStream l).setStage l 5).endOrders l else s

/-- The tile of a surrogate gang that is about to start: a new tile takes its tag. -/
def State.openTile (s : State) (l g : Nat) : State :=
  let x := s.launch l
  if !x.guarded then s
  else
    let t := g / x.gtile
    let s := if (x.tiles.find t).isSome then s
      else s.modLaunch l fun x => { x with tiles := x.tiles.insert t { tag := (s.freeTag x.part).getD 0, live := true } }
    s.modLaunch l fun x => { x with tiles := x.tiles.modify t fun y => { y with dispatched := y.dispatched + 1 } }

/-- Dispatches the next gang of a launch to a core. -/
def State.dispatchGang (s : State) (l g core : Nat) (exact : Bool) : State :=
  let s := if exact then
      (s.startGang l g core true).modLaunch l fun x =>
        { x with tiles := x.tiles.modify (g / x.gtile) fun y => { y with exactLeft := y.exactLeft - 1 } }
    else ((s.openTile l g).startGang l g core false).modLaunch l fun x => { x with nextg := g + 1 }
  (s.putRecord l).allDispatched l

/-- Dispatches every gang of a launch that is bound to a region, in one step (R375). -/
def State.dispatchBound (s : State) (l : Nat) (r : Region) : State :=
  let s := (List.range (s.launch l).gangCount).foldl (fun s g => s.startGang l g (r.coreAt g) false) s
  ((s.modLaunch l fun x => { x with nextg := x.gangCount }).putRecord l).allDispatched l

/-- GANG_DISPATCH: a launch, a gang and a core that it may be placed on. -/
def execGangDispatch (s : State) : Out :=
  let l := s.ev.a
  let g := s.ev.b
  let core := s.ev.c
  .next (match s.dispatches l with
    | none => s
    | some (n, exact) =>
      if n ≠ g then s
      else match (s.launch l).region.bind (s.part (s.launch l).part).regions.find with
        | some r => if s.regionFree l r then s.dispatchBound l r else s
        | none => if (s.coresFor l g).contains core then s.dispatchGang l g core exact else s)

/-! ### The ends of weaves and gangs (R198) -/

/-- A trap order stands for a gang, so that it is saved as it is (R429). -/
def State.ordered (s : State) (gk : Nat) : Bool :=
  let x := s.launch (s.gang gk).launch
  x.escalated.contains gk && !x.ended

/-- A gang that has been ended early: with its launch, or as a surrogate of a failed tile. -/
def State.cutShort (s : State) (gk : Nat) : Bool :=
  let g := s.gang gk
  let x := s.launch g.launch
  x.ended || (g.tag.isSome && match x.tiles.find g.tile with
    | some t => t.failed
    | none => false)

/-- A formed bond is lost when a member that holds leases ends early (R285). -/
def State.loseHeld (s : State) (gk : Nat) : State :=
  match s.bondOf gk with
  | some (bk, b) => if b.state == .formed && Table.get 0 b.leases (b.memberOf gk) != 0 then s.loseBond bk else s
  | none => s

/-- WEAVE_END: no lane is left and the store queue is empty. -/
def execWeaveEnd (s : State) : Out :=
  let wk := s.ev.a
  .next (match s.weaves.find wk with
    | none => s
    | some w =>
      if w.ended || w.liveMask != 0 || !w.sq.isEmpty || s.ordered w.gang then s
      else
        let s := if s.cutShort w.gang then s.loseHeld w.gang else s
        let s := s.modWeave wk fun w => { w with ended := true, lease := {} }
        (s.withdraw wk).endLeases w.gang (BitVec.ofNat 16 (2 ^ w.num)))

/-- Every gang of a cohort has been dispatched and has ended. -/
def State.cohortDone (s : State) (c : Nat) : Bool :=
  (s.cohort c).gangs.isEmpty && s.cohortDispatched c

/-- A pairing ends when every gang of either cohort has ended (R275). -/
def State.endPairing (s : State) (c : Nat) : State := if s.cohortDone c then s.unpair c else s

/-- A TSTATE is written to the record. -/
def State.putTile (s : State) (l t : Nat) : State :=
  let x := s.launch l
  let st (i : Nat) : Nat := match x.tiles.find (t / 4 * 4 + i) with
    | some y => y.state
    | none => 0
  s.fePut x.part (x.recVa.toNat + 0x100 + t / 4) [BitVec.ofNat 8 (st 0 + 4 * st 1 + 16 * st 2 + 64 * st 3)]

/-- An exact run whose gangs have all ended shows TSTATE 3 (R417). -/
def State.exactDone (s : State) (l t : Nat) : State :=
  let x := s.launch l
  match x.tiles.find t with
  | some y =>
    if y.state == 2 && y.exactLeft == 0 && !x.ended && !(s.gangs.any fun e => e.2.launch == l && e.2.exact && e.2.tile == t) &&
      !(x.saved.any fun e => e.gang.exact && e.gang.tile == t)
    then (s.modLaunch l fun x => { x with tiles := x.tiles.modify t fun y => { y with state := 3 } }).putTile l t
    else s
  | none => s

/-- A gang leaves its core: its planes, its weaves and its record go. -/
def State.leaveGang (s : State) (gk : Nat) : State :=
  let g := s.gang gk
  let s := s.modCore g.core fun c => { c with planes := c.planes.filter fun e => e.2.owner != some gk }
  let s := { s with weaves := s.weaves.filter fun e => e.1 / 16 != gk, gangs := s.gangs.erase gk }
  s.leaveCore g.core g.launch

/-- The bond of a member that has ended goes with its last member. -/
def State.endBond (s : State) (gk : Nat) : State :=
  match s.bondOf gk with
  | none => s
  | some (bk, b) => if b.members.any fun m => m != gk && (s.gangs.find m).isSome then s else { s with bonds := s.bonds.erase bk }

/-- GANG_END: every weave has ended, and every operation is resolved or stopped. -/
def execGangEnd (s : State) : Out :=
  let gk := s.ev.a
  .next (match s.gangs.find gk with
    | none => s
    | some g =>
      let done (o : AsyncOp) : Bool := o.stopped || (match o.state with
        | .resolved _ => true
        | _ => false)
      if (s.weavesOf gk).any (fun wk => !(s.weave wk).ended) || s.ops.any (fun e => e.2.gang == gk && !done e.2) || s.ordered gk then s
      else
        let s := (s.endLeases gk 0xFFFF#16).endBond gk
        let s := { s with ops := s.ops.filter fun e => e.2.gang != gk }
        let s := s.leaveGang gk
        let s := s.modCohort g.cohort fun c => { c with gangs := c.gangs.filter fun e => e.2 != gk }
        let s := s.endPairing g.cohort
        let s := if g.exact then s.exactDone g.launch g.tile else s
        s.settle g.launch)

/-! ### The regulator (R416, R417) -/

/-- A residual passes a tolerance; a NaN of either does not. -/
def residualOk (res : Option Word) (tol : Word) : Bool :=
  match res with
  | none => false
  | some r =>
    let a := FVal.ofBits .f32 r.toNat
    let b := FVal.ofBits .f32 tol.toNat
    !a.isNan && !b.isNan && decide (a.cmp b ≤ 0)

/-- The tile can be decided: every gang of it has ended, or every dispatched one of a failed tile or of an ended launch. -/
def State.tileOver (s : State) (l t : Nat) : Bool :=
  let x := s.launch l
  match x.tiles.find t with
  | some y =>
    y.live && !(s.gangs.any fun e => e.2.launch == l && e.2.tile == t && e.2.tag.isSome) &&
    !(x.saved.any fun e => e.gang.tile == t && e.gang.tag.isSome) && (y.failed || x.ended || decide (x.tileEnd t ≤ x.nextg))
  | none => false

/-- The slices that hold something of a tag. -/
def State.slicesOf (s : State) (p tag : Nat) : List Nat :=
  (s.slices.filter fun e => e.2.prov.any (fun y => y.part == p && y.tag == tag) || e.2.overfull.contains (p, tag)).map (·.1)

/-- The commit or discard has completed at every slice: the outcome is counted, the tag is free, and a failed tile of a
launch that goes on has its exact run ahead. -/
def State.tileDecided (s : State) (l t : Nat) (y : Tile) : State :=
  let x := s.launch l
  let pass := y.deciding == 1
  let s := (s.cores.map (·.1)).foldl (fun s c => s.l1Drop c fun e => e.part == x.part && e.tag == some y.tag) s
  let first := t * x.gtile
  let size := if pass || x.ended then 0 else x.tileEnd t - first
  let s := s.modLaunch l fun x =>
    { x with
      nextg := if !pass then x.pastFailed else x.nextg
      tpass := if pass then x.tpass + 1 else x.tpass
      tfail := if pass then x.tfail else x.tfail + 1
      tiles := x.tiles.modify t fun y => { y with live := false, deciding := 0, exactLeft := size, state := if pass then 1 else 2 } }
  let mine (c : Cohort) : Bool := c.launch == l && decide (first ≤ c.idx * x.cohortSize) && decide (c.idx * x.cohortSize < x.tileEnd t)
  let s := (s.cohorts.filter fun e => mine e.2).foldl (fun s e => s.unpair e.1) s
  let s := { s with cohorts := s.cohorts.filter fun e => !mine e.2 }
  let s := (s.putTile l t).putRecord l
  let s := s.feAdd x.part (s.queueDesc x.part x.queue + if pass then 0x48 else 0x50) 1
  (s.allDispatched l).settle l

/-- TILE_DECISION: first the commit or discard at the slices, then the outcome. -/
def execTileDecision (s : State) : Out :=
  let l := s.ev.a
  let t := s.ev.b
  let x := s.launch l
  .next (match x.tiles.find t with
    | none => s
    | some y =>
      if !s.tileOver l t then s
      else if y.deciding ≠ 0 then s.tileDecided l t y
      else
        let tol := Table.get 0 (s.part x.part).front.gtol (x.field 0 27 24)
        let pass := !y.failed && !x.ended && residualOk y.res tol
        let s := s.modLaunch l fun x => { x with tiles := x.tiles.modify t fun y => { y with deciding := if pass then 1 else 2, failed := !pass } }
        let s := s.next_ .tileDecision l t 0
        (s.slicesOf x.part y.tag).foldr (fun n s => s.next_ (if pass then .tileCommit else .tileDiscard) n x.part y.tag) s)

/-! ### Completion (R407, R411) -/

/-- The launch of a run is over: it has been ended, or all is dispatched; nothing of it is left. -/
def State.runOver (s : State) (l : Nat) : Bool :=
  let x := s.launch l
  (x.ended || (x.state == 5 && decide (x.gangCount ≤ x.nextg) && !x.tiles.any fun e => e.2.exactLeft != 0)) &&
  (s.gangsOf l).isEmpty && x.saved.isEmpty && !x.tiles.any (fun e => e.2.live) && (!bit (x.qword 0) 8 || x.unacked.isEmpty)

/-- What a run leaves behind goes: dependency records, its region, the stream, cohorts, bonds and operations. -/
def State.clearRun (s : State) (l : Nat) : State :=
  let s := (s.endOrders l).freeStream l
  let p := (s.launch l).part
  let s := { s with
    deps := s.deps.filter fun d => d.launch != l
    bonds := s.bonds.filter fun e => (s.cohort e.2.cohort).launch != l
    ops := s.ops.filter fun e => e.2.launch != l
    cohorts := s.cohorts.filter fun e => e.2.launch != l }
  s.modPart p fun q => { q with
    regions := q.regions.mapVals fun _ r => if r.launch = some l then { r with launch := none } else r
    prologue := match q.prologue with
      | some x => if x.launch = l then none else some x
      | none => none }

/-- The tiles of a GUARDED launch that ended early and that were never decided count as failed (R417). -/
def State.failRest (s : State) (l : Nat) : State :=
  let x := s.launch l
  if !(x.guarded && x.ended && decide (4 ≤ x.state)) then s
  else (List.range x.tileCount).foldl (fun s t =>
    if (x.tiles.find t).isSome then s
    else
      let s := s.modLaunch l fun x => { x with tfail := x.tfail + 1, tiles := x.tiles.insert t { state := 2, failed := true } }
      (s.putTile l t).feAdd x.part (s.queueDesc x.part x.queue + 0x50) 1) s

/-- The completion word, where the packet asks for one. -/
def State.putCompletion (s : State) (l : Nat) : State :=
  let x := s.launch l
  if bit (x.qword 0) 11 && x.typ != 4 && x.qword 0x50 % 8 == 0 then s.fePut x.part (x.qword 0x50) (bytesOf 8 (x.qword 0x58)) else s

/-- LAUNCH_COMPLETION. -/
def execLaunchCompletion (s : State) : Out :=
  let l := s.ev.a
  .next (match s.launches.find l with
    | none => s
    | some x =>
      if !s.runOver l || (x.repeat_ && x.status == 0) then s
      else
        let s := (((s.failRest l).clearRun l).setStage l 7).putCompletion l
        { s with launches := s.launches.erase l })

/-- PROLOGUE_REPEAT: the next run of a launch whose run has ended well. -/
def execPrologueRepeat (s : State) : Out :=
  let l := s.ev.a
  .next (match s.launches.find l with
    | none => s
    | some x =>
      if !s.runOver l || !x.repeat_ || x.status != 0 then s
      else
        let s := (s.clearRun l).modLaunch l fun x =>
          { x with
            metWords := (List.range (min 4 (bits (Table.get 0 x.orig 0).toNat 22 20))).map fun i => (i, Table.get 0 x.orig (6 + i))
            prevStatus := x.status, prevPass := x.tpass, prevFail := x.tfail, run := x.run + 1, nextg := 0, tiles := []
            tpass := 0, tfail := 0, ended := false, region := none, stages := [], rings := [], queueOcc := []
            packet := x.orig, prologued := false, repeat_ := false, unacked := [] }
        let s := if x.guarded then s.fePut x.part (x.recVa.toNat + 0x100) (List.replicate 256 0) else s
        s.setStage l 2)

/-- RUN_LIMIT_EXPIRY (R430). -/
def execRunLimitExpiry (s : State) : Out :=
  let l := s.ev.a
  let x := s.launch l
  let lim := (s.part x.part).ctl.runlim
  .next (if x.state == 5 && !x.ended && lim != 0 && decide (1000 * lim ≤ x.ran + (s.us - x.since).toNat) then s.endLaunch l 0xA30#32 else s)

end Sys2Proof.Machine
end

