-- ==== Sys2Proof/Machine/Preempt.lean ====
section
/-! DEFINITION. Pre-emption: its policy, the trap order, the saving of gangs and their resumption (spec/02_execution.md, R51
to R53; spec/08_sequencer.md, R211, R216 to R218; spec/11_bonds.md, R286; spec/12_copy.md, R311; spec/15_search.md, R372;
spec/16_exchange.md, R394, R395; spec/17_front_end.md, R412, R413; spec/18_firmware.md, R427 to R429). -/

namespace Sys2Proof.Machine

open Sys2Proof

/-! ### Policy (R428) -/

/-- Orders gang-boundary pre-emption of a queue. -/
def State.orderQueue (s : State) (p q : Nat) (cause : Option Nat) : State :=
  let s := s.modPart p fun x => { x with preempts := x.preempts ++ [{ queue := q, cause := cause, since := s.us }] }
  (s.queueLaunches p q).foldl State.settle s

/-- The running launches of a partition that another launch's wait may pre-empt: of other queues, of a lower level. -/
def State.victims (s : State) (l : Nat) : List Nat :=
  let x := s.launch l
  (s.launches.filter fun e => e.2.part == x.part && e.2.queue != x.queue && !e.2.ended && (e.2.state == 4 || e.2.state == 5) &&
    decide (e.2.prio < 3) && !(s.gangsOf e.1).isEmpty).map (·.1)

/-- The victim: of the lowest base PRIO, and the latest taken among equals. -/
def State.victim (s : State) (l : Nat) : Option Nat :=
  (s.victims l).foldl (fun r v => match r with
    | none => some v
    | some b => if (s.launch v).prio ≤ (s.launch b).prio then some v else some b) none

/-- A launch of level 3 has waited for cores for PWAIT µs, with no gang dispatched. -/
def State.waitedOut (s : State) (l : Nat) : Bool :=
  let x := s.launch l
  let p := s.part x.part
  !x.ended && (x.state == 2 || x.state == 4) && x.nextg == 0 && (s.gangsOf l).isEmpty && x.saved.isEmpty && (s.readyRank l).1 == 3 &&
  decide (p.ctl.pwait ≤ (s.us - x.since).toNat) && (s.coresFor l 0).isEmpty && !s.queueStopped x.part x.queue &&
  !p.preempts.any fun o => o.cause.isSome

/-- PRIORITY_WAIT_EXPIRY. -/
def execPriorityWaitExpiry (s : State) : Out :=
  let l := s.ev.a
  .next (if !s.waitedOut l then s
    else match s.victim l with
      | some v => s.orderQueue (s.launch v).part (s.launch v).queue (some l)
      | none => s)

/-! ### Escalation (R429, R412) -/

/-- The number of an operation's opcode. -/
def AsyncOp.opcode (o : AsyncOp) : Nat := match encode o.instr with
  | some w => bits w.toNat 61 52
  | none => 0

/-- The commands that a save writes to its blocks: Pending copies, GDISTs and LSENDs without a slot. -/
def State.savedCopies (s : State) (gk : Nat) : List (Nat × AsyncOp) :=
  s.ops.filter fun e => e.2.gang == gk && !e.2.stopped && e.2.state == .pending && e.2.engine == .ce
def State.savedSearches (s : State) (gk : Nat) : List (Nat × AsyncOp) :=
  s.ops.filter fun e => e.2.gang == gk && !e.2.stopped && e.2.engine == .nne && !isTkmrg e.2.instr
def State.savedSends (s : State) (gk : Nat) : List (Nat × AsyncOp) :=
  s.ops.filter fun e => e.2.gang == gk && !e.2.stopped && e.2.channel.isSome && e.2.unit == 0

/-- The bytes of a gang's save area (R217, R287, R311, R372, R395). -/
def State.areaSize (s : State) (gk : Nat) : Nat :=
  let g := s.gang gk
  let n := g.accSection + 256 * g.accr + 0xC200 + 256 + (64 + 128 * (s.savedCopies gk).length) +
    (64 + 576 * g.weaves + 64 * (s.savedSearches gk).length) + (0x80 + 64 * (s.savedSends gk).length + 64 + 256 * g.spb)
  (n + 63) / 64 * 64

/-- Gives the gangs of a list their save areas from an address on; answers the address after them. -/
def State.placeAreas (s : State) (gs : List Nat) (at_ : Nat) : State × Nat :=
  gs.foldl (fun (s, a) gk => (s.modGang gk fun g => { g with saveb := BitVec.ofNat 64 a }, a + s.areaSize gk)) (s, at_)

/-- A launch's resident gangs are escalated: they get their areas, their bonds stop and the trap is ordered; or the launch
ends without a save. -/
def State.escalate (s : State) (l : Nat) : State :=
  let x := s.launch l
  let gs := s.gangsOf l
  if x.ended || gs.isEmpty || !x.escalated.isEmpty then s
  else if (s.part x.part).ctl.tvec = 0 then s.endLaunch l 0x930#32
  else match s.feRead x.part (s.queueDesc x.part x.queue + 0x28) 16 false with
    | (s, .bytes b) =>
      let base := (qwordAt b 0 + 63) / 64 * 64
      let (t, past) := s.placeAreas gs base
      if qwordAt b 0 + qwordAt b 1 < past then s.endLaunch l 0x930#32
      else
        let t := gs.foldl (fun t gk => match t.bondOf gk with
          | some (bk, _) => t.stopBond bk
          | none => t) t
        let t := t.modLaunch l fun x => { x with escalated := gs }
        gs.foldl (fun t gk => (t.weavesOf gk).foldl (fun t wk => t.modWeave wk fun w => { w with preempt := true }) t) t
    | (s, _) => s.endLaunch l 0x930#32

/-- DRAIN_DEADLINE_EXPIRY. -/
def execDrainDeadlineExpiry (s : State) : Out :=
  let p := s.ev.a
  let q := s.ev.b
  let due (o : PreemptOrder) : Bool := o.queue == q && !o.expired && decide ((s.part p).ctl.ddl ≤ (s.us - o.since).toNat)
  .next (if (s.part p).preempts.any due then
      let s := s.modPart p fun x => { x with preempts := x.preempts.map fun o => if due o then { o with expired := true } else o }
      (s.queueLaunches p q).foldl State.escalate s
    else s)

/-! ### The trap (R216, R286, R394) -/

/-- A weave stands at an instruction boundary where it can enter the handler: its stores have left, its results are in,
no lane of it is in the handler already and its lease is not in neighbour mode. -/
def Weave.atTrap (w : Weave) : Bool :=
  w.sq.isEmpty && w.pend.isEmpty && !w.ll.any (fun p => !p.ready) && !w.lanes.any (fun e => e.2.priv && e.2.status == .live) &&
  w.lease.state != .neighbour

/-- What must be over before a gang traps: merges that can run, sends and exchanges in hand, and the rounds of its bond. -/
def State.gangAtTrap (s : State) (gk : Nat) : Bool :=
  (s.weavesOf gk).all (fun wk => (s.weave wk).atTrap) &&
  !s.ops.any (fun e => e.2.gang == gk && !e.2.stopped && ((isTkmrg e.2.instr && e.2.tickets.isEmpty) ||
    (e.2.channel.isSome && e.2.unit != 0) || (match e.2.instr with
      | .xbcast _ => true
      | _ => false))) &&
  (match s.boundRegion (s.gang gk) with
    | some (_, r) => r.flight.isEmpty
    | none => true) &&
  match s.bondOf gk with
    | some (_, b) => b.drained
    | none => true

/-- The gangs that trap together: all of a bound launch, else the one. -/
def State.trapGroup (s : State) (gk : Nat) : List Nat :=
  if (s.gang gk).region.isSome then s.gangsOf (s.gang gk).launch else [gk]

/-- Commands at whose words a weave's lanes are held go back, since the words issue again on resumption: XSTEPs (R383, R394)
and commands that found a full queue (R294). Their handles are Empty again and their AFLAGs are no longer set. -/
def State.takeBack (s : State) (wk : Nat) : State :=
  let rs := ((List.range 32).filterMap fun l => match ((s.weave wk).lane l).hold with
    | some (.xstep (some r)) => some r
    | some (.cmdQueue r) => some r
    | _ => none).dedup
  let s := s.modWeave wk fun w => rs.foldl (fun w r => match (s.op r).aflag with
    | some f => w.setFlag f (w.flag f - 1)
    | none => w) { w with handles := w.handles.filter fun e => match e.2 with
    | some r => !rs.contains r
    | none => true }
  { s with ops := s.ops.filter fun e => !rs.contains e.1 }

/-- A weave enters the handler for all lanes that have not exited, each to resume at its current place, a parked one to be
saved as parked (R52, R216); its services are asked for again, and its fault record stays as it is, to be saved (R52,
DEDUCED, log 124). -/
def State.trapWeave (s : State) (wk : Nat) : State :=
  let s := (s.takeBack wk).withdraw wk
  let w := s.weave wk
  let m := maskOf fun l => (w.lane l).status != .exited
  if m = 0 then s
  else
    let s := s.modWeave wk fun w => { w.modLanes m fun l =>
      { l with faultPc := if l.hdr then l.pc ||| 1 else l.pc, trapParked := l.parked.isSome } with syscs := [] }
    (s.enterHandler wk { status := w.fcode, mask := m, addr := w.faddr, resume_ := 0, keepPc := true, ecause := 2 }).modWeave wk
      fun x => { x with fmask := w.fmask }

/-- A command stops at its unit boundary; a BFORM is to be performed again. -/
def AsyncOp.pause (o : AsyncOp) : AsyncOp :=
  if o.stopped || isTkmrg o.instr then o
  else match o.instr with
    | .bform _ => { o with paused := true, begun := false }
    | _ => { o with paused := true }

/-- The fields of a command as the save blocks pack them. -/
def AsyncOp.packed (o : AsyncOp) (r : Nat) (imm : Bool) : Nat :=
  match o.fx with
  | some x => o.opcode + x.subop.toNat * 2 ^ 10 + (if imm then x.imm.toNat * 2 ^ 18 else 0) + r % 2 ^ 16 * 2 ^ 42
  | none => o.opcode + r % 2 ^ 16 * 2 ^ 42

/-- Words of a list, `n` of them. -/
def wordsUpTo (ws : List Word) (n : Nat) : List Byte := (List.range n).flatMap fun i => bytesOf 4 (ws.getD i 0).toNat

/-- A record of the copy block (R311). -/
def copyRecord (e : Nat × AsyncOp) : List Byte :=
  let o := e.2
  let pat := match o.instr with
    | .tcopyG _ => o.amat
    | _ => []
  bytesOf 8 (o.packed e.1 true) ++ bytesOf 8 o.unit ++ bytesOf 8 ((if o.phase = 2 then 1 else 0) + o.gen.toNat * 2 ^ 32) ++
  wordsUpTo o.desc 8 ++ wordsUpTo pat 5 ++ List.replicate 52 0

/-- A weave's part of the search block (R372). -/
def Weave.listBytes (w : Weave) : List Byte :=
  bytesOf 8 (w.list.ents.length + (if w.list.max then 2 ^ 7 else 0) + w.list.k * 2 ^ 8 + w.list.rejected.toNat * 2 ^ 32) ++
  (List.range 64).flatMap (fun i => match w.list.ents[i]? with
    | some x => bytesOf 4 x.1.toNat ++ bytesOf 4 x.2.toNat
    | none => List.replicate 8 (0 : Byte)) ++ List.replicate 56 0

/-- A record of a saved GDIST (R372). -/
def searchRecord (e : Nat × AsyncOp) : List Byte :=
  bytesOf 8 (e.2.packed e.1 false + e.2.wk % 16 * 2 ^ 58) ++ bytesOf 8 e.2.unit ++ wordsUpTo e.2.desc 9 ++ List.replicate 12 0

/-- A record of a saved LSEND (R395). -/
def sendRecord (e : Nat × AsyncOp) : List Byte :=
  bytesOf 8 (e.2.packed e.1 true + e.2.wk % 16 * 2 ^ 58) ++ bytesOf 8 0 ++ wordsUpTo e.2.desc 3 ++ List.replicate 36 0

/-- A gang's access at a master class for one of its engines. -/
def Gang.ask (g : Gang) (cls : Nat) : EngAsk := { part := g.part, master := 8 * g.part + cls, core := g.core, weave := 0, tag := g.tag }

/-- The engines write their blocks after the bond block of the save area; what cannot be written is left out. -/
def State.writeBlocks (s : State) (gk : Nat) : State :=
  let g := s.gang gk
  let at_ := g.saveb.toNat + g.accSection + 256 * g.accr + 0xC200 + 256
  let cs := s.savedCopies gk
  let ds := s.savedSearches gk
  let ls := s.savedSends gk
  let copy := bytesOf 64 (cs.length % 256) ++ cs.flatMap copyRecord
  let search := bytesOf 64 (ds.length % 256) ++ (s.weavesOf gk).flatMap (fun wk => (s.weave wk).listBytes) ++ ds.flatMap searchRecord
  let steps := match s.boundRegion g with
    | some (_, r) => r.steps.toNat
    | none => 0
  let exchange := bytesOf 64 (ls.length % 256 + steps * 2 ^ 32) ++
    wordsUpTo ((s.weavesOf gk).map fun wk => (s.weave wk).xstatus) 16 ++ ls.flatMap sendRecord ++
    wordsUpTo ((List.range 4).map fun i => Table.get 0 g.xcnt i) 16 ++ memRead g.shadow 0 (256 * g.spb)
  let s := (s.engWrite (g.ask 1) at_ copy).1
  let s := (s.engWrite (g.ask 3) (at_ + copy.length) search).1
  (s.engWrite (g.ask 4) (at_ + copy.length + search.length) exchange).1

/-- The blocks of a gang are written once no storage command of it is outstanding (R305, R311). -/
def State.putBlocks (s : State) (gk : Nat) : State :=
  if s.ops.any fun e => e.2.gang == gk && e.2.outstanding then s
  else (s.writeBlocks gk).modGang gk fun g => { g with blocksDue := false }

/-- A gang traps: its weaves enter the handler, its commands stop, and the engines write their blocks. -/
def State.trapGang (s : State) (gk : Nat) : State :=
  let s := s.modGang gk fun g => { g with seamAsk := none, savedWeaves := 0, blocksDue := true }
  let s := (s.weavesOf gk).foldl State.trapWeave s
  let s := { s with ops := s.ops.mapVals fun _ (o : AsyncOp) => if o.gang = gk then o.pause else o }
  s.putBlocks gk

/-- The bond of a gang while it has leases to surrender (R286). -/
def State.bondToYield (s : State) (gk : Nat) : Option (Nat × Bond) :=
  (s.bondOf gk).bind fun e => if e.2.state == .surrendered then none else some e

/-- PREEMPT_TRAP: first the leases of the gangs' bonds are surrendered one by one (R286), then the gangs trap, and last the
blocks that waited for storage commands are written. -/
def execPreemptTrap (s : State) : Out :=
  let gk := s.ev.a
  let gs := s.trapGroup gk
  .next (if (s.gangs.find gk).isNone || !s.ordered gk then s
    else if (s.gang gk).blocksDue then s.putBlocks gk
    else if !gs.all s.gangAtTrap then s
    else match gs.findSome? s.bondToYield with
      | some (bk, b) => s.surrenderNext bk b
      | none => gs.foldl State.trapGang s)

/-! ### The end of a save (R427, R429) -/

/-- Every weave with live lanes has called SYSC 0x0001, every store has left its queue (R135), the engines' blocks are
written, and no command of the gang runs or is outstanding. -/
def State.saveOver (s : State) (gk : Nat) : Bool :=
  let g := s.gang gk
  !g.blocksDue && (s.weavesOf gk).all (fun wk => (s.weave wk).sq.isEmpty) &&
  (s.weavesOf gk).all (fun wk => !(s.weave wk).counts || g.savedWeaves.getLsbD (wk % 16)) &&
  !s.ops.any fun e => e.2.gang == gk && !e.2.stopped && (!e.2.paused || e.2.outstanding)

/-- A gang counts as saved: it leaves its core, and its launch keeps what the engines and the front end keep. -/
def State.saveGang (s : State) (gk : Nat) : State :=
  let g := s.gang gk
  let v : SavedGang :=
    { key := gk, gang := { g with oldPlanes := s.claimed gk }, weaves := (s.weavesOf gk).map fun wk => (wk % 16, s.weave wk), ops := (s.ops.filter fun e => e.2.gang == gk && !e.2.stopped).map (·.1) }
  let s := s.modLaunch g.launch fun x => { x with saved := x.saved ++ [v] }
  (s.leaveGang gk).settle g.launch

/-- The lanes that still wait for the service that a request asks for. -/
def Weave.waiting (w : Weave) (q : SyscReq) : BitVec 32 :=
  maskOf fun l => q.mask.getLsbD l && (w.lane l).hold == some (.sysc q.service)

/-- The oldest request for a service that lanes wait for. -/
def Weave.asked (w : Weave) (n : Half) : Option SyscReq := w.syscs.find? fun q => q.service == n && w.waiting q != 0

/-- A service's reply: registers from s0 on, and the lanes that asked go on at the next clause header (R213). -/
def State.reply (s : State) (wk : Nat) (n : Half) (vs : SyscReq → List Word) : State :=
  match (s.weave wk).asked n with
  | none => s
  | some q => s.modWeave wk fun w =>
      let w := ((vs q).zipIdx.foldl (fun w e => w.wr (.s (Fin.ofNat 64 e.2)) 0 e.1) w).passHeldIn q.mask (.sysc n)
      { w with syscs := w.syscs.erase q }

/-- SYSC_SAVE_DONE: service 0x0001, and the end of a save that still waited for the gang's commands and stores. -/
def execSyscSaveDone (s : State) : Out :=
  let wk := s.ev.a
  let w := s.weave wk
  .next (match w.asked 1 with
    | some q =>
      if w.ecause == 2 && (lanesOf (w.waiting q)).all fun l => (w.lane l).priv then
        let s := (s.modWeave wk fun w => { w.modLanes (w.waiting q) fun l => { l with hold := some .saved } with syscs := w.syscs.erase q }).modGang
          w.gang fun g => { g with savedWeaves := setBit g.savedWeaves w.num true }
        if s.ordered w.gang && s.saveOver w.gang then s.saveGang w.gang else s
      else s.reply wk 1 fun _ => [0xFFFFFFFE#32]
    | none => if s.ordered w.gang && (s.gang w.gang).savedWeaves != 0 && s.saveOver w.gang then s.saveGang w.gang else s)

/-! ### Resumption (R413, R218) -/

/-- The gang of a save as it starts again on a core: its registers are as at gang start; what R394 and R395 restore
exactly is kept, and what the engines keep beside what software reads and writes back. -/
def SavedGang.restarted (v : SavedGang) (core : Nat) : Gang :=
  let g := v.gang
  { part := g.part, launch := g.launch, core := core, g := g.g, weaves := g.weaves, cohort := g.cohort, rank := g.rank, tag := g.tag
    tile := g.tile, exact := g.exact, region := g.region, kaddr := g.kaddr, vreg := g.vreg, sreg := g.sreg, preg := g.preg
    hreg := g.hreg, accr := g.accr, treg := g.treg, spb := g.spb, roles := g.roles, shadow := g.shadow, xcnt := g.xcnt
    oldPlanes := g.oldPlanes
    drain := { base := g.drain.base, bf16 := g.drain.bf16, undoRow := g.drain.undoRow, recAddr := g.drain.recAddr, undo := g.drain.undo }
    saveb := g.saveb, resume_ := true }

/-- A weave of a save as it starts again: one that has ended as it was (DEDUCED, log 125); another with all lanes privileged
at TVEC, ECAUSE 3, the saved fault record, and registers as at gang start. -/
def Weave.restarted (w : Weave) (x : Launch) (g : Gang) (tvec : Dbl) (now : Nat) : Weave :=
  if !w.counts then { w with preempt := false }
  else
    let n := newWeave x w.gang g.g w.num g.kaddr now
    { n with
      lanes := (List.range 32).map fun l => (l, { pc := tvec, hdr := true, priv := true, back := (w.lane l).back, gen := laneSeed (x.field 0 63 32) g.g w.num l })
      ecause := 3, fcode := w.fcode, faddr := w.faddr, fmask := w.fmask
      clauses := w.clauses, nextId := w.nextId, win := w.win, list := w.list, xstatus := w.xstatus, lease := w.lease }

/-- A copy command as a record of the copy block gives it (R311). One that uses no scratchpad may go on at once, or with the
others at the last ERET (DESIGN CHOICE, log 89). -/
def AsyncOp.reloaded (o : AsyncOp) (b : List Byte) (now : Bool) : AsyncOp :=
  let ws (at_ n : Nat) : List Word := (List.range n).map fun i => BitVec.ofNat 32 (leNat ((b.drop (at_ + 4 * i)).take 4))
  let gather := match o.instr with
    | .tcopyG _ => true
    | _ => false
  let usesSp := o.phase = 0 || (!gather && (recOf o.amat).1.spad) || (recOf o.aux).1.spad
  { o with
    unit := qwordAt b 1, gen := BitVec.ofNat 32 (qwordAt b 2 / 2 ^ 32), phase := if bit (qwordAt b 2) 0 then 2 else o.phase
    desc := ws 0x18 8, amat := if gather && o.phase != 0 then ws 0x38 5 else o.amat
    paused := !now || (o.storEntry.isNone && usesSp) }

/-- The copy engine reloads its commands from the block of the save area, each by its record number. -/
def State.reloadCopies (s : State) (gk : Nat) : State :=
  let g := s.gang gk
  let at_ := g.saveb.toNat + g.accSection + 256 * g.accr + 0xC200 + 256
  match s.engRead (g.ask 1) at_ 64 with
  | (s, .bytes h) =>
    let n := leNat (h.take 1)
    match s.engRead (g.ask 1) (at_ + 64) (128 * n) with
    | (s, .bytes b) =>
      let recs := (List.range n).map fun i => (b.drop (128 * i)).take 128
      let (free, s) := s.takeFree n
      { s with ops := s.ops.mapVals fun r (o : AsyncOp) =>
          if o.gang ≠ gk ∨ o.engine ≠ .ce ∨ o.stopped = true then o
          else match recs.zipIdx.find? fun e => bits (qwordAt e.1 0) 57 42 == r % 2 ^ 16 with
            | some e => o.reloaded e.1 (Config.freeBit (free + e.2))
            | none => o }
    | (s, _) => s
  | (s, _) => s

/-- Restores a gang on a core; a saved LSEND is accepted again, after those that were accepted meanwhile (R395). -/
def State.restoreGang (s : State) (v : SavedGang) (core : Nat) : State :=
  let x := s.launch v.gang.launch
  let tvec := (s.part x.part).ctl.tvec
  let s := { s with gangs := s.gangs.insert v.key (v.restarted core) }
  let s := v.weaves.foldl (fun s e =>
    { s with weaves := s.weaves.insert (16 * v.key + e.1) (e.2.restarted x v.gang tvec s.clk.toNat) }) s
  let (q, s) := s.fresh
  let again (o : AsyncOp) : AsyncOp := { o with core := core, phase := if o.channel.isSome && o.unit == 0 then q else o.phase }
  let s := { s with ops := s.ops.mapVals fun r (o : AsyncOp) => if v.ops.contains r then again o else o }
  ((s.enterCore core v.gang.launch).acquire core x.part).reloadCopies v.key

/-- A cohort is open again on a cluster: the handler of its rank 0 restores its registers and rings (R217). -/
def State.reopenCohort (s : State) (ck cl : Nat) : State :=
  s.modCohort ck fun c => { c with conv := [], rings := (s.launch c.launch).rings, cluster := cl }

/-- Where the cohorts of a saved pair, or a single one, may stand again: any cluster of the partition, and for a pair two that
face each other in the pair's direction (R53, R288); as (cohort, cluster). -/
def State.clusterPlans (s : State) (home : Nat) : List (List (Nat × Nat)) :=
  let c := s.cohort home
  let ks := (s.clustersOf (s.launch c.launch).part).filter fun k => !s.stitched k
  match c.partner with
  | none => ks.map fun k => [(home, k)]
  | some d => ks.filterMap fun k => (facing k c.dir).bind fun n => if ks.contains n then some [(home, k), (d, n)] else none

/-- The cores on which the members of the saved gangs' bond may stand for a plan: a rectangle of its shape (R288); as (gang,
core). -/
def State.bondPlans (s : State) (vs : List SavedGang) (plan : List (Nat × Nat)) : List (List (Nat × Nat)) :=
  match vs.findSome? fun v => s.bondOf v.key with
  | none => [[]]
  | some (_, b) =>
    let at_ (c : Nat) : Nat := ((plan.find? fun e => e.1 == c).map (·.2)).getD 0
    (rectangles b.h b.w b.seamDir (at_ b.cohort) (at_ ((s.cohort b.cohort).partner.getD b.cohort))).map b.members.zip

/-- Restores the saved gangs of a cohort or a pair for a plan, the members of a bond first; none where one finds no room. -/
def State.restoreUnit (s : State) (vs : List SavedGang) (plan cores : List (Nat × Nat)) : Option State :=
  let s := plan.foldl (fun s e => s.reopenCohort e.1 e.2) s
  let place (v : SavedGang) : Option Nat := (cores.find? fun e => e.1 == v.key).map (·.2)
  ((vs.filter fun v => (place v).isSome) ++ vs.filter fun v => (place v).isNone).foldl (fun t v => t.bind fun s =>
    let c := s.cohort v.gang.cohort
    let room := s.roomIn v.gang.launch c.idx c.cluster
    let (f, s) := s.takeFree 1
    match place v with
    | some k => if room.contains k then some (s.restoreGang v k) else none
    | none => (room[Config.freeNat f % max 1 room.length]?).map fun k => s.restoreGang v k) (some s)

/-- Restores the saved gangs of a cohort or a pair, in one of the ways that fit (log 94). -/
def State.resumeUnit (s : State) (vs : List SavedGang) (home : Nat) : Option State :=
  let ways := (s.clusterPlans home).flatMap fun p => (s.bondPlans vs p).map fun r => (p, r)
  let (f, s) := s.takeFree 1
  let fits := ways.filter fun w => (s.restoreUnit vs w.1 w.2).isSome
  (fits[Config.freeNat f % max 1 fits.length]?).bind fun w => s.restoreUnit vs w.1 w.2

/-- Restores every saved gang of a launch: those of a bound launch each at its rank's position, the others by cohorts and
pairs; none where some cannot stand now. -/
def State.restoreAll (s : State) (l : Nat) : Option State :=
  let x := s.launch l
  match x.region.bind (s.part x.part).regions.find with
  | some r =>
    if s.regionFree l r then
      let s := ((x.saved.map fun v => (v.gang.cohort, r.coreAt v.gang.g / 16)).dedup).foldl (fun s e => s.reopenCohort e.1 e.2) s
      some (x.saved.foldl (fun s v => s.restoreGang v (r.coreAt v.gang.g)) s)
    else none
  | none =>
    let homes := (x.saved.map fun v => s.convHome v.gang.cohort).dedup
    homes.foldl (fun t h => t.bind fun s =>
      s.resumeUnit (x.saved.filter fun v => s.convHome v.gang.cohort == h) h) (some s)

/-- The first Pre-empted launch of a queue in the order of the takes. -/
def State.nextToResume (s : State) (p q : Nat) : Option Nat :=
  (s.queueLaunches p q).find? fun l => (s.launch l).state == 6

/-- LAUNCH_RESUME: the saved gangs are restored, all in one step, and the launch is Ready or Running again. -/
def execLaunchResume (s : State) : Out :=
  let l := s.ev.a
  let x := s.launch l
  .next (if x.ended || s.nextToResume x.part x.queue != some l || s.queueStopped x.part x.queue || s.status.therm == 1 || s.alarm.refuse then s
    else match s.restoreAll l with
      | none => s
      | some t =>
        let t := t.modLaunch l fun x => { x with saved := [], escalated := [] }
        t.setStage l (if x.nextg < x.gangCount then 2 else 5))

end Sys2Proof.Machine
end

