-- ==== Sys2Proof/Machine/Firmware.lean ====
section
/-! DEFINITION. The firmware complex: command links, slot tables, system calls, the mailbox and its commands
(spec/18_firmware.md, R420 to R427, R431 to R435). -/

namespace Sys2Proof.Machine

open Sys2Proof

/-! ### The error log (R448) -/

/-- Writes an entry of the error log at EHEAD. -/
def State.logError (s : State) (cls : Nat) (uncorrected : Bool) (code unit pa master : Nat) : State :=
  let x := s.status
  let q0 := cls % 8 + flagAt uncorrected 3 + code % 256 * 2 ^ 8 + unit % 2 ^ 16 * 2 ^ 16 + s.us.toNat % 2 ^ 32 * 2 ^ 32
  let e : ELog := { q0 := BitVec.ofNat 64 q0, q1 := BitVec.ofNat 64 pa, q2 := BitVec.ofNat 64 (master % 128) }
  { s with status := { x with elog := Table.set {} x.elog x.ehead e, ehead := (x.ehead + 1) % 64 } }

/-! ### Command links (R420) -/

/-- Delivers the messages that wait in one direction while there are permits, each taking one: the permits left, what was
delivered, and what waits. -/
def deliverMessages (permits : Nat) (got waiting : List (List Byte)) : Nat × List (List Byte) × List (List Byte) :=
  (permits - waiting.length, got ++ waiting.take permits, waiting.drop permits)

/-- COMMAND_LINK_MESSAGE: the receiver has acknowledged `b` messages of a direction, which returns their permits, and a
message is sent: it takes a permit and is delivered, or waits behind those that wait for one. -/
def execCommandLinkMessage (s : State) : Out :=
  let e := s.ev
  let msg := e.bytes.take 64 ++ List.replicate (64 - e.bytes.length) 0
  let k := Table.get {} s.links e.a
  let k := if e.on
    then
      let (n, got, wait) := deliverMessages (min 8 (k.permitsUp + e.b)) k.up (k.waitUp ++ [msg])
      { k with permitsUp := n, up := got, waitUp := wait }
    else
      let (n, got, wait) := deliverMessages (min 8 (k.permitsDown + e.b)) k.down (k.waitDown ++ [msg])
      { k with permitsDown := n, down := got, waitDown := wait }
  .next { s with links := Table.set {} s.links e.a k }

/-- COMMAND_LINK_ERROR: the LC is reset, and every launch with a gang on its cluster ends with 0x60. -/
def execCommandLinkError (s : State) : Out :=
  let c := s.ev.a
  let k := Table.get {} s.links c
  let s := { s with links := Table.set {} s.links c { resets := k.resets + 1 } }
  let ls := ((s.gangs.filter fun e => e.2.core / 16 == c).map (·.2.launch)).dedup
  .next ((ls.foldl (fun s l => s.endLaunch l 0x60#32) s).logError 3 true 0x60 c 0 64)

/-! ### Slot tables (R425) -/

/-- Lowers the largest share above 1, the highest slot first among equals, while the shares sum to more than 16. -/
def trimShares : Nat → List (Nat × Nat) → List (Nat × Nat)
  | 0, xs => xs
  | n + 1, xs =>
    if (xs.map (·.2)).foldl (· + ·) 0 ≤ 16 then xs
    else
      let top := xs.foldl (fun (r : Nat × Nat) e => if r.2 ≤ e.2 then e else r) (0, 0)
      if top.2 ≤ 1 then xs else trimShares n (xs.map fun e => if e.1 = top.1 then (e.1, e.2 - 1) else e)

/-- Deals entries in turn to the contexts that still lack some. -/
def dealSlots : Nat → List (Nat × Nat) → List (Bool × Nat)
  | 0, _ => []
  | n + 1, xs => ((xs.filter fun e => e.2 != 0).map fun e => (true, e.1)) ++ dealSlots n (xs.map fun e => (e.1, e.2 - 1))

/-- A table dealt for resident contexts, as (slot, weight) in ascending slot order. -/
def dealTable (ws : List (Nat × Nat)) : List (Bool × Nat) :=
  let sum := (ws.map (·.2)).foldl (· + ·) 0
  let es := dealSlots 16 (trimShares 64 (ws.map fun e => (e.1, max 1 (16 * e.2 / sum))))
  (es ++ List.replicate 16 (false, 0)).take 16

/-- SLOT_TABLE_DEAL: in force from the next period on. -/
def execSlotTableDeal (s : State) : Out :=
  let core := s.ev.a
  let ws := (List.range 4).filterMap fun i => (s.slotPart core i).map fun p => (i, (s.part p).ctl.weight)
  .next (s.modTab core s.ev.b fun t => { t with next := some (dealTable ws) })

/-! ### System calls (R427) -/

/-- SYSC_NULL. -/
def execSyscNull (s : State) : Out := .next (s.reply s.ev.a 0 fun _ => [0])

/-- SYSC_PARTITION_INFO. -/
def execSyscPartitionInfo (s : State) : Out :=
  let g := s.gang (s.weave s.ev.a).gang
  let m := (s.part g.part).ctl.clmask
  .next (s.reply s.ev.a 0x10 fun _ => [BitVec.ofNat 32 g.part, loWord m, hiWord m, BitVec.ofNat 32 (g.core / 16)])

/-- SYSC_TIME. -/
def execSyscTime (s : State) : Out := .next (s.reply s.ev.a 0x11 fun _ => [loWord s.us, hiWord s.us])

/-- SYSC_LOG: the log holds 256 entries. -/
def execSyscLog (s : State) : Out :=
  let w := s.weave s.ev.a
  let p := (s.gang w.gang).part
  .next (match w.asked 0x20 with
    | none => s
    | some q =>
      if (s.part p).flog.length < 256 then (s.logFirmware p q.args).reply s.ev.a 0x20 fun _ => [0]
      else s.reply s.ev.a 0x20 fun _ => [1])

/-! ### Descriptors (R421, R423, R302) -/

/-- A storage table entry from its 64 bytes. -/
def storOf (b : List Byte) : Stor :=
  let q (i : Nat) : Nat := qwordAt b i
  let d (i : Nat) : Dbl := BitVec.ofNat 64 (q i)
  { v := bit (q 0) 0, lbas := bit (q 0) 1, qid := BitVec.ofNat 16 (bits (q 0) 31 16), nsid := BitVec.ofNat 32 (bits (q 0) 63 32)
    sqbase := d 1, cqbase := d 2, sqdb := d 3, cqdb := d 4, qsize := bits (q 5) 15 0, mdts := bits (q 5) 19 16 }

/-- The fields of a storage table entry are in order. -/
def storOk (b : List Byte) : Bool :=
  let q (i : Nat) : Nat := qwordAt b i
  bits (q 0) 15 2 == 0 && bits (q 5) 63 20 == 0 && q 6 == 0 && q 7 == 0 &&
  (!bit (q 0) 0 || (q 1 % 4096 == 0 && q 2 % 4096 == 0 && decide (2 ≤ bits (q 5) 15 0) && decide (bits (q 5) 15 0 ≤ 4096)))

/-- A control block from a descriptor. -/
def controlOf (b : List Byte) : Control :=
  let q (o : Nat) : Nat := qwordAt b (o / 8)
  let d (o : Nat) : Dbl := BitVec.ofNat 64 (q o)
  { clmask := d 0, hpmask := bits (q 8) 11 0, weight := bits (q 8) 23 16, quota := bits (q 8) 31 24, wquota := bits (q 8) 43 32
    tout := bits (q 0x10) 15 0, ddl := bits (q 0x10) 31 16, runlim := bits (q 0x10) 63 32, qcount := bits (q 0x18) 16 0
    pwait := bits (q 0x18) 47 32, qdbase := d 0x20, tvec := d 0x28, qtbase := d 0x30, cxlbase := d 0x38, cxllim := d 0x40
    chunks := BitVec.ofNat 384 (leNat ((b.drop 0x48).take 48)), act := true, devidc := BitVec.ofNat 64 devid
    stor := (List.range 16).foldl (fun t e => Table.set {} t e (storOf ((b.drop (0x400 + 64 * e)).take 64))) [] }

/-- The fields of a descriptor are in range and its reserved fields zero. -/
def controlOkFields (b : List Byte) : Bool :=
  let q (o : Nat) : Nat := qwordAt b (o / 8)
  let c := controlOf b
  bits (q 8) 15 12 == 0 && bits (q 8) 63 44 == 0 && decide (1 ≤ c.weight) && decide (c.weight ≤ 16) && decide (1 ≤ c.quota) &&
  decide (c.quota ≤ 128) && decide (1 ≤ c.tout) && decide (1 ≤ c.ddl) && decide (c.qcount ≤ 65536) && bits (q 0x18) 31 17 == 0 &&
  bits (q 0x18) 63 48 == 0 && bits (q 0x78) 63 1 == 0 && ((b.drop 0x88).take 0x378).all (· == 0) && ((b.drop 0x800).take 0x800).all (· == 0) &&
  (List.range 16).all fun e => storOk ((b.drop (0x400 + 64 * e)).take 64)

/-- A CXL window is empty, or 1 GiB aligned and within the CXL range. -/
def Control.cxlOk (c : Control) : Bool :=
  let lo := c.cxlbase.toNat
  let hi := c.cxllim.toNat
  lo % 2 ^ 30 == 0 && hi % 2 ^ 30 == 0 && (lo == hi || (decide (cxlBase ≤ lo) && decide (lo < hi) && decide (hi ≤ cxlEnd)))

/-- Two partitions' holdings overlap. -/
def Control.overlaps (a b : Control) : Bool :=
  a.clmask &&& b.clmask != 0 || a.chunks &&& b.chunks != 0 || Nat.land a.hpmask b.hpmask != 0 ||
  (decide (a.cxlbase.toNat < b.cxllim.toNat) && decide (b.cxlbase.toNat < a.cxllim.toNat))

/-- The control blocks of the active partitions. -/
def State.active (s : State) : List Control := (s.parts.filter fun e => e.2.ctl.act).map fun e => e.2.ctl

/-- PCREATE accepts a descriptor (R423, R442). -/
def State.descriptorOk (s : State) (b : List Byte) : Bool :=
  let c := controlOf b
  let sum (f : Control → Nat) : Nat := (s.active.map f).foldl (· + ·) (f c)
  controlOkFields b && c.cxlOk && !s.active.any c.overlaps && decide (sum Control.quota ≤ 128) && decide (sum Control.wquota ≤ 4096) &&
  c.tvec.toNat % 8 == 0 && c.qdbase.toNat % 4096 == 0 && c.qtbase.toNat % 4096 == 0 && inHbm c.qtbase.toNat &&
  c.chunks.getLsbD (c.qtbase.toNat / 2 ^ 30) &&
  (List.range 64).all (fun k => !c.clmask.getLsbD k || s.status.dies.getLsbD (k / 16)) &&
  (List.range 384).all fun k => !c.chunks.getLsbD k || s.status.dies.getLsbD (k / 96)

/-- The access-table row of master 8p + cls (R423). -/
def Control.row (c : Control) (p cls : Nat) : AccRow :=
  let doorbells (r : BitVec 3) : Range := { v := true, base := mmioBase + 0x2000000 + 0x100000 * p, limit := mmioBase + 0x2080000 + 0x100000 * p, rights := r }
  let block (at_ : Nat) (r : BitVec 3) : Range := { v := true, base := mmioBase + at_ + 0x1000 * p, limit := mmioBase + at_ + 0x1000 * (p + 1), rights := r }
  let rw : BitVec 3 := if cls = 0 then 7 else 3
  let window : Table Range := if c.cxlbase.toNat < c.cxllim.toNat
    then [(0, { v := true, base := c.cxlbase.toNat, limit := c.cxllim.toNat, rights := rw })] else []
  if cls = 7 then { ranges := [(0, block 0x100000 3), (1, block 0x300000 3), (2, doorbells 3), (3, block 0x500000 1)] }
  else if cls = 0 then { ranges := window ++ [(1, doorbells 2), (2, block 0x300000 3)], chunks := c.chunks, cv := true, crights := rw }
  else { ranges := window, chunks := c.chunks, cv := true, crights := rw }

/-- Rewrites the rows of a partition's masters in every access table. -/
def State.setRows (s : State) (p : Nat) (f : Nat → AccRow) : State :=
  (List.range 172).foldl (fun s t =>
    let a := s.accTable t
    { s with acc := Table.set {} s.acc t { a with rows := (List.range 8).foldl (fun r k => Table.set {} r (8 * p + k) (f k)) a.rows } }) s

/-! ### Removal of a partition (R422) -/

/-- Everything a partition holds goes: its launches with no save, its regions, slots, watches, tags, queues, ports and
cached translations, and its rows in every access table. HBM is not cleared. -/
def State.removePartition (s : State) (p : Nat) : State :=
  let gone (l : Nat) : Bool := (s.launch l).part == p
  let cores := ((s.gangs.filter fun e => e.2.part == p).map fun e => e.2.core).dedup
  let clmask := (s.part p).ctl.clmask
  let s := { s with
    cohorts := s.cohorts.filter fun e => !gone e.2.launch
    bonds := s.bonds.filter fun e => !gone (s.cohort e.2.cohort).launch
    cores := s.cores.mapVals fun core c =>
      { c with
        ctxs := c.ctxs.filter fun e => !(match e.2 with
          | some l => gone l
          | none => false)
        planes := c.planes.filter fun e => !(match e.2.owner with
          | some g => (s.gang g).part == p
          | none => clmask.getLsbD (core / 16))
        l1 := c.l1.filter fun x => x.part != p
        icache := c.icache.filter fun x => x.part != p }
    weaves := s.weaves.filter fun e => (s.gang e.2.gang).part != p
    ops := s.ops.filter fun e => e.2.part != p
    tlb := s.tlb.mapVals fun _ t => t.filter fun x => x.part != p
    tickets := s.tickets.filter fun e => e.2.part != p
    slots := s.slots.filter fun e => !(match e.2 with
      | some x => x.part == p
      | none => false)
    pendingOrder := s.pendingOrder.filter fun x => x.part != p
    watches := s.watches.filter fun e => e.2.part != p
    deps := s.deps.filter fun d => !gone d.launch
    ports := s.ports.mapVals fun _ q => if q.owner = some p then { q with owner := none, rx := [], tx := [] } else q
    slices := s.slices.mapVals fun _ x =>
      { x with prov := x.prov.filter fun e => e.part != p, overfull := x.overfull.filter fun e => e.1 != p
               waiters := x.waiters.filter (·.part != p), parkq := x.parkq.filter fun k => (s.gang (s.weave k).gang).part != p } }
  let s := { s with
    gangs := s.gangs.filter fun e => e.2.part != p
    launches := s.launches.filter fun e => e.2.part != p
    parts := Table.set {} s.parts p {} }
  (s.setRows p fun _ => {}) |> fun s => cores.foldl State.dealNext s

/-! ### The mailbox (R422) -/

/-- A mailbox command ends with an MST. -/
def State.mailDone (s : State) (mst : Nat) : State := { s with mailbox := { s.mailbox with go := false, mst := mst } }

/-- The 4 KiB argument buffer stands in populated HBM. -/
def State.argOk (s : State) : Bool :=
  let a := s.mailbox.arg.toNat
  decide (a + 4096 ≤ hbmEnd) && s.populated a && s.populated (a + 4095)

/-- The bytes of the argument buffer. -/
def State.argBytes (s : State) : List Byte := memRead s.mem s.mailbox.arg.toNat 4096

/-- Runs a mailbox command that has been started: MST 5 in alarm except for PROVISION, and an unreadable argument buffer
is refused with `bad`. -/
def State.mail (s : State) (cmd bad : Nat) (f : State → State) : Out :=
  let m := s.mailbox
  .next (if !m.go || m.cmd != cmd then s
    else if s.alarm.refuse && cmd != 8 then s.mailDone 5
    else if cmd != 2 && cmd != 6 && !s.argOk then s.mailDone bad
    else f s)

/-- A command of 0x01 to 0x05, on a partition that is, or is not, active. -/
def State.mailPart (s : State) (cmd bad : Nat) (act : Bool) (f : State → Nat → State) : Out :=
  s.mail cmd bad fun s => if (s.part s.mailbox.part).ctl.act != act then s.mailDone 3 else f s s.mailbox.part

/-- PCREATE. -/
def execPcreate (s : State) : Out :=
  s.mailPart 1 2 false fun s p =>
    let b := s.argBytes
    if !s.descriptorOk b then s.mailDone 2
    else
      let c := controlOf b
      let s := s.modPart p fun x =>
        { x with ctl := c, front := { x.front with qdbase := c.qdbase &&& 0x1FFFFFFFFFFF000#64, qcount := c.qcount, tout := c.tout, quota := c.quota } }
      let s := { s with ports := (List.range 12).foldl (fun (t : Table Port) n =>
        if bit c.hpmask n then Table.set {} t n { (Table.get {} t n : Port) with owner := some p } else t) s.ports }
      (s.setRows p (c.row p)).mailDone 0

/-- PDESTROY. -/
def execPdestroy (s : State) : Out := s.mailPart 2 1 true fun s p => (s.removePartition p).mailDone 0

/-- The bytes of a stamp block (R337). -/
def Stamp.bytes (x : Stamp) : List Byte := (List.range 512).flatMap fun i => bytesOf 8 (x.qword (8 * i))

/-- A sweep region from its four qwords; what the block does not hold is kept. -/
def Sweep.load (x : Sweep) (q : Nat → Nat) : Sweep :=
  { x with vbase := BitVec.ofNat 64 (q 0), cntm1 := bits (q 1) 25 0, v := bit (q 1) 26, sw := bit (q 1) 27, floor := BitVec.ofNat 64 (q 2)
           cursor := bits (q 3) 25 0, skippg := BitVec.ofNat 16 (bits (q 3) 47 32), winw := BitVec.ofNat 16 (bits (q 3) 63 48) }

/-- A stamp block from its bytes. -/
def Stamp.load (x : Stamp) (b : List Byte) : Stamp :=
  let q (o : Nat) : Nat := qwordAt b (o / 8)
  let w (o : Nat) : Word := BitVec.ofNat 32 (leNat ((b.drop o).take 4))
  { step := BitVec.ofNat 64 (q 0), pend := bits (q 8) 20 0, thr := bits (q 0x10) 22 0
    regs := (List.range 16).foldl (fun t r => Table.set {} t r ((Table.get {} x.regs r).load fun i => q (0x20 + 32 * r + 8 * i))) []
    ft := (List.range 256).foldl (fun t i => Table.set 0x3F800000#32 t i (w (0x400 + 4 * i))) []
    stg := (List.range 256).foldl (fun t i => Table.set 0 t i (w (0x800 + 4 * i))) []
    stgv := (List.range 256).foldl (fun t i => Table.set false t i (bit (b.getD (0xC00 + i / 8) 0).toNat (i % 8))) []
    cut := x.cut }

/-- The queues of a partition that have a launch. -/
def State.busyQueues (s : State) (p : Nat) : List Nat :=
  ((s.launches.filter fun e => e.2.part == p && (e.2.state == 4 || e.2.state == 5)).map (·.2.queue)).dedup

/-- The orders of PSUSPEND, or of the switch to full service, for every queue of a partition at once. -/
def State.orderAll (s : State) (p : Nat) : State :=
  (s.busyQueues p).foldl (fun s q => if (s.part p).preempts.any fun o => o.queue == q then s else s.orderQueue p q none) s

/-- No gang of a partition is resident and no prologue of it runs. -/
def State.quiet (s : State) (p : Nat) : Bool := !s.gangs.any (fun e => e.2.part == p) && (s.part p).prologue.isNone

/-- The orders that no launch caused end. -/
def State.dropOrders (s : State) (p : Nat) : State :=
  s.modPart p fun x => { x with preempts := x.preempts.filter fun o => o.cause.isSome }

/-- PSUSPEND: its first step orders the pre-emption; it ends when no gang is left. -/
def execPsuspend (s : State) : Out :=
  s.mailPart 3 1 true fun s p =>
    let s := (s.modPart p fun x => { x with suspended := true }).orderAll p
    if s.quiet p then ((s.dropOrders p).commitWrite s.mailbox.arg.toNat (s.part p).stamp.bytes).mailDone 0 else s

/-- PRESUME. -/
def execPresume (s : State) : Out :=
  s.mailPart 4 1 true fun s p =>
    let b := s.argBytes
    (s.modPart p fun x => { x with stamp := x.stamp.load b, suspended := false }).mailDone 0

/-- STORSET: the entry is loaded, its queues are at their first places, and the transfers that wait for it wait on (log 69). -/
def execStorset (s : State) : Out :=
  s.mailPart 5 1 true fun s p =>
    let b := s.argBytes
    let e := ((b.drop 64).take 64)
    let i := (b.getD 0 0).toNat
    if 16 ≤ i || !storOk e then s.mailDone 2
    else (s.modPart p fun x =>
      { x with ctl := { x.ctl with stor := Table.set {} x.ctl.stor i { storOf e with waiting := (Table.get {} x.ctl.stor i).waiting } } }).mailDone 0

/-! ### The image (R431, R432) -/

/-- A 32-bit field of an image. -/
def imageWord (img : List Byte) (o : Nat) : Nat := leNat ((img.drop o).take 4)

/-- The digest that an image's signature covers. -/
def imageDigest (img : List Byte) : BitVec 256 := Config.sha256 (img.take 0x80 ++ img.drop 0x100)

/-- The check of an image. -/
def Firmware.imageValid (x : Firmware) (img : List Byte) : Bool :=
  let pubk := (img.drop 0x20).take 64
  imageWord img 0 == 0x43424D52 && Config.sha256 pubk == x.keyHash && decide (x.minSvn.toNat ≤ imageWord img 4) &&
  Config.verifies pubk (imageDigest img) ((img.drop 0x80).take 64)

/-- IMGWRITE: the header and the body are read from host memory. -/
def execImgwrite (s : State) : Out :=
  s.mail 6 1 fun s =>
    let a := s.mailbox.arg.toNat
    let hdr := memRead s.hostMem a 256
    let img := hdr ++ memRead s.hostMem (a + 256) (imageWord hdr 0xC)
    if s.fw.imageValid img then { s with fw := { s.fw with flash := img } }.mailDone 0 else s.mailDone 4

/-! ### Attestation and provisioning (R433, R435) -/

/-- A 256-bit value as 32 bytes. -/
def digestBytes (d : BitVec 256) : List Byte := bytesOf 32 d.toNat

/-- Bytes cut or filled to a length. -/
def fit (n : Nat) (bs : List Byte) : List Byte := bs.take n ++ List.replicate (n - bs.length) 0

/-- The first 0x80 bytes of a report. -/
def State.reportBody (s : State) (nonce : List Byte) : List Byte :=
  let blocks := (List.range 8).flatMap fun p => (List.range 32).flatMap fun i => bytesOf 8 ((s.part p).ctl.qword (8 * i))
  nonce ++ bytesOf 8 devid ++ digestBytes (imageDigest s.fw.running) ++ bytesOf 4 (imageWord s.fw.running 4) ++
  bytesOf 4 s.fw.minSvn.toNat ++ digestBytes (Config.sha256 blocks) ++ bytesOf 4 s.alarm.word ++ List.replicate 12 0

/-- ATTEST. -/
def execAttest (s : State) : Out :=
  s.mail 7 1 fun s =>
    let a := s.mailbox.arg.toNat
    let body := s.reportBody (memRead s.mem a 32)
    let key := s.fw.identity.getD 0
    let s := { s with fw := { s.fw with session := true } }
    (s.commitWrite (a + 0x100) (body ++ fit 64 (Config.sign key (Config.sha256 body)) ++ fit 64 (Config.publicKey key))).mailDone 0

/-- PROVISION. -/
def execProvision (s : State) : Out :=
  s.mail 8 1 fun s =>
    let a := s.mailbox.arg.toNat
    if !Config.blobVerifies s.fw.keyHash s.argBytes then s.mailDone 4
    else
      let n := s.fw.identities
      let s := { s with
        fw := { s.fw with identity := some (Config.newKey n), identities := n + 1 }
        alarm := { s.alarm with src := 0, erased := false, refuse := false } }
      (s.commitWrite (a + 0x100) (fit 64 (Config.publicKey (Config.newKey n)))).mailDone 0

end Sys2Proof.Machine
end

