-- ==== Sys2Proof/Machine/Package.lean ====
section
/-! DEFINITION. The package: reset and bring-up, full service, temperature, alarms, errors and power gating
(spec/11_bonds.md, R285; spec/16_exchange.md, R391; spec/18_firmware.md, R431, R435; spec/19_package.md, R437 to R450). -/

namespace Sys2Proof.Machine

open Sys2Proof

/-! ### Reset (R439 to R442, R445, R446) -/

/-- The flash after an interruption: where an image was being written, no valid image may be left (R431). -/
def State.cutFlash (s : State) : State :=
  if s.mailbox.go && s.mailbox.cmd = 6 then
    let (f, s) := s.takeFree 1
    if Config.freeBit f then { s with fw := { s.fw with flash := [] } } else s
  else s

/-- What survives a reset: memory, host memory, the flash, the fuses and the key store, the count of alarms, and the
model's own numbers. Everything else takes its reset value. -/
def State.cold (s : State) : State :=
  let s := s.cutFlash
  { State.reset with
    mem := s.mem, hostMem := s.hostMem, sensors := s.sensors, msix := s.msix, doorbells := s.doorbells, free := s.free
    nextKey := s.nextKey, nextTicket := s.nextTicket, tripped := s.tripped
    fw := { flash := s.fw.flash, keyHash := s.fw.keyHash, minSvn := s.fw.minSvn, identity := s.fw.identity, identities := s.fw.identities }
    alarm := { count := s.alarm.count } }

/-- The boot ROM's check: the image runs, and one that asks for it raises the fused minimum at its first boot. -/
def State.bootRom (s : State) : State :=
  let x := s.fw
  if x.imageValid x.flash then
    let svn := BitVec.ofNat 32 (imageWord x.flash 4)
    { s with fw := { x with imageOk := true, running := x.flash, lcUp := true, minSvn := if bit (imageWord x.flash 8) 0 then svn else x.minSvn } }
  else { s with status := { s.status with svc := 3 } }

/-- The stacks that have trained, the dies they bring into service, and the ports. -/
def State.train (s : State) (hbm ports expanders capacity : Nat) (peers : List (Nat × Dbl)) : State :=
  let dies := (List.range 4).foldl (fun m d => if bit hbm (2 * d) && bit hbm (2 * d + 1) then setBit m d true else m) (0 : BitVec 4)
  let all := decide (expanders % 256 = 255)
  { s with
    status := { s.status with
      svc := 1, dies := dies, hbmok := BitVec.ofNat 8 hbm, hpup := BitVec.ofNat 12 ports, cxlup := BitVec.ofNat 8 expanders
      cxlgib := if all then min 12288 (8 * capacity) else 0
      peers := (peers.filter fun e => decide (e.1 < 12) && bit ports e.1).foldl (fun t e =>
        Table.set 0 t e.1 ((e.2 &&& 0xFFFFFFFFF#64) ||| 0x1000000000#64)) [] }
    ports := (List.range 12).foldl (fun (t : Table Port) n => if bit ports n then Table.set {} t n { (Table.get {} t n : Port) with up := true } else t) s.ports }

/-- RESET. -/
def execReset (s : State) : Out :=
  let e := s.ev
  let s := s.cold.bootRom
  let s := { s with status := { s.status with therm := if s.tripped then 2 else 0 }, tripped := false }
  .next (if s.fw.imageOk then s.train e.a e.b e.c e.d e.peers else s)

/-! ### Full service (R443) -/

/-- FULL_SERVICE_SWITCH: its first step orders every queue's pre-emption; it ends when no gang is resident. -/
def execFullServiceSwitch (s : State) : Out :=
  .next (if s.status.svc ≠ 1 ∨ !s.allDies then s
    else
      let s := { s with fw := { s.fw with switching := true } }
      let ps := s.parts.map (·.1)
      let s := ps.foldl State.orderAll s
      if s.gangs.isEmpty && ps.all s.quiet then
        ps.foldl State.dropOrders { s with status := { s.status with svc := 2 }, fw := { s.fw with switching := false } }
      else s)

/-! ### Temperature (R437) -/

/-- A cluster's sensor reads a temperature. -/
def State.senses (s : State) : State := { s with sensors := Table.set 0 s.sensors s.ev.a s.ev.b }

/-- THERMAL_HOLD. -/
def execThermalHold (s : State) : Out :=
  let s := s.senses
  .next (if s.sensors.any fun e => decide (100 ≤ e.2) then { s with status := { s.status with therm := 1 } } else s)

/-- THERMAL_RELEASE. -/
def execThermalRelease (s : State) : Out :=
  let s := s.senses
  .next (if s.status.therm = 1 ∧ s.sensors.all (fun e => decide (e.2 ≤ 95)) then { s with status := { s.status with therm := 0 } } else s)

/-- THERMAL_TRIP: the core rails go at once, and with them all that is not kept over a reset. -/
def execThermalTrip (s : State) : Out :=
  let s := s.senses
  .next (if s.sensors.any fun e => decide (115 ≤ e.2) then { s.cold with rails := false, tripped := true } else s)

/-! ### Alarms (R435) -/

/-- SECURITY_ALARM: the keys are erased, every partition is torn down, every SRAM is cleared and service is refused. -/
def execSecurityAlarm (s : State) : Out :=
  let x := s.alarm
  let s := { s.cutFlash with
    alarm := { src := setBit x.src s.ev.a true, erased := true, refuse := true, count := satInc16 x.count }
    fw := { s.fw with identity := none, session := false } }
  let s := (s.parts.map (·.1)).foldl State.removePartition s
  let s := { s with
    cores := s.cores.mapVals fun _ c => { c with planes := [], l1 := [], icache := [] }
    slices := s.slices.mapVals fun _ y => { gate := y.gate, waking := y.waking }
    tlb := [] }
  .next (if s.mailbox.go then s.mailDone 5 else s)

/-! ### Errors (R447, R448) -/

/-- CORRECTED_ERROR: counted, and logged for links and ports. -/
def execCorrectedError (s : State) : Out :=
  let e := s.ev
  .next (if 6 ≤ e.a then s
    else
      let s := { s with status := { s.status with cecnt := Table.set 0 s.status.cecnt e.a (satInc (Table.get 0 s.status.cecnt e.a)) } }
      if 3 ≤ e.a then s.logError e.a false 0 e.b e.c e.d else s)

/-- Lanes take fault 0x60, each to resume at its word. -/
def State.dataError (s : State) (wk : Nat) (m : BitVec 32) (addr : Dbl) : State :=
  let s := s.modWeave wk fun w => w.modLanes (m &&& w.liveMask) fun l => { l with faultPc := if l.hdr then l.pc ||| 1 else l.pc }
  s.raise wk { status := 0x60#32, mask := m, addr := addr, resume_ := 0, keepPc := true }

/-- The status with which an uncorrectable error fails a command: GDIST reports its candidate too (R57, R364). -/
def AsyncOp.dataStatus (o : AsyncOp) : Word :=
  match o.instr with
  | .gdist _ => 0x60#32 ||| BitVec.ofNat 32 (o.unit % 2 ^ 16 * 2 ^ 16)
  | _ => 0x60#32

/-- UNCORRECTABLE_ERROR: it is logged, and whoever touched the data takes 0x60 in its own way; data in memory and in a
scratchpad gives it to whoever reads the unit (log 133). -/
def execUncorrectableError (s : State) : Out :=
  let e := s.ev
  let s := s.logError e.a true (if e.victim = .nobody then 0 else 0x60) e.b e.c e.d
  .next (match e.victim with
    | .lanes wk m => s.dataError wk m e.value
    | .memory pa => { s with poison := (pa / 8 :: s.poison).dedup }
    | .scratch g off => s.modGang g fun y => { y with spPoison := (off / 8 :: y.spPoison).dedup }
    | .command r => if (s.op r).engine = .mx then s.mxReport r 0x60#32 else s.failOp r (s.op r).dataStatus
    | .packet l =>
      let p := (s.launch l).part
      (match (s.part p).prologue with
        | some x => if x.launch = l then s.endPrologue p (prologueFault 0x60) else s.endLaunch l 0x330#32
        | none => s.endLaunch l 0x330#32)
    | .lease wk => s.loseLease wk 0x60#32 e.value
    | .nobody => s)

/-- OPERAND_LINK_ERROR (R285): a formed bond is lost, and rounds in flight write nothing for the columns that the link feeds,
those of a dissolving bond too (log 139). -/
def execOperandLinkError (s : State) : Out :=
  let bk := s.ev.a
  let col := s.ev.b
  .next (match s.bonds.find bk with
    | none => s
    | some b =>
      let core := (s.gang (b.gangOf (b.at_ 0 col))).core
      let s := s.logError 3 true 0 core 0 64
      let fed := if s.ev.on then (List.range b.w).filter fun c => decide (col ≤ c) else [col]
      let s := if b.flight.isEmpty then s else s.modBond bk fun b => { b with badCols := (fed ++ b.badCols).dedup }
      s.loseBond bk)

/-- LINK_DOWN (R391). -/
def execLinkDown (s : State) : Out :=
  let n := s.ev.a
  let ofPort (c : Nat) : Bool := c / 16 == n
  let s := s.modPort n fun q => { q with
    up := false
    tx := q.tx.mapVals fun _ c => { c with failed := true }
    rx := q.rx.mapVals fun _ b => { b with got := [], lastSeen := 0 } }
  let s := { s with status := { s.status with hpup := setBit s.status.hpup n false } }
  let s := s.failSends (fun c o => ofPort c && o.state == .pending) 0x241#32
  let s := (List.range 16).foldl (fun s i => s.ackedAll (16 * n + i)) s
  .next (s.logError 4 true 0 n 0 64)

/-! ### Power gating (R449, R450, R315) -/

/-- SCRATCHPAD_BANK_GATE: a bank is gated only while no gang is on the core; one that is enabled again wakes. -/
def execScratchpadBankGate (s : State) : Out :=
  let c := s.ev.a
  let b := s.ev.b
  let x := s.core c
  .next (if s.ev.on then
      (if x.spgate.getLsbD b then s else s.modCore c fun x => { x with spgate := setBit x.spgate b true, waking := setBit x.waking b true })
    else if s.gangs.any fun e => e.2.core == c then s
    else s.modCore c fun x => { x with spgate := setBit x.spgate b false, waking := setBit x.waking b false })

/-- SCRATCHPAD_BANK_WAKE: the held accesses try again. -/
def execScratchpadBankWake (s : State) : Out :=
  .next (s.modCore s.ev.a fun x => { x with waking := setBit x.waking s.ev.b false })

/-- L2_WAY_GATE: the way's dirty sectors are written back and its lines invalidated, which lines they are being free; at
least four ways stay. A way that is enabled again wakes. -/
def execL2WayGate (s : State) : Out :=
  let n := s.ev.a
  let w := s.ev.b
  let x := s.slice n
  .next (if s.ev.on then
      (if x.gate.getLsbD w then s else s.modSlice n fun x => { x with gate := setBit x.gate w true, waking := setBit x.waking w true })
    else if !x.gate.getLsbD w || decide (x.ways ≤ 4) then s
    else
      let (f, s) := s.takeFree x.lines.length
      s.modSlice n fun x => { x with
        gate := setBit x.gate w false, waking := setBit x.waking w false
        lines := (x.lines.zipIdx.filter fun e => Config.freeBit (f + e.2)).map (·.1) })

/-- L2_WAY_WAKE: when no way wakes any more, the requests that were held go on (R315). -/
def execL2WayWake (s : State) : Out :=
  let n := s.ev.a
  let s := s.modSlice n fun x => { x with waking := setBit x.waking s.ev.b false }
  .next (if (s.slice n).waking != 0 then s else s.serveInput n)

end Sys2Proof.Machine
end

