-- ==== Sys2Proof/Machine/Registers.lean ====
section
/-! DEFINITION. Writes of memory-mapped registers under their access codes (spec/00_scope.md, R2, R4; spec/06_translation.md,
R149, R156 to R160; spec/17_front_end.md, R396, R397; spec/18_firmware.md, R421, R422, R424; spec/19_package.md, R439). -/

namespace Sys2Proof.Machine

open Sys2Proof

/-- A write of some bits of a qword. -/
structure QWrite where
  /-- The bits written. -/
  mask : Nat
  /-- Their values, in place. -/
  val : Nat
  deriving DecidableEq, Repr

/-- The qword after the write, for fields that are RW. -/
def QWrite.over (w : QWrite) (old : Nat) : Nat := (BitVec.ofNat 64 old &&& ~~~BitVec.ofNat 64 w.mask ||| BitVec.ofNat 64 w.val).toNat

/-- Whether the write sets bit `i`. -/
def QWrite.sets (w : QWrite) (i : Nat) : Bool := bit w.val i

/-- Whether the write reaches bit `i`. -/
def QWrite.hits (w : QWrite) (i : Nat) : Bool := bit w.mask i

/-- A W1C word after the write. -/
def QWrite.w1c (w : QWrite) (old : Word) : Word := old &&& ~~~BitVec.ofNat 32 w.val

/-- A write of `n` bytes at an offset within a qword. -/
def qwrite (o n : Nat) (v : Dbl) : QWrite :=
  let m := 2 ^ (8 * n) - 1
  { mask := m * 2 ^ (8 * (o % 8)) % 2 ^ 64, val := v.toNat % 2 ^ (8 * n) * 2 ^ (8 * (o % 8)) % 2 ^ 64 }

/-! ### The blocks -/

/-- The translation block (R156). A write of 0x18 starts an invalidation (R157). -/
def State.writeTrans (s : State) (p o : Nat) (w : QWrite) : State :=
  let x := (s.part p).trans
  let set (x : TransBlock) : State := s.modPart p fun q => { q with trans := x }
  match o with
  | 0x00 => let v := w.over (x.qword 0); set { x with ptroot := bits v 47 12, en := bit v 0 }
  | 0x08 =>
    let v := w.over (x.qword 8)
    set { x with rtbase := bits v 47 12, rtcount := if bits v 6 0 ≤ 64 then bits v 6 0 else x.rtcount }
  | 0x10 => let v := w.over (x.qword 0x10); set { x with tinvva := bits v 56 12 * 4096 }
  | 0x18 =>
    if x.busy || w.mask % 2 ^ 28 = 0 then s
    else
      let v := w.over (x.tmode + x.npages * 2 ^ 8)
      let s := set { x with tmode := bits v 1 0, npages := bits v 27 8, busy := bits v 1 0 != 3 }
      match bits v 1 0 with
      | 0 => s.next_ .invalidatePage p 0 0
      | 1 => s.next_ .invalidateRange p (bits v 27 8) 0
      | 2 => s.next_ .invalidatePartition p 0 0
      | _ => s
  | 0x28 => set { x with uacount := w.w1c x.uacount }
  | _ => s

/-- The front-end block (R396): tolerances and QERRV; the rest is the firmware complex's. -/
def State.writeFront (s : State) (fw : Bool) (p o : Nat) (w : QWrite) : State :=
  let x := (s.part p).front
  let set (x : FrontBlock) : State := s.modPart p fun q => { q with front := x }
  let v := w.over (x.qword o)
  if o < 0x40 then
    set { x with gtol := Table.set 0 (Table.set 0 x.gtol (o / 4) (BitVec.ofNat 32 v)) (o / 4 + 1) (BitVec.ofNat 32 (v / 2 ^ 32)) }
  else match o with
    | 0x40 => if fw then set { x with qdbase := BitVec.ofNat 64 (bits v 56 12 * 4096) } else s
    | 0x48 => if fw then set { x with qcount := bits v 16 0 } else s
    | 0x50 => if fw then set { x with tout := bits v 15 0 } else s
    | 0x58 => if fw then set { x with quota := bits v 7 0 } else s
    | 0x60 => set { x with qerr := if fw then BitVec.ofNat 16 v else x.qerr, qerrv := x.qerrv && !w.sets 31 }
    | _ => s

/-- A byte of PLMAP (R149): reserved bits stay zero, and PLACE 11 is not taken. -/
def placeByte (old v : Nat) : Byte := BitVec.ofNat 8 (bits v 3 2 * 4 + if bits v 1 0 = 3 then bits old 1 0 else bits v 1 0)

/-- PLMAP; ignored while a die is out of service (R441). -/
def State.writePlmap (s : State) (k : Nat) (w : QWrite) : State :=
  if !s.allDies then s
  else { s with plmap := (List.range 8).foldl (fun t i =>
    if w.hits (8 * i) then Table.set 0 t (k + i) (placeByte (Table.get 0 t (k + i)).toNat (w.val / 2 ^ (8 * i))) else t) s.plmap }

/-- The 4 KiB of a block, with a qword of it replaced. -/
def replaceQword (q : Nat → Nat) (o v : Nat) : List Byte :=
  (List.range 512).flatMap fun i => bytesOf 8 (if 8 * i = o then v else q (8 * i))

/-- The control block, by the firmware complex (R421). The places of the storage queues are no registers of it (log 69). -/
def State.writeControl (s : State) (p o : Nat) (w : QWrite) : State :=
  let x := (s.part p).ctl
  let v := w.over (x.qword o)
  let y := controlOf (replaceQword x.qword o v)
  let places (e : Nat) (n : Stor) : Stor :=
    let m := Table.get {} x.stor e
    { n with tail := m.tail, head := m.head, waiting := m.waiting }
  if o = 0x80 then s
  else s.modPart p fun q =>
    { q with ctl := { y with act := if o = 0x78 then bit v 0 else x.act, devidc := x.devidc, stor := y.stor.mapVals places } }

/-- The stamp block, by the firmware complex (R337). -/
def State.writeStamp (s : State) (p o : Nat) (w : QWrite) : State :=
  let x := (s.part p).stamp
  s.modPart p fun q => { q with stamp := x.load (replaceQword x.qword o (w.over (x.qword o))) }

/-- An error-log entry with a qword replaced; what the layout gives as zero stays zero (R448). -/
def ELog.put (e : ELog) (i v : Nat) : ELog :=
  match i with
  | 0 => { e with q0 := BitVec.ofNat 64 v &&& ~~~0xF0#64 }
  | 1 => { e with q1 := BitVec.ofNat 64 v }
  | 2 => { e with q2 := BitVec.ofNat 64 v &&& 0x7F#64 }
  | _ => e

/-- The device status block, by the firmware complex (R439). -/
def State.writeStatus (s : State) (o : Nat) (w : QWrite) : State :=
  let x := s.status
  let v := w.over (s.statusQword o)
  let set (x : Status) : State := { s with status := x }
  if o = 0 then
    set { x with svc := bits v 1 0, dies := BitVec.ofNat 4 (bits v 5 2), hbmok := BitVec.ofNat 8 (bits v 13 6), hpup := BitVec.ofNat 12 (bits v 25 14)
                 cxlup := BitVec.ofNat 8 (bits v 33 26), therm := bits v 35 34 }
  else if o < 0x68 then set { x with peers := Table.set 0 x.peers ((o - 8) / 8) (BitVec.ofNat 64 (bits v 36 0)) }
  else if o = 0x68 then set { x with cxlgib := bits v 15 0 }
  else if o = 0x80 then set { x with ehead := bits v 5 0 }
  else if 0x88 ≤ o ∧ o < 0xC8 then set { x with cecnt := Table.set 0 x.cecnt ((o - 0x88) / 8) (w.w1c (Table.get 0 x.cecnt ((o - 0x88) / 8))) }
  else if 0x100 ≤ o ∧ o < 0x900 then
    set { x with elog := Table.set {} x.elog ((o - 0x100) / 32) ((Table.get {} x.elog ((o - 0x100) / 32)).put (o % 32 / 8) v) }
  else s

/-- An access table (R159, R424), by the firmware complex: rows, and the refusal log. -/
def State.writeAcc (s : State) (t o : Nat) (w : QWrite) : State :=
  let x := s.accTable t
  let v := w.over (x.qword o)
  let set (x : AccTable) : State := { s with acc := Table.set {} s.acc t x }
  if o < 0x2080 then
    let row := Table.get {} x.rows (o / 128)
    let k := o % 128
    let r := Table.get {} row.ranges (k / 16)
    let row : AccRow :=
      if k < 0x40 then
        let r : Range := if k % 16 = 0 then { r with v := bit v 0, rights := BitVec.ofNat 3 (bits v 3 1), base := bits v 47 12 * 4096 }
          else { r with limit := bits v 47 12 * 4096 }
        { row with ranges := Table.set {} row.ranges (k / 16) r }
      else if k < 0x70 then
        let at_ := 8 * (k - 0x40)
        let now := row.chunks.toNat
        { row with chunks := BitVec.ofNat 384 (now % 2 ^ at_ + v * 2 ^ at_ + now / 2 ^ (at_ + 64) * 2 ^ (at_ + 64)) }
      else if k = 0x70 then { row with cv := bit v 0, crights := BitVec.ofNat 3 (bits v 3 1) }
      else row
    set { x with rows := Table.set {} x.rows (o / 128) row }
  else if o = 0x2080 then (if w.sets 63 then s.next_ .refusalLogClear t 0 0 else s)
  else if o = 0x2090 then set { x with logCount := w.w1c x.logCount }
  else s

/-- REFUSAL_LOG_CLEAR: the count of later refusals has a clear of its own. -/
def execRefusalLogClear (s : State) : Out :=
  let t := s.ev.a
  .next { s with acc := Table.set {} s.acc t { s.accTable t with logv := false, logMaster := 0, logKind := .read, logPa := 0 } }

/-! ### The mailbox (R422) -/

/-- The event of a mailbox command. -/
def mailEvent (cmd : Nat) : Option Instr :=
  match cmd with
  | 1 => some .pcreate
  | 2 => some .pdestroy
  | 3 => some .psuspend
  | 4 => some .presume
  | 5 => some .storset
  | 6 => some .imgwrite
  | 7 => some .attest
  | 8 => some .provision
  | _ => none

/-- A host write to the physical function's BAR0: only the mailbox takes one. Its first use clears a THERM of 2 (R437);
in recovery it starts IMGWRITE only (R431). -/
def State.writeBar (s : State) (o : Nat) (w : QWrite) : State :=
  let m := s.mailbox
  if m.go || !(o = 0x1000 || o = 0x1008) then s
  else
    let s := { s with status := { s.status with therm := if s.status.therm = 2 then 0 else s.status.therm } }
    if o = 0x1008 then { s with mailbox := { m with arg := BitVec.ofNat 64 (w.over m.arg.toNat) } }
    else
      let v := w.over (m.cmd + m.part * 2 ^ 8)
      let m := { m with cmd := bits v 7 0, part := bits v 10 8 }
      if !w.sets 63 || (s.status.svc = 3 && m.cmd != 6) then { s with mailbox := m }
      else match mailEvent m.cmd with
        | none => { s with mailbox := { m with mst := if s.alarm.refuse then 5 else 1 } }
        | some i => { s with mailbox := { m with go := true } }.next_ i 0 0 0

/-! ### The event -/

/-- A write at an offset of the MMIO range, by a master whose access is allowed. -/
def State.writeMmio (s : State) (master o n : Nat) (v : Dbl) : State :=
  let fw := decide (master = 64)
  let w := qwrite o n v
  let q := o / 8 * 8
  let p := o / 0x1000 % 8
  if 0x100000 ≤ o ∧ o < 0x108000 then s.writeTrans p (q % 0x1000) w
  else if 0x300000 ≤ o ∧ o < 0x308000 then s.writeFront fw p (q % 0x1000) w
  else if 0x2000000 ≤ o ∧ o < 0x2800000 then
    (if o % 0x100000 < 0x80000 then
      { s with agenda := { what := .doorbellKick, args := { a := o / 0x100000 % 8, b := o % 0x100000 / 8, c := if o % 8 = 0 then n else 0, value := v } } :: s.agenda }
    else s)
  else if !fw then s
  else if 0x400000 ≤ o ∧ o < 0x400180 then s.writePlmap (q - 0x400000) w
  else if 0x500000 ≤ o ∧ o < 0x508000 then s.writeControl p (q % 0x1000) w
  else if 0x600000 ≤ o ∧ o < 0x608000 then s.writeStamp p (q % 0x1000) w
  else if 0x700000 ≤ o ∧ o < 0x703000 then s.writeStatus (q - 0x700000) w
  else if 0x10000000 ≤ o ∧ o < 0x10000000 + 172 * 0x4000 then s.writeAcc ((o - 0x10000000) / 0x4000) (q % 0x4000) w
  else s

/-- REGISTER_WRITE: checked against the access table of its MMIO block (R160), or a write of the physical function's BAR0,
which alone answers in recovery (R431). -/
def execRegisterWrite (s : State) : Out :=
  let e := s.ev
  .next (if e.on then s.writeBar (e.b / 8 * 8) (qwrite e.b e.c e.value)
    else if !inMmio e.b || s.status.svc = 3 then s
    else match s.refuser e.a e.b e.c .write with
      | some t => s.logRefusal t e.a e.b .write
      | none => s.writeMmio e.a (e.b - mmioBase) e.c e.value)

end Sys2Proof.Machine
end

