-- ==== Sys2Proof/Machine/Dispatch.lean ====
section
/-! DEFINITION. One arm for each constructor of `Instr`. -/

namespace Sys2Proof.Machine

open Sys2Proof

def exec (i : Instr) (s : State) : Host.Outcome State Fault Refusal :=
  match i with
  | .iadd w => Sys2Proof.Machine.execIadd w s
  | .iaddFi w => Sys2Proof.Machine.execIaddFi w s
  | .isub w => Sys2Proof.Machine.execIsub w s
  | .isubFi w => Sys2Proof.Machine.execIsubFi w s
  | .imul w => Sys2Proof.Machine.execImul w s
  | .imulFi w => Sys2Proof.Machine.execImulFi w s
  | .imulh w => Sys2Proof.Machine.execImulh w s
  | .imad w => Sys2Proof.Machine.execImad w s
  | .imadw w => Sys2Proof.Machine.execImadw w s
  | .iabs w => Sys2Proof.Machine.execIabs w s
  | .ineg w => Sys2Proof.Machine.execIneg w s
  | .imin w => Sys2Proof.Machine.execImin w s
  | .iminFi w => Sys2Proof.Machine.execIminFi w s
  | .imax w => Sys2Proof.Machine.execImax w s
  | .imaxFi w => Sys2Proof.Machine.execImaxFi w s
  | .and w => Sys2Proof.Machine.execAnd w s
  | .andFi w => Sys2Proof.Machine.execAndFi w s
  | .or w => Sys2Proof.Machine.execOr w s
  | .orFi w => Sys2Proof.Machine.execOrFi w s
  | .xor w => Sys2Proof.Machine.execXor w s
  | .xorFi w => Sys2Proof.Machine.execXorFi w s
  | .not w => Sys2Proof.Machine.execNot w s
  | .andn w => Sys2Proof.Machine.execAndn w s
  | .andnFi w => Sys2Proof.Machine.execAndnFi w s
  | .shl w => Sys2Proof.Machine.execShl w s
  | .shlFi w => Sys2Proof.Machine.execShlFi w s
  | .shr w => Sys2Proof.Machine.execShr w s
  | .shrFi w => Sys2Proof.Machine.execShrFi w s
  | .rot w => Sys2Proof.Machine.execRot w s
  | .rotFi w => Sys2Proof.Machine.execRotFi w s
  | .bfe w => Sys2Proof.Machine.execBfe w s
  | .bfeFi w => Sys2Proof.Machine.execBfeFi w s
  | .bfi w => Sys2Proof.Machine.execBfi w s
  | .popc w => Sys2Proof.Machine.execPopc w s
  | .clz w => Sys2Proof.Machine.execClz w s
  | .ctz w => Sys2Proof.Machine.execCtz w s
  | .brev w => Sys2Proof.Machine.execBrev w s
  | .isel w => Sys2Proof.Machine.execIsel w s
  | .icmp w => Sys2Proof.Machine.execIcmp w s
  | .icmpFi w => Sys2Proof.Machine.execIcmpFi w s
  | .iaddc w => Sys2Proof.Machine.execIaddc w s
  | .lea w => Sys2Proof.Machine.execLea w s
  | .leaFi w => Sys2Proof.Machine.execLeaFi w s
  | .mov w => Sys2Proof.Machine.execMov w s
  | .movi w => Sys2Proof.Machine.execMovi w s
  | .movhi w => Sys2Proof.Machine.execMovhi w s
  | .pand w => Sys2Proof.Machine.execPand w s
  | .por w => Sys2Proof.Machine.execPor w s
  | .pxor w => Sys2Proof.Machine.execPxor w s
  | .idp4 w => Sys2Proof.Machine.execIdp4 w s
  | .fadd w => Sys2Proof.Machine.execFadd w s
  | .faddFi w => Sys2Proof.Machine.execFaddFi w s
  | .fsub w => Sys2Proof.Machine.execFsub w s
  | .fsubFi w => Sys2Proof.Machine.execFsubFi w s
  | .fmul w => Sys2Proof.Machine.execFmul w s
  | .fmulFi w => Sys2Proof.Machine.execFmulFi w s
  | .ffma w => Sys2Proof.Machine.execFfma w s
  | .fmin w => Sys2Proof.Machine.execFmin w s
  | .fmax w => Sys2Proof.Machine.execFmax w s
  | .fcmp w => Sys2Proof.Machine.execFcmp w s
  | .fcmpFi w => Sys2Proof.Machine.execFcmpFi w s
  | .frcp w => Sys2Proof.Machine.execFrcp w s
  | .fsqrt w => Sys2Proof.Machine.execFsqrt w s
  | .frsq w => Sys2Proof.Machine.execFrsq w s
  | .fexp2 w => Sys2Proof.Machine.execFexp2 w s
  | .flog2 w => Sys2Proof.Machine.execFlog2 w s
  | .fsin w => Sys2Proof.Machine.execFsin w s
  | .fcos w => Sys2Proof.Machine.execFcos w s
  | .ftanh w => Sys2Proof.Machine.execFtanh w s
  | .hadd2 w => Sys2Proof.Machine.execHadd2 w s
  | .hmul2 w => Sys2Proof.Machine.execHmul2 w s
  | .hfma2 w => Sys2Proof.Machine.execHfma2 w s
  | .hdot2 w => Sys2Proof.Machine.execHdot2 w s
  | .cvt w => Sys2Proof.Machine.execCvt w s
  | .pack w => Sys2Proof.Machine.execPack w s
  | .unpack w => Sys2Proof.Machine.execUnpack w s
  | .qswap w => Sys2Proof.Machine.execQswap w s
  | .qbcast w => Sys2Proof.Machine.execQbcast w s
  | .shfl w => Sys2Proof.Machine.execShfl w s
  | .wred w => Sys2Proof.Machine.execWred w s
  | .srnd w => Sys2Proof.Machine.execSrnd w s
  | .d2Word hi lo => Sys2Proof.Machine.execD2Word hi lo s
  | .bra w => Sys2Proof.Machine.execBra w s
  | .brau w => Sys2Proof.Machine.execBrau w s
  | .jmpi w => Sys2Proof.Machine.execJmpi w s
  | .call w => Sys2Proof.Machine.execCall w s
  | .calli w => Sys2Proof.Machine.execCalli w s
  | .ret w => Sys2Proof.Machine.execRet w s
  | .meet w => Sys2Proof.Machine.execMeet w s
  | .rejoin w => Sys2Proof.Machine.execRejoin w s
  | .exit w => Sys2Proof.Machine.execExit w s
  | .nop w => Sys2Proof.Machine.execNop w s
  | .yield w => Sys2Proof.Machine.execYield w s
  | .vote w => Sys2Proof.Machine.execVote w s
  | .actmask w => Sys2Proof.Machine.execActmask w s
  | .sign w => Sys2Proof.Machine.execSign w s
  | .cvdecl w => Sys2Proof.Machine.execCvdecl w s
  | .hwait w => Sys2Proof.Machine.execHwait w s
  | .hwaitAll w => Sys2Proof.Machine.execHwaitAll w s
  | .htest w => Sys2Proof.Machine.execHtest w s
  | .hcancel w => Sys2Proof.Machine.execHcancel w s
  | .hmov w => Sys2Proof.Machine.execHmov w s
  | .hmovSt w => Sys2Proof.Machine.execHmovSt w s
  | .hmovLd w => Sys2Proof.Machine.execHmovLd w s
  | .gbar w => Sys2Proof.Machine.execGbar w s
  | .cbar w => Sys2Proof.Machine.execCbar w s
  | .rsend w => Sys2Proof.Machine.execRsend w s
  | .rtake w => Sys2Proof.Machine.execRtake w s
  | .rstat w => Sys2Proof.Machine.execRstat w s
  | .trap w => Sys2Proof.Machine.execTrap w s
  | .sysc w => Sys2Proof.Machine.execSysc w s
  | .eret w => Sys2Proof.Machine.execEret w s
  | .rdsr w => Sys2Proof.Machine.execRdsr w s
  | .wrsr w => Sys2Proof.Machine.execWrsr w s
  | .stkset w => Sys2Proof.Machine.execStkset w s
  | .clrflg w => Sys2Proof.Machine.execClrflg w s
  | .flgrd w => Sys2Proof.Machine.execFlgrd w s
  | .ld w => Sys2Proof.Machine.execLd w s
  | .ldFi w => Sys2Proof.Machine.execLdFi w s
  | .st w => Sys2Proof.Machine.execSt w s
  | .stFi w => Sys2Proof.Machine.execStFi w s
  | .lds w => Sys2Proof.Machine.execLds w s
  | .ldsFi w => Sys2Proof.Machine.execLdsFi w s
  | .sts w => Sys2Proof.Machine.execSts w s
  | .stsFi w => Sys2Proof.Machine.execStsFi w s
  | .ldc w => Sys2Proof.Machine.execLdc w s
  | .ldcFi w => Sys2Proof.Machine.execLdcFi w s
  | .atom w => Sys2Proof.Machine.execAtom w s
  | .fence w => Sys2Proof.Machine.execFence w s
  | .pfl1 w => Sys2Proof.Machine.execPfl1 w s
  | .pfl1Fi w => Sys2Proof.Machine.execPfl1Fi w s
  | .cctlIvl w => Sys2Proof.Machine.execCctlIvl w s
  | .cctlIvd w => Sys2Proof.Machine.execCctlIvd w s
  | .cctlIvi w => Sys2Proof.Machine.execCctlIvi w s
  | .nlease w => Sys2Proof.Machine.execNlease w s
  | .nleaseSt w => Sys2Proof.Machine.execNleaseSt w s
  | .nrel w => Sys2Proof.Machine.execNrel w s
  | .nspl w => Sys2Proof.Machine.execNspl w s
  | .nfil w => Sys2Proof.Machine.execNfil w s
  | .pgmap w => Sys2Proof.Machine.execPgmap w s
  | .pgdone w => Sys2Proof.Machine.execPgdone w s
  | .dld w => Sys2Proof.Machine.execDld w s
  | .dadd w => Sys2Proof.Machine.execDadd w s
  | .dset w => Sys2Proof.Machine.execDset w s
  | .draw w => Sys2Proof.Machine.execDraw w s
  | .steprd w => Sys2Proof.Machine.execSteprd w s
  | .steprdGe w => Sys2Proof.Machine.execSteprdGe w s
  | .steprdPend w => Sys2Proof.Machine.execSteprdPend w s
  | .stepadv w => Sys2Proof.Machine.execStepadv w s
  | .ftset w => Sys2Proof.Machine.execFtset w s
  | .swpreg w => Sys2Proof.Machine.execSwpreg w s
  | .swpregInv w => Sys2Proof.Machine.execSwpregInv w s
  | .swpregThr w => Sys2Proof.Machine.execSwpregThr w s
  | .swpregNow w => Sys2Proof.Machine.execSwpregNow w s
  | .swpstat w => Sys2Proof.Machine.execSwpstat w s
  | .tcfgCfg w => Sys2Proof.Machine.execTcfgCfg w s
  | .tcfgTile w => Sys2Proof.Machine.execTcfgTile w s
  | .tcfgrd w => Sys2Proof.Machine.execTcfgrd w s
  | .wlatch w => Sys2Proof.Machine.execWlatch w s
  | .cbkld w => Sys2Proof.Machine.execCbkld w s
  | .mma w => Sys2Proof.Machine.execMma w s
  | .mmas w => Sys2Proof.Machine.execMmas w s
  | .mmal w => Sys2Proof.Machine.execMmal w s
  | .mmac w => Sys2Proof.Machine.execMmac w s
  | .opfence w => Sys2Proof.Machine.execOpfence w s
  | .accz w => Sys2Proof.Machine.execAccz w s
  | .accrd w => Sys2Proof.Machine.execAccrd w s
  | .accwr w => Sys2Proof.Machine.execAccwr w s
  | .accld w => Sys2Proof.Machine.execAccld w s
  | .accst w => Sys2Proof.Machine.execAccst w s
  | .accprom w => Sys2Proof.Machine.execAccprom w s
  | .drain w => Sys2Proof.Machine.execDrain w s
  | .drainundo w => Sys2Proof.Machine.execDrainundo w s
  | .accstat w => Sys2Proof.Machine.execAccstat w s
  | .bform w => Sys2Proof.Machine.execBform w s
  | .blease w => Sys2Proof.Machine.execBlease w s
  | .brel w => Sys2Proof.Machine.execBrel w s
  | .bstat w => Sys2Proof.Machine.execBstat w s
  | .bsave w => Sys2Proof.Machine.execBsave w s
  | .bresume w => Sys2Proof.Machine.execBresume w s
  | .wslot w => Sys2Proof.Machine.execWslot w s
  | .wslotRd w => Sys2Proof.Machine.execWslotRd w s
  | .bseamQ w => Sys2Proof.Machine.execBseamQ w s
  | .bseamPair w => Sys2Proof.Machine.execBseamPair w s
  | .bseamUn w => Sys2Proof.Machine.execBseamUn w s
  | .tcopy w => Sys2Proof.Machine.execTcopy w s
  | .tcopyG w => Sys2Proof.Machine.execTcopyG w s
  | .tmcast w => Sys2Proof.Machine.execTmcast w s
  | .tqnt w => Sys2Proof.Machine.execTqnt w s
  | .tdq w => Sys2Proof.Machine.execTdq w s
  | .sload w => Sys2Proof.Machine.execSload w s
  | .sstore w => Sys2Proof.Machine.execSstore w s
  | .bpref w => Sys2Proof.Machine.execBpref w s
  | .sgpat w => Sys2Proof.Machine.execSgpat w s
  | .sgpatInv w => Sys2Proof.Machine.execSgpatInv w s
  | .sgstat w => Sys2Proof.Machine.execSgstat w s
  | .tfill w => Sys2Proof.Machine.execTfill w s
  | .ratom w => Sys2Proof.Machine.execRatom w s
  | .qenq w => Sys2Proof.Machine.execQenq w s
  | .qdeq w => Sys2Proof.Machine.execQdeq w s
  | .qpark w => Sys2Proof.Machine.execQpark w s
  | .qstat w => Sys2Proof.Machine.execQstat w s
  | .qinit w => Sys2Proof.Machine.execQinit w s
  | .qinitInv w => Sys2Proof.Machine.execQinitInv w s
  | .cntrd w => Sys2Proof.Machine.execCntrd w s
  | .cntclr w => Sys2Proof.Machine.execCntclr w s
  | .watch w => Sys2Proof.Machine.execWatch w s
  | .watchCancel w => Sys2Proof.Machine.execWatchCancel w s
  | .sflush w => Sys2Proof.Machine.execSflush w s
  | .gres w => Sys2Proof.Machine.execGres w s
  | .gdist w => Sys2Proof.Machine.execGdist w s
  | .tkcfg w => Sys2Proof.Machine.execTkcfg w s
  | .tkins w => Sys2Proof.Machine.execTkins w s
  | .tkmrgWv w => Sys2Proof.Machine.execTkmrgWv w s
  | .tkmrgSt w => Sys2Proof.Machine.execTkmrgSt w s
  | .tkmrgLd w => Sys2Proof.Machine.execTkmrgLd w s
  | .tkrd w => Sys2Proof.Machine.execTkrd w s
  | .tkclr w => Sys2Proof.Machine.execTkclr w s
  | .tkstat w => Sys2Proof.Machine.execTkstat w s
  | .xst w => Sys2Proof.Machine.execXst w s
  | .xbcast w => Sys2Proof.Machine.execXbcast w s
  | .xstep w => Sys2Proof.Machine.execXstep w s
  | .xstat w => Sys2Proof.Machine.execXstat w s
  | .lsend w => Sys2Proof.Machine.execLsend w s
  | .lpoll w => Sys2Proof.Machine.execLpoll w s
  | .lret w => Sys2Proof.Machine.execLret w s
  | .lbufcfgRx w => Sys2Proof.Machine.execLbufcfgRx w s
  | .lbufcfgTx w => Sys2Proof.Machine.execLbufcfgTx w s
  | .lbufcfgOff w => Sys2Proof.Machine.execLbufcfgOff w s
  | .xcnt w => Sys2Proof.Machine.execXcnt w s
  | .plset w => Sys2Proof.Machine.execPlset w s
  | .plgo w => Sys2Proof.Machine.execPlgo w s
  | .plcancel w => Sys2Proof.Machine.execPlcancel w s
  | .plrepeat w => Sys2Proof.Machine.execPlrepeat w s
  | .pldep w => Sys2Proof.Machine.execPldep w s
  | .plstat w => Sys2Proof.Machine.execPlstat w s
  | .llWriteback => Sys2Proof.Machine.execLlWriteback s
  | .commandAccept => Sys2Proof.Machine.execCommandAccept s
  | .storeQueueLeave => Sys2Proof.Machine.execStoreQueueLeave s
  | .weaveEnd => Sys2Proof.Machine.execWeaveEnd s
  | .gangEnd => Sys2Proof.Machine.execGangEnd s
  | .windowFaultDelivery => Sys2Proof.Machine.execWindowFaultDelivery s
  | .tlbWalk => Sys2Proof.Machine.execTlbWalk s
  | .pagerUpcall => Sys2Proof.Machine.execPagerUpcall s
  | .invalidatePage => Sys2Proof.Machine.execInvalidatePage s
  | .invalidateRange => Sys2Proof.Machine.execInvalidateRange s
  | .invalidatePartition => Sys2Proof.Machine.execInvalidatePartition s
  | .invalidationDone => Sys2Proof.Machine.execInvalidationDone s
  | .refusalLogClear => Sys2Proof.Machine.execRefusalLogClear s
  | .registerWrite => Sys2Proof.Machine.execRegisterWrite s
  | .issueCycle => Sys2Proof.Machine.execIssueCycle s
  | .slotTableDeal => Sys2Proof.Machine.execSlotTableDeal s
  | .leaseRevoke => Sys2Proof.Machine.execLeaseRevoke s
  | .matrixOperationExecute => Sys2Proof.Machine.execMatrixOperationExecute s
  | .tcfgEffect => Sys2Proof.Machine.execTcfgEffect s
  | .drainShard => Sys2Proof.Machine.execDrainShard s
  | .bondFormComplete => Sys2Proof.Machine.execBondFormComplete s
  | .roundGrant => Sys2Proof.Machine.execRoundGrant s
  | .roundIssue => Sys2Proof.Machine.execRoundIssue s
  | .roundComplete => Sys2Proof.Machine.execRoundComplete s
  | .operandLinkError => Sys2Proof.Machine.execOperandLinkError s
  | .copyUnit => Sys2Proof.Machine.execCopyUnit s
  | .nvmeCompletion => Sys2Proof.Machine.execNvmeCompletion s
  | .nvmeTimeout => Sys2Proof.Machine.execNvmeTimeout s
  | .gdistCandidate => Sys2Proof.Machine.execGdistCandidate s
  | .sliceReadRequest => Sys2Proof.Machine.execSliceReadRequest s
  | .sliceWriteRequest => Sys2Proof.Machine.execSliceWriteRequest s
  | .sectorFillComplete => Sys2Proof.Machine.execSectorFillComplete s
  | .writeBackDrain => Sys2Proof.Machine.execWriteBackDrain s
  | .provisionalWrite => Sys2Proof.Machine.execProvisionalWrite s
  | .tileCommit => Sys2Proof.Machine.execTileCommit s
  | .tileDiscard => Sys2Proof.Machine.execTileDiscard s
  | .watchFire => Sys2Proof.Machine.execWatchFire s
  | .soloBoundary => Sys2Proof.Machine.execSoloBoundary s
  | .sweepVisit => Sys2Proof.Machine.execSweepVisit s
  | .xstLand => Sys2Proof.Machine.execXstLand s
  | .escapementRelease => Sys2Proof.Machine.execEscapementRelease s
  | .huapolFlitReceive => Sys2Proof.Machine.execHuapolFlitReceive s
  | .linkDown => Sys2Proof.Machine.execLinkDown s
  | .slotFull => Sys2Proof.Machine.execSlotFull s
  | .creditReceive => Sys2Proof.Machine.execCreditReceive s
  | .fullAcknowledgement => Sys2Proof.Machine.execFullAcknowledgement s
  | .discardReport => Sys2Proof.Machine.execDiscardReport s
  | .doorbellKick => Sys2Proof.Machine.execDoorbellKick s
  | .queueMap => Sys2Proof.Machine.execQueueMap s
  | .slotIdleTimeout => Sys2Proof.Machine.execSlotIdleTimeout s
  | .ageTick => Sys2Proof.Machine.execAgeTick s
  | .dispatchStreamChoice => Sys2Proof.Machine.execDispatchStreamChoice s
  | .packetTake => Sys2Proof.Machine.execPacketTake s
  | .directPacket => Sys2Proof.Machine.execDirectPacket s
  | .indirectPacket => Sys2Proof.Machine.execIndirectPacket s
  | .guardedPacket => Sys2Proof.Machine.execGuardedPacket s
  | .signalPacket => Sys2Proof.Machine.execSignalPacket s
  | .watchPacket => Sys2Proof.Machine.execWatchPacket s
  | .barrierPacket => Sys2Proof.Machine.execBarrierPacket s
  | .stitchPacket => Sys2Proof.Machine.execStitchPacket s
  | .dependencyEvaluation => Sys2Proof.Machine.execDependencyEvaluation s
  | .dependencyPoll => Sys2Proof.Machine.execDependencyPoll s
  | .prologueWordLimit => Sys2Proof.Machine.execPrologueWordLimit s
  | .prologueRepeat => Sys2Proof.Machine.execPrologueRepeat s
  | .gangDispatch => Sys2Proof.Machine.execGangDispatch s
  | .launchCompletion => Sys2Proof.Machine.execLaunchCompletion s
  | .tileDecision => Sys2Proof.Machine.execTileDecision s
  | .runLimitExpiry => Sys2Proof.Machine.execRunLimitExpiry s
  | .priorityWaitExpiry => Sys2Proof.Machine.execPriorityWaitExpiry s
  | .drainDeadlineExpiry => Sys2Proof.Machine.execDrainDeadlineExpiry s
  | .preemptTrap => Sys2Proof.Machine.execPreemptTrap s
  | .launchResume => Sys2Proof.Machine.execLaunchResume s
  | .commandLinkMessage => Sys2Proof.Machine.execCommandLinkMessage s
  | .commandLinkError => Sys2Proof.Machine.execCommandLinkError s
  | .syscNull => Sys2Proof.Machine.execSyscNull s
  | .syscSaveDone => Sys2Proof.Machine.execSyscSaveDone s
  | .syscPartitionInfo => Sys2Proof.Machine.execSyscPartitionInfo s
  | .syscTime => Sys2Proof.Machine.execSyscTime s
  | .syscLog => Sys2Proof.Machine.execSyscLog s
  | .pcreate => Sys2Proof.Machine.execPcreate s
  | .pdestroy => Sys2Proof.Machine.execPdestroy s
  | .psuspend => Sys2Proof.Machine.execPsuspend s
  | .presume => Sys2Proof.Machine.execPresume s
  | .storset => Sys2Proof.Machine.execStorset s
  | .imgwrite => Sys2Proof.Machine.execImgwrite s
  | .attest => Sys2Proof.Machine.execAttest s
  | .provision => Sys2Proof.Machine.execProvision s
  | .reset => Sys2Proof.Machine.execReset s
  | .fullServiceSwitch => Sys2Proof.Machine.execFullServiceSwitch s
  | .thermalHold => Sys2Proof.Machine.execThermalHold s
  | .thermalRelease => Sys2Proof.Machine.execThermalRelease s
  | .thermalTrip => Sys2Proof.Machine.execThermalTrip s
  | .securityAlarm => Sys2Proof.Machine.execSecurityAlarm s
  | .correctedError => Sys2Proof.Machine.execCorrectedError s
  | .uncorrectableError => Sys2Proof.Machine.execUncorrectableError s
  | .scratchpadBankGate => Sys2Proof.Machine.execScratchpadBankGate s
  | .scratchpadBankWake => Sys2Proof.Machine.execScratchpadBankWake s
  | .l2WayGate => Sys2Proof.Machine.execL2WayGate s
  | .l2WayWake => Sys2Proof.Machine.execL2WayWake s
  | .matrixCommandUnit => Sys2Proof.Machine.execMatrixCommandUnit s
  | .tkmrgResolve => Sys2Proof.Machine.execTkmrgResolve s
  | .lsendDeparture => Sys2Proof.Machine.execLsendDeparture s

end Sys2Proof.Machine
end

