-- ==== Sys2Proof/Machine/Schedule.lean ====
section
/-! DEFINITION. The machine's own plan of its next cycle: the clock, the cores' issue cycles, and the events of engines,
front end and firmware that are due (notes/assumptions/1.md). Each event's meaning checks its own condition again. -/

namespace Sys2Proof.Machine

open Sys2Proof

/-- Global cycles in a microsecond (R13, R438). -/
def State.cyclesPerUs (s : State) : Nat := if s.status.svc = 2 then 1750 else 875

/-- The clock advances by a cycle; at a period's start the written slot tables take effect (R31). -/
def State.tick (s : State) : State :=
  let s := { s with clk := s.clk + 1 }
  let s := if s.clk.toNat % s.cyclesPerUs = 0 then { s with us := s.us + 1 } else s
  if s.clk.toNat % 16 = 0 then
    { s with cores := s.cores.mapVals fun _ c => { c with tabs := c.tabs.mapVals fun _ t => match t.next with
        | some n => { ents := n, next := none }
        | none => t } }
  else s

/-- An event with up to three arguments. -/
def due (i : Instr) (a : Nat) : Agendum := { what := i, args := { a := a } }
def due2 (i : Instr) (a b : Nat) : Agendum := { what := i, args := { a := a, b := b } }
def due3 (i : Instr) (a b c : Nat) : Agendum := { what := i, args := { a := a, b := b, c := c } }

/-- The cycle starts a microsecond. -/
def State.atUs (s : State) : Bool := s.clk.toNat % s.cyclesPerUs == 0

/-- What is due at a core: its issue cycle, and banks that wake. -/
def State.coreEvents (s : State) : List Agendum :=
  (((s.gangs.filter fun e => !e.2.ended).map fun e => e.2.core).dedup.map (due .issueCycle)) ++
  s.cores.flatMap fun e => ((List.range 8).filter fun b => e.2.waking.getLsbD b).map (due2 .scratchpadBankWake e.1)

/-- The service that a held lane waits for. -/
def serviceEvent (n : Half) : Option Instr :=
  match n.toNat with
  | 0 => some .syscNull
  | 1 => some .syscSaveDone
  | 0x10 => some .syscPartitionInfo
  | 0x11 => some .syscTime
  | 0x20 => some .syscLog
  | _ => none

/-- The firmware services that a weave's lanes wait for, a reply to each request, and the end of a save that is under way. -/
def Weave.services (w : Weave) : List Instr :=
  ((w.syscs.filter fun q => w.waiting q != 0).filterMap fun q => serviceEvent q.service) ++
  if w.lanes.any fun e => e.2.hold == some .saved then [.syscSaveDone] else []

/-- What is due at a weave. -/
def weaveEvents (wk : Nat) (w : Weave) : List Agendum :=
  (List.replicate (w.ll.filter (·.ready)).length (due2 .llWriteback wk 0)) ++
  (if w.sq.isEmpty then [] else [due .storeQueueLeave wk]) ++
  (if w.win.isEmpty then [] else [due .windowFaultDelivery wk]) ++
  (if w.lease.state == .neighbour && w.lease.tickets.isEmpty && (w.preempt || w.lease.pushing) then [due .leaseRevoke wk] else []) ++
  w.services.map (fun i => due i wk) ++
  if !w.ended && w.liveMask == 0 && w.sq.isEmpty then [due .weaveEnd wk] else []

/-- What is due of an asynchronous operation. -/
def State.opEvents (s : State) (r : Nat) (o : AsyncOp) : List Agendum :=
  if o.stopped || o.paused then []
  else if !o.begun then [due .commandAccept r]
  else match o.engine with
    | .mx | .bc => [due .tcfgEffect r, due .matrixOperationExecute r, due .matrixCommandUnit r, due .drainShard r]
    | .ce => due .copyUnit r ::
        ((o.cmds.zipIdx.filter fun e => e.1.status.isNone && decide (e.1.since.toNat + 4000000 ≤ s.us.toNat)).map
          fun e => due2 .nvmeTimeout r e.2)
    | .nne => if isTkmrg o.instr then [due .tkmrgResolve r] else [due .gdistCandidate r]
    | .xe => if o.channel.isSome then [due .lsendDeparture r] else []
    | _ => []

/-- What is due at a bond: forming, the grants of the armed round, its issue, and the oldest round in flight. -/
def bondEvents (bk : Nat) (b : Bond) : List Agendum :=
  (if b.state == .forming then [due .bondFormComplete bk] else []) ++
  (if b.armed.isSome then (List.range b.members.length).map (due2 .roundGrant bk) ++ [due .roundIssue bk] else []) ++
  if b.flight.isEmpty then [] else [due .roundComplete bk]

/-- The landings that are due in a region: those before one have taken their places in the list. -/
def landings (now p n : Nat) (fl : List XDatum) : List Agendum :=
  ((fl.zipIdx.filter fun e => decide (e.1.due ≤ now)).zipIdx).map fun e => due3 .xstLand p n (e.1.2 - e.2)

/-- What is due at a partition: landings and releases, boundaries and sweeps, its front end. -/
def State.partEvents (s : State) (p : Nat) (x : Partition) : List Agendum :=
  (x.regions.flatMap fun (e : Nat × Region) =>
    landings s.clk.toNat p e.1 e.2.flight ++ if e.2.launch.isSome then [due2 .escapementRelease p e.1] else []) ++
  (if x.solo && x.regions.isEmpty then [due .soloBoundary p] else []) ++
  ((x.stamp.regs.filter fun (e : Nat × Sweep) => e.2.sw).map fun e => due2 .sweepVisit p e.1) ++
  (if x.trans.busy then [due .invalidationDone p] else []) ++
  (if x.stream.isNone && !(s.readyLaunches p).isEmpty then [due .dispatchStreamChoice p] else []) ++
  (x.preempts.filter fun o => !o.expired && decide (x.ctl.ddl ≤ (s.us - o.since).toNat)).map fun o => due2 .drainDeadlineExpiry p o.queue

/-- The revocations of leases in whose lenders a gang would find its registers (R233). -/
def State.revokeFor (s : State) (l g : Nat) : List Agendum :=
  let t := { s with weaves := s.weaves.mapVals fun _ w => { w with lease := {} } }
  let cs := t.coresFor l g
  (s.weaves.filter fun e => e.2.lease.state == .neighbour && e.2.lease.tickets.isEmpty && cs.contains e.2.lease.lender).map
    fun e => due .leaseRevoke e.1

/-- The dispatch of a launch's next gang; where it may stand on several cores, the one it takes is free. -/
def State.dispatchEvents (s : State) (l : Nat) (pick : Nat) : List Agendum :=
  match s.dispatches l with
  | none => []
  | some (g, _) =>
    if (s.launch l).region.isSome then [due3 .gangDispatch l g 0]
    else
      let cs := s.coresFor l g
      match cs with
      | [] => s.revokeFor l g
      | [c] => [due3 .gangDispatch l g c]
      | _ => [due3 .gangDispatch l g (cs.getD (Config.freeNat pick % cs.length) 0)]

/-- What is due of a launch. -/
def State.launchEvents (s : State) (l : Nat) (x : Launch) (pick : Nat) : List Agendum :=
  let poll := s.atUs && x.state == 1 && x.depTickets.isEmpty
  (if decide (x.state ≤ 1) || (x.state == 3 && !s.inPrologue l) then [due (packetEvent x.typ) l] else []) ++
  (if poll then (List.range (min 4 x.depn)).map (due2 .dependencyPoll l) else []) ++
  s.dispatchEvents l pick ++
  (x.tiles.filter fun (e : Nat × Tile) => e.2.live).map (fun e => due2 .tileDecision l e.1) ++
  (if x.state == 6 then [due .launchResume l] else []) ++
  (if s.waitedOut l then [due .priorityWaitExpiry l] else []) ++
  (if x.state == 5 && (s.part x.part).ctl.runlim != 0 then [due .runLimitExpiry l] else []) ++
  if s.runOver l then [due .prologueRepeat l, due .launchCompletion l] else []

/-- What is due of a gang. -/
def State.gangEvents (s : State) (gk : Nat) : List Agendum :=
  (if s.ordered gk then [due .preemptTrap gk] else []) ++
  if (s.weavesOf gk).all fun wk => (s.weave wk).ended then [due .gangEnd gk] else []

/-- What is due at a slice. -/
def sliceEvents (n : Nat) (x : Slice) : List Agendum :=
  x.miss.map (fun m => due2 .sectorFillComplete n m.line) ++ (if x.wb.isEmpty then [] else [due .writeBackDrain n]) ++
  ((List.range 16).filter fun w => x.waking.getLsbD w).map (due2 .l2WayWake n)

/-- The received slots of a port whose last bytes have arrived. -/
def portEvents (n : Nat) (x : Port) : List Agendum :=
  x.rx.flatMap fun (e : Nat × RxBuf) => ((List.range 16).filter fun k => e.2.lastSeen.getLsbD k).map fun k => due3 .slotFull n e.1 k

/-- What is due at the front end: pending queues, in the order of their first kicks (R400), and the slots. -/
def State.slotEvents (s : State) : List Agendum :=
  ((s.pendingOrder.filter fun y => y.tickets.isEmpty).map fun y => due2 .queueMap y.part y.queue) ++
  s.slots.flatMap fun e => match e.2 with
    | some x => (if s.canTake x then [due .packetTake e.1] else []) ++ if x.state == .idle then [due .slotIdleTimeout e.1] else []
    | none => []

/-- What is due for the whole module: ages every 10 µs (R403), watches that have fired, page faults to report, dependency
words found met, and the commands of the firmware complex that go on. -/
def State.moduleEvents (s : State) : List Agendum :=
  (if s.atUs && s.us.toNat % 10 == 0 then [due .ageTick 0] else []) ++
  ((s.watches.filter fun e => e.2.fired).map fun e => due .watchFire e.1) ++
  ((s.tickets.filter fun e => !e.2.sent).map fun e => due .pagerUpcall e.1) ++
  ((s.deps.filter (·.met)).map fun d => due2 .dependencyEvaluation d.launch d.dep) ++
  (if s.mailbox.go && s.mailbox.cmd == 3 then [due .psuspend 0] else []) ++
  if s.status.svc == 1 && s.allDies then [due .fullServiceSwitch 0] else []

/-- The events that are due; `pick` numbers the free values that the choices of cores take, one for each launch. -/
def State.candidates (s : State) (pick : Nat) : List Agendum :=
  s.moduleEvents ++ s.coreEvents ++ s.weaves.flatMap (fun e => weaveEvents e.1 e.2) ++ s.ops.flatMap (fun e => s.opEvents e.1 e.2) ++
  s.bonds.flatMap (fun e => bondEvents e.1 e.2) ++ s.parts.flatMap (fun e => s.partEvents e.1 e.2) ++
  s.gangs.flatMap (fun e => s.gangEvents e.1) ++ s.launches.zipIdx.flatMap (fun e => s.launchEvents e.1.1 e.1.2 (pick + e.2)) ++
  s.slices.flatMap (fun e => sliceEvents e.1 e.2) ++ s.ports.flatMap (fun e => portEvents e.1 e.2) ++ s.slotEvents

/-- The prologues that can run a word. -/
def State.prologueWords (s : State) : List Actor :=
  (s.parts.filter fun e => match e.2.prologue with
    | some x => x.tickets.isEmpty
    | none => false).map fun e => .prologue e.1

/-- The next cycle: the prologues that can run a word, and the events that are due; none without the core rails (R437). -/
def State.plan (s : State) : State :=
  let s := s.tick
  if s.tripped || !s.rails then s
  else
    let (n, t) := s.takeFree s.launches.length
    { t with issue := s.prologueWords, agenda := s.candidates n }

end Sys2Proof.Machine
end

