-- ==== Sys2Proof/Machine/Step.lean ====
section
/-! DEFINITION. One step of the machine: the next word of the issue cycle in hand, else the next event of the agenda, else
the plan of the next cycle. -/

namespace Sys2Proof.Machine

open Sys2Proof

/-- One step. -/
def step (s : State) : Host.Outcome State Fault Refusal :=
  match s.issue with
  | .weave slot :: rest =>
    match State.fetchSlot { s with issue := rest, cur := some (.weave slot), ev := {} } slot with
    | (s, some i) => exec i s
    | (s, none) => .next s
  | .prologue p :: rest =>
    match State.fetchPrologue { s with issue := rest, cur := some (.prologue p), ev := {} } p with
    | (s, some i) => exec i s
    | (s, none) => .next s
  | [] =>
    match s.agenda with
    | x :: rest => exec x.what { s with agenda := rest, cur := none, ev := x.args }
    | [] => .next s.plan

/-- The state with a word placed where `step` fetches next: a weave of 32 live lanes stands at the first word of a
one-word clause, in a partition whose one page is identity-mapped; a prologue opcode stands at partition 0's prologue
sequencer instead (notes/assumptions/9.md). -/
def State.withFetchWord (s : State) (_nbits w : Nat) : State :=
  let row : AccRow := { ranges := [(0, { v := true, base := 0, limit := hbmEnd, rights := 7 })] }
  let pte (pfn fl : Nat) : List Byte := bytesOf 8 (pfn * 4096 + fl)
  let mem := memWrite (memWrite (memWrite s.mem 0x1000 (pte 2 1)) 0x2000 (pte 3 1)) 0x3000 (pte 0 0x7F)
  let mem := memWrite mem 0x10000 (bytesOf 8 0xE700000000000001 ++ bytesOf 8 w)
  let launch : Launch := { packet := [(2, 0x0000040000200001#64)], orig := [], state := 4 }
  let gang : Gang := { launch := 1, kaddr := 0x10000, weaves := 1, vreg := 320, sreg := 64, preg := 16, hreg := 16, accr := 512, treg := 8, spb := 16, cohort := 1 }
  let weave : Weave :=
    { gang := 1
      clauses := [(1, { hdr := 0x10000, len := 1 })]
      nextId := 2
      lanes := (List.range 32).map fun l => (l, { pc := 0x10008, clause := 1, gen := 1 }) }
  let pro : Prologue := { launch := 1, pc := 0x10008, hdr := false, clause := 0x10000, len := 1 }
  let opc := bits w 61 52
  let isPro := decide (0x380 ≤ opc) && decide (opc < 0x390)
  { s with
    mem := mem
    status := { s.status with dies := 0xF, svc := 2 }
    acc := (List.range 136).foldl (fun t i => Table.insert t i { rows := [(0, row), (5, row), (6, row)] }) s.acc
    parts := Table.insert s.parts 0 { ctl := { act := true }, trans := { en := true, ptroot := 1 }, prologue := if isPro then some pro else none }
    launches := Table.insert s.launches 1 launch
    cohorts := Table.insert s.cohorts 1 { launch := 1, gangs := [(0, 1)] }
    gangs := Table.insert s.gangs 1 gang
    weaves := Table.insert s.weaves 16 weave
    nextKey := max s.nextKey 2
    issue := if isPro then [.prologue 0] else [.weave { wk := 16, pc := 0x10008, lanes := 0xFFFFFFFF }]
    agenda := [] }

end Sys2Proof.Machine
end

