-- ==== Sys2Proof/Safety.lean ====
section
/-! DEFINITION. What claims are stated in: the machine's invariants, a word in hand, what a word leaves in registers
and lanes, and what it keeps. -/

namespace Sys2Proof.Machine

open Sys2Proof

/-- The memories are in their canonical form. -/
def State.memOk (s : State) : Prop := Memory.wf s.mem = true ∧ Memory.wf s.hostMem = true

/-- A step that neither faults nor is refused. -/
def State.runs (s : State) : Prop := ∃ t, step s = .next t

/-! ### A word in hand -/

/-- A word is in hand for lanes of a weave, with its context. -/
def State.inHand (s : State) (k : Ctx) : Prop :=
  ∃ i, s.cur = some (.weave i) ∧ (s.weaves.find i.wk).isSome = true ∧ s.ctxOf i = k

/-- A word as it issues: the state, the context, what it reads, the lanes that execute it, and the state in which its own
effect begins. -/
structure Issue where
  s : State
  k : Ctx
  e : Env
  act : BitVec 32
  b : State

/-- A word with a gate, as it issues. -/
def State.issueOf (s : State) (k : Ctx) (g : Gate) : Issue :=
  { s := s, k := k, e := s.env k (s.acting k g), act := s.acting k g
    b := s.begun k g (s.env k (s.acting k g)) (s.acting k g) }

/-- Every state in which the word is in hand, every check of R86 passes and `ok` holds answers a next state with
`post`. -/
def Runs (i : Instr) (gate : State → Ctx → Gate) (ok : Issue → Prop) (post : Issue → State → Prop) : Prop :=
  ∀ s k, s.inHand k → s.passes k (gate s k) = true → ok (s.issueOf k (gate s k)) →
    ∃ t, exec i s = .next t ∧ post (s.issueOf k (gate s k)) t

/-- What lane `l` reads from an operand, `slot` numbering the sources; SRCA, SRCB and source C of an F3 word. -/
def Issue.rd (x : Issue) (slot : Nat) (o : Operand) (l : Nat) : Word := x.e.rd x.s.ops slot o l
def Issue.a3 (x : Issue) (w : F3) (l : Nat) : Word := x.e.a3 x.s.ops w l
def Issue.b3 (x : Issue) (w : F3) (c : Bool) (l : Nat) : Word := x.e.b3 x.s.ops w c l
def Issue.c3 (x : Issue) (w : F3) (l : Nat) : Word := x.e.c3 x.s.ops w l

/-- The weave and the gang of the word, before it. -/
def Issue.w (x : Issue) : Weave := x.s.weave x.k.wk
def Issue.g (x : Issue) : Gang := x.s.gang x.k.gk

/-- The weave once the word's clause has started, if the word is its first: the clause's flags are set (R64). -/
def Issue.started (x : Issue) : Weave := (x.s.starts x.k).weave x.k.wk

/-- A word in hand of a prologue sequencer. -/
def State.atPrologue (s : State) (p : Nat) (x : Prologue) : Prop :=
  s.cur = some (.prologue p) ∧ (s.part p).prologue = some x

/-- The event in hand: no word, and its arguments. -/
def State.event (s : State) (a : EvArgs) : Prop := s.cur = none ∧ s.ev = a

/-- No condition beyond the gate. -/
def always (_ : Issue) : Prop := True

/-- Some lane that is not a helper executes the word. -/
abbrev someLane (x : Issue) : Prop := x.act &&& ~~~x.k.helpers ≠ 0

/-! ### What a word leaves -/

/-- What a register, predicate or writable special holds for a lane. -/
def Weave.kept (w : Weave) (o : Operand) (l : Nat) : Word :=
  match o with
  | .v i => w.vget i.val l
  | .s i => w.sget i.val
  | .p i => if (w.lane l).preds.getLsbD i.val then 1 else 0
  | .special .sdlo => (w.lane l).gen &&& 0xFFFF#32
  | .special .sdhi => (w.lane l).gen >>> 16
  | .special .mr => (w.lane l).mr
  | .special .faultPcLo => loWord (w.lane l).faultPc
  | .special .faultPcHi => hiWord (w.lane l).faultPc
  | .special .fpsw => w.fpsw
  | _ => 0

/-- What a destination holds once a value is written to it (R73, R74): a predicate its bit 0, the generator halves 16
bits, mr a multiple of 8 or all ones, fpsw 5 bits, `zero` nothing. -/
def keptForm (o : Operand) (v : Word) : Word :=
  match o with
  | .v _ => v
  | .s _ => v
  | .p i => if i.val = 0 then 1 else if v.getLsbD 0 then 1 else 0
  | .special .sdlo => v &&& 0xFFFF#32
  | .special .sdhi => v &&& 0xFFFF#32
  | .special .mr => if v = 0xFFFFFFFF#32 then v else v &&& 0xFFFFFFF8#32
  | .special .faultPcLo => v
  | .special .faultPcHi => v
  | .special .fpsw => v &&& 0x1F#32
  | _ => 0

/-- The lowest lane of a mask. -/
def lowest (m : BitVec 32) : Nat := (lanesOf m).headD 0

/-- A destination holds a value for every lane of a mask, or, where it is uniform and the mask is not empty, the one of
the lowest lane. -/
def Weave.took (w : Weave) (o : Operand) (m : BitVec 32) (f : Nat → Word) : Prop :=
  if perLane o then ∀ l, l < 32 → m.getLsbD l = true → w.kept o l = keptForm o (f l)
  else m ≠ 0 → w.kept o 0 = keptForm o (f (lowest m))

/-- Lanes stand past the word: at the next word, or at the next clause's header after the last one (R61). -/
def State.past (t : State) (k : Ctx) (m : BitVec 32) : Prop :=
  ∀ l, l < 32 → m.getLsbD l = true →
    ((t.weave k.wk).lane l).pc = (if k.last then k.next else k.pc + 8) ∧ ((t.weave k.wk).lane l).hdr = k.last ∧
    ((t.weave k.wk).lane l).hold = none

/-- Lanes stand at a header, each at its own target. -/
def State.wentTo (t : State) (k : Ctx) (m : BitVec 32) (target : Nat → Dbl) : Prop :=
  ∀ l, l < 32 → m.getLsbD l = true →
    ((t.weave k.wk).lane l).pc = target l ∧ ((t.weave k.wk).lane l).hdr = true ∧ ((t.weave k.wk).lane l).hold = none

/-- Lanes wait at the word for an event. -/
def State.waitsAt (s t : State) (k : Ctx) (m : BitVec 32) (h : Hold) : Prop :=
  ∀ l, l < 32 → m.getLsbD l = true →
    ((t.weave k.wk).lane l).pc = ((s.weave k.wk).lane l).pc ∧ ((t.weave k.wk).lane l).hold = some h

/-- What of a lane neither a register write nor going on changes: clause, status, parking, mode and return stack. -/
def Lane.rest (x : Lane) : Lane :=
  { x with pc := 0, hdr := false, waited := false, met := false, hold := none, preds := 0, mr := 0, gen := 0, faultPc := 0 }

/-- What of a weave a register write, a latch and going on do not change: handles, flags, clauses, fault registers,
leases, the ranked list. -/
def Weave.rest (w : Weave) : Weave :=
  { w with vregs := [], sregs := [], lanes := [], fpsw := 0, hold := [], reuse := none, ll := [], clkHi := none, stepHi := none,
           sq := w.sq.map fun e => { e with mask := 0 } }

/-- The same without what issuing a long-latency result changes: the clause's bindings and the number of the result. -/
def Weave.restLL (w : Weave) : Weave := { w.rest with clauses := [], nextId := 0 }

/-- Registers and lanes: every destination but those of `ds` holds what it held, and a lane that is not in the word's
set is as it was; `r` is what else of the weave must stay. -/
def Weave.keepsBy (r : Weave → Weave) (w x : Weave) (k : Ctx) (ds : List Operand) : Prop :=
  r x = r w ∧
  (∀ o l, l < 32 → o ∉ ds → x.kept o l = w.kept o l) ∧
  (∀ l, (x.lane l).rest = (w.lane l).rest) ∧
  (∀ l, l < 32 → k.lanes.getLsbD l = false → (x.lane l).pc = (w.lane l).pc ∧ (x.lane l).hold = (w.lane l).hold)

abbrev Weave.keeps (w x : Weave) (k : Ctx) (ds : List Operand) : Prop := Weave.keepsBy Weave.rest w x k ds

/-- The frame of a word that writes the destinations `ds` and nothing else: outside its weave only the counter of free
values, lines cached in a core and the turn of its core's issue port may differ; every byte of memory reads as before; the
first word of a clause starts it, which sets the clause's flags (R64). -/
def State.frameBy (r : Weave → Weave) (s t : State) (k : Ctx) (ds : List Operand) : Prop :=
  ({ t with weaves := s.weaves, free := s.free, cores := s.cores } : State) = s ∧
  (∀ j, j ≠ k.wk → t.weaves.find j = s.weaves.find j) ∧
  (∀ a, Table.get 0 t.mem a = Table.get 0 s.mem a) ∧
  Weave.keepsBy r ((s.starts k).weave k.wk) (t.weave k.wk) k ds

abbrev State.frame (s t : State) (k : Ctx) (ds : List Operand) : Prop := s.frameBy Weave.rest t k ds

/-- A word that writes one destination: the value of each lane of `active`, every lane of the set past the word, and
nothing else. -/
def Issue.writes (x : Issue) (t : State) (o : Operand) (f : Nat → Word) : Prop :=
  (t.weave x.k.wk).took o x.act f ∧ t.past x.k x.k.lanes ∧ x.s.frame t x.k [o]

end Sys2Proof.Machine
end

