-- ==== Sys2Proof/Claims.lean ====
section
/-! DEFINITION. What the statements for the provers are made of: forms of instructions with their gates and the results
that the spec gives, written apart from the meanings. -/

namespace Sys2Proof.Machine

open Sys2Proof

/-! ### What integer results are, in plain arithmetic -/

/-- The integer that a word stands for, unsigned or signed. -/
def asInt (u : Bool) (a : Word) : Int := if u then a.toNat else a.toInt
/-- An exact integer as a word: wrapped, or clamped to the range. -/
def ofExact (u sat : Bool) (x : Int) : Word :=
  if sat then BitVec.ofInt 32 (if u then max 0 (min x (2 ^ 32 - 1)) else max (-2 ^ 31) (min x (2 ^ 31 - 1)))
  else BitVec.ofInt 32 x
/-- The first bit of 32 that a test picks, 32 where it picks none. -/
def firstBit (f : Nat → Bool) : Word := BitVec.ofNat 32 ((List.range 32).findIdx f)
/-- A field of `n` bits, sign-extended. -/
def signedField (n f : Nat) : Word := BitVec.ofInt 32 (if f < 2 ^ (n - 1) then (f : Int) else (f : Int) - 2 ^ n)
/-- BFE of R168 on a position and a width. -/
def fieldOf (u : Bool) (a : Word) (p n : Nat) : Word :=
  if n = 0 ∨ 32 ≤ p then 0
  else if u then BitVec.ofNat 32 (a.toNat / 2 ^ p % 2 ^ min n (32 - p))
  else signedField (min n (32 - p)) (a.toNat / 2 ^ p % 2 ^ min n (32 - p))
/-- An order of R169's conditions. -/
def holdsCond (c : Nat) (a b : Int) : Bool :=
  match c with
  | 0 => decide (a = b) | 1 => decide (a ≠ b) | 2 => decide (a < b) | 3 => decide (a ≤ b) | 4 => decide (b < a) | _ => decide (b ≤ a)
/-- A truth value as a word. -/
def truth (b : Bool) : Word := if b then 1 else 0

/-- A three-operand integer word, its gate, and its result as arithmetic. -/
structure IntForm where
  i : Instr
  gate : State → Ctx → Gate
  w : F3
  /-- It has a source C. -/
  c : Bool := false
  val : Word → Word → Word → Word

/-- The gate of an integer word of two sources; `mods` is the legality of MODS. -/
def int2 (w : F3) (mods : Bool) : State → Ctx → Gate := fun s k => laGate (s.gang k.gk) w isDest isSource isSource none true mods true
/-- Of one source. -/
def int1 (w : F3) (mods : Bool) : State → Ctx → Gate := fun s k => laGate (s.gang k.gk) w isDest isUnused isSource none true mods true
/-- Of three. -/
def int3 (w : F3) (c : Operand → Bool) (mods : Bool) : State → Ctx → Gate := fun s k =>
  laGate (s.gang k.gk) w isDest isSource isSource (some c) false mods true

/-- The arithmetic of R167, R170 and R172. -/
def arithmeticForms (w : F3) : List IntForm :=
  let m := w.mods
  let u := m.getLsbD 3
  let sat := m.getLsbD 2
  [ { i := .iadd w, w := w, gate := int2 w (modsIn m 0b01100 && (!u || sat)), val := fun a b _ => ofExact u sat (asInt u a + asInt u b) },
    { i := .isub w, w := w, gate := int2 w (modsIn m 0b01100 && (!u || sat)), val := fun a b _ => ofExact u sat (asInt u a - asInt u b) },
    { i := .imul w, w := w, gate := int2 w (m == 0), val := fun a b _ => BitVec.ofNat 32 (a.toNat * b.toNat) },
    { i := .imulh w, w := w, gate := int2 w (modsIn m 0b01000), val := fun a b _ => BitVec.ofInt 32 (asInt u a * asInt u b / 2 ^ 32) },
    { i := .imad w, w := w, c := true, gate := int3 w isSource (m == 0), val := fun a b c => BitVec.ofNat 32 (a.toNat * b.toNat + c.toNat) },
    { i := .iabs w, w := w, gate := int1 w (modsIn m 0b00100), val := fun _ b _ => ofExact false sat (if b.toInt < 0 then -b.toInt else b.toInt) },
    { i := .ineg w, w := w, gate := int1 w (modsIn m 0b00100), val := fun _ b _ => ofExact false sat (-b.toInt) },
    { i := .imin w, w := w, gate := int2 w (modsIn m 0b01000), val := fun a b _ => BitVec.ofInt 32 (min (asInt u a) (asInt u b)) },
    { i := .imax w, w := w, gate := int2 w (modsIn m 0b01000), val := fun a b _ => BitVec.ofInt 32 (max (asInt u a) (asInt u b)) },
    { i := .lea w, w := w, c := true, gate := int3 w isSource (m == 0), val := fun a b c => BitVec.ofNat 32 (a.toNat + b.toNat * 2 ^ (c.toNat % 32)) },
    { i := .idp4 w, w := w, c := true, gate := int3 w isSource (modsIn m 0b00111), val := fun a b c =>
        ofExact false sat (c.toInt + ((List.range 4).map fun j =>
          byteInt (m.getLsbD 0) a j * byteInt (m.getLsbD 1) b j).sum) } ]

/-- The logic, shifts, bit fields and moves of R167 and R168. -/
def logicForms (w : F3) : List IntForm :=
  let m := w.mods
  let u := m.getLsbD 3
  [ { i := .and w, w := w, gate := int2 w (m == 0), val := fun a b _ => maskOf fun j => a.getLsbD j && b.getLsbD j },
    { i := .or w, w := w, gate := int2 w (m == 0), val := fun a b _ => maskOf fun j => a.getLsbD j || b.getLsbD j },
    { i := .xor w, w := w, gate := int2 w (m == 0), val := fun a b _ => maskOf fun j => a.getLsbD j != b.getLsbD j },
    { i := .not w, w := w, gate := int1 w (m == 0), val := fun _ b _ => maskOf fun j => !b.getLsbD j },
    { i := .andn w, w := w, gate := int2 w (m == 0), val := fun a b _ => maskOf fun j => a.getLsbD j && !b.getLsbD j },
    { i := .shl w, w := w, gate := int2 w (m == 0), val := fun a n _ => BitVec.ofNat 32 (a.toNat * 2 ^ min n.toNat 32) },
    { i := .shr w, w := w, gate := int2 w (modsIn m 0b01000), val := fun a n _ => BitVec.ofInt 32 (asInt u a / 2 ^ min n.toNat 32) },
    { i := .rot w, w := w, gate := int2 w (modsIn m 0b00001), val := fun a n _ => maskOf fun j =>
        a.getLsbD ((if m.getLsbD 0 then j + n.toNat % 32 else j + 32 - n.toNat % 32) % 32) },
    { i := .bfe w, w := w, c := true, gate := int3 w isSource (modsIn m 0b01000), val := fun a b c => fieldOf u a (b.toNat % 256) (c.toNat % 256) },
    { i := .bfi w, w := w, c := true, gate := int3 w isSource (m == 0), val := fun a b c => maskOf fun j =>
        if c.toNat % 256 ≤ j ∧ j < c.toNat % 256 + c.toNat / 256 % 256 then a.getLsbD (j - c.toNat % 256) else b.getLsbD j },
    { i := .popc w, w := w, gate := int1 w (m == 0), val := fun _ b _ => BitVec.ofNat 32 ((List.range 32).countP fun j => b.getLsbD j) },
    { i := .clz w, w := w, gate := int1 w (m == 0), val := fun _ b _ => firstBit fun j => b.getLsbD (31 - j) },
    { i := .ctz w, w := w, gate := int1 w (m == 0), val := fun _ b _ => firstBit fun j => b.getLsbD j },
    { i := .brev w, w := w, gate := int1 w (m == 0), val := fun _ b _ => maskOf fun j => b.getLsbD (31 - j) },
    { i := .isel w, w := w, c := true, gate := int3 w isP (m == 0), val := fun a b c => if c.getLsbD 0 then a else b },
    { i := .mov w, w := w, gate := int1 w (m == 0), val := fun _ b _ => b } ]

/-- The predicate writers of R169. -/
def predicateForms (w : F3) : List IntForm :=
  let m := w.mods
  let logic : State → Ctx → Gate := fun s k => laGate (s.gang k.gk) w isPredDest isP isP none false (modsIn m 0b00011) true
  let pa (a : Word) : Bool := a.getLsbD 0 != m.getLsbD 0
  let pb (b : Word) : Bool := b.getLsbD 0 != m.getLsbD 1
  [ { i := .icmp w, w := w, gate := fun s k => laGate (s.gang k.gk) w isPredDest isSource isSource none true
        (modsIn m 0b01111 && decide ((m.extractLsb' 0 3).toNat < 6)) true,
      val := fun a b _ => truth (holdsCond (m.extractLsb' 0 3).toNat (asInt (m.getLsbD 3) a) (asInt (m.getLsbD 3) b)) },
    { i := .pand w, w := w, gate := logic, val := fun a b _ => truth (pa a && pb b) },
    { i := .por w, w := w, gate := logic, val := fun a b _ => truth (pa a || pb b) },
    { i := .pxor w, w := w, gate := logic, val := fun a b _ => truth (pa a != pb b) } ]

/-- An integer word with an immediate: its gate's legality of MODS, the immediate, and its result. -/
structure ImmForm where
  i : Instr
  dst : Operand → Bool := isDest
  a : Operand → Bool := isSource
  mods : Bool
  val : Word → Word

/-- IMM extended as MODS[4] says (R68). -/
def immOf (w : FI) : Word := if w.mods.getLsbD 4 then BitVec.ofNat 32 w.imm.toNat else BitVec.ofInt 32 w.imm.toInt

/-- The FI forms of the integer instructions (R164, R167 to R170). -/
def immediateForms (w : FI) : List ImmForm :=
  let m := w.mods
  let u := m.getLsbD 3
  let sat := m.getLsbD 2
  let b := immOf w
  let z := modsIn m 0b10000
  [ { i := .iaddFi w, mods := modsIn m 0b11100 && (!u || sat), val := fun a => ofExact u sat (asInt u a + asInt u b) },
    { i := .isubFi w, mods := modsIn m 0b11100 && (!u || sat), val := fun a => ofExact u sat (asInt u a - asInt u b) },
    { i := .imulFi w, mods := z, val := fun a => BitVec.ofNat 32 (a.toNat * b.toNat) },
    { i := .iminFi w, mods := modsIn m 0b11000, val := fun a => BitVec.ofInt 32 (min (asInt u a) (asInt u b)) },
    { i := .imaxFi w, mods := modsIn m 0b11000, val := fun a => BitVec.ofInt 32 (max (asInt u a) (asInt u b)) },
    { i := .andFi w, mods := z, val := fun a => maskOf fun j => a.getLsbD j && b.getLsbD j },
    { i := .orFi w, mods := z, val := fun a => maskOf fun j => a.getLsbD j || b.getLsbD j },
    { i := .xorFi w, mods := z, val := fun a => maskOf fun j => a.getLsbD j != b.getLsbD j },
    { i := .andnFi w, mods := z, val := fun a => maskOf fun j => a.getLsbD j && !b.getLsbD j },
    { i := .shlFi w, mods := z, val := fun a => BitVec.ofNat 32 (a.toNat * 2 ^ min b.toNat 32) },
    { i := .shrFi w, mods := modsIn m 0b11000, val := fun a => BitVec.ofInt 32 (asInt u a / 2 ^ min b.toNat 32) },
    { i := .rotFi w, mods := modsIn m 0b10001, val := fun a => maskOf fun j =>
        a.getLsbD ((if m.getLsbD 0 then j + b.toNat % 32 else j + 32 - b.toNat % 32) % 32) },
    { i := .bfeFi w, mods := modsIn m 0b01000 && w.imm.extractLsb' 16 8 == 0, val := fun a =>
        fieldOf u a (w.imm.toNat % 256) (w.imm.toNat / 256 % 256) },
    { i := .icmpFi w, dst := isPredDest, mods := decide ((m.extractLsb' 0 3).toNat < 6), val := fun a =>
        truth (holdsCond (m.extractLsb' 0 3).toNat (asInt u a) (asInt u b)) },
    { i := .leaFi w, mods := m == 0, val := fun a =>
        BitVec.ofInt 32 (a.toNat + (w.imm.extractLsb' 0 19).toInt * 2 ^ (w.imm.toNat / 2 ^ 19)) },
    { i := .movi w, a := isUnused, mods := z, val := fun _ => b },
    { i := .movhi w, mods := m == 0 && w.imm.extractLsb' 16 8 == 0, val := fun a =>
        BitVec.ofNat 32 (w.imm.toNat * 2 ^ 16 + a.toNat % 2 ^ 16) } ]

/-- The gate of an FI integer word. -/
def immGate (w : FI) (f : ImmForm) : State → Ctx → Gate := fun s k =>
  let srcs := if isUnused w.a && !f.a (.v 1) then [] else [w.a]
  { legal := fiLegal (s.gang k.gk) w f.dst f.a f.mods && uniformOk w.dst srcs
    engine := .la, laUni := !perLane w.dst, privileged := privDst w.dst
    pred := w.pred.toNat, neg := w.neg, srcs := srcs, regs := vregsOf srcs }

/-! ### Floating-point results -/

/-- The lanes that compute: those of a mask, or the lowest of them for a uniform destination. -/
def computing (o : Operand) (m : BitVec 32) : BitVec 32 :=
  if perLane o then m else if m = 0 then 0 else setBit 0 (lowest m) true

/-- The flags that the lanes which compute raise; a helper of a per-lane destination raises none, and a uniform one raises
none where only helpers execute the word (R104, R163). -/
def Issue.flags (x : Issue) (o : Operand) (m : BitVec 32) (val : Nat → Word → Val) : Flags :=
  (lanesOf (computing o m)).foldl (fun f l =>
    if (if perLane o then x.k.helpers.getLsbD l else decide (m &&& ~~~x.k.helpers = 0)) then f
    else f ||| (val l (x.w.lane l).gen).2.1) 0

/-- A floating-point word: the destination of every lane of `active` takes the value, fpsw gains the flags, the
generators of the lanes that compute step as the value says, every lane of the set goes on, nothing else changes. -/
def Issue.floats (x : Issue) (t : State) (o : Operand) (val : Nat → Word → Val) : Prop :=
  (o ≠ .special .fpsw → (t.weave x.k.wk).took o x.act (fun l => (val l (x.w.lane l).gen).1)) ∧
  (o ≠ .special .fpsw → (t.weave x.k.wk).fpsw = x.w.fpsw ||| (x.flags o x.act val).setWidth 32) ∧
  (o ≠ .special .sdlo → o ≠ .special .sdhi → ∀ l, l < 32 → ((t.weave x.k.wk).lane l).gen =
    if (computing o x.act).getLsbD l then (val l (x.w.lane l).gen).2.2 else (x.w.lane l).gen) ∧
  t.past x.k x.k.lanes ∧ x.s.frame t x.k [o, .special .fpsw, .special .sdlo, .special .sdhi]

/-- A floating-point word of LA: its gate, and its value of SRCA, SRCB, source C and the generator. -/
structure FloatForm where
  i : Instr
  w : F3
  dst : Operand → Bool := isDest
  a : Operand → Bool := isSource
  c : Option (Operand → Bool) := none
  mods : Bool
  val : Word → Word → Word → Word → Val

/-- The gate of a floating-point word. -/
def FloatForm.gate (f : FloatForm) : State → Ctx → Gate := fun s k =>
  laGate (s.gang k.gk) f.w f.dst f.a isSource f.c (f.c.isNone) f.mods false

/-- A value without flags that leaves the generator. -/
def plain (v : Word) (g : Word) : Val := (v, 0, g)

/-- The floating-point words whose result is written at once (R173, R174, R176 to R178, R180, R181). -/
def floatForms (w : F3) : List FloatForm :=
  let m := w.mods
  let rnd := rndOk (rndCode m)
  let f32 := rnd && !m.getLsbD 4
  let h (o : Operand) (v : Word) : Word := halfConst m o v
  let sel := encodeOperand w.a
  [ { i := .fadd w, w := w, mods := f32, val := fun a b _ g => vFadd m false a b g },
    { i := .fsub w, w := w, mods := f32, val := fun a b _ g => vFadd m false a (b ^^^ 0x80000000#32) g },
    { i := .fmul w, w := w, mods := f32, val := fun a b _ g => vFmul m a b g },
    { i := .ffma w, w := w, c := some isSource, mods := f32, val := fun a b c g => vFfma m a b c g },
    { i := .fmin w, w := w, mods := m == 0, val := fun a b _ g => vFminmax false a b g },
    { i := .fmax w, w := w, mods := m == 0, val := fun a b _ g => vFminmax true a b g },
    { i := .fcmp w, w := w, dst := isPredDest, mods := m.extractLsb' 3 2 == 0, val := fun a b _ g => plain (vFcmp m a b) g },
    { i := .hadd2 w, w := w, mods := rnd, val := fun a b _ g => vHadd2 m (h w.a a) (h w.b b) g },
    { i := .hmul2 w, w := w, mods := rnd, val := fun a b _ g => vHmul2 m (h w.a a) (h w.b b) g },
    { i := .hfma2 w, w := w, c := some isSource, mods := rnd, val := fun a b c g => vHfma2 m (h w.a a) (h w.b b) (h w.srcC c) g },
    { i := .hdot2 w, w := w, c := some isSource, mods := rnd, val := fun a b c g => vHdot2 m (h w.a a) (h w.b b) c g },
    { i := .cvt w, w := { w with a := .v 0 }, a := isUnused, mods := cvtOk sel m, val := fun _ b _ g =>
        vCvt (sel.extractLsb' 4 4).toNat (sel.extractLsb' 0 4).toNat (rndCode m) (sel.getLsbD 8) b g },
    { i := .pack w, w := w, mods := packOk m, val := fun a b _ g => vPack m a b g },
    { i := .unpack w, w := w, a := isUnused, mods := unpackOk m, val := fun _ b _ g => plain (vUnpack m b) g } ]

/-- The FI forms (R68, R84): the immediate is bits [31:8] of an FP32 value. -/
def floatImmForms (w : FI) : List (Instr × (Operand → Bool) × Bool × (Word → Word → Word → Val)) :=
  let m := w.mods
  let f32 := rndOk (rndCode m) && !m.getLsbD 4
  [ (.faddFi w, isDest, f32, fun a b g => vFadd m false a b g),
    (.fsubFi w, isDest, f32, fun a b g => vFadd m false a (b ^^^ 0x80000000#32) g),
    (.fmulFi w, isDest, f32, fun a b g => vFmul m a b g),
    (.fcmpFi w, isPredDest, m.extractLsb' 3 2 == 0, fun a b g => plain (vFcmp m a b) g) ]

/-- A word whose results come back later: one result outstanding for the lanes that execute it, every lane of the set
past the word, no register written but elements of the group that an earlier result was outstanding for (R65). -/
def Issue.defers (x : Issue) (t : State) (group : List Operand) (writes : List LLWrite) (flags : Flags) (la : Bool) : Prop :=
  (writes ≠ [] → ∃ p, (t.weave x.k.wk).ll.getLast? = some p ∧ p.writes = writes ∧ p.flags = flags ∧ p.lane = la ∧
    p.ready = true ∧ p.clause = x.k.run) ∧
  t.past x.k x.k.lanes ∧ x.s.frameBy Weave.restLL t x.k group

/-- The lanes that execute a half. -/
def Issue.halfLanes (x : Issue) (h : D2Half) : BitVec 32 := activeOf x.w x.act h.pred.toNat h.neg

/-- The value of one half of a D2 word for a lane; actmask reads as the half's own lanes (R69, R74). -/
def Issue.half (x : Issue) (slot : Nat) (h : D2Half) (l : Nat) (g : Word) : Val :=
  let e : Env := { x.e with act := x.halfLanes h }
  d2Val h.op ((d2Mods h.op h.mods).getD 0) h.s (e.rd x.s.ops slot h.d l) (e.rd x.s.ops (slot + 1) h.s l) g

/-- Nothing that a half reads in its lanes makes it wait or fault: no handle that is not Resolved, and no fpsw while a
long-latency result of LA is outstanding (R73, R162). -/
abbrev Issue.halfFree (x : Issue) (h : D2Half) : Prop :=
  x.halfLanes h ≠ 0 → (x.s.handleBlock x.w (halfSrcs h)).isNone = true ∧
    (Operand.special .fpsw ∈ halfSrcs h → (x.w.ll.any fun p => p.lane) = false)

/-! ### The sequencer's words -/

/-- Some lane executes the word. -/
abbrev anyLane (x : Issue) : Prop := x.act ≠ 0

/-- Memory of the device and of the host, and every register of the weave but the destinations `ds`, are as before. -/
def Issue.keepsRegs (x : Issue) (t : State) (ds : List Operand) : Prop :=
  (∀ a, Table.get 0 t.mem a = Table.get 0 x.s.mem a) ∧ (∀ a, Table.get 0 t.hostMem a = Table.get 0 x.s.hostMem a) ∧
  ∀ o l, l < 32 → o ∉ ds → (t.weave x.k.wk).kept o l = x.w.kept o l

/-- Every register of the weave but the destinations `ds` holds what it held, and device memory is that of a state that
the checks of its addresses left (R147 lets a translation set bits of the entry that it uses). -/
def Issue.keepsFile (x : Issue) (m t : State) (ds : List Operand) : Prop :=
  (∀ a, Table.get 0 t.mem a = Table.get 0 m.mem a) ∧
  ∀ o l, l < 32 → o ∉ ds → (t.weave x.k.wk).kept o l = x.w.kept o l

/-- A lane before the word and after it. -/
def Issue.lane (x : Issue) (l : Nat) : Lane := x.w.lane l
def Issue.laneIn (x : Issue) (t : State) (l : Nat) : Lane := (t.weave x.k.wk).lane l

/-- The gate of an FI sequencer word without operands that must end its clause. -/
def transferGate (w : FI) : State → Ctx → Gate := fun s k => sqGateI (s.gang k.gk) w isUnused isUnused k.last []

/-- The gate of a word that reads a pair at SRCA and must end its clause. -/
def pairGate (w : F3) (ok : Ctx → Bool) : State → Ctx → Gate := fun s k =>
  let gt := sqGate (s.gang k.gk) w isUnused isPair isUnused (ok k) [w.a, nextReg w.a 1]
  { gt with legal := gt.legal && inDemand (s.gang k.gk) w.a 2 }

/-- The 64-bit value that a lane reads from a pair, and the target that it reads from the pair at SRCA. -/
def Issue.pairOf (x : Issue) (a : Operand) (l : Nat) : Nat := (x.rd 0 a l).toNat + 2 ^ 32 * (x.rd 4 (nextReg a 1) l).toNat
def Issue.pairTarget (x : Issue) (w : F3) (l : Nat) : Nat := x.pairOf w.a l

/-- The target of a direct transfer: the header plus 8 times the signed immediate (R68, R189). -/
def Issue.direct (x : Issue) (w : FI) : Dbl := x.k.head + BitVec.ofInt 64 (8 * w.imm.toInt)

/-- Lanes push the address of the next clause's header and go to their targets. -/
def Issue.called (x : Issue) (m t : State) (target : Nat → Dbl) : Prop :=
  t.wentTo x.k x.act target ∧ t.past x.k (x.k.lanes &&& ~~~x.act) ∧ x.keepsFile m t [] ∧
  ∀ l, l < 32 → x.act.getLsbD l = true →
    (x.laneIn t l).rasn = (x.lane l).rasn + 1 ∧ Table.get 0 (x.laneIn t l).ras (x.lane l).rasn = x.k.next ∧
    (x.laneIn t l).ovf = (x.lane l).ovf

/-- A word that answers a value of the machine in its destination: gate and value. -/
structure ReadForm where
  i : Instr
  dst : Operand
  gate : State → Ctx → Gate
  ok : Issue → Prop := always
  val : Issue → Nat → Word

/-- The sequencer's words that read: VOTE, ACTMASK, HTEST, FLGRD, RSTAT, RDSR (R200, R201, R205, R208, R210, R215). -/
def sequencerReads (w : F3) (v : FI) : List ReadForm :=
  [ { i := .vote w, dst := w.dst,
      gate := fun s k => sqGate (s.gang k.gk) w isVSP isSource isUnused (modsIn w.mods 3 && !((w.mods.extractLsb' 0 2).toNat == 3 && isP w.dst)) [w.a],
      val := fun x _ =>
        let v := x.act &&& ~~~x.k.helpers
        let b := maskOf fun l => v.getLsbD l && (x.rd 0 w.a l).getLsbD 0
        match w.mods.toNat with
        | 0 => truth (decide (b ≠ 0)) | 1 => truth (decide (b = v)) | 2 => truth (decide (b = v ∨ b = 0)) | _ => b },
    { i := .actmask w, dst := w.dst, gate := fun s k => sqGate (s.gang k.gk) w isVS isUnused isUnused (modsIn w.mods 3) [],
      val := fun x _ => match w.mods.toNat with
        | 0 => x.act &&& ~~~x.k.helpers
        | 1 => maskOf fun l => (x.lane l).status == .live
        | 2 => maskOf fun l => (x.lane l).parked.isSome
        | _ => maskOf fun l => (x.lane l).status == .helper },
    { i := .htest w, dst := w.dst, gate := fun s k => sqGate (s.gang k.gk) w isVSP isH isUnused (modsIn w.mods 1) [],
      val := fun x _ =>
        let c : Nat := match x.s.handle x.w (handleIndex w.a) with | .empty => 0 | .pending _ => 1 | .resolved _ => 2 | .cancelled => 3
        if w.mods = 1 then truth (decide (c = 2)) else BitVec.ofNat 32 c },
    { i := .flgrd w, dst := w.dst, gate := fun s k => sqGate (s.gang k.gk) w isVS isUnused isUnused (w.mods == 0) [],
      val := fun x _ => maskOf fun f => decide (f < 12) && decide (x.started.flag f ≠ 0) },
    { i := .rstat w, dst := w.dst, gate := fun s k => sqGate (s.gang k.gk) w isS isSorConst isUnused (w.mods == 0) [w.a],
      ok := fun x => anyLane x → (x.s.ring x.k (x.rd 0 w.a 0).toNat).isSome = true,
      val := fun x _ => match x.s.ring x.k (x.rd 0 w.a 0).toNat with
        | some r => BitVec.ofNat 32 (r.count + 2 ^ 5 * r.head + 2 ^ 9 * r.tail + (if r.ppha then 2 ^ 13 else 0) + (if r.cpha then 2 ^ 14 else 0))
        | none => 0 },
    { i := .rdsr v, dst := v.dst,
      gate := fun s k => { sqGateI (s.gang k.gk) v isVS isUnused (match sysOf v with | some r => !r.lane || isV v.dst | none => false) []
        with privileged := match sysOf v with | some r => !r.user | none => false },
      ok := fun x => (sysOf v = some (.flagcnt false) ∨ sysOf v = some (.flagcnt true)) → x.w.ll.any (·.lane) = false,
      val := fun x l => match sysOf v with | some r => x.b.readSys x.k r l | none => 0 } ]

/-- What WRSR writes, read back by RDSR's meaning (R215): the fields that a register keeps of a word. -/
def sysKeeps (r : SysReg) (old v : Word) : Word :=
  match r with
  | .ecause | .privmask | .parkmask | .tvec _ | .saveb _ => old
  | .gbarmask => v &&& 0xFFFF#32
  | .cbarmask => v &&& 0xFFFF#32
  | .flagcnt true => v &&& 0xFFFF#32
  | .cvr _ => v &&& 0x1FFFF#32
  | _ => v

/-- The registers whose read gives back what a write left, without a unit that a launch may lack. -/
def plainSys : SysReg → Bool
  | .scr _ | .tvec _ | .saveb _ | .ecause | .privmask | .parkmask | .flagcnt _ | .ovf | .stkb _ | .ras _ _ => true
  | _ => false

/-! ### Convergence, handles, barriers and rings -/

/-- The record of the convergence register that a word names, in the state before it. -/
def Issue.home (x : Issue) : Nat := x.s.convHome x.g.cohort

/-- Every declared lane of a record is still there or has signed, and some lane is declared. -/
abbrev standing (s : State) (v : Conv) : Prop :=
  v.decl ≠ [] ∧ ∀ e ∈ v.decl, e.2 ≠ 0 ∧ e.2 &&& ((s.weave e.1).liveMask ||| Table.get 0 v.sig e.1) = e.2

/-! ### Exceptions -/

/-- Lanes of a weave stand in the trap handler with a fault record (R211). -/
def State.handling (s t : State) (wk : Nat) (m : BitVec 32) (code : Word) (addr : Dbl) (ecause : Word) (resume : Dbl) : Prop :=
  (t.weave wk).fcode = code ∧ (t.weave wk).fmask = m ∧ (t.weave wk).faddr = addr ∧ (t.weave wk).ecause = ecause ∧
  ∀ l, l < 32 → m.getLsbD l = true →
    ((t.weave wk).lane l).pc = (s.part (s.gang (s.weave wk).gang).part).ctl.tvec ∧ ((t.weave wk).lane l).hdr = true ∧
    ((t.weave wk).lane l).priv = true ∧ ((t.weave wk).lane l).hold = none ∧ ((t.weave wk).lane l).faultPc = resume ∧
    ((t.weave wk).lane l).back = ((s.weave wk).lane l).clause

/-- Lanes can be sent to the handler now: the partition has one, and nothing of the weave waits (R58, R212). -/
abbrev State.calm (s : State) (wk : Nat) (m : BitVec 32) : Prop :=
  (s.weaves.find wk).isSome = true ∧ m &&& (s.weave wk).liveMask ≠ 0 ∧ (s.part (s.gang (s.weave wk).gang).part).ctl.tvec ≠ 0 ∧
  s.busyTrap wk (m &&& (s.weave wk).liveMask) = false ∧ (s.weave wk).pend = []

/-- A fault of lanes can be delivered now: besides, none of the lanes is in the handler (R58). -/
abbrev State.canEnter (s : State) (wk : Nat) (m : BitVec 32) : Prop :=
  s.calm wk m ∧ ∀ l, l < 32 → m.getLsbD l = true → ((s.weave wk).lane l).priv = false

/-! ### Loads and stores -/

/-- The address of lane `l`: base and index shifted, or base and literal offset (R219), in 64 bits or in 32. -/
def Issue.glob (x : Issue) (w : F3) (l : Nat) : Nat :=
  (BitVec.ofNat 64 (x.pairOf w.a l) + BitVec.ofInt 64 ((x.b3 w false l).toInt * 2 ^ (w.mods.toNat / 8)) : Dbl).toNat
def Issue.globI (x : Issue) (w : FI) (l : Nat) : Nat := (BitVec.ofNat 64 (x.pairOf w.a l) + BitVec.ofInt 64 w.imm.toInt : Dbl).toNat
def Issue.local3 (x : Issue) (w : F3) (l : Nat) : Nat :=
  (x.rd 0 w.a l + BitVec.ofInt 32 ((x.b3 w false l).toInt * 2 ^ (w.mods.toNat / 8)) : Word).toNat
def Issue.localI (x : Issue) (w : FI) (l : Nat) : Nat := (x.rd 0 w.a l + BitVec.ofInt 32 w.imm.toInt : Word).toNat

/-- The registers of a group. -/
def regsOfGroup (o : Operand) (c : Nat) : List Operand := (List.range (widthRegs c)).map (nextReg o)

/-- The bytes that a lane stores: the low bytes of its group. -/
def Issue.stored (x : Issue) (o : Operand) (m : BitVec 5) (l : Nat) : List Byte :=
  ((List.range (widthRegs (widthCode m))).flatMap fun j => bytesOf 4 (x.rd (8 + j) (nextReg o j) l).toNat).take (widthBytes (widthCode m))

/-- A word of LD, LDC, LDS, ST or STS in either form: destination or data, width code, gate and address. -/
structure MemForm where
  i : Instr
  o : Operand
  m : BitVec 5
  gate : State → Ctx → Gate
  addr : Issue → Nat → Nat

def loadForms (w : F3) (v : FI) : List MemForm :=
  [ { i := .ld w, o := w.dst, m := w.mods, addr := fun x => x.glob w
      gate := fun s k => memGate (s.gang k.gk) w isV true (loadOk (s.gang k.gk) w.dst w.mods) [] },
    { i := .ldFi v, o := v.dst, m := v.mods, addr := fun x => x.globI v
      gate := fun s k => memGateI (s.gang k.gk) v isV true (loadOk (s.gang k.gk) v.dst v.mods) [] } ]

def uniformLoadForms (w : F3) (v : FI) : List MemForm :=
  [ { i := .ldc w, o := w.dst, m := w.mods, addr := fun x => x.glob w
      gate := fun s k => { memGate (s.gang k.gk) w isS true (loadOk (s.gang k.gk) w.dst w.mods) [] with
        legal := (memGate (s.gang k.gk) w isS true (loadOk (s.gang k.gk) w.dst w.mods) []).legal && isS w.a && isUniformSource w.b } },
    { i := .ldcFi v, o := v.dst, m := v.mods, addr := fun x => x.globI v
      gate := fun s k => { memGateI (s.gang k.gk) v isS true (loadOk (s.gang k.gk) v.dst v.mods) [] with
        legal := (memGateI (s.gang k.gk) v isS true (loadOk (s.gang k.gk) v.dst v.mods) []).legal && isS v.a } } ]

def scratchLoadForms (w : F3) (v : FI) : List MemForm :=
  [ { i := .lds w, o := w.dst, m := w.mods, addr := fun x => x.local3 w
      gate := fun s k => memGate (s.gang k.gk) w isV false (loadOk (s.gang k.gk) w.dst w.mods) [] },
    { i := .ldsFi v, o := v.dst, m := v.mods, addr := fun x => x.localI v
      gate := fun s k => memGateI (s.gang k.gk) v isV false (loadOk (s.gang k.gk) v.dst v.mods) [] } ]

def storeForms (w : F3) (v : FI) : List MemForm :=
  [ { i := .st w, o := w.dst, m := w.mods, addr := fun x => x.glob w
      gate := fun s k => memGate (s.gang k.gk) w isStoreData true (storeOk (s.gang k.gk) w.dst w.mods) (dataRegs w.dst w.mods) },
    { i := .stFi v, o := v.dst, m := v.mods, addr := fun x => x.globI v
      gate := fun s k => memGateI (s.gang k.gk) v isStoreData true (storeOk (s.gang k.gk) v.dst v.mods) (dataRegs v.dst v.mods) } ]

def scratchStoreForms (w : F3) (v : FI) : List MemForm :=
  [ { i := .sts w, o := w.dst, m := w.mods, addr := fun x => x.local3 w
      gate := fun s k => memGate (s.gang k.gk) w isStoreData false (storeOk (s.gang k.gk) w.dst w.mods) (dataRegs w.dst w.mods) },
    { i := .stsFi v, o := v.dst, m := v.mods, addr := fun x => x.localI v
      gate := fun s k => memGateI (s.gang k.gk) v isStoreData false (storeOk (s.gang k.gk) v.dst v.mods) (dataRegs v.dst v.mods) } ]

/-- One result is outstanding with these register writes; the lanes are past the word, no other register changes, and
memory is that of a state `m`. -/
def Issue.loads (x : Issue) (m t : State) (group : List Operand) (writes : List LLWrite) : Prop :=
  (writes ≠ [] → ∃ p, (t.weave x.k.wk).ll.getLast? = some p ∧ p.writes = writes ∧ p.ready = true ∧ p.clause = x.k.run) ∧
  t.past x.k x.k.lanes ∧ x.keepsFile m t group

/-- A scratchpad access of `n` bytes at `o` passes its checks: aligned, within the allocation, and no bank that it touches is
gated (R221, R225, R449). -/
abbrev Issue.reaches (x : Issue) (o n : Nat) : Prop := o % n = 0 ∧ o + n ≤ 256 * x.g.spb ∧ x.s.bankHeld x.k.core o n = false

/-- The same of an access that reads: no unit of 8 bytes that it touches is uncorrectable (R221). -/
abbrev Issue.reads (x : Issue) (o n : Nat) : Prop :=
  x.reaches o n ∧ ∀ u ∈ x.g.spPoison, ¬(8 * u < o + n ∧ o < 8 * u + 8)

/-- The gates of the lease instructions. -/
def nleaseGate (w : F3) : State → Ctx → Gate := fun s k =>
  let gt := lsGate (s.gang k.gk) w isS isSorConst isPairS (w.mods == 0) [w.a, w.b, nextReg w.b 1]
  { gt with legal := gt.legal && inDemand (s.gang k.gk) w.b 2 }

/-! ### Stamps -/

/-- The lowest lane that executes and is no helper, as a mask. -/
def Issue.first (x : Issue) : BitVec 32 := maskOf fun l => some l == (lanesOf (x.act &&& ~~~x.k.helpers)).head?

/-- The lanes whose addresses an access through the pair `a` checks: the lowest for a uniform pair, else those of `m`. -/
def Issue.asked (x : Issue) (a : Operand) (m : BitVec 32) : BitVec 32 := if isS a then x.first else m

/-- What a stamped load writes for a lane whose word is `v`. -/
def stampWrites (x : Issue) (w : F3) (l : Nat) (vs : List Word) : List LLWrite :=
  (if isS w.a then (if perLane w.dst then lanesOf x.act else [0]) else [l]).flatMap fun i =>
    vs.zipIdx.map fun (v, j) => { dst := nextReg w.dst j, lane := i, val := v }

/-- The value of a stamped word at the partition's step: times the power of its factor by its age, or as it stands beyond
the window (R335, R336, R341). -/
def decayed (t : Stamp) (v : Nat) : Word :=
  let d := (t.step.toNat + 2 ^ 24 - bits v 55 32) % 2 ^ 24
  if 2 ^ 23 ≤ d then BitVec.ofNat 32 v else rne32Mul (BitVec.ofNat 32 v) (factorPower (t.factor (bits v 63 56)) d)

/-- A pair takes a 64-bit value, every lane of the set goes past the word, and nothing else changes. -/
def Issue.writes2 (x : Issue) (t : State) (d : Operand) (v : Dbl) : Prop :=
  (t.weave x.k.wk).took d x.act (fun _ => BitVec.ofNat 32 v.toNat) ∧
  (t.weave x.k.wk).took (nextReg d 1) x.act (fun _ => BitVec.ofNat 32 (v.toNat / 2 ^ 32)) ∧
  t.past x.k x.k.lanes ∧ x.s.frame t x.k [d, nextReg d 1]

/-- A register takes an answer, every lane of the set goes past the word, and no other register and no byte of memory
changes. -/
def Issue.answers (x : Issue) (t : State) (d : Operand) (v : Word) : Prop :=
  (t.weave x.k.wk).took d x.act (fun _ => v) ∧ t.past x.k x.k.lanes ∧ x.keepsRegs t [d]

/-- The stamp state of the word's partition. -/
def Issue.stamp (x : Issue) : Stamp := (x.s.part x.k.part).stamp

/-! ### Commands -/

/-- A descriptor register of an FX word as the word reads it, and a pair of them. -/
def Issue.desc (x : Issue) (w : FX) (j : Nat) : Nat := (x.e.dreg w j).toNat
def Issue.desc2 (x : Issue) (w : FX) (j : Nat) : Nat := x.desc w j + 2 ^ 32 * x.desc w (j + 1)

/-- The handle register that the word names is not Pending, and its AFLAG has room (R71, R72). -/
abbrev Issue.canCommand (x : Issue) (w : FX) : Prop :=
  (w.noh = true ∨ ∀ r, x.s.handle x.w w.hdst.toNat ≠ .pending r) ∧ (w.afen = true → x.started.flag w.aflag.toNat < 15)

/-- The queue of an engine has a place, and no earlier command of the weave is held for one (R294, R356). -/
abbrev Issue.hasRoom (x : Issue) (eng : Engine) : Prop := x.s.queueFull x.k.core eng = false ∧ x.s.heldFull x.k.wk eng = false

/-- The word has issued a command: a new operation, Pending and not accepted, its handle register and its AFLAG standing
for it, no register and no byte of memory changed; `full` says that its engine's queue had no place for it. -/
def Issue.makes (x : Issue) (t : State) (w : FX) (i : Instr) (eng : Engine) (full : Bool) : Prop :=
  x.keepsRegs t [] ∧
  (∃ o, t.ops.find x.s.nextKey = some o ∧ o.instr = i ∧ o.engine = eng ∧ o.fx = some w ∧ o.wk = x.k.wk ∧ o.gang = x.k.gk ∧
    o.part = x.k.part ∧ o.state = .pending ∧ o.accepted = false ∧ o.full = full ∧ o.aflag = if w.afen then some w.aflag.toNat else none) ∧
  (∀ r, r ≠ x.s.nextKey → t.ops.find r = x.s.ops.find r) ∧
  (w.noh = false → t.handle (t.weave x.k.wk) w.hdst.toNat = .pending x.s.nextKey) ∧
  ∀ f, (t.weave x.k.wk).flag f = x.started.flag f + if w.afen = true ∧ f = w.aflag.toNat then 1 else 0

/-- It has issued one that has its place in the queue, and the lanes go on. -/
def Issue.commands (x : Issue) (t : State) (w : FX) (i : Instr) (eng : Engine) : Prop :=
  t.past x.k x.k.lanes ∧ x.makes t w i eng false

/-- A command: its gate and the checks beyond it that let it issue. -/
structure FxForm where
  i : Instr
  eng : Engine
  gate : State → Ctx → Gate
  ready : Issue → Prop := always

/-- The commands of the copy engine (R293 to R308): alignments of the descriptor's addresses. -/
def copyForms (w : FX) : List FxForm :=
  let one := decide (w.subop.toNat ≤ 1)
  let three := decide (w.subop.toNat ≤ 3)
  let form (i : Instr) (n : Nat) (mask : BitVec 24) (rnd guarded ok : Bool) (al : List (Nat × Nat)) : FxForm :=
    { i := i, eng := .ce, gate := fun s k => ceGate (s.gang k.gk) w n mask rnd guarded ok
      ready := fun x => ∀ a ∈ al, x.desc2 w a.1 % a.2 = 0 }
  [ form (.tcopy w) 4 0xF true false (w.subop == 0) [(0, 64), (2, 64)],
    form (.tcopyG w) 4 0xFFF true false (w.subop == 1 && decide ((w.imm.extractLsb' 8 4).toNat ≤ 9))
      [(0, max 1 (elemBits (w.imm.extractLsb' 8 4).toNat / 8)), (2, 64)],
    form (.tmcast w) 5 0xF true false three [(0, 64), (2, 64)],
    form (.tqnt w) 7 0x7 true false three [(0, 64), (2, 64), (4, 16)],
    form (.tdq w) 7 0xF true false three [(0, 64), (2, 16), (4, 64)],
    form (.sload w) 5 0xF false true (w.subop == 0) [],
    form (.sstore w) 5 0xF false true one [],
    form (.bpref w) (if w.subop = 1 then 5 else 3) 0 false false one [],
    form (.sgpat w) 5 0xF false false (w.subop == 0) [],
    form (.sgpatInv w) 0 0xF false false (w.subop == 1) [],
    form (.tfill w) 3 0 false false (w.subop == 0) [(0, 64)] ]

/-- The commands of the stamp, search and exchange engines (R351, R359 to R370, R382, R388). -/
def engineForms (w : FX) : List FxForm :=
  let none_ : Bool := w.dbase == 0 && w.imm.extractLsb' 4 20 == 0
  let merge (x : Issue) : Prop := x.s.merging x.k.wk = false
  let sp := w.imm.getLsbD 16
  let image (x : Issue) : Prop := merge x ∧
    let a := if sp then x.desc w 0 else x.desc2 w 0
    a % 8 = 0 ∧ (sp = true → a + 520 ≤ 256 * x.g.spb)
  [ { i := .swpreg w, eng := .ste, gate := fun s k => fxGate (s.gang k.gk) w .ste 3 (w.subop == 0 && w.imm.extractLsb' 4 20 == 0) true
      ready := fun x => x.desc2 w 0 % 8 = 0 ∧ canonical (x.desc2 w 0) = true },
    { i := .swpregInv w, eng := .ste, gate := fun s k => fxGate (s.gang k.gk) w .ste 0 none_ true },
    { i := .swpregThr w, eng := .ste, gate := fun s k => fxGate (s.gang k.gk) w .ste 0
        (w.dbase == 0 && w.imm.extractLsb' 23 1 == 0 && (w.imm.extractLsb' 0 23).toNat != 0 && decide ((w.imm.extractLsb' 0 23).toNat ≤ 2 ^ 22)) true },
    { i := .swpregNow w, eng := .ste, gate := fun s k => fxGate (s.gang k.gk) w .ste 0 none_ true },
    { i := .gdist w, eng := .nne
      gate := fun s k => fxGate (s.gang k.gk) w .nne (if w.subop.getLsbD 5 then 9 else 8)
        (w.subop.extractLsb' 0 2 != 3 && decide ((w.subop.extractLsb' 2 3).toNat ≤ 5) && w.subop.extractLsb' 6 2 == 0 && w.imm == 0) false
      ready := fun x => gdistBad x.g w (x.desc w) = none },
    { i := .tkmrgWv w, eng := .nne, ready := merge
      gate := fun s k => fxGate (s.gang k.gk) w .nne 0 (w.subop == 0 && w.dbase == 0 && w.imm.extractLsb' 16 8 == 0) false },
    { i := .tkmrgSt w, eng := .nne, ready := image
      gate := fun s k => fxGate (s.gang k.gk) w .nne (if sp then 1 else 2) (w.subop.toNat == 1 && w.imm &&& 0xFEFFFF#24 == 0) false },
    { i := .tkmrgLd w, eng := .nne, ready := image
      gate := fun s k => fxGate (s.gang k.gk) w .nne (if sp then 1 else 2) (w.subop.toNat == 2 && w.imm &&& 0xFEFFFF#24 == 0) false },
    { i := .xbcast w, eng := .xe, gate := fun s k => fxGate (s.gang k.gk) w .xe (if w.subop == 0 then 5 else 3) (decide (w.subop.toNat ≤ 1) && w.imm == 0) true
      ready := fun x => x.desc w 0 % 8 = 0 ∧ x.desc w 1 % 8 = 0 ∧ x.desc w 2 % 8 = 0 ∧ x.desc w 2 ≠ 0 ∧
        x.desc w 0 + x.desc w 2 ≤ 256 * x.g.spb ∧ x.desc w 1 + x.desc w 2 ≤ 256 * x.g.spb },
    { i := .lsend w, eng := .xe, gate := fun s k => fxGate (s.gang k.gk) w .xe 3 (decide (w.subop.toNat ≤ 1) && w.imm.extractLsb' 8 16 == 0) true
      ready := fun x => x.desc2 w 0 % 8 = 0 } ]

/-- A descriptor word of accumulator rows: first row and number of rows, its other bits zero (R259). -/
def Issue.rows (x : Issue) (w : FX) (j : Nat) : Nat × Nat := (x.desc w j % 2 ^ 11, x.desc w j / 2 ^ 11 % 2 ^ 11 + 1)

/-- The commands of the matrix engine and the bond controller (R243 to R249, R257 to R265, R271, R286). -/
def matrixForms (w : FX) : List FxForm :=
  let bare : Bool := w.dbase == 0 && w.subop == 0 && w.imm == 0
  let acc (x : Issue) : Prop :=
    x.desc w 3 < 2 ^ 22 ∧
    if w.subop = 3 then x.desc2 w 0 % 8 = 0
    else x.desc2 w 0 % (match w.subop.toNat with | 0 => 4 | 1 => 2 | _ => 8) = 0 ∧ x.desc w 2 % 8 = 0 ∧
      (x.rows w 3).1 + (x.rows w 3).2 ≤ x.g.accr
  [ { i := .tcfgCfg w, eng := .mx
      gate := fun s k => fxGate (s.gang k.gk) w .mx 5
        (w.subop == 0 && decide ((w.imm.extractLsb' 0 3).toNat ≤ 4) && decide ((w.imm.extractLsb' 3 3).toNat ≤ 4) && w.imm.extractLsb' 6 18 == 0) false
      ready := fun x => x.b.fmtBad (x.desc w 0) = false ∧
        tcwBad (x.s.bondShape x.k.gk).1 (x.s.bondShape x.k.gk).2 (x.desc w 0) (w.imm.extractLsb' 3 3).toNat
          (decide (x.desc w 1 ≠ 0xFFFFFFFF)) (decide (x.desc w 3 ≠ 0xFFFFFFFF)) = false ∧
        (w.imm.extractLsb' 0 3).toNat ≤ x.g.planes.length + (x.b.core x.k.core).freePlanes.length ∧ x.s.shareWaits x.k.gk = false },
    { i := .tcfgTile w, eng := .mx, gate := fun s k => fxGate (s.gang k.gk) w .mx 0
        (w.dbase == 0 && w.imm.extractLsb' 15 9 == 0 && decide ((w.imm.extractLsb' 0 3).toNat < (s.gang k.gk).treg)) false },
    { i := .wlatch w, eng := .mx, gate := fun s k => fxGate (s.gang k.gk) w .mx 0
        (w.dbase == 0 && w.subop == 0 && w.imm.extractLsb' 5 19 == 0 && decide ((w.imm.extractLsb' 2 3).toNat < (s.gang k.gk).treg)) false
      ready := fun x => (w.imm.extractLsb' 0 2).toNat < x.g.planes.length ∧ x.b.cfgBad x.k.gk = false ∧
        (Table.get 0 x.g.cfgNew.tiles (w.imm.extractLsb' 2 3).toNat).toNat + tileSpan (bits x.g.cfgNew.tcw.toNat 3 0) x.g.cfgNew.spn ≤ 256 * x.g.spb },
    { i := .cbkld w, eng := .mx, gate := fun s k => fxGate (s.gang k.gk) w .mx 0 (w.dbase == 0 && w.subop == 0) false
      ready := fun x => w.imm.toNat % 32 = 0 ∧ w.imm.toNat + 32 ≤ 256 * x.g.spb },
    { i := .accz w, eng := .mx, gate := fun s k => fxGate (s.gang k.gk) w .mx 0 (w.dbase == 0 && w.subop == 0 && w.imm.extractLsb' 22 2 == 0) false
      ready := fun x => (w.imm.extractLsb' 0 11).toNat + (w.imm.extractLsb' 11 11).toNat + 1 ≤ x.g.accr },
    { i := .accld w, eng := .mx, ready := acc
      gate := fun s k => { fxGate (s.gang k.gk) w .mx 4 (w.imm == 0 && decide (w.subop.toNat ≤ 3)) false with privileged := w.subop == 3 } },
    { i := .accst w, eng := .mx, ready := acc
      gate := fun s k => { fxGate (s.gang k.gk) w .mx 6 (w.imm.extractLsb' 3 21 == 0 &&
        ((w.imm.extractLsb' 0 3).toNat == 0 || ((w.imm.extractLsb' 0 3).toNat == 4 && decide (w.subop.toNat ≤ 1))) && decide (w.subop.toNat ≤ 3)) false
        with privileged := w.subop == 3 } },
    { i := .accprom w, eng := .mx, gate := fun s k => fxGate (s.gang k.gk) w .mx 3 (decide (w.subop.toNat ≤ 1)) false
      ready := fun x => x.desc w 2 < 2 ^ 22 ∧ w.imm.toNat % 8 = 0 ∧ w.imm.toNat + 8 ≤ 256 * x.g.spb ∧ (x.rows w 2).1 + (x.rows w 2).2 ≤ x.g.accr },
    { i := .drain w, eng := .mx, gate := fun s k => fxGate (s.gang k.gk) w .mx 9
        (decide (w.subop.toNat ≤ 3) && (w.imm.toNat == 0 || w.imm.toNat == 4)) false
      ready := fun x =>
        let r0 := x.desc w 2 % 2 ^ 11
        let n := x.desc w 2 / 2 ^ 11 % 2 ^ 6 + 1
        x.desc w 2 < 2 ^ 17 ∧ x.desc w 6 < 16 ∧ r0 % 32 = 0 ∧ x.desc2 w 4 % 8 = 0 ∧ r0 + 32 * n ≤ x.g.accr ∧
        (w.subop.getLsbD 0 = true → x.desc w 3 % 32 = 0 ∧ x.desc w 3 % 2 ^ 11 + 32 * n ≤ x.g.accr) ∧
        x.desc w 6 < x.g.hreg ∧ x.s.handle x.w (x.desc w 6) ≠ .empty },
    { i := .drainundo w, eng := .mx, gate := fun s k => fxGate (s.gang k.gk) w .mx 0 bare false },
    { i := .bform w, eng := .bc, gate := fun s k => fxGate (s.gang k.gk) w .bc 0
        (w.dbase == 0 && w.subop == 0 && w.imm.extractLsb' 10 14 == 0 && !w.noh) false },
    { i := .bsave w, eng := .bc, gate := fun s k => { fxGate (s.gang k.gk) w .bc 0 (bare && !w.noh) false with privileged := true } },
    { i := .bresume w, eng := .bc, gate := fun s k => { fxGate (s.gang k.gk) w .bc 0 (bare && !w.noh) false with privileged := true } } ]

/-! ### Words of the matrix engine and the bond controller -/

/-- The gang has its entry in the machine's table. -/
abbrev Issue.standsGang (x : Issue) : Prop := (x.s.gangs.find x.k.gk).isSome = true

/-- The operation of an accumulator row that must wait for no earlier one. -/
abbrev Issue.rowFree (x : Issue) (row : Nat) : Prop :=
  x.b.mxFree { gang := x.k.gk, engine := .mx, aux := touches row 1 0 0 0, port := x.s.nextKey + 1 } = true

/-- A multiply: which opcode, and its kind of plane. -/
def multiplyForms (w : F3) : List (Instr × MmaKind) := [(.mma w, .dense), (.mmas w, .sparse), (.mmal w, .lut), (.mmac w, .codebook)]

/-- The format of the A operand that a multiply's stream takes from the configuration (R243, R250). -/
def Issue.afmt (x : Issue) (w : F3) : Nat := if (w.mods.extractLsb' 2 1).toNat = 1 then bits x.g.cfgNew.tcw.toNat 11 8 else bits x.g.cfgNew.tcw.toNat 7 4

/-- The direction of a seam word, and the cohort of its gang. -/
def Issue.dir (x : Issue) (w : F3) : Nat := (x.rd 0 w.a 0).toNat
def Issue.mine (x : Issue) : Cohort := x.s.cohort x.g.cohort

/-! ### Words of the slice engine -/

/-- A register takes a word, every lane of the set goes past the word, and no other register changes. -/
def Issue.tells (x : Issue) (t : State) (d : Operand) (v : Word) : Prop :=
  (t.weave x.k.wk).took d x.act (fun _ => v) ∧ t.past x.k x.k.lanes ∧ ∀ o l, l < 32 → o ≠ d → (t.weave x.k.wk).kept o l = x.w.kept o l

/-- The queue number of a word, its record, and the bytes of an entry. -/
def Issue.qn (x : Issue) (w : F3) : Nat := (x.rd 0 w.a 0).toNat
def Issue.q (x : Issue) (w : F3) : QRec := x.s.qrec x.k.part (x.qn w)
abbrev Issue.queueUsable (x : Issue) (w : F3) : Prop := x.qn w ≤ 4095 ∧ (x.q w).v = true
def State.queue (t : State) (x : Issue) (w : F3) : QRec := t.qrec x.k.part (x.qn w)

/-- The words of the entry at the head of a queue. -/
def Issue.headWords (x : Issue) (w : F3) : List Word :=
  wordsOf ((x.q w).bytes / 4) (memRead x.s.mem ((x.q w).base + (x.q w).bytes * (x.q w).head) (x.q w).bytes)

/-- No byte of memory outside the queue's record changes. -/
def Issue.recordOnly (x : Issue) (t : State) (w : F3) : Prop :=
  ∀ i, (i < (x.q w).at_ ∨ (x.q w).at_ + 32 ≤ i) → Table.get 0 t.mem i = Table.get 0 x.s.mem i

/-- The gate of QENQ, QDEQ, QPARK and QSTAT. -/
def queueGate (w : F3) (data guarded : Bool) : State → Ctx → Gate := fun s k =>
  seGate (s.gang k.gk) w isS isSorInt (if data then isS else isUnused) none (w.mods == 0) guarded (if data then [w.a, w.b] else [w.a])

/-- The path of SFLUSH: `n` lines from a virtual line on that all pass their checks, and the state that they leave. -/
def State.flushed (s : State) (k : Ctx) (m : BitVec 32) (inv : Bool) (line : Nat) : Nat → Option State
  | 0 => some s
  | n + 1 => match s.check k.part (8 * k.part) k.asker (64 * line % 2 ^ 64) 1 1 .read false false with
    | (c, .pass pa) => State.flushed (if inMmio pa then c else c.flushLine k.part pa inv) k m inv (line + 1) n
    | _ => none

/-! ### Ranked lists and the exchange -/

/-- The gate of XST. -/
def xstGate (w : F3) : State → Ctx → Gate := fun s k =>
  xeGate (s.gang k.gk) w isStoreData isVSInt isVS (modsIn w.mods 7 && storeOk (s.gang k.gk) w.dst w.mods) true ([w.a, w.b] ++ dataRegs w.dst w.mods)

/-- Every executing lane's offset is aligned and within the allocation (R381). -/
abbrev Issue.xstFits (x : Issue) (w : F3) : Prop :=
  x.w.sqFull = false ∧ someLane x ∧ ∀ l, l < 32 → (x.act &&& ~~~x.k.helpers).getLsbD l = true →
    (x.rd 1 w.b l).toNat % widthBytes (widthCode w.mods) = 0 ∧ (x.rd 1 w.b l).toNat + widthBytes (widthCode w.mods) ≤ 256 * x.g.spb

/-- The buffer or channel number of a Huapol word, and whether it is the partition's and configured. -/
def Issue.chan (x : Issue) (w : F3) : Nat := (x.rd 0 w.a 0).toNat
abbrev Issue.owns (x : Issue) (w : F3) : Prop := x.s.ownsPort x.k.part (x.chan w) = true

/-- The gate of a Huapol word without a second source. -/
def linkGate (w : F3) (m : BitVec 5) : State → Ctx → Gate := fun s k => xeGate (s.gang k.gk) w isS isSorInt isUnused (w.mods == m) true [w.a]

/-- The words that act once for their weave, none of them the sequencer's or the load/store unit's, with their gates: they
act only where a lane that is no helper executes them (R267, R273, R316, R341, R359, R380). -/
def onceForms (w : F3) : List (Instr × (State → Ctx → Gate)) :=
  let bc (d a b : Operand → Bool) (vals : List Operand) (m : Bool) : State → Ctx → Gate := fun s k => bcGate (s.gang k.gk) w d a b m vals
  let mx (d a : Operand → Bool) (vals : List Operand) (m : Bool) : State → Ctx → Gate := fun s k => mxGate (s.gang k.gk) w d a isUnused m vals
  let nn (d a : Operand → Bool) (vals : List Operand) (m : Bool) : State → Ctx → Gate := fun s k => nnGate (s.gang k.gk) w d a isUnused m vals
  let st (a b : Operand → Bool) (guarded : Bool) (vals : List Operand) : State → Ctx → Gate := fun s k =>
    stepGate (s.gang k.gk) w isS a b (w.mods == 0) guarded vals
  let pairSt (a : Operand → Bool) (vals : List Operand) (m : BitVec 5) : State → Ctx → Gate := fun s k =>
    stepGate (s.gang k.gk) w isPairS a isUnused (w.mods == m && inDemand (s.gang k.gk) w.dst 2) false vals
  let one (d : Operand → Bool) (guarded : Bool) : State → Ctx → Gate := fun s k =>
    seGate (s.gang k.gk) w d isSorInt isUnused none (w.mods == 0) guarded [w.a]
  let ent := w.mods.getLsbD 3
  let field := w.mods.extractLsb' 0 3
  let regs := w.dst :: if ent then [nextReg w.dst 1] else []
  let lists := (List.range 5).map (nextReg w.srcC)
  [ (.blease w, bc isS isSorInt isUnused [w.a] (w.mods == 0)), (.brel w, bc isUnused isSorInt isUnused [w.a] (w.mods == 0)),
    (.bstat w, bc isS isSorInt isUnused [w.a] (w.mods == 0)), (.bseamQ w, bc isS isSorInt isUnused [w.a] (w.mods == 0)),
    (.bseamPair w, bc isS isSorInt isUnused [w.a] (w.mods.extractLsb' 2 3 == 0)),
    (.bseamUn w, bc isS isUnused isUnused [] (w.mods.extractLsb' 2 3 == 0)),
    (.wslot w, fun s k => { bc isUnused isS isS [w.a, w.b] (w.mods.extractLsb' 3 2 == 0) s k with privileged := true }),
    (.wslotRd w, fun s k => { bcGate (s.gang k.gk) w isPairS isUnused isUnused
      (w.mods.extractLsb' 3 2 == 0 && inDemand (s.gang k.gk) w.dst 2) [] with privileged := true }),
    (.tcfgrd w, mx isS isSorInt [w.a] (w.mods == 0)), (.accstat w, mx isS isSorInt [w.a] (modsIn w.mods 1)),
    (.opfence w, mx isUnused isUnused [] (w.mods == 0)),
    (.accrd w, fun s k => { mx isV isSorInt [w.a] (!w.mods.getLsbD 4 &&
        (if ent then field == 0 && isPair w.dst && inDemand (s.gang k.gk) w.dst 2 else field.toNat == 4 || field == 0)) s k
      with drops := vregsOf regs }),
    (.accwr w, fun s k => mx isV isSorInt (if ent then [w.dst, nextReg w.dst 1, w.a] else [w.dst, w.a])
      (w.mods &&& 0b10111#5 == 0 && (!ent || (isPair w.dst && inDemand (s.gang k.gk) w.dst 2))) s k),
    (.tkcfg w, nn isS isSorInt [w.a] (modsIn w.mods 1)), (.tkclr w, nn isUnused isUnused [] (w.mods == 0)),
    (.tkstat w, nn isS isSorInt [w.a] (w.mods == 0)),
    (.steprd w, pairSt isUnused [] 0), (.steprdGe w, pairSt isSorConst [w.a] 1), (.steprdPend w, pairSt isUnused [] 2),
    (.stepadv w, st isSorConst isUnused true [w.a]), (.ftset w, st isSorConst isSorConst true [w.a, w.b]), (.swpstat w, st isSorConst isUnused false [w.a]),
    (.qenq w, queueGate w true true), (.qdeq w, queueGate w false true), (.qpark w, queueGate w false true), (.qstat w, queueGate w false false),
    (.qinit w, fun s k => { seGate (s.gang k.gk) w isS isSorInt isS none (w.mods == 0 && inDemand (s.gang k.gk) w.b 3) true
      [w.a, w.b, nextReg w.b 1, nextReg w.b 2] with privileged := true }),
    (.qinitInv w, fun s k => { seGate (s.gang k.gk) w isS isSorInt isUnused none (w.mods == 1) true [w.a] with privileged := true }),
    (.cntrd w, one isS false), (.cntclr w, one isUnused true),
    (.watch w, fun s k => seGate (s.gang k.gk) w isS isPairS isPairS (some isS)
      (modsIn w.mods 3 && inDemand (s.gang k.gk) w.a 2 && inDemand (s.gang k.gk) w.b 2 && inDemand (s.gang k.gk) w.srcC 5 && decide (regNum w.srcC + 5 ≤ 64))
      true ([w.a, nextReg w.a 1, w.b, nextReg w.b 1] ++ lists)),
    (.watchCancel w, fun s k => seGate (s.gang k.gk) w isS isSorInt isUnused (some isUnused) (w.mods == 16) true [w.a]),
    (.sflush w, fun s k => seGate (s.gang k.gk) w isUnused isPairS isS none (modsIn w.mods 1 && inDemand (s.gang k.gk) w.a 2) false [w.a, nextReg w.a 1, w.b]),
    (.xstat w, fun s k => xeGate (s.gang k.gk) w isS isSorInt isUnused (modsIn w.mods 1) false [w.a]),
    (.xcnt w, fun s k => xeGate (s.gang k.gk) w isS isSorInt isUnused (w.mods == 0) false [w.a]),
    (.lbufcfgRx w, fun s k =>
      let gt := xeGate (s.gang k.gk) w isS isSorInt isS (w.mods == 0) true [w.a, w.b, nextReg w.b 1, nextReg w.b 2]
      { gt with legal := gt.legal && inDemand (s.gang k.gk) w.b 3 && decide (regNum w.b + 3 ≤ 64) }),
    (.lbufcfgTx w, linkGate w 1), (.lbufcfgOff w, linkGate w 2), (.lret w, linkGate w 0),
    (.lpoll w, fun s k => xeGate (s.gang k.gk) w isPairS isSorInt isUnused (modsIn w.mods 1 && inDemand (s.gang k.gk) w.dst 2) true [w.a]) ] ++
  (multiplyForms w).map fun f =>
    (f.1, fun s k => mxGate (s.gang k.gk) { w with reuse := false } (fun d => isH d || isZero d) isV isSorInt (w.mods.extractLsb' 3 2 == 0) [w.b])

/-! ### The prologue -/

/-- A word of the prologue sequencer that is legal there and whose predicate passes. -/
def State.prologueRuns (s : State) (p : Nat) (x : Prologue) (pred : Nat) (neg : Bool) : Prop :=
  s.atPrologue p x ∧ (x.preds.getLsbD pred != neg) = true

/-- The prologue's own words without operands. -/
def bareForms (w : F3) : List Instr := [.plgo w, .plcancel w, .plrepeat w]

/-! ### Events -/

/-- An event's meaning answers a state with a property. -/
def State.gives (s : State) (i : Instr) (post : State → Prop) : Prop := ∃ t, exec i s = .next t ∧ post t

/-- Memory of the device and of the host reads as before. -/
def State.memoryKept (s t : State) : Prop :=
  (∀ a, Table.get 0 t.mem a = Table.get 0 s.mem a) ∧ ∀ a, Table.get 0 t.hostMem a = Table.get 0 s.hostMem a

/-- A weave that stands in the table and has no fault that waits. -/
abbrev State.calmWeave (s : State) (wk : Nat) : Prop := (s.weaves.find wk).isSome = true ∧ (s.weave wk).pend = []

/-- Every byte of memory outside an item's bytes reads as before. -/
def keptOutside (s t : State) (a n : Nat) : Prop := ∀ i, (i < a ∨ a + n ≤ i) → Table.get 0 t.mem i = Table.get 0 s.mem i

/-! ### Events of the engines -/

/-- A record that stands, is pending and may go on in its turn. -/
abbrev State.matrixTurn (s : State) (r : Nat) (o : AsyncOp) (g : Gang) : Prop :=
  s.ops.find r = some o ∧ o.state = .pending ∧ s.mxReady r = true ∧ s.gangs.find o.gang = some g

/-- A command of the copy engine that stands, is pending, can go on by a unit, and whose launch the core's table serves. -/
abbrev State.copyTurn (s : State) (r : Nat) (o : AsyncOp) : Prop :=
  s.ops.find r = some o ∧ o.state = .pending ∧ s.ceGoes r = true ∧ s.serves o.core 1 o.launch (s.ceReady o.core) = true

/-- The same of the nearest-neighbour engine. -/
abbrev State.searchTurn (s : State) (r : Nat) (o : AsyncOp) : Prop := s.ops.find r = some o ∧ o.state = .pending ∧ s.nnTurn r = true

/-- The rows that a completed round accumulates from, none of its streams taking scales. -/
def State.roundRows (s : State) (b : Bond) (x : Round) : List ArrayRow :=
  (List.range b.h).map fun i => {
    planes := (List.range b.w).map fun c => s.sharePlane b x (b.at_ i c), a := wordBytes (Table.get [] x.granted (b.at_ i 0))
    afmt := (s.op ((x.shares.find (b.at_ i 0)).getD {}).op).arg 2, scales := none }

/-- No stream of the round's west members takes scales. -/
abbrev State.noScales (s : State) (b : Bond) (x : Round) : Prop :=
  ∀ i, i < b.h → let y := (s.gang (b.gangOf (b.at_ i 0))).stream ((s.op ((x.shares.find (b.at_ i 0)).getD {}).op).arg 1)
    y.off = 0xFFFFFFFF#32 ∧ y.skewed = false

/-! ### Events of the firmware, the package and the front end -/

/-- A mailbox command has been started that nothing refuses: no alarm, a readable buffer, and a partition that is active
or not as the command asks. -/
abbrev State.mails (s : State) (cmd : Nat) (act : Bool) : Prop :=
  s.mailbox.go = true ∧ s.mailbox.cmd = cmd ∧ s.alarm.refuse = false ∧ s.argOk = true ∧ (s.part s.mailbox.part).ctl.act = act

/-- A mailbox command has ended with an MST. -/
def State.mailed (s t : State) (mst : Nat) : Prop := t.mailbox = { s.mailbox with go := false, mst := mst }

/-- A service has replied to a request: the first registers, every lane that waited goes on, and nothing else of memory. -/
def State.replied (s t : State) (wk : Nat) (q : SyscReq) (vs : List Word) : Prop :=
  s.memoryKept t ∧ (∀ i, i < vs.length → (t.weave wk).sget i = vs.getD i 0) ∧
  ∀ l, l < 32 → ((s.weave wk).waiting q).getLsbD l = true → ((t.weave wk).lane l).hold = none

/-- A kernel or other packet of a TYPE has passed its checks, its dependencies are met, and its event may go on. -/
abbrev State.packetDue (s : State) (l ty : Nat) (x : Launch) : Prop :=
  s.launches.find l = some x ∧ x.typ = ty ∧ x.ended = false ∧ s.inPrologue l = false ∧ x.depTickets = [] ∧ x.checked = true ∧ x.state = 1

/-- A launch has ended with a status. -/
def State.finished (t : State) (l : Nat) (st : Word) : Prop := (t.launch l).ended = true ∧ (t.launch l).status = st

/-! ### Words, encodings and the whole machine -/

/-- An F3, FI or FX word whose other fields are zero. -/
def wordF3 (dst a b : Operand) (mods : BitVec 5) (pred : BitVec 4) : F3 :=
  { dst := dst, a := a, b := b, modb := 0, pred := pred, neg := false, hold := 0, reuse := false, mods := mods }
def wordFI (dst a : Operand) (imm : BitVec 24) (mods : BitVec 5) (pred : BitVec 4) : FI :=
  { dst := dst, a := a, imm := imm, pred := pred, neg := false, mods := mods }
def wordFX (dbase : BitVec 6) (hdst : BitVec 4) (noh : Bool) (subop : BitVec 8) (imm : BitVec 24) : FX :=
  { dbase := dbase, hdst := hdst, noh := noh, subop := subop, imm := imm, aflag := 0, afen := false, rsvd := 0 }

/-- The state in which the next word of the issue cycle is fetched. -/
def State.fetching (s : State) (x : Actor) (rest : List Actor) : State := { s with issue := rest, cur := some x, ev := {} }

end Sys2Proof.Machine
end

