-- ==== Sys2Proof/WellFormed.lean ====
section
/-! DEFINITION. Which terms of `Instr` are instructions: the selector field of a word whose opcode has several forms
names the form of its constructor (R84 and the encoding table of its chapter). Field legality, which the sequencer checks at issue (R86), is Sys2Proof/Machine/Legal.lean. -/

namespace Sys2Proof

/-- Whether a term is a well-formed instruction. -/
def Instr.wellFormed : Instr → Bool
  | .iadd _ => true
  | .iaddFi _ => true
  | .isub _ => true
  | .isubFi _ => true
  | .imul _ => true
  | .imulFi _ => true
  | .imulh _ => true
  | .imad _ => true
  | .imadw _ => true
  | .iabs _ => true
  | .ineg _ => true
  | .imin _ => true
  | .iminFi _ => true
  | .imax _ => true
  | .imaxFi _ => true
  | .and _ => true
  | .andFi _ => true
  | .or _ => true
  | .orFi _ => true
  | .xor _ => true
  | .xorFi _ => true
  | .not _ => true
  | .andn _ => true
  | .andnFi _ => true
  | .shl _ => true
  | .shlFi _ => true
  | .shr _ => true
  | .shrFi _ => true
  | .rot _ => true
  | .rotFi _ => true
  | .bfe _ => true
  | .bfeFi _ => true
  | .bfi _ => true
  | .popc _ => true
  | .clz _ => true
  | .ctz _ => true
  | .brev _ => true
  | .isel _ => true
  | .icmp _ => true
  | .icmpFi _ => true
  | .iaddc _ => true
  | .lea _ => true
  | .leaFi _ => true
  | .mov _ => true
  | .movi _ => true
  | .movhi _ => true
  | .pand _ => true
  | .por _ => true
  | .pxor _ => true
  | .idp4 _ => true
  | .fadd _ => true
  | .faddFi _ => true
  | .fsub _ => true
  | .fsubFi _ => true
  | .fmul _ => true
  | .fmulFi _ => true
  | .ffma _ => true
  | .fmin _ => true
  | .fmax _ => true
  | .fcmp _ => true
  | .fcmpFi _ => true
  | .frcp _ => true
  | .fsqrt _ => true
  | .frsq _ => true
  | .fexp2 _ => true
  | .flog2 _ => true
  | .fsin _ => true
  | .fcos _ => true
  | .ftanh _ => true
  | .hadd2 _ => true
  | .hmul2 _ => true
  | .hfma2 _ => true
  | .hdot2 _ => true
  | .cvt _ => true
  | .pack _ => true
  | .unpack _ => true
  | .qswap _ => true
  | .qbcast _ => true
  | .shfl _ => true
  | .wred _ => true
  | .srnd _ => true
  | .d2Word _ _ => true
  | .bra _ => true
  | .brau _ => true
  | .jmpi _ => true
  | .call _ => true
  | .calli _ => true
  | .ret _ => true
  | .meet _ => true
  | .rejoin _ => true
  | .exit _ => true
  | .nop _ => true
  | .yield _ => true
  | .vote _ => true
  | .actmask _ => true
  | .sign _ => true
  | .cvdecl _ => true
  | .hwait w => !decide (w.mods &&& 1 = 1)
  | .hwaitAll w => decide (w.mods &&& 1 = 1)
  | .htest _ => true
  | .hcancel _ => true
  | .hmov w => !decide (w.mods &&& 3 = 1) && !decide (w.mods &&& 3 = 2)
  | .hmovSt w => decide (w.mods &&& 3 = 1)
  | .hmovLd w => decide (w.mods &&& 3 = 2)
  | .gbar _ => true
  | .cbar _ => true
  | .rsend _ => true
  | .rtake _ => true
  | .rstat _ => true
  | .trap _ => true
  | .sysc _ => true
  | .eret _ => true
  | .rdsr _ => true
  | .wrsr _ => true
  | .stkset _ => true
  | .clrflg _ => true
  | .flgrd _ => true
  | .ld _ => true
  | .ldFi _ => true
  | .st _ => true
  | .stFi _ => true
  | .lds _ => true
  | .ldsFi _ => true
  | .sts _ => true
  | .stsFi _ => true
  | .ldc _ => true
  | .ldcFi _ => true
  | .atom _ => true
  | .fence _ => true
  | .pfl1 _ => true
  | .pfl1Fi _ => true
  | .cctlIvl w => !decide (w.mods &&& 7 = 1) && !decide (w.mods &&& 7 = 2)
  | .cctlIvd w => decide (w.mods &&& 7 = 1)
  | .cctlIvi w => decide (w.mods &&& 7 = 2)
  | .nlease w => !decide (w.mods &&& 1 = 1)
  | .nleaseSt w => decide (w.mods &&& 1 = 1)
  | .nrel _ => true
  | .nspl _ => true
  | .nfil _ => true
  | .pgmap _ => true
  | .pgdone _ => true
  | .dld _ => true
  | .dadd _ => true
  | .dset _ => true
  | .draw _ => true
  | .steprd w => !decide (w.mods &&& 3 = 1) && !decide (w.mods &&& 3 = 2)
  | .steprdGe w => decide (w.mods &&& 3 = 1)
  | .steprdPend w => decide (w.mods &&& 3 = 2)
  | .stepadv _ => true
  | .ftset _ => true
  | .swpreg w => !decide (w.subop.toNat = 1) && !decide (w.subop.toNat = 2) && !decide (w.subop.toNat = 3)
  | .swpregInv w => decide (w.subop.toNat = 1)
  | .swpregThr w => decide (w.subop.toNat = 2)
  | .swpregNow w => decide (w.subop.toNat = 3)
  | .swpstat _ => true
  | .tcfgCfg w => !decide (w.subop.toNat = 1)
  | .tcfgTile w => decide (w.subop.toNat = 1)
  | .tcfgrd _ => true
  | .wlatch _ => true
  | .cbkld _ => true
  | .mma _ => true
  | .mmas _ => true
  | .mmal _ => true
  | .mmac _ => true
  | .opfence _ => true
  | .accz _ => true
  | .accrd _ => true
  | .accwr _ => true
  | .accld _ => true
  | .accst _ => true
  | .accprom _ => true
  | .drain _ => true
  | .drainundo _ => true
  | .accstat _ => true
  | .bform _ => true
  | .blease _ => true
  | .brel _ => true
  | .bstat _ => true
  | .bsave _ => true
  | .bresume _ => true
  | .wslot w => !decide (w.mods &&& 4 = 4)
  | .wslotRd w => decide (w.mods &&& 4 = 4)
  | .bseamQ w => !decide (w.mods &&& 3 = 1) && !decide (w.mods &&& 3 = 2)
  | .bseamPair w => decide (w.mods &&& 3 = 1)
  | .bseamUn w => decide (w.mods &&& 3 = 2)
  | .tcopy w => !decide (w.subop.toNat = 1)
  | .tcopyG w => decide (w.subop.toNat = 1)
  | .tmcast _ => true
  | .tqnt _ => true
  | .tdq _ => true
  | .sload _ => true
  | .sstore _ => true
  | .bpref _ => true
  | .sgpat w => !decide (w.subop.toNat = 1)
  | .sgpatInv w => decide (w.subop.toNat = 1)
  | .sgstat _ => true
  | .tfill _ => true
  | .ratom _ => true
  | .qenq _ => true
  | .qdeq _ => true
  | .qpark _ => true
  | .qstat _ => true
  | .qinit w => !decide (w.mods &&& 1 = 1)
  | .qinitInv w => decide (w.mods &&& 1 = 1)
  | .cntrd _ => true
  | .cntclr _ => true
  | .watch w => !decide (w.mods &&& 16 = 16)
  | .watchCancel w => decide (w.mods &&& 16 = 16)
  | .sflush _ => true
  | .gres _ => true
  | .gdist _ => true
  | .tkcfg _ => true
  | .tkins _ => true
  | .tkmrgWv w => !decide (w.subop.toNat = 1) && !decide (w.subop.toNat = 2)
  | .tkmrgSt w => decide (w.subop.toNat = 1)
  | .tkmrgLd w => decide (w.subop.toNat = 2)
  | .tkrd _ => true
  | .tkclr _ => true
  | .tkstat _ => true
  | .xst _ => true
  | .xbcast _ => true
  | .xstep _ => true
  | .xstat _ => true
  | .lsend _ => true
  | .lpoll _ => true
  | .lret _ => true
  | .lbufcfgRx w => !decide (w.mods &&& 3 = 1) && !decide (w.mods &&& 3 = 2)
  | .lbufcfgTx w => decide (w.mods &&& 3 = 1)
  | .lbufcfgOff w => decide (w.mods &&& 3 = 2)
  | .xcnt _ => true
  | .plset _ => true
  | .plgo _ => true
  | .plcancel _ => true
  | .plrepeat _ => true
  | .pldep _ => true
  | .plstat _ => true
  | .llWriteback => true
  | .commandAccept => true
  | .storeQueueLeave => true
  | .weaveEnd => true
  | .gangEnd => true
  | .windowFaultDelivery => true
  | .tlbWalk => true
  | .pagerUpcall => true
  | .invalidatePage => true
  | .invalidateRange => true
  | .invalidatePartition => true
  | .invalidationDone => true
  | .refusalLogClear => true
  | .registerWrite => true
  | .issueCycle => true
  | .slotTableDeal => true
  | .leaseRevoke => true
  | .matrixOperationExecute => true
  | .tcfgEffect => true
  | .drainShard => true
  | .bondFormComplete => true
  | .roundGrant => true
  | .roundIssue => true
  | .roundComplete => true
  | .operandLinkError => true
  | .copyUnit => true
  | .nvmeCompletion => true
  | .nvmeTimeout => true
  | .gdistCandidate => true
  | .sliceReadRequest => true
  | .sliceWriteRequest => true
  | .sectorFillComplete => true
  | .writeBackDrain => true
  | .provisionalWrite => true
  | .tileCommit => true
  | .tileDiscard => true
  | .watchFire => true
  | .soloBoundary => true
  | .sweepVisit => true
  | .xstLand => true
  | .escapementRelease => true
  | .huapolFlitReceive => true
  | .linkDown => true
  | .slotFull => true
  | .creditReceive => true
  | .fullAcknowledgement => true
  | .discardReport => true
  | .doorbellKick => true
  | .queueMap => true
  | .slotIdleTimeout => true
  | .ageTick => true
  | .dispatchStreamChoice => true
  | .packetTake => true
  | .directPacket => true
  | .indirectPacket => true
  | .guardedPacket => true
  | .signalPacket => true
  | .watchPacket => true
  | .barrierPacket => true
  | .stitchPacket => true
  | .dependencyEvaluation => true
  | .dependencyPoll => true
  | .prologueWordLimit => true
  | .prologueRepeat => true
  | .gangDispatch => true
  | .launchCompletion => true
  | .tileDecision => true
  | .runLimitExpiry => true
  | .priorityWaitExpiry => true
  | .drainDeadlineExpiry => true
  | .preemptTrap => true
  | .launchResume => true
  | .commandLinkMessage => true
  | .commandLinkError => true
  | .syscNull => true
  | .syscSaveDone => true
  | .syscPartitionInfo => true
  | .syscTime => true
  | .syscLog => true
  | .pcreate => true
  | .pdestroy => true
  | .psuspend => true
  | .presume => true
  | .storset => true
  | .imgwrite => true
  | .attest => true
  | .provision => true
  | .reset => true
  | .fullServiceSwitch => true
  | .thermalHold => true
  | .thermalRelease => true
  | .thermalTrip => true
  | .securityAlarm => true
  | .correctedError => true
  | .uncorrectableError => true
  | .scratchpadBankGate => true
  | .scratchpadBankWake => true
  | .l2WayGate => true
  | .l2WayWake => true
  | .matrixCommandUnit => true
  | .tkmrgResolve => true
  | .lsendDeparture => true

end Sys2Proof
end

