-- ==== Sys2Proof/Laws/Encoding.lean ====
section
/-! SUPPORT. The fields of an encoded word read back: operands, the four formats, and the choice of a form. -/

namespace Sys2Proof

theorem special_roundtrip (k : Special) : specialOf (specialIndex k) = k := by cases k <;> rfl

theorem specialIndex_lt (k : Special) : specialIndex k < 24 := by cases k <;> decide

/-- An operand's code names the operand (R73). -/
@[simp] theorem decodeOperand_encodeOperand (o : Operand) : decodeOperand (encodeOperand o) = o := by
  have hk : ∀ n : Nat, n < 512 → (BitVec.ofNat 9 n).toNat = n := fun n h => by
    rw [BitVec.toNat_ofNat]; exact Nat.mod_eq_of_lt h
  cases o with
  | v i =>
    have h := i.isLt
    simp only [encodeOperand, decodeOperand, hk _ (show i.val < 512 by omega), dif_pos h]
  | s i =>
    have h := i.isLt
    have e : 320 + i.val - 320 = i.val := by omega
    simp only [encodeOperand, decodeOperand, hk _ (show 320 + i.val < 512 by omega), e]
    simp [show ¬ 320 + i.val < 320 by omega]
  | p i =>
    have h := i.isLt
    have e : 384 + i.val - 384 = i.val := by omega
    simp only [encodeOperand, decodeOperand, hk _ (show 384 + i.val < 512 by omega), e]
    simp [show ¬ 384 + i.val < 320 by omega, show ¬ 384 + i.val - 320 < 64 by omega]
  | h i =>
    have h := i.isLt
    have e : 400 + i.val - 400 = i.val := by omega
    simp only [encodeOperand, decodeOperand, hk _ (show 400 + i.val < 512 by omega), e]
    simp [show ¬ 400 + i.val < 320 by omega, show ¬ 400 + i.val - 320 < 64 by omega, show ¬ 400 + i.val - 384 < 16 by omega]
  | c i =>
    have h := i.isLt
    have e : 416 + i.val - 416 = i.val := by omega
    simp only [encodeOperand, decodeOperand, hk _ (show 416 + i.val < 512 by omega), e]
    simp [show ¬ 416 + i.val < 320 by omega, show ¬ 416 + i.val - 320 < 64 by omega, show ¬ 416 + i.val - 384 < 16 by omega,
      show ¬ 416 + i.val - 400 < 16 by omega]
  | special k =>
    have h := specialIndex_lt k
    have e : 424 + specialIndex k - 424 = specialIndex k := by omega
    simp only [encodeOperand, decodeOperand, hk _ (show 424 + specialIndex k < 512 by omega), e, special_roundtrip]
    simp [show ¬ 424 + specialIndex k < 320 by omega, show ¬ 424 + specialIndex k - 320 < 64 by omega,
      show ¬ 424 + specialIndex k - 384 < 16 by omega, show ¬ 424 + specialIndex k - 400 < 16 by omega,
      show ¬ 424 + specialIndex k - 416 < 8 by omega, h]
  | int i =>
    have h := i.isLt
    have e : 448 + i.val - 448 = i.val := by omega
    simp only [encodeOperand, decodeOperand, hk _ (show 448 + i.val < 512 by omega), e]
    simp [show ¬ 448 + i.val < 320 by omega, show ¬ 448 + i.val - 320 < 64 by omega,
      show ¬ 448 + i.val - 384 < 16 by omega, show ¬ 448 + i.val - 400 < 16 by omega,
      show ¬ 448 + i.val - 416 < 8 by omega, show ¬ 448 + i.val - 424 < 24 by omega]
  | fp i =>
    have h := i.isLt
    have e : 480 + i.val - 480 = i.val := by omega
    simp only [encodeOperand, decodeOperand, hk _ (show 480 + i.val < 512 by omega), e]
    simp [show ¬ 480 + i.val < 320 by omega, show ¬ 480 + i.val - 320 < 64 by omega,
      show ¬ 480 + i.val - 384 < 16 by omega, show ¬ 480 + i.val - 400 < 16 by omega,
      show ¬ 480 + i.val - 416 < 8 by omega, show ¬ 480 + i.val - 424 < 24 by omega, show ¬ 480 + i.val - 448 < 32 by omega]

/-- The field of an appended word that is its lower part. -/
theorem extract_append_low {m n : Nat} (x : BitVec m) (y : BitVec n) : (x ++ y).extractLsb' 0 n = y := by
  ext i hi
  simp [BitVec.getLsbD_append, hi]

/-- A field of an appended word that lies in its upper part. -/
theorem extract_append_high {m n s k : Nat} (x : BitVec m) (y : BitVec n) (h : n ≤ s) :
    (x ++ y).extractLsb' s k = x.extractLsb' (s - n) k := by
  ext i hi
  simp only [BitVec.getElem_extractLsb', BitVec.getLsbD_append]
  rw [if_neg (by omega)]
  congr 1
  omega

/-- A field of an appended word that lies in its lower part. -/
theorem extract_append_inner {m n s k : Nat} (x : BitVec m) (y : BitVec n) (h : s + k ≤ n) :
    (x ++ y).extractLsb' s k = y.extractLsb' s k := by
  ext i hi
  simp only [BitVec.getElem_extractLsb', BitVec.getLsbD_append]
  rw [if_pos (by omega)]

theorem extract_all {n : Nat} (x : BitVec n) : x.extractLsb' 0 n = x := by
  ext i hi
  simp

theorem getLsbD_append_low {m n i : Nat} (x : BitVec m) (y : BitVec n) (h : i < n) : (x ++ y).getLsbD i = y.getLsbD i := by
  simp [BitVec.getLsbD_append, h]

theorem getLsbD_append_high {m n i : Nat} (x : BitVec m) (y : BitVec n) (h : n ≤ i) :
    (x ++ y).getLsbD i = x.getLsbD (i - n) := by
  simp [BitVec.getLsbD_append, Nat.not_lt.2 h]

theorem getLsbD_ofBool_zero (b : Bool) : (BitVec.ofBool b).getLsbD 0 = b := by cases b <;> rfl

/-! ### Field by field -/

theorem encodeF3_fmt (opc : BitVec 10) (w : F3) : (encodeF3 opc w).extractLsb' 62 2 = 0#2 :=
  ((extract_append_high (m := 59) (n := 5) _ _ (by decide)).trans ((extract_append_high (m := 58) (n := 1) _ _ (by decide)).trans ((extract_append_high (m := 56) (n := 2) _ _ (by decide)).trans ((extract_append_high (m := 55) (n := 1) _ _ (by decide)).trans ((extract_append_high (m := 51) (n := 4) _ _ (by decide)).trans ((extract_append_high (m := 39) (n := 12) _ _ (by decide)).trans ((extract_append_high (m := 30) (n := 9) _ _ (by decide)).trans ((extract_append_high (m := 21) (n := 9) _ _ (by decide)).trans ((extract_append_high (m := 12) (n := 9) _ _ (by decide)).trans ((extract_append_high (m := 2) (n := 10) _ _ (by decide)).trans (extract_all _)))))))))))

theorem encodeF3_opcode (opc : BitVec 10) (w : F3) : (encodeF3 opc w).extractLsb' 52 10 = opc :=
  ((extract_append_high (m := 59) (n := 5) _ _ (by decide)).trans ((extract_append_high (m := 58) (n := 1) _ _ (by decide)).trans ((extract_append_high (m := 56) (n := 2) _ _ (by decide)).trans ((extract_append_high (m := 55) (n := 1) _ _ (by decide)).trans ((extract_append_high (m := 51) (n := 4) _ _ (by decide)).trans ((extract_append_high (m := 39) (n := 12) _ _ (by decide)).trans ((extract_append_high (m := 30) (n := 9) _ _ (by decide)).trans ((extract_append_high (m := 21) (n := 9) _ _ (by decide)).trans ((extract_append_high (m := 12) (n := 9) _ _ (by decide)).trans (extract_append_low (m := 2) (n := 10) _ _))))))))))

theorem encodeF3_dst (opc : BitVec 10) (w : F3) : (encodeF3 opc w).extractLsb' 43 9 = encodeOperand w.dst :=
  ((extract_append_high (m := 59) (n := 5) _ _ (by decide)).trans ((extract_append_high (m := 58) (n := 1) _ _ (by decide)).trans ((extract_append_high (m := 56) (n := 2) _ _ (by decide)).trans ((extract_append_high (m := 55) (n := 1) _ _ (by decide)).trans ((extract_append_high (m := 51) (n := 4) _ _ (by decide)).trans ((extract_append_high (m := 39) (n := 12) _ _ (by decide)).trans ((extract_append_high (m := 30) (n := 9) _ _ (by decide)).trans ((extract_append_high (m := 21) (n := 9) _ _ (by decide)).trans (extract_append_low (m := 12) (n := 9) _ _)))))))))

theorem encodeF3_a (opc : BitVec 10) (w : F3) : (encodeF3 opc w).extractLsb' 34 9 = encodeOperand w.a :=
  ((extract_append_high (m := 59) (n := 5) _ _ (by decide)).trans ((extract_append_high (m := 58) (n := 1) _ _ (by decide)).trans ((extract_append_high (m := 56) (n := 2) _ _ (by decide)).trans ((extract_append_high (m := 55) (n := 1) _ _ (by decide)).trans ((extract_append_high (m := 51) (n := 4) _ _ (by decide)).trans ((extract_append_high (m := 39) (n := 12) _ _ (by decide)).trans ((extract_append_high (m := 30) (n := 9) _ _ (by decide)).trans (extract_append_low (m := 21) (n := 9) _ _))))))))

theorem encodeF3_b (opc : BitVec 10) (w : F3) : (encodeF3 opc w).extractLsb' 25 9 = encodeOperand w.b :=
  ((extract_append_high (m := 59) (n := 5) _ _ (by decide)).trans ((extract_append_high (m := 58) (n := 1) _ _ (by decide)).trans ((extract_append_high (m := 56) (n := 2) _ _ (by decide)).trans ((extract_append_high (m := 55) (n := 1) _ _ (by decide)).trans ((extract_append_high (m := 51) (n := 4) _ _ (by decide)).trans ((extract_append_high (m := 39) (n := 12) _ _ (by decide)).trans (extract_append_low (m := 30) (n := 9) _ _)))))))

theorem encodeF3_modb (opc : BitVec 10) (w : F3) : (encodeF3 opc w).extractLsb' 13 12 = w.modb :=
  ((extract_append_high (m := 59) (n := 5) _ _ (by decide)).trans ((extract_append_high (m := 58) (n := 1) _ _ (by decide)).trans ((extract_append_high (m := 56) (n := 2) _ _ (by decide)).trans ((extract_append_high (m := 55) (n := 1) _ _ (by decide)).trans ((extract_append_high (m := 51) (n := 4) _ _ (by decide)).trans (extract_append_low (m := 39) (n := 12) _ _))))))

theorem encodeF3_pred (opc : BitVec 10) (w : F3) : (encodeF3 opc w).extractLsb' 9 4 = w.pred :=
  ((extract_append_high (m := 59) (n := 5) _ _ (by decide)).trans ((extract_append_high (m := 58) (n := 1) _ _ (by decide)).trans ((extract_append_high (m := 56) (n := 2) _ _ (by decide)).trans ((extract_append_high (m := 55) (n := 1) _ _ (by decide)).trans (extract_append_low (m := 51) (n := 4) _ _)))))

theorem encodeF3_neg (opc : BitVec 10) (w : F3) : (encodeF3 opc w).getLsbD 8 = w.neg :=
  ((getLsbD_append_high (m := 59) (n := 5) _ _ (by decide)).trans ((getLsbD_append_high (m := 58) (n := 1) _ _ (by decide)).trans ((getLsbD_append_high (m := 56) (n := 2) _ _ (by decide)).trans ((getLsbD_append_low (m := 55) (n := 1) _ _ (by decide)).trans (getLsbD_ofBool_zero _)))))

theorem encodeF3_hold (opc : BitVec 10) (w : F3) : (encodeF3 opc w).extractLsb' 6 2 = w.hold :=
  ((extract_append_high (m := 59) (n := 5) _ _ (by decide)).trans ((extract_append_high (m := 58) (n := 1) _ _ (by decide)).trans (extract_append_low (m := 56) (n := 2) _ _)))

theorem encodeF3_reuse (opc : BitVec 10) (w : F3) : (encodeF3 opc w).getLsbD 5 = w.reuse :=
  ((getLsbD_append_high (m := 59) (n := 5) _ _ (by decide)).trans ((getLsbD_append_low (m := 58) (n := 1) _ _ (by decide)).trans (getLsbD_ofBool_zero _)))

theorem encodeF3_mods (opc : BitVec 10) (w : F3) : (encodeF3 opc w).extractLsb' 0 5 = w.mods :=
  (extract_append_low (m := 59) (n := 5) _ _)

theorem encodeFI_fmt (opc : BitVec 10) (w : FI) : (encodeFI opc w).extractLsb' 62 2 = 1#2 :=
  ((extract_append_high (m := 59) (n := 5) _ _ (by decide)).trans ((extract_append_high (m := 58) (n := 1) _ _ (by decide)).trans ((extract_append_high (m := 54) (n := 4) _ _ (by decide)).trans ((extract_append_high (m := 30) (n := 24) _ _ (by decide)).trans ((extract_append_high (m := 21) (n := 9) _ _ (by decide)).trans ((extract_append_high (m := 12) (n := 9) _ _ (by decide)).trans ((extract_append_high (m := 2) (n := 10) _ _ (by decide)).trans (extract_all _))))))))

theorem encodeFI_opcode (opc : BitVec 10) (w : FI) : (encodeFI opc w).extractLsb' 52 10 = opc :=
  ((extract_append_high (m := 59) (n := 5) _ _ (by decide)).trans ((extract_append_high (m := 58) (n := 1) _ _ (by decide)).trans ((extract_append_high (m := 54) (n := 4) _ _ (by decide)).trans ((extract_append_high (m := 30) (n := 24) _ _ (by decide)).trans ((extract_append_high (m := 21) (n := 9) _ _ (by decide)).trans ((extract_append_high (m := 12) (n := 9) _ _ (by decide)).trans (extract_append_low (m := 2) (n := 10) _ _)))))))

theorem encodeFI_dst (opc : BitVec 10) (w : FI) : (encodeFI opc w).extractLsb' 43 9 = encodeOperand w.dst :=
  ((extract_append_high (m := 59) (n := 5) _ _ (by decide)).trans ((extract_append_high (m := 58) (n := 1) _ _ (by decide)).trans ((extract_append_high (m := 54) (n := 4) _ _ (by decide)).trans ((extract_append_high (m := 30) (n := 24) _ _ (by decide)).trans ((extract_append_high (m := 21) (n := 9) _ _ (by decide)).trans (extract_append_low (m := 12) (n := 9) _ _))))))

theorem encodeFI_a (opc : BitVec 10) (w : FI) : (encodeFI opc w).extractLsb' 34 9 = encodeOperand w.a :=
  ((extract_append_high (m := 59) (n := 5) _ _ (by decide)).trans ((extract_append_high (m := 58) (n := 1) _ _ (by decide)).trans ((extract_append_high (m := 54) (n := 4) _ _ (by decide)).trans ((extract_append_high (m := 30) (n := 24) _ _ (by decide)).trans (extract_append_low (m := 21) (n := 9) _ _)))))

theorem encodeFI_imm (opc : BitVec 10) (w : FI) : (encodeFI opc w).extractLsb' 10 24 = w.imm :=
  ((extract_append_high (m := 59) (n := 5) _ _ (by decide)).trans ((extract_append_high (m := 58) (n := 1) _ _ (by decide)).trans ((extract_append_high (m := 54) (n := 4) _ _ (by decide)).trans (extract_append_low (m := 30) (n := 24) _ _))))

theorem encodeFI_pred (opc : BitVec 10) (w : FI) : (encodeFI opc w).extractLsb' 6 4 = w.pred :=
  ((extract_append_high (m := 59) (n := 5) _ _ (by decide)).trans ((extract_append_high (m := 58) (n := 1) _ _ (by decide)).trans (extract_append_low (m := 54) (n := 4) _ _)))

theorem encodeFI_neg (opc : BitVec 10) (w : FI) : (encodeFI opc w).getLsbD 5 = w.neg :=
  ((getLsbD_append_high (m := 59) (n := 5) _ _ (by decide)).trans ((getLsbD_append_low (m := 58) (n := 1) _ _ (by decide)).trans (getLsbD_ofBool_zero _)))

theorem encodeFI_mods (opc : BitVec 10) (w : FI) : (encodeFI opc w).extractLsb' 0 5 = w.mods :=
  (extract_append_low (m := 59) (n := 5) _ _)

theorem encodeFX_fmt (opc : BitVec 10) (w : FX) : (encodeFX opc w).extractLsb' 62 2 = 3#2 :=
  ((extract_append_high (m := 60) (n := 4) _ _ (by decide)).trans ((extract_append_high (m := 59) (n := 1) _ _ (by decide)).trans ((extract_append_high (m := 55) (n := 4) _ _ (by decide)).trans ((extract_append_high (m := 31) (n := 24) _ _ (by decide)).trans ((extract_append_high (m := 23) (n := 8) _ _ (by decide)).trans ((extract_append_high (m := 22) (n := 1) _ _ (by decide)).trans ((extract_append_high (m := 18) (n := 4) _ _ (by decide)).trans ((extract_append_high (m := 12) (n := 6) _ _ (by decide)).trans ((extract_append_high (m := 2) (n := 10) _ _ (by decide)).trans (extract_all _))))))))))

theorem encodeFX_opcode (opc : BitVec 10) (w : FX) : (encodeFX opc w).extractLsb' 52 10 = opc :=
  ((extract_append_high (m := 60) (n := 4) _ _ (by decide)).trans ((extract_append_high (m := 59) (n := 1) _ _ (by decide)).trans ((extract_append_high (m := 55) (n := 4) _ _ (by decide)).trans ((extract_append_high (m := 31) (n := 24) _ _ (by decide)).trans ((extract_append_high (m := 23) (n := 8) _ _ (by decide)).trans ((extract_append_high (m := 22) (n := 1) _ _ (by decide)).trans ((extract_append_high (m := 18) (n := 4) _ _ (by decide)).trans ((extract_append_high (m := 12) (n := 6) _ _ (by decide)).trans (extract_append_low (m := 2) (n := 10) _ _)))))))))

theorem encodeFX_dbase (opc : BitVec 10) (w : FX) : (encodeFX opc w).extractLsb' 46 6 = w.dbase :=
  ((extract_append_high (m := 60) (n := 4) _ _ (by decide)).trans ((extract_append_high (m := 59) (n := 1) _ _ (by decide)).trans ((extract_append_high (m := 55) (n := 4) _ _ (by decide)).trans ((extract_append_high (m := 31) (n := 24) _ _ (by decide)).trans ((extract_append_high (m := 23) (n := 8) _ _ (by decide)).trans ((extract_append_high (m := 22) (n := 1) _ _ (by decide)).trans ((extract_append_high (m := 18) (n := 4) _ _ (by decide)).trans (extract_append_low (m := 12) (n := 6) _ _))))))))

theorem encodeFX_hdst (opc : BitVec 10) (w : FX) : (encodeFX opc w).extractLsb' 42 4 = w.hdst :=
  ((extract_append_high (m := 60) (n := 4) _ _ (by decide)).trans ((extract_append_high (m := 59) (n := 1) _ _ (by decide)).trans ((extract_append_high (m := 55) (n := 4) _ _ (by decide)).trans ((extract_append_high (m := 31) (n := 24) _ _ (by decide)).trans ((extract_append_high (m := 23) (n := 8) _ _ (by decide)).trans ((extract_append_high (m := 22) (n := 1) _ _ (by decide)).trans (extract_append_low (m := 18) (n := 4) _ _)))))))

theorem encodeFX_noh (opc : BitVec 10) (w : FX) : (encodeFX opc w).getLsbD 41 = w.noh :=
  ((getLsbD_append_high (m := 60) (n := 4) _ _ (by decide)).trans ((getLsbD_append_high (m := 59) (n := 1) _ _ (by decide)).trans ((getLsbD_append_high (m := 55) (n := 4) _ _ (by decide)).trans ((getLsbD_append_high (m := 31) (n := 24) _ _ (by decide)).trans ((getLsbD_append_high (m := 23) (n := 8) _ _ (by decide)).trans ((getLsbD_append_low (m := 22) (n := 1) _ _ (by decide)).trans (getLsbD_ofBool_zero _)))))))

theorem encodeFX_subop (opc : BitVec 10) (w : FX) : (encodeFX opc w).extractLsb' 33 8 = w.subop :=
  ((extract_append_high (m := 60) (n := 4) _ _ (by decide)).trans ((extract_append_high (m := 59) (n := 1) _ _ (by decide)).trans ((extract_append_high (m := 55) (n := 4) _ _ (by decide)).trans ((extract_append_high (m := 31) (n := 24) _ _ (by decide)).trans (extract_append_low (m := 23) (n := 8) _ _)))))

theorem encodeFX_imm (opc : BitVec 10) (w : FX) : (encodeFX opc w).extractLsb' 9 24 = w.imm :=
  ((extract_append_high (m := 60) (n := 4) _ _ (by decide)).trans ((extract_append_high (m := 59) (n := 1) _ _ (by decide)).trans ((extract_append_high (m := 55) (n := 4) _ _ (by decide)).trans (extract_append_low (m := 31) (n := 24) _ _))))

theorem encodeFX_aflag (opc : BitVec 10) (w : FX) : (encodeFX opc w).extractLsb' 5 4 = w.aflag :=
  ((extract_append_high (m := 60) (n := 4) _ _ (by decide)).trans ((extract_append_high (m := 59) (n := 1) _ _ (by decide)).trans (extract_append_low (m := 55) (n := 4) _ _)))

theorem encodeFX_afen (opc : BitVec 10) (w : FX) : (encodeFX opc w).getLsbD 4 = w.afen :=
  ((getLsbD_append_high (m := 60) (n := 4) _ _ (by decide)).trans ((getLsbD_append_low (m := 59) (n := 1) _ _ (by decide)).trans (getLsbD_ofBool_zero _)))

theorem encodeFX_rsvd (opc : BitVec 10) (w : FX) : (encodeFX opc w).extractLsb' 0 4 = w.rsvd :=
  (extract_append_low (m := 60) (n := 4) _ _)

theorem encodeHalf_op (h : D2Half) : (encodeHalf h).extractLsb' 24 7 = BitVec.ofNat 7 (d2Code h.op) :=
  ((extract_append_high (m := 29) (n := 2) _ _ (by decide)).trans ((extract_append_high (m := 28) (n := 1) _ _ (by decide)).trans ((extract_append_high (m := 25) (n := 3) _ _ (by decide)).trans ((extract_append_high (m := 16) (n := 9) _ _ (by decide)).trans ((extract_append_high (m := 7) (n := 9) _ _ (by decide)).trans (extract_all _))))))

theorem encodeHalf_d (h : D2Half) : (encodeHalf h).extractLsb' 15 9 = encodeOperand h.d :=
  ((extract_append_high (m := 29) (n := 2) _ _ (by decide)).trans ((extract_append_high (m := 28) (n := 1) _ _ (by decide)).trans ((extract_append_high (m := 25) (n := 3) _ _ (by decide)).trans ((extract_append_high (m := 16) (n := 9) _ _ (by decide)).trans (extract_append_low (m := 7) (n := 9) _ _)))))

theorem encodeHalf_s (h : D2Half) : (encodeHalf h).extractLsb' 6 9 = encodeOperand h.s :=
  ((extract_append_high (m := 29) (n := 2) _ _ (by decide)).trans ((extract_append_high (m := 28) (n := 1) _ _ (by decide)).trans ((extract_append_high (m := 25) (n := 3) _ _ (by decide)).trans (extract_append_low (m := 16) (n := 9) _ _))))

theorem encodeHalf_pred (h : D2Half) : (encodeHalf h).extractLsb' 3 3 = h.pred :=
  ((extract_append_high (m := 29) (n := 2) _ _ (by decide)).trans ((extract_append_high (m := 28) (n := 1) _ _ (by decide)).trans (extract_append_low (m := 25) (n := 3) _ _)))

theorem encodeHalf_neg (h : D2Half) : (encodeHalf h).getLsbD 2 = h.neg :=
  ((getLsbD_append_high (m := 29) (n := 2) _ _ (by decide)).trans ((getLsbD_append_low (m := 28) (n := 1) _ _ (by decide)).trans (getLsbD_ofBool_zero _)))

theorem encodeHalf_mods (h : D2Half) : (encodeHalf h).extractLsb' 0 2 = h.mods :=
  (extract_append_low (m := 29) (n := 2) _ _)

/-- The fields of an F3 word read back (R67). -/
@[simp] theorem decodeF3_encodeF3 (opc : BitVec 10) (w : F3) : decodeF3 (encodeF3 opc w) = w := by
  rw [decodeF3, encodeF3_dst, encodeF3_a, encodeF3_b, encodeF3_modb, encodeF3_pred, encodeF3_neg, encodeF3_hold, encodeF3_reuse, encodeF3_mods]
  simp only [decodeOperand_encodeOperand]

/-- The fields of an FI word read back (R68). -/
@[simp] theorem decodeFI_encodeFI (opc : BitVec 10) (w : FI) : decodeFI (encodeFI opc w) = w := by
  rw [decodeFI, encodeFI_dst, encodeFI_a, encodeFI_imm, encodeFI_pred, encodeFI_neg, encodeFI_mods]
  simp only [decodeOperand_encodeOperand]

/-- The fields of an FX word read back (R71). -/
@[simp] theorem decodeFX_encodeFX (opc : BitVec 10) (w : FX) : decodeFX (encodeFX opc w) = w := by
  rw [decodeFX, encodeFX_dbase, encodeFX_hdst, encodeFX_noh, encodeFX_subop, encodeFX_imm, encodeFX_aflag, encodeFX_afen, encodeFX_rsvd]

theorem d2Of_d2Code (o : D2Op) : d2Of (d2Code o) = some o := by cases o <;> rfl

theorem d2Code_lt (o : D2Op) : d2Code o < 128 := by cases o <;> decide

/-- The fields of one half of a D2 word read back (R69). -/
@[simp] theorem decodeHalf_encodeHalf (h : D2Half) : decodeHalf (encodeHalf h) = some h := by
  rw [decodeHalf, encodeHalf_op, encodeHalf_d, encodeHalf_s, encodeHalf_pred, encodeHalf_neg, encodeHalf_mods, BitVec.toNat_ofNat,
    Nat.mod_eq_of_lt (d2Code_lt h.op), d2Of_d2Code]
  simp only [decodeOperand_encodeOperand, Option.map_some]

/-- An F3 word decodes to the F3 instruction of its opcode. -/
theorem decode_encodeF3 {opc : BitVec 10} {w : F3} {i : Instr} (h : f3Instr opc.toNat w = some i) :
    decode (encodeF3 opc w) = .ok i := by
  simp [decode, encodeF3_fmt, encodeF3_opcode, h]

/-- An FI word decodes to the FI instruction of its opcode. -/
theorem decode_encodeFI {opc : BitVec 10} {w : FI} {i : Instr} (h : fiInstr opc.toNat w = some i) :
    decode (encodeFI opc w) = .ok i := by
  simp [decode, encodeFI_fmt, encodeFI_opcode, h]

/-- An FX word decodes to the FX instruction of its opcode. -/
theorem decode_encodeFX {opc : BitVec 10} {w : FX} {i : Instr} (h : fxInstr opc.toNat w = some i) :
    decode (encodeFX opc w) = .ok i := by
  simp [decode, encodeFX_fmt, encodeFX_opcode, h]

/-- A D2 word decodes to its two halves. -/
theorem decode_encodeD2 (hi lo : D2Half) : decode (encodeD2 hi lo) = .ok (.d2Word hi lo) := by
  have h1 : (encodeD2 hi lo).extractLsb' 62 2 = 2#2 :=
    (extract_append_high (m := 33) (n := 31) _ _ (by decide)).trans ((extract_append_high (m := 2) (n := 31) _ _ (by decide)).trans (extract_all _))
  have h2 : (encodeD2 hi lo).extractLsb' 31 31 = encodeHalf hi :=
    (extract_append_high (m := 33) (n := 31) _ _ (by decide)).trans (extract_append_low (m := 2) (n := 31) _ _)
  have h3 : (encodeD2 hi lo).extractLsb' 0 31 = encodeHalf lo := extract_append_low (m := 33) (n := 31) _ _
  simp [decode, h1, h2, h3]

end Sys2Proof
end

