-- ==== Sys2Proof/Laws/PerInstr.lean ====
section
/-! SUPPORT. The round trip of encoding and decoding, one lemma for each constructor of `Instr`. -/

namespace Sys2Proof.Laws

open Sys2Proof

/-- The word of a well-formed instruction decodes to that instruction. -/
def Encoding.Statement (i : Instr) : Prop := i.wellFormed = true → ∀ w, encode i = some w → decode w = .ok i

theorem Encoding.iadd (w : F3) : Encoding.Statement (.iadd w) := fun _ _ h => by
  cases h
  exact decode_encodeF3 rfl

theorem Encoding.iaddFi (w : FI) : Encoding.Statement (.iaddFi w) := fun _ _ h => by
  cases h
  exact decode_encodeFI rfl

theorem Encoding.isub (w : F3) : Encoding.Statement (.isub w) := fun _ _ h => by
  cases h
  exact decode_encodeF3 rfl

theorem Encoding.isubFi (w : FI) : Encoding.Statement (.isubFi w) := fun _ _ h => by
  cases h
  exact decode_encodeFI rfl

theorem Encoding.imul (w : F3) : Encoding.Statement (.imul w) := fun _ _ h => by
  cases h
  exact decode_encodeF3 rfl

theorem Encoding.imulFi (w : FI) : Encoding.Statement (.imulFi w) := fun _ _ h => by
  cases h
  exact decode_encodeFI rfl

theorem Encoding.imulh (w : F3) : Encoding.Statement (.imulh w) := fun _ _ h => by
  cases h
  exact decode_encodeF3 rfl

theorem Encoding.imad (w : F3) : Encoding.Statement (.imad w) := fun _ _ h => by
  cases h
  exact decode_encodeF3 rfl

theorem Encoding.imadw (w : F3) : Encoding.Statement (.imadw w) := fun _ _ h => by
  cases h
  exact decode_encodeF3 rfl

theorem Encoding.iabs (w : F3) : Encoding.Statement (.iabs w) := fun _ _ h => by
  cases h
  exact decode_encodeF3 rfl

theorem Encoding.ineg (w : F3) : Encoding.Statement (.ineg w) := fun _ _ h => by
  cases h
  exact decode_encodeF3 rfl

theorem Encoding.imin (w : F3) : Encoding.Statement (.imin w) := fun _ _ h => by
  cases h
  exact decode_encodeF3 rfl

theorem Encoding.iminFi (w : FI) : Encoding.Statement (.iminFi w) := fun _ _ h => by
  cases h
  exact decode_encodeFI rfl

theorem Encoding.imax (w : F3) : Encoding.Statement (.imax w) := fun _ _ h => by
  cases h
  exact decode_encodeF3 rfl

theorem Encoding.imaxFi (w : FI) : Encoding.Statement (.imaxFi w) := fun _ _ h => by
  cases h
  exact decode_encodeFI rfl

theorem Encoding.and (w : F3) : Encoding.Statement (.and w) := fun _ _ h => by
  cases h
  exact decode_encodeF3 rfl

theorem Encoding.andFi (w : FI) : Encoding.Statement (.andFi w) := fun _ _ h => by
  cases h
  exact decode_encodeFI rfl

theorem Encoding.or (w : F3) : Encoding.Statement (.or w) := fun _ _ h => by
  cases h
  exact decode_encodeF3 rfl

theorem Encoding.orFi (w : FI) : Encoding.Statement (.orFi w) := fun _ _ h => by
  cases h
  exact decode_encodeFI rfl

theorem Encoding.xor (w : F3) : Encoding.Statement (.xor w) := fun _ _ h => by
  cases h
  exact decode_encodeF3 rfl

theorem Encoding.xorFi (w : FI) : Encoding.Statement (.xorFi w) := fun _ _ h => by
  cases h
  exact decode_encodeFI rfl

theorem Encoding.not (w : F3) : Encoding.Statement (.not w) := fun _ _ h => by
  cases h
  exact decode_encodeF3 rfl

theorem Encoding.andn (w : F3) : Encoding.Statement (.andn w) := fun _ _ h => by
  cases h
  exact decode_encodeF3 rfl

theorem Encoding.andnFi (w : FI) : Encoding.Statement (.andnFi w) := fun _ _ h => by
  cases h
  exact decode_encodeFI rfl

theorem Encoding.shl (w : F3) : Encoding.Statement (.shl w) := fun _ _ h => by
  cases h
  exact decode_encodeF3 rfl

theorem Encoding.shlFi (w : FI) : Encoding.Statement (.shlFi w) := fun _ _ h => by
  cases h
  exact decode_encodeFI rfl

theorem Encoding.shr (w : F3) : Encoding.Statement (.shr w) := fun _ _ h => by
  cases h
  exact decode_encodeF3 rfl

theorem Encoding.shrFi (w : FI) : Encoding.Statement (.shrFi w) := fun _ _ h => by
  cases h
  exact decode_encodeFI rfl

theorem Encoding.rot (w : F3) : Encoding.Statement (.rot w) := fun _ _ h => by
  cases h
  exact decode_encodeF3 rfl

theorem Encoding.rotFi (w : FI) : Encoding.Statement (.rotFi w) := fun _ _ h => by
  cases h
  exact decode_encodeFI rfl

theorem Encoding.bfe (w : F3) : Encoding.Statement (.bfe w) := fun _ _ h => by
  cases h
  exact decode_encodeF3 rfl

theorem Encoding.bfeFi (w : FI) : Encoding.Statement (.bfeFi w) := fun _ _ h => by
  cases h
  exact decode_encodeFI rfl

theorem Encoding.bfi (w : F3) : Encoding.Statement (.bfi w) := fun _ _ h => by
  cases h
  exact decode_encodeF3 rfl

theorem Encoding.popc (w : F3) : Encoding.Statement (.popc w) := fun _ _ h => by
  cases h
  exact decode_encodeF3 rfl

theorem Encoding.clz (w : F3) : Encoding.Statement (.clz w) := fun _ _ h => by
  cases h
  exact decode_encodeF3 rfl

theorem Encoding.ctz (w : F3) : Encoding.Statement (.ctz w) := fun _ _ h => by
  cases h
  exact decode_encodeF3 rfl

theorem Encoding.brev (w : F3) : Encoding.Statement (.brev w) := fun _ _ h => by
  cases h
  exact decode_encodeF3 rfl

theorem Encoding.isel (w : F3) : Encoding.Statement (.isel w) := fun _ _ h => by
  cases h
  exact decode_encodeF3 rfl

theorem Encoding.icmp (w : F3) : Encoding.Statement (.icmp w) := fun _ _ h => by
  cases h
  exact decode_encodeF3 rfl

theorem Encoding.icmpFi (w : FI) : Encoding.Statement (.icmpFi w) := fun _ _ h => by
  cases h
  exact decode_encodeFI rfl

theorem Encoding.iaddc (w : F3) : Encoding.Statement (.iaddc w) := fun _ _ h => by
  cases h
  exact decode_encodeF3 rfl

theorem Encoding.lea (w : F3) : Encoding.Statement (.lea w) := fun _ _ h => by
  cases h
  exact decode_encodeF3 rfl

theorem Encoding.leaFi (w : FI) : Encoding.Statement (.leaFi w) := fun _ _ h => by
  cases h
  exact decode_encodeFI rfl

theorem Encoding.mov (w : F3) : Encoding.Statement (.mov w) := fun _ _ h => by
  cases h
  exact decode_encodeF3 rfl

theorem Encoding.movi (w : FI) : Encoding.Statement (.movi w) := fun _ _ h => by
  cases h
  exact decode_encodeFI rfl

theorem Encoding.movhi (w : FI) : Encoding.Statement (.movhi w) := fun _ _ h => by
  cases h
  exact decode_encodeFI rfl

theorem Encoding.pand (w : F3) : Encoding.Statement (.pand w) := fun _ _ h => by
  cases h
  exact decode_encodeF3 rfl

theorem Encoding.por (w : F3) : Encoding.Statement (.por w) := fun _ _ h => by
  cases h
  exact decode_encodeF3 rfl

theorem Encoding.pxor (w : F3) : Encoding.Statement (.pxor w) := fun _ _ h => by
  cases h
  exact decode_encodeF3 rfl

theorem Encoding.idp4 (w : F3) : Encoding.Statement (.idp4 w) := fun _ _ h => by
  cases h
  exact decode_encodeF3 rfl

theorem Encoding.fadd (w : F3) : Encoding.Statement (.fadd w) := fun _ _ h => by
  cases h
  exact decode_encodeF3 rfl

theorem Encoding.faddFi (w : FI) : Encoding.Statement (.faddFi w) := fun _ _ h => by
  cases h
  exact decode_encodeFI rfl

theorem Encoding.fsub (w : F3) : Encoding.Statement (.fsub w) := fun _ _ h => by
  cases h
  exact decode_encodeF3 rfl

theorem Encoding.fsubFi (w : FI) : Encoding.Statement (.fsubFi w) := fun _ _ h => by
  cases h
  exact decode_encodeFI rfl

theorem Encoding.fmul (w : F3) : Encoding.Statement (.fmul w) := fun _ _ h => by
  cases h
  exact decode_encodeF3 rfl

theorem Encoding.fmulFi (w : FI) : Encoding.Statement (.fmulFi w) := fun _ _ h => by
  cases h
  exact decode_encodeFI rfl

theorem Encoding.ffma (w : F3) : Encoding.Statement (.ffma w) := fun _ _ h => by
  cases h
  exact decode_encodeF3 rfl

theorem Encoding.fmin (w : F3) : Encoding.Statement (.fmin w) := fun _ _ h => by
  cases h
  exact decode_encodeF3 rfl

theorem Encoding.fmax (w : F3) : Encoding.Statement (.fmax w) := fun _ _ h => by
  cases h
  exact decode_encodeF3 rfl

theorem Encoding.fcmp (w : F3) : Encoding.Statement (.fcmp w) := fun _ _ h => by
  cases h
  exact decode_encodeF3 rfl

theorem Encoding.fcmpFi (w : FI) : Encoding.Statement (.fcmpFi w) := fun _ _ h => by
  cases h
  exact decode_encodeFI rfl

theorem Encoding.frcp (w : F3) : Encoding.Statement (.frcp w) := fun _ _ h => by
  cases h
  exact decode_encodeF3 rfl

theorem Encoding.fsqrt (w : F3) : Encoding.Statement (.fsqrt w) := fun _ _ h => by
  cases h
  exact decode_encodeF3 rfl

theorem Encoding.frsq (w : F3) : Encoding.Statement (.frsq w) := fun _ _ h => by
  cases h
  exact decode_encodeF3 rfl

theorem Encoding.fexp2 (w : F3) : Encoding.Statement (.fexp2 w) := fun _ _ h => by
  cases h
  exact decode_encodeF3 rfl

theorem Encoding.flog2 (w : F3) : Encoding.Statement (.flog2 w) := fun _ _ h => by
  cases h
  exact decode_encodeF3 rfl

theorem Encoding.fsin (w : F3) : Encoding.Statement (.fsin w) := fun _ _ h => by
  cases h
  exact decode_encodeF3 rfl

theorem Encoding.fcos (w : F3) : Encoding.Statement (.fcos w) := fun _ _ h => by
  cases h
  exact decode_encodeF3 rfl

theorem Encoding.ftanh (w : F3) : Encoding.Statement (.ftanh w) := fun _ _ h => by
  cases h
  exact decode_encodeF3 rfl

theorem Encoding.hadd2 (w : F3) : Encoding.Statement (.hadd2 w) := fun _ _ h => by
  cases h
  exact decode_encodeF3 rfl

theorem Encoding.hmul2 (w : F3) : Encoding.Statement (.hmul2 w) := fun _ _ h => by
  cases h
  exact decode_encodeF3 rfl

theorem Encoding.hfma2 (w : F3) : Encoding.Statement (.hfma2 w) := fun _ _ h => by
  cases h
  exact decode_encodeF3 rfl

theorem Encoding.hdot2 (w : F3) : Encoding.Statement (.hdot2 w) := fun _ _ h => by
  cases h
  exact decode_encodeF3 rfl

theorem Encoding.cvt (w : F3) : Encoding.Statement (.cvt w) := fun _ _ h => by
  cases h
  exact decode_encodeF3 rfl

theorem Encoding.pack (w : F3) : Encoding.Statement (.pack w) := fun _ _ h => by
  cases h
  exact decode_encodeF3 rfl

theorem Encoding.unpack (w : F3) : Encoding.Statement (.unpack w) := fun _ _ h => by
  cases h
  exact decode_encodeF3 rfl

theorem Encoding.qswap (w : F3) : Encoding.Statement (.qswap w) := fun _ _ h => by
  cases h
  exact decode_encodeF3 rfl

theorem Encoding.qbcast (w : F3) : Encoding.Statement (.qbcast w) := fun _ _ h => by
  cases h
  exact decode_encodeF3 rfl

theorem Encoding.shfl (w : F3) : Encoding.Statement (.shfl w) := fun _ _ h => by
  cases h
  exact decode_encodeF3 rfl

theorem Encoding.wred (w : F3) : Encoding.Statement (.wred w) := fun _ _ h => by
  cases h
  exact decode_encodeF3 rfl

theorem Encoding.srnd (w : F3) : Encoding.Statement (.srnd w) := fun _ _ h => by
  cases h
  exact decode_encodeF3 rfl

theorem Encoding.d2Word (hi lo : D2Half) : Encoding.Statement (.d2Word hi lo) := fun _ w h => by
  cases h
  exact decode_encodeD2 hi lo

theorem Encoding.bra (w : FI) : Encoding.Statement (.bra w) := fun _ _ h => by
  cases h
  exact decode_encodeFI rfl

theorem Encoding.brau (w : FI) : Encoding.Statement (.brau w) := fun _ _ h => by
  cases h
  exact decode_encodeFI rfl

theorem Encoding.jmpi (w : F3) : Encoding.Statement (.jmpi w) := fun _ _ h => by
  cases h
  exact decode_encodeF3 rfl

theorem Encoding.call (w : FI) : Encoding.Statement (.call w) := fun _ _ h => by
  cases h
  exact decode_encodeFI rfl

theorem Encoding.calli (w : F3) : Encoding.Statement (.calli w) := fun _ _ h => by
  cases h
  exact decode_encodeF3 rfl

theorem Encoding.ret (w : F3) : Encoding.Statement (.ret w) := fun _ _ h => by
  cases h
  exact decode_encodeF3 rfl

theorem Encoding.meet (w : FI) : Encoding.Statement (.meet w) := fun _ _ h => by
  cases h
  exact decode_encodeFI rfl

theorem Encoding.rejoin (w : F3) : Encoding.Statement (.rejoin w) := fun _ _ h => by
  cases h
  exact decode_encodeF3 rfl

theorem Encoding.exit (w : F3) : Encoding.Statement (.exit w) := fun _ _ h => by
  cases h
  exact decode_encodeF3 rfl

theorem Encoding.nop (w : F3) : Encoding.Statement (.nop w) := fun _ _ h => by
  cases h
  exact decode_encodeF3 rfl

theorem Encoding.yield (w : F3) : Encoding.Statement (.yield w) := fun _ _ h => by
  cases h
  exact decode_encodeF3 rfl

theorem Encoding.vote (w : F3) : Encoding.Statement (.vote w) := fun _ _ h => by
  cases h
  exact decode_encodeF3 rfl

theorem Encoding.actmask (w : F3) : Encoding.Statement (.actmask w) := fun _ _ h => by
  cases h
  exact decode_encodeF3 rfl

theorem Encoding.sign (w : F3) : Encoding.Statement (.sign w) := fun _ _ h => by
  cases h
  exact decode_encodeF3 rfl

theorem Encoding.cvdecl (w : F3) : Encoding.Statement (.cvdecl w) := fun _ _ h => by
  cases h
  exact decode_encodeF3 rfl

theorem Encoding.hwait (w : F3) : Encoding.Statement (.hwait w) := fun hw _ h => by
  cases h
  apply decode_encodeF3
  show some (if w.mods &&& 1 = 1 then Instr.hwaitAll w else Instr.hwait w) = _
  have hq := (show (!decide (w.mods &&& 1 = 1)) = true from hw)
  simp only [Bool.not_eq_true', decide_eq_false_iff_not] at hq
  have hn0 := hq
  rw [if_neg hn0]

theorem Encoding.hwaitAll (w : F3) : Encoding.Statement (.hwaitAll w) := fun hw _ h => by
  cases h
  apply decode_encodeF3
  show some (if w.mods &&& 1 = 1 then Instr.hwaitAll w else Instr.hwait w) = _
  have hp : w.mods &&& 1 = 1 := of_decide_eq_true (show decide (w.mods &&& 1 = 1) = true from hw)
  rw [if_pos hp]

theorem Encoding.htest (w : F3) : Encoding.Statement (.htest w) := fun _ _ h => by
  cases h
  exact decode_encodeF3 rfl

theorem Encoding.hcancel (w : F3) : Encoding.Statement (.hcancel w) := fun _ _ h => by
  cases h
  exact decode_encodeF3 rfl

theorem Encoding.hmov (w : F3) : Encoding.Statement (.hmov w) := fun hw _ h => by
  cases h
  apply decode_encodeF3
  show some (if w.mods &&& 3 = 1 then Instr.hmovSt w else if w.mods &&& 3 = 2 then Instr.hmovLd w else Instr.hmov w) = _
  have hq := (show (!decide (w.mods &&& 3 = 1) && !decide (w.mods &&& 3 = 2)) = true from hw)
  simp only [Bool.and_eq_true, Bool.not_eq_true', decide_eq_false_iff_not] at hq
  obtain ⟨hn0, hn1⟩ := hq
  rw [if_neg hn0, if_neg hn1]

theorem Encoding.hmovSt (w : F3) : Encoding.Statement (.hmovSt w) := fun hw _ h => by
  cases h
  apply decode_encodeF3
  show some (if w.mods &&& 3 = 1 then Instr.hmovSt w else if w.mods &&& 3 = 2 then Instr.hmovLd w else Instr.hmov w) = _
  have hp : w.mods &&& 3 = 1 := of_decide_eq_true (show decide (w.mods &&& 3 = 1) = true from hw)
  rw [if_pos hp]

theorem Encoding.hmovLd (w : F3) : Encoding.Statement (.hmovLd w) := fun hw _ h => by
  cases h
  apply decode_encodeF3
  show some (if w.mods &&& 3 = 1 then Instr.hmovSt w else if w.mods &&& 3 = 2 then Instr.hmovLd w else Instr.hmov w) = _
  have hp : w.mods &&& 3 = 2 := of_decide_eq_true (show decide (w.mods &&& 3 = 2) = true from hw)
  have hn0 : ¬ (w.mods &&& 3 = 1) := fun hq => absurd (hq.symm.trans hp) (by decide)
  rw [if_neg hn0, if_pos hp]

theorem Encoding.gbar (w : F3) : Encoding.Statement (.gbar w) := fun _ _ h => by
  cases h
  exact decode_encodeF3 rfl

theorem Encoding.cbar (w : F3) : Encoding.Statement (.cbar w) := fun _ _ h => by
  cases h
  exact decode_encodeF3 rfl

theorem Encoding.rsend (w : F3) : Encoding.Statement (.rsend w) := fun _ _ h => by
  cases h
  exact decode_encodeF3 rfl

theorem Encoding.rtake (w : F3) : Encoding.Statement (.rtake w) := fun _ _ h => by
  cases h
  exact decode_encodeF3 rfl

theorem Encoding.rstat (w : F3) : Encoding.Statement (.rstat w) := fun _ _ h => by
  cases h
  exact decode_encodeF3 rfl

theorem Encoding.trap (w : FI) : Encoding.Statement (.trap w) := fun _ _ h => by
  cases h
  exact decode_encodeFI rfl

theorem Encoding.sysc (w : FI) : Encoding.Statement (.sysc w) := fun _ _ h => by
  cases h
  exact decode_encodeFI rfl

theorem Encoding.eret (w : F3) : Encoding.Statement (.eret w) := fun _ _ h => by
  cases h
  exact decode_encodeF3 rfl

theorem Encoding.rdsr (w : FI) : Encoding.Statement (.rdsr w) := fun _ _ h => by
  cases h
  exact decode_encodeFI rfl

theorem Encoding.wrsr (w : FI) : Encoding.Statement (.wrsr w) := fun _ _ h => by
  cases h
  exact decode_encodeFI rfl

theorem Encoding.stkset (w : F3) : Encoding.Statement (.stkset w) := fun _ _ h => by
  cases h
  exact decode_encodeF3 rfl

theorem Encoding.clrflg (w : FI) : Encoding.Statement (.clrflg w) := fun _ _ h => by
  cases h
  exact decode_encodeFI rfl

theorem Encoding.flgrd (w : F3) : Encoding.Statement (.flgrd w) := fun _ _ h => by
  cases h
  exact decode_encodeF3 rfl

theorem Encoding.ld (w : F3) : Encoding.Statement (.ld w) := fun _ _ h => by
  cases h
  exact decode_encodeF3 rfl

theorem Encoding.ldFi (w : FI) : Encoding.Statement (.ldFi w) := fun _ _ h => by
  cases h
  exact decode_encodeFI rfl

theorem Encoding.st (w : F3) : Encoding.Statement (.st w) := fun _ _ h => by
  cases h
  exact decode_encodeF3 rfl

theorem Encoding.stFi (w : FI) : Encoding.Statement (.stFi w) := fun _ _ h => by
  cases h
  exact decode_encodeFI rfl

theorem Encoding.lds (w : F3) : Encoding.Statement (.lds w) := fun _ _ h => by
  cases h
  exact decode_encodeF3 rfl

theorem Encoding.ldsFi (w : FI) : Encoding.Statement (.ldsFi w) := fun _ _ h => by
  cases h
  exact decode_encodeFI rfl

theorem Encoding.sts (w : F3) : Encoding.Statement (.sts w) := fun _ _ h => by
  cases h
  exact decode_encodeF3 rfl

theorem Encoding.stsFi (w : FI) : Encoding.Statement (.stsFi w) := fun _ _ h => by
  cases h
  exact decode_encodeFI rfl

theorem Encoding.ldc (w : F3) : Encoding.Statement (.ldc w) := fun _ _ h => by
  cases h
  exact decode_encodeF3 rfl

theorem Encoding.ldcFi (w : FI) : Encoding.Statement (.ldcFi w) := fun _ _ h => by
  cases h
  exact decode_encodeFI rfl

theorem Encoding.atom (w : F3) : Encoding.Statement (.atom w) := fun _ _ h => by
  cases h
  exact decode_encodeF3 rfl

theorem Encoding.fence (w : F3) : Encoding.Statement (.fence w) := fun _ _ h => by
  cases h
  exact decode_encodeF3 rfl

theorem Encoding.pfl1 (w : F3) : Encoding.Statement (.pfl1 w) := fun _ _ h => by
  cases h
  exact decode_encodeF3 rfl

theorem Encoding.pfl1Fi (w : FI) : Encoding.Statement (.pfl1Fi w) := fun _ _ h => by
  cases h
  exact decode_encodeFI rfl

theorem Encoding.cctlIvl (w : F3) : Encoding.Statement (.cctlIvl w) := fun hw _ h => by
  cases h
  apply decode_encodeF3
  show some (if w.mods &&& 7 = 1 then Instr.cctlIvd w else if w.mods &&& 7 = 2 then Instr.cctlIvi w else Instr.cctlIvl w) = _
  have hq := (show (!decide (w.mods &&& 7 = 1) && !decide (w.mods &&& 7 = 2)) = true from hw)
  simp only [Bool.and_eq_true, Bool.not_eq_true', decide_eq_false_iff_not] at hq
  obtain ⟨hn0, hn1⟩ := hq
  rw [if_neg hn0, if_neg hn1]

theorem Encoding.cctlIvd (w : F3) : Encoding.Statement (.cctlIvd w) := fun hw _ h => by
  cases h
  apply decode_encodeF3
  show some (if w.mods &&& 7 = 1 then Instr.cctlIvd w else if w.mods &&& 7 = 2 then Instr.cctlIvi w else Instr.cctlIvl w) = _
  have hp : w.mods &&& 7 = 1 := of_decide_eq_true (show decide (w.mods &&& 7 = 1) = true from hw)
  rw [if_pos hp]

theorem Encoding.cctlIvi (w : F3) : Encoding.Statement (.cctlIvi w) := fun hw _ h => by
  cases h
  apply decode_encodeF3
  show some (if w.mods &&& 7 = 1 then Instr.cctlIvd w else if w.mods &&& 7 = 2 then Instr.cctlIvi w else Instr.cctlIvl w) = _
  have hp : w.mods &&& 7 = 2 := of_decide_eq_true (show decide (w.mods &&& 7 = 2) = true from hw)
  have hn0 : ¬ (w.mods &&& 7 = 1) := fun hq => absurd (hq.symm.trans hp) (by decide)
  rw [if_neg hn0, if_pos hp]

theorem Encoding.nlease (w : F3) : Encoding.Statement (.nlease w) := fun hw _ h => by
  cases h
  apply decode_encodeF3
  show some (if w.mods &&& 1 = 1 then Instr.nleaseSt w else Instr.nlease w) = _
  have hq := (show (!decide (w.mods &&& 1 = 1)) = true from hw)
  simp only [Bool.not_eq_true', decide_eq_false_iff_not] at hq
  have hn0 := hq
  rw [if_neg hn0]

theorem Encoding.nleaseSt (w : F3) : Encoding.Statement (.nleaseSt w) := fun hw _ h => by
  cases h
  apply decode_encodeF3
  show some (if w.mods &&& 1 = 1 then Instr.nleaseSt w else Instr.nlease w) = _
  have hp : w.mods &&& 1 = 1 := of_decide_eq_true (show decide (w.mods &&& 1 = 1) = true from hw)
  rw [if_pos hp]

theorem Encoding.nrel (w : F3) : Encoding.Statement (.nrel w) := fun _ _ h => by
  cases h
  exact decode_encodeF3 rfl

theorem Encoding.nspl (w : F3) : Encoding.Statement (.nspl w) := fun _ _ h => by
  cases h
  exact decode_encodeF3 rfl

theorem Encoding.nfil (w : F3) : Encoding.Statement (.nfil w) := fun _ _ h => by
  cases h
  exact decode_encodeF3 rfl

theorem Encoding.pgmap (w : F3) : Encoding.Statement (.pgmap w) := fun _ _ h => by
  cases h
  exact decode_encodeF3 rfl

theorem Encoding.pgdone (w : F3) : Encoding.Statement (.pgdone w) := fun _ _ h => by
  cases h
  exact decode_encodeF3 rfl

theorem Encoding.dld (w : F3) : Encoding.Statement (.dld w) := fun _ _ h => by
  cases h
  exact decode_encodeF3 rfl

theorem Encoding.dadd (w : F3) : Encoding.Statement (.dadd w) := fun _ _ h => by
  cases h
  exact decode_encodeF3 rfl

theorem Encoding.dset (w : F3) : Encoding.Statement (.dset w) := fun _ _ h => by
  cases h
  exact decode_encodeF3 rfl

theorem Encoding.draw (w : F3) : Encoding.Statement (.draw w) := fun _ _ h => by
  cases h
  exact decode_encodeF3 rfl

theorem Encoding.steprd (w : F3) : Encoding.Statement (.steprd w) := fun hw _ h => by
  cases h
  apply decode_encodeF3
  show some (if w.mods &&& 3 = 1 then Instr.steprdGe w else if w.mods &&& 3 = 2 then Instr.steprdPend w else Instr.steprd w) = _
  have hq := (show (!decide (w.mods &&& 3 = 1) && !decide (w.mods &&& 3 = 2)) = true from hw)
  simp only [Bool.and_eq_true, Bool.not_eq_true', decide_eq_false_iff_not] at hq
  obtain ⟨hn0, hn1⟩ := hq
  rw [if_neg hn0, if_neg hn1]

theorem Encoding.steprdGe (w : F3) : Encoding.Statement (.steprdGe w) := fun hw _ h => by
  cases h
  apply decode_encodeF3
  show some (if w.mods &&& 3 = 1 then Instr.steprdGe w else if w.mods &&& 3 = 2 then Instr.steprdPend w else Instr.steprd w) = _
  have hp : w.mods &&& 3 = 1 := of_decide_eq_true (show decide (w.mods &&& 3 = 1) = true from hw)
  rw [if_pos hp]

theorem Encoding.steprdPend (w : F3) : Encoding.Statement (.steprdPend w) := fun hw _ h => by
  cases h
  apply decode_encodeF3
  show some (if w.mods &&& 3 = 1 then Instr.steprdGe w else if w.mods &&& 3 = 2 then Instr.steprdPend w else Instr.steprd w) = _
  have hp : w.mods &&& 3 = 2 := of_decide_eq_true (show decide (w.mods &&& 3 = 2) = true from hw)
  have hn0 : ¬ (w.mods &&& 3 = 1) := fun hq => absurd (hq.symm.trans hp) (by decide)
  rw [if_neg hn0, if_pos hp]

theorem Encoding.stepadv (w : F3) : Encoding.Statement (.stepadv w) := fun _ _ h => by
  cases h
  exact decode_encodeF3 rfl

theorem Encoding.ftset (w : F3) : Encoding.Statement (.ftset w) := fun _ _ h => by
  cases h
  exact decode_encodeF3 rfl

theorem Encoding.swpreg (w : FX) : Encoding.Statement (.swpreg w) := fun hw _ h => by
  cases h
  apply decode_encodeFX
  show some (if w.subop.toNat = 1 then Instr.swpregInv w else if w.subop.toNat = 2 then Instr.swpregThr w else if w.subop.toNat = 3 then Instr.swpregNow w else Instr.swpreg w) = _
  have hq := (show (!decide (w.subop.toNat = 1) && !decide (w.subop.toNat = 2) && !decide (w.subop.toNat = 3)) = true from hw)
  simp only [Bool.and_eq_true, Bool.not_eq_true', decide_eq_false_iff_not] at hq
  obtain ⟨⟨hn0, hn1⟩, hn2⟩ := hq
  rw [if_neg hn0, if_neg hn1, if_neg hn2]

theorem Encoding.swpregInv (w : FX) : Encoding.Statement (.swpregInv w) := fun hw _ h => by
  cases h
  apply decode_encodeFX
  show some (if w.subop.toNat = 1 then Instr.swpregInv w else if w.subop.toNat = 2 then Instr.swpregThr w else if w.subop.toNat = 3 then Instr.swpregNow w else Instr.swpreg w) = _
  have hp : w.subop.toNat = 1 := of_decide_eq_true (show decide (w.subop.toNat = 1) = true from hw)
  rw [if_pos hp]

theorem Encoding.swpregThr (w : FX) : Encoding.Statement (.swpregThr w) := fun hw _ h => by
  cases h
  apply decode_encodeFX
  show some (if w.subop.toNat = 1 then Instr.swpregInv w else if w.subop.toNat = 2 then Instr.swpregThr w else if w.subop.toNat = 3 then Instr.swpregNow w else Instr.swpreg w) = _
  have hp : w.subop.toNat = 2 := of_decide_eq_true (show decide (w.subop.toNat = 2) = true from hw)
  have hn0 : ¬ (w.subop.toNat = 1) := fun hq => absurd (hq.symm.trans hp) (by decide)
  rw [if_neg hn0, if_pos hp]

theorem Encoding.swpregNow (w : FX) : Encoding.Statement (.swpregNow w) := fun hw _ h => by
  cases h
  apply decode_encodeFX
  show some (if w.subop.toNat = 1 then Instr.swpregInv w else if w.subop.toNat = 2 then Instr.swpregThr w else if w.subop.toNat = 3 then Instr.swpregNow w else Instr.swpreg w) = _
  have hp : w.subop.toNat = 3 := of_decide_eq_true (show decide (w.subop.toNat = 3) = true from hw)
  have hn0 : ¬ (w.subop.toNat = 1) := fun hq => absurd (hq.symm.trans hp) (by decide)
  have hn1 : ¬ (w.subop.toNat = 2) := fun hq => absurd (hq.symm.trans hp) (by decide)
  rw [if_neg hn0, if_neg hn1, if_pos hp]

theorem Encoding.swpstat (w : F3) : Encoding.Statement (.swpstat w) := fun _ _ h => by
  cases h
  exact decode_encodeF3 rfl

theorem Encoding.tcfgCfg (w : FX) : Encoding.Statement (.tcfgCfg w) := fun hw _ h => by
  cases h
  apply decode_encodeFX
  show some (if w.subop.toNat = 1 then Instr.tcfgTile w else Instr.tcfgCfg w) = _
  have hq := (show (!decide (w.subop.toNat = 1)) = true from hw)
  simp only [Bool.not_eq_true', decide_eq_false_iff_not] at hq
  have hn0 := hq
  rw [if_neg hn0]

theorem Encoding.tcfgTile (w : FX) : Encoding.Statement (.tcfgTile w) := fun hw _ h => by
  cases h
  apply decode_encodeFX
  show some (if w.subop.toNat = 1 then Instr.tcfgTile w else Instr.tcfgCfg w) = _
  have hp : w.subop.toNat = 1 := of_decide_eq_true (show decide (w.subop.toNat = 1) = true from hw)
  rw [if_pos hp]

theorem Encoding.tcfgrd (w : F3) : Encoding.Statement (.tcfgrd w) := fun _ _ h => by
  cases h
  exact decode_encodeF3 rfl

theorem Encoding.wlatch (w : FX) : Encoding.Statement (.wlatch w) := fun _ _ h => by
  cases h
  exact decode_encodeFX rfl

theorem Encoding.cbkld (w : FX) : Encoding.Statement (.cbkld w) := fun _ _ h => by
  cases h
  exact decode_encodeFX rfl

theorem Encoding.mma (w : F3) : Encoding.Statement (.mma w) := fun _ _ h => by
  cases h
  exact decode_encodeF3 rfl

theorem Encoding.mmas (w : F3) : Encoding.Statement (.mmas w) := fun _ _ h => by
  cases h
  exact decode_encodeF3 rfl

theorem Encoding.mmal (w : F3) : Encoding.Statement (.mmal w) := fun _ _ h => by
  cases h
  exact decode_encodeF3 rfl

theorem Encoding.mmac (w : F3) : Encoding.Statement (.mmac w) := fun _ _ h => by
  cases h
  exact decode_encodeF3 rfl

theorem Encoding.opfence (w : F3) : Encoding.Statement (.opfence w) := fun _ _ h => by
  cases h
  exact decode_encodeF3 rfl

theorem Encoding.accz (w : FX) : Encoding.Statement (.accz w) := fun _ _ h => by
  cases h
  exact decode_encodeFX rfl

theorem Encoding.accrd (w : F3) : Encoding.Statement (.accrd w) := fun _ _ h => by
  cases h
  exact decode_encodeF3 rfl

theorem Encoding.accwr (w : F3) : Encoding.Statement (.accwr w) := fun _ _ h => by
  cases h
  exact decode_encodeF3 rfl

theorem Encoding.accld (w : FX) : Encoding.Statement (.accld w) := fun _ _ h => by
  cases h
  exact decode_encodeFX rfl

theorem Encoding.accst (w : FX) : Encoding.Statement (.accst w) := fun _ _ h => by
  cases h
  exact decode_encodeFX rfl

theorem Encoding.accprom (w : FX) : Encoding.Statement (.accprom w) := fun _ _ h => by
  cases h
  exact decode_encodeFX rfl

theorem Encoding.drain (w : FX) : Encoding.Statement (.drain w) := fun _ _ h => by
  cases h
  exact decode_encodeFX rfl

theorem Encoding.drainundo (w : FX) : Encoding.Statement (.drainundo w) := fun _ _ h => by
  cases h
  exact decode_encodeFX rfl

theorem Encoding.accstat (w : F3) : Encoding.Statement (.accstat w) := fun _ _ h => by
  cases h
  exact decode_encodeF3 rfl

theorem Encoding.bform (w : FX) : Encoding.Statement (.bform w) := fun _ _ h => by
  cases h
  exact decode_encodeFX rfl

theorem Encoding.blease (w : F3) : Encoding.Statement (.blease w) := fun _ _ h => by
  cases h
  exact decode_encodeF3 rfl

theorem Encoding.brel (w : F3) : Encoding.Statement (.brel w) := fun _ _ h => by
  cases h
  exact decode_encodeF3 rfl

theorem Encoding.bstat (w : F3) : Encoding.Statement (.bstat w) := fun _ _ h => by
  cases h
  exact decode_encodeF3 rfl

theorem Encoding.bsave (w : FX) : Encoding.Statement (.bsave w) := fun _ _ h => by
  cases h
  exact decode_encodeFX rfl

theorem Encoding.bresume (w : FX) : Encoding.Statement (.bresume w) := fun _ _ h => by
  cases h
  exact decode_encodeFX rfl

theorem Encoding.wslot (w : F3) : Encoding.Statement (.wslot w) := fun hw _ h => by
  cases h
  apply decode_encodeF3
  show some (if w.mods &&& 4 = 4 then Instr.wslotRd w else Instr.wslot w) = _
  have hq := (show (!decide (w.mods &&& 4 = 4)) = true from hw)
  simp only [Bool.not_eq_true', decide_eq_false_iff_not] at hq
  have hn0 := hq
  rw [if_neg hn0]

theorem Encoding.wslotRd (w : F3) : Encoding.Statement (.wslotRd w) := fun hw _ h => by
  cases h
  apply decode_encodeF3
  show some (if w.mods &&& 4 = 4 then Instr.wslotRd w else Instr.wslot w) = _
  have hp : w.mods &&& 4 = 4 := of_decide_eq_true (show decide (w.mods &&& 4 = 4) = true from hw)
  rw [if_pos hp]

theorem Encoding.bseamQ (w : F3) : Encoding.Statement (.bseamQ w) := fun hw _ h => by
  cases h
  apply decode_encodeF3
  show some (if w.mods &&& 3 = 1 then Instr.bseamPair w else if w.mods &&& 3 = 2 then Instr.bseamUn w else Instr.bseamQ w) = _
  have hq := (show (!decide (w.mods &&& 3 = 1) && !decide (w.mods &&& 3 = 2)) = true from hw)
  simp only [Bool.and_eq_true, Bool.not_eq_true', decide_eq_false_iff_not] at hq
  obtain ⟨hn0, hn1⟩ := hq
  rw [if_neg hn0, if_neg hn1]

theorem Encoding.bseamPair (w : F3) : Encoding.Statement (.bseamPair w) := fun hw _ h => by
  cases h
  apply decode_encodeF3
  show some (if w.mods &&& 3 = 1 then Instr.bseamPair w else if w.mods &&& 3 = 2 then Instr.bseamUn w else Instr.bseamQ w) = _
  have hp : w.mods &&& 3 = 1 := of_decide_eq_true (show decide (w.mods &&& 3 = 1) = true from hw)
  rw [if_pos hp]

theorem Encoding.bseamUn (w : F3) : Encoding.Statement (.bseamUn w) := fun hw _ h => by
  cases h
  apply decode_encodeF3
  show some (if w.mods &&& 3 = 1 then Instr.bseamPair w else if w.mods &&& 3 = 2 then Instr.bseamUn w else Instr.bseamQ w) = _
  have hp : w.mods &&& 3 = 2 := of_decide_eq_true (show decide (w.mods &&& 3 = 2) = true from hw)
  have hn0 : ¬ (w.mods &&& 3 = 1) := fun hq => absurd (hq.symm.trans hp) (by decide)
  rw [if_neg hn0, if_pos hp]

theorem Encoding.tcopy (w : FX) : Encoding.Statement (.tcopy w) := fun hw _ h => by
  cases h
  apply decode_encodeFX
  show some (if w.subop.toNat = 1 then Instr.tcopyG w else Instr.tcopy w) = _
  have hq := (show (!decide (w.subop.toNat = 1)) = true from hw)
  simp only [Bool.not_eq_true', decide_eq_false_iff_not] at hq
  have hn0 := hq
  rw [if_neg hn0]

theorem Encoding.tcopyG (w : FX) : Encoding.Statement (.tcopyG w) := fun hw _ h => by
  cases h
  apply decode_encodeFX
  show some (if w.subop.toNat = 1 then Instr.tcopyG w else Instr.tcopy w) = _
  have hp : w.subop.toNat = 1 := of_decide_eq_true (show decide (w.subop.toNat = 1) = true from hw)
  rw [if_pos hp]

theorem Encoding.tmcast (w : FX) : Encoding.Statement (.tmcast w) := fun _ _ h => by
  cases h
  exact decode_encodeFX rfl

theorem Encoding.tqnt (w : FX) : Encoding.Statement (.tqnt w) := fun _ _ h => by
  cases h
  exact decode_encodeFX rfl

theorem Encoding.tdq (w : FX) : Encoding.Statement (.tdq w) := fun _ _ h => by
  cases h
  exact decode_encodeFX rfl

theorem Encoding.sload (w : FX) : Encoding.Statement (.sload w) := fun _ _ h => by
  cases h
  exact decode_encodeFX rfl

theorem Encoding.sstore (w : FX) : Encoding.Statement (.sstore w) := fun _ _ h => by
  cases h
  exact decode_encodeFX rfl

theorem Encoding.bpref (w : FX) : Encoding.Statement (.bpref w) := fun _ _ h => by
  cases h
  exact decode_encodeFX rfl

theorem Encoding.sgpat (w : FX) : Encoding.Statement (.sgpat w) := fun hw _ h => by
  cases h
  apply decode_encodeFX
  show some (if w.subop.toNat = 1 then Instr.sgpatInv w else Instr.sgpat w) = _
  have hq := (show (!decide (w.subop.toNat = 1)) = true from hw)
  simp only [Bool.not_eq_true', decide_eq_false_iff_not] at hq
  have hn0 := hq
  rw [if_neg hn0]

theorem Encoding.sgpatInv (w : FX) : Encoding.Statement (.sgpatInv w) := fun hw _ h => by
  cases h
  apply decode_encodeFX
  show some (if w.subop.toNat = 1 then Instr.sgpatInv w else Instr.sgpat w) = _
  have hp : w.subop.toNat = 1 := of_decide_eq_true (show decide (w.subop.toNat = 1) = true from hw)
  rw [if_pos hp]

theorem Encoding.sgstat (w : F3) : Encoding.Statement (.sgstat w) := fun _ _ h => by
  cases h
  exact decode_encodeF3 rfl

theorem Encoding.tfill (w : FX) : Encoding.Statement (.tfill w) := fun _ _ h => by
  cases h
  exact decode_encodeFX rfl

theorem Encoding.ratom (w : F3) : Encoding.Statement (.ratom w) := fun _ _ h => by
  cases h
  exact decode_encodeF3 rfl

theorem Encoding.qenq (w : F3) : Encoding.Statement (.qenq w) := fun _ _ h => by
  cases h
  exact decode_encodeF3 rfl

theorem Encoding.qdeq (w : F3) : Encoding.Statement (.qdeq w) := fun _ _ h => by
  cases h
  exact decode_encodeF3 rfl

theorem Encoding.qpark (w : F3) : Encoding.Statement (.qpark w) := fun _ _ h => by
  cases h
  exact decode_encodeF3 rfl

theorem Encoding.qstat (w : F3) : Encoding.Statement (.qstat w) := fun _ _ h => by
  cases h
  exact decode_encodeF3 rfl

theorem Encoding.qinit (w : F3) : Encoding.Statement (.qinit w) := fun hw _ h => by
  cases h
  apply decode_encodeF3
  show some (if w.mods &&& 1 = 1 then Instr.qinitInv w else Instr.qinit w) = _
  have hq := (show (!decide (w.mods &&& 1 = 1)) = true from hw)
  simp only [Bool.not_eq_true', decide_eq_false_iff_not] at hq
  have hn0 := hq
  rw [if_neg hn0]

theorem Encoding.qinitInv (w : F3) : Encoding.Statement (.qinitInv w) := fun hw _ h => by
  cases h
  apply decode_encodeF3
  show some (if w.mods &&& 1 = 1 then Instr.qinitInv w else Instr.qinit w) = _
  have hp : w.mods &&& 1 = 1 := of_decide_eq_true (show decide (w.mods &&& 1 = 1) = true from hw)
  rw [if_pos hp]

theorem Encoding.cntrd (w : F3) : Encoding.Statement (.cntrd w) := fun _ _ h => by
  cases h
  exact decode_encodeF3 rfl

theorem Encoding.cntclr (w : F3) : Encoding.Statement (.cntclr w) := fun _ _ h => by
  cases h
  exact decode_encodeF3 rfl

theorem Encoding.watch (w : F3) : Encoding.Statement (.watch w) := fun hw _ h => by
  cases h
  apply decode_encodeF3
  show some (if w.mods &&& 16 = 16 then Instr.watchCancel w else Instr.watch w) = _
  have hq := (show (!decide (w.mods &&& 16 = 16)) = true from hw)
  simp only [Bool.not_eq_true', decide_eq_false_iff_not] at hq
  have hn0 := hq
  rw [if_neg hn0]

theorem Encoding.watchCancel (w : F3) : Encoding.Statement (.watchCancel w) := fun hw _ h => by
  cases h
  apply decode_encodeF3
  show some (if w.mods &&& 16 = 16 then Instr.watchCancel w else Instr.watch w) = _
  have hp : w.mods &&& 16 = 16 := of_decide_eq_true (show decide (w.mods &&& 16 = 16) = true from hw)
  rw [if_pos hp]

theorem Encoding.sflush (w : F3) : Encoding.Statement (.sflush w) := fun _ _ h => by
  cases h
  exact decode_encodeF3 rfl

theorem Encoding.gres (w : F3) : Encoding.Statement (.gres w) := fun _ _ h => by
  cases h
  exact decode_encodeF3 rfl

theorem Encoding.gdist (w : FX) : Encoding.Statement (.gdist w) := fun _ _ h => by
  cases h
  exact decode_encodeFX rfl

theorem Encoding.tkcfg (w : F3) : Encoding.Statement (.tkcfg w) := fun _ _ h => by
  cases h
  exact decode_encodeF3 rfl

theorem Encoding.tkins (w : F3) : Encoding.Statement (.tkins w) := fun _ _ h => by
  cases h
  exact decode_encodeF3 rfl

theorem Encoding.tkmrgWv (w : FX) : Encoding.Statement (.tkmrgWv w) := fun hw _ h => by
  cases h
  apply decode_encodeFX
  show some (if w.subop.toNat = 1 then Instr.tkmrgSt w else if w.subop.toNat = 2 then Instr.tkmrgLd w else Instr.tkmrgWv w) = _
  have hq := (show (!decide (w.subop.toNat = 1) && !decide (w.subop.toNat = 2)) = true from hw)
  simp only [Bool.and_eq_true, Bool.not_eq_true', decide_eq_false_iff_not] at hq
  obtain ⟨hn0, hn1⟩ := hq
  rw [if_neg hn0, if_neg hn1]

theorem Encoding.tkmrgSt (w : FX) : Encoding.Statement (.tkmrgSt w) := fun hw _ h => by
  cases h
  apply decode_encodeFX
  show some (if w.subop.toNat = 1 then Instr.tkmrgSt w else if w.subop.toNat = 2 then Instr.tkmrgLd w else Instr.tkmrgWv w) = _
  have hp : w.subop.toNat = 1 := of_decide_eq_true (show decide (w.subop.toNat = 1) = true from hw)
  rw [if_pos hp]

theorem Encoding.tkmrgLd (w : FX) : Encoding.Statement (.tkmrgLd w) := fun hw _ h => by
  cases h
  apply decode_encodeFX
  show some (if w.subop.toNat = 1 then Instr.tkmrgSt w else if w.subop.toNat = 2 then Instr.tkmrgLd w else Instr.tkmrgWv w) = _
  have hp : w.subop.toNat = 2 := of_decide_eq_true (show decide (w.subop.toNat = 2) = true from hw)
  have hn0 : ¬ (w.subop.toNat = 1) := fun hq => absurd (hq.symm.trans hp) (by decide)
  rw [if_neg hn0, if_pos hp]

theorem Encoding.tkrd (w : F3) : Encoding.Statement (.tkrd w) := fun _ _ h => by
  cases h
  exact decode_encodeF3 rfl

theorem Encoding.tkclr (w : F3) : Encoding.Statement (.tkclr w) := fun _ _ h => by
  cases h
  exact decode_encodeF3 rfl

theorem Encoding.tkstat (w : F3) : Encoding.Statement (.tkstat w) := fun _ _ h => by
  cases h
  exact decode_encodeF3 rfl

theorem Encoding.xst (w : F3) : Encoding.Statement (.xst w) := fun _ _ h => by
  cases h
  exact decode_encodeF3 rfl

theorem Encoding.xbcast (w : FX) : Encoding.Statement (.xbcast w) := fun _ _ h => by
  cases h
  exact decode_encodeFX rfl

theorem Encoding.xstep (w : FX) : Encoding.Statement (.xstep w) := fun _ _ h => by
  cases h
  exact decode_encodeFX rfl

theorem Encoding.xstat (w : F3) : Encoding.Statement (.xstat w) := fun _ _ h => by
  cases h
  exact decode_encodeF3 rfl

theorem Encoding.lsend (w : FX) : Encoding.Statement (.lsend w) := fun _ _ h => by
  cases h
  exact decode_encodeFX rfl

theorem Encoding.lpoll (w : F3) : Encoding.Statement (.lpoll w) := fun _ _ h => by
  cases h
  exact decode_encodeF3 rfl

theorem Encoding.lret (w : F3) : Encoding.Statement (.lret w) := fun _ _ h => by
  cases h
  exact decode_encodeF3 rfl

theorem Encoding.lbufcfgRx (w : F3) : Encoding.Statement (.lbufcfgRx w) := fun hw _ h => by
  cases h
  apply decode_encodeF3
  show some (if w.mods &&& 3 = 1 then Instr.lbufcfgTx w else if w.mods &&& 3 = 2 then Instr.lbufcfgOff w else Instr.lbufcfgRx w) = _
  have hq := (show (!decide (w.mods &&& 3 = 1) && !decide (w.mods &&& 3 = 2)) = true from hw)
  simp only [Bool.and_eq_true, Bool.not_eq_true', decide_eq_false_iff_not] at hq
  obtain ⟨hn0, hn1⟩ := hq
  rw [if_neg hn0, if_neg hn1]

theorem Encoding.lbufcfgTx (w : F3) : Encoding.Statement (.lbufcfgTx w) := fun hw _ h => by
  cases h
  apply decode_encodeF3
  show some (if w.mods &&& 3 = 1 then Instr.lbufcfgTx w else if w.mods &&& 3 = 2 then Instr.lbufcfgOff w else Instr.lbufcfgRx w) = _
  have hp : w.mods &&& 3 = 1 := of_decide_eq_true (show decide (w.mods &&& 3 = 1) = true from hw)
  rw [if_pos hp]

theorem Encoding.lbufcfgOff (w : F3) : Encoding.Statement (.lbufcfgOff w) := fun hw _ h => by
  cases h
  apply decode_encodeF3
  show some (if w.mods &&& 3 = 1 then Instr.lbufcfgTx w else if w.mods &&& 3 = 2 then Instr.lbufcfgOff w else Instr.lbufcfgRx w) = _
  have hp : w.mods &&& 3 = 2 := of_decide_eq_true (show decide (w.mods &&& 3 = 2) = true from hw)
  have hn0 : ¬ (w.mods &&& 3 = 1) := fun hq => absurd (hq.symm.trans hp) (by decide)
  rw [if_neg hn0, if_pos hp]

theorem Encoding.xcnt (w : F3) : Encoding.Statement (.xcnt w) := fun _ _ h => by
  cases h
  exact decode_encodeF3 rfl

theorem Encoding.plset (w : FI) : Encoding.Statement (.plset w) := fun _ _ h => by
  cases h
  exact decode_encodeFI rfl

theorem Encoding.plgo (w : F3) : Encoding.Statement (.plgo w) := fun _ _ h => by
  cases h
  exact decode_encodeF3 rfl

theorem Encoding.plcancel (w : F3) : Encoding.Statement (.plcancel w) := fun _ _ h => by
  cases h
  exact decode_encodeF3 rfl

theorem Encoding.plrepeat (w : F3) : Encoding.Statement (.plrepeat w) := fun _ _ h => by
  cases h
  exact decode_encodeF3 rfl

theorem Encoding.pldep (w : FI) : Encoding.Statement (.pldep w) := fun _ _ h => by
  cases h
  exact decode_encodeFI rfl

theorem Encoding.plstat (w : F3) : Encoding.Statement (.plstat w) := fun _ _ h => by
  cases h
  exact decode_encodeF3 rfl

theorem Encoding.llWriteback : Encoding.Statement .llWriteback := fun _ _ h => nomatch h

theorem Encoding.commandAccept : Encoding.Statement .commandAccept := fun _ _ h => nomatch h

theorem Encoding.storeQueueLeave : Encoding.Statement .storeQueueLeave := fun _ _ h => nomatch h

theorem Encoding.weaveEnd : Encoding.Statement .weaveEnd := fun _ _ h => nomatch h

theorem Encoding.gangEnd : Encoding.Statement .gangEnd := fun _ _ h => nomatch h

theorem Encoding.windowFaultDelivery : Encoding.Statement .windowFaultDelivery := fun _ _ h => nomatch h

theorem Encoding.tlbWalk : Encoding.Statement .tlbWalk := fun _ _ h => nomatch h

theorem Encoding.pagerUpcall : Encoding.Statement .pagerUpcall := fun _ _ h => nomatch h

theorem Encoding.invalidatePage : Encoding.Statement .invalidatePage := fun _ _ h => nomatch h

theorem Encoding.invalidateRange : Encoding.Statement .invalidateRange := fun _ _ h => nomatch h

theorem Encoding.invalidatePartition : Encoding.Statement .invalidatePartition := fun _ _ h => nomatch h

theorem Encoding.invalidationDone : Encoding.Statement .invalidationDone := fun _ _ h => nomatch h

theorem Encoding.refusalLogClear : Encoding.Statement .refusalLogClear := fun _ _ h => nomatch h

theorem Encoding.registerWrite : Encoding.Statement .registerWrite := fun _ _ h => nomatch h

theorem Encoding.issueCycle : Encoding.Statement .issueCycle := fun _ _ h => nomatch h

theorem Encoding.slotTableDeal : Encoding.Statement .slotTableDeal := fun _ _ h => nomatch h

theorem Encoding.leaseRevoke : Encoding.Statement .leaseRevoke := fun _ _ h => nomatch h

theorem Encoding.matrixOperationExecute : Encoding.Statement .matrixOperationExecute := fun _ _ h => nomatch h

theorem Encoding.tcfgEffect : Encoding.Statement .tcfgEffect := fun _ _ h => nomatch h

theorem Encoding.drainShard : Encoding.Statement .drainShard := fun _ _ h => nomatch h

theorem Encoding.bondFormComplete : Encoding.Statement .bondFormComplete := fun _ _ h => nomatch h

theorem Encoding.roundGrant : Encoding.Statement .roundGrant := fun _ _ h => nomatch h

theorem Encoding.roundIssue : Encoding.Statement .roundIssue := fun _ _ h => nomatch h

theorem Encoding.roundComplete : Encoding.Statement .roundComplete := fun _ _ h => nomatch h

theorem Encoding.operandLinkError : Encoding.Statement .operandLinkError := fun _ _ h => nomatch h

theorem Encoding.copyUnit : Encoding.Statement .copyUnit := fun _ _ h => nomatch h

theorem Encoding.nvmeCompletion : Encoding.Statement .nvmeCompletion := fun _ _ h => nomatch h

theorem Encoding.nvmeTimeout : Encoding.Statement .nvmeTimeout := fun _ _ h => nomatch h

theorem Encoding.gdistCandidate : Encoding.Statement .gdistCandidate := fun _ _ h => nomatch h

theorem Encoding.sliceReadRequest : Encoding.Statement .sliceReadRequest := fun _ _ h => nomatch h

theorem Encoding.sliceWriteRequest : Encoding.Statement .sliceWriteRequest := fun _ _ h => nomatch h

theorem Encoding.sectorFillComplete : Encoding.Statement .sectorFillComplete := fun _ _ h => nomatch h

theorem Encoding.writeBackDrain : Encoding.Statement .writeBackDrain := fun _ _ h => nomatch h

theorem Encoding.provisionalWrite : Encoding.Statement .provisionalWrite := fun _ _ h => nomatch h

theorem Encoding.tileCommit : Encoding.Statement .tileCommit := fun _ _ h => nomatch h

theorem Encoding.tileDiscard : Encoding.Statement .tileDiscard := fun _ _ h => nomatch h

theorem Encoding.watchFire : Encoding.Statement .watchFire := fun _ _ h => nomatch h

theorem Encoding.soloBoundary : Encoding.Statement .soloBoundary := fun _ _ h => nomatch h

theorem Encoding.sweepVisit : Encoding.Statement .sweepVisit := fun _ _ h => nomatch h

theorem Encoding.xstLand : Encoding.Statement .xstLand := fun _ _ h => nomatch h

theorem Encoding.escapementRelease : Encoding.Statement .escapementRelease := fun _ _ h => nomatch h

theorem Encoding.huapolFlitReceive : Encoding.Statement .huapolFlitReceive := fun _ _ h => nomatch h

theorem Encoding.linkDown : Encoding.Statement .linkDown := fun _ _ h => nomatch h

theorem Encoding.slotFull : Encoding.Statement .slotFull := fun _ _ h => nomatch h

theorem Encoding.creditReceive : Encoding.Statement .creditReceive := fun _ _ h => nomatch h

theorem Encoding.fullAcknowledgement : Encoding.Statement .fullAcknowledgement := fun _ _ h => nomatch h

theorem Encoding.discardReport : Encoding.Statement .discardReport := fun _ _ h => nomatch h

theorem Encoding.doorbellKick : Encoding.Statement .doorbellKick := fun _ _ h => nomatch h

theorem Encoding.queueMap : Encoding.Statement .queueMap := fun _ _ h => nomatch h

theorem Encoding.slotIdleTimeout : Encoding.Statement .slotIdleTimeout := fun _ _ h => nomatch h

theorem Encoding.ageTick : Encoding.Statement .ageTick := fun _ _ h => nomatch h

theorem Encoding.dispatchStreamChoice : Encoding.Statement .dispatchStreamChoice := fun _ _ h => nomatch h

theorem Encoding.packetTake : Encoding.Statement .packetTake := fun _ _ h => nomatch h

theorem Encoding.directPacket : Encoding.Statement .directPacket := fun _ _ h => nomatch h

theorem Encoding.indirectPacket : Encoding.Statement .indirectPacket := fun _ _ h => nomatch h

theorem Encoding.guardedPacket : Encoding.Statement .guardedPacket := fun _ _ h => nomatch h

theorem Encoding.signalPacket : Encoding.Statement .signalPacket := fun _ _ h => nomatch h

theorem Encoding.watchPacket : Encoding.Statement .watchPacket := fun _ _ h => nomatch h

theorem Encoding.barrierPacket : Encoding.Statement .barrierPacket := fun _ _ h => nomatch h

theorem Encoding.stitchPacket : Encoding.Statement .stitchPacket := fun _ _ h => nomatch h

theorem Encoding.dependencyEvaluation : Encoding.Statement .dependencyEvaluation := fun _ _ h => nomatch h

theorem Encoding.dependencyPoll : Encoding.Statement .dependencyPoll := fun _ _ h => nomatch h

theorem Encoding.prologueWordLimit : Encoding.Statement .prologueWordLimit := fun _ _ h => nomatch h

theorem Encoding.prologueRepeat : Encoding.Statement .prologueRepeat := fun _ _ h => nomatch h

theorem Encoding.gangDispatch : Encoding.Statement .gangDispatch := fun _ _ h => nomatch h

theorem Encoding.launchCompletion : Encoding.Statement .launchCompletion := fun _ _ h => nomatch h

theorem Encoding.tileDecision : Encoding.Statement .tileDecision := fun _ _ h => nomatch h

theorem Encoding.runLimitExpiry : Encoding.Statement .runLimitExpiry := fun _ _ h => nomatch h

theorem Encoding.priorityWaitExpiry : Encoding.Statement .priorityWaitExpiry := fun _ _ h => nomatch h

theorem Encoding.drainDeadlineExpiry : Encoding.Statement .drainDeadlineExpiry := fun _ _ h => nomatch h

theorem Encoding.preemptTrap : Encoding.Statement .preemptTrap := fun _ _ h => nomatch h

theorem Encoding.launchResume : Encoding.Statement .launchResume := fun _ _ h => nomatch h

theorem Encoding.commandLinkMessage : Encoding.Statement .commandLinkMessage := fun _ _ h => nomatch h

theorem Encoding.commandLinkError : Encoding.Statement .commandLinkError := fun _ _ h => nomatch h

theorem Encoding.syscNull : Encoding.Statement .syscNull := fun _ _ h => nomatch h

theorem Encoding.syscSaveDone : Encoding.Statement .syscSaveDone := fun _ _ h => nomatch h

theorem Encoding.syscPartitionInfo : Encoding.Statement .syscPartitionInfo := fun _ _ h => nomatch h

theorem Encoding.syscTime : Encoding.Statement .syscTime := fun _ _ h => nomatch h

theorem Encoding.syscLog : Encoding.Statement .syscLog := fun _ _ h => nomatch h

theorem Encoding.pcreate : Encoding.Statement .pcreate := fun _ _ h => nomatch h

theorem Encoding.pdestroy : Encoding.Statement .pdestroy := fun _ _ h => nomatch h

theorem Encoding.psuspend : Encoding.Statement .psuspend := fun _ _ h => nomatch h

theorem Encoding.presume : Encoding.Statement .presume := fun _ _ h => nomatch h

theorem Encoding.storset : Encoding.Statement .storset := fun _ _ h => nomatch h

theorem Encoding.imgwrite : Encoding.Statement .imgwrite := fun _ _ h => nomatch h

theorem Encoding.attest : Encoding.Statement .attest := fun _ _ h => nomatch h

theorem Encoding.provision : Encoding.Statement .provision := fun _ _ h => nomatch h

theorem Encoding.reset : Encoding.Statement .reset := fun _ _ h => nomatch h

theorem Encoding.fullServiceSwitch : Encoding.Statement .fullServiceSwitch := fun _ _ h => nomatch h

theorem Encoding.thermalHold : Encoding.Statement .thermalHold := fun _ _ h => nomatch h

theorem Encoding.thermalRelease : Encoding.Statement .thermalRelease := fun _ _ h => nomatch h

theorem Encoding.thermalTrip : Encoding.Statement .thermalTrip := fun _ _ h => nomatch h

theorem Encoding.securityAlarm : Encoding.Statement .securityAlarm := fun _ _ h => nomatch h

theorem Encoding.correctedError : Encoding.Statement .correctedError := fun _ _ h => nomatch h

theorem Encoding.uncorrectableError : Encoding.Statement .uncorrectableError := fun _ _ h => nomatch h

theorem Encoding.scratchpadBankGate : Encoding.Statement .scratchpadBankGate := fun _ _ h => nomatch h

theorem Encoding.scratchpadBankWake : Encoding.Statement .scratchpadBankWake := fun _ _ h => nomatch h

theorem Encoding.l2WayGate : Encoding.Statement .l2WayGate := fun _ _ h => nomatch h

theorem Encoding.l2WayWake : Encoding.Statement .l2WayWake := fun _ _ h => nomatch h

theorem Encoding.matrixCommandUnit : Encoding.Statement .matrixCommandUnit := fun _ _ h => nomatch h

theorem Encoding.tkmrgResolve : Encoding.Statement .tkmrgResolve := fun _ _ h => nomatch h

theorem Encoding.lsendDeparture : Encoding.Statement .lsendDeparture := fun _ _ h => nomatch h

end Sys2Proof.Laws
end

