-- ==== Sys2Proof/Certificates/Slice0/Obligations.lean ====
section
/-! DEFINITION. The statements for the provers. Each cites the rules of spec/ that it rests on. -/

open Sys2Proof Sys2Proof.Machine

/-- R167, R170, R172: an arithmetic word writes its exact result, wrapped or clamped, to the destination of every lane of
`active`, every lane of the set goes on, and nothing else changes. -/
def Obligations.ArithmeticResults : Prop :=
  ∀ w, ∀ f ∈ arithmeticForms w, Runs f.i f.gate always fun x t => x.writes t w.dst fun l => f.val (x.a3 w l) (x.b3 w f.c l) (x.c3 w l)

/-- R167 to R169: a logic, shift, bit-field, move, comparison or predicate word writes the bits, or the truth value, that
the rule gives for each lane of `active`, and nothing else. -/
def Obligations.LogicShiftPredicateResults : Prop :=
  ∀ w, ∀ f ∈ logicForms w ++ predicateForms w, Runs f.i f.gate always fun x t =>
    x.writes t w.dst fun l => f.val (x.a3 w l) (x.b3 w f.c l) (x.c3 w l)

/-- R164: an integer word with an immediate writes the result of SRCA and the extended immediate, and nothing else. -/
def Obligations.ImmediateResults : Prop :=
  ∀ w, ∀ f ∈ immediateForms w, Runs f.i (immGate w f) always fun x t => x.writes t w.dst fun l => f.val (x.rd 0 w.a l)

/-- R169, R171: IADDC and IMADW write two destinations from one exact sum: the low word and the carry predicate, or the
halves of the 64-bit sum. -/
def Obligations.WideSums : Prop :=
  (∀ w : F3, Runs (.iaddc w)
    (fun s k => laGate (s.gang k.gk) w isDest isSource isSource (some isPredDest) false (w.mods == 0) true)
    always fun x t =>
      let sum (l : Nat) : Nat := (x.a3 w l).toNat + (x.b3 w true l).toNat + (x.c3 w l).toNat % 2
      (w.dst ≠ w.srcC → (t.weave x.k.wk).took w.dst x.act (fun l => BitVec.ofNat 32 (sum l))) ∧
      (t.weave x.k.wk).took w.srcC x.act (fun l => truth (decide (2 ^ 32 ≤ sum l))) ∧
      t.past x.k x.k.lanes ∧ x.s.frame t x.k [w.dst, w.srcC]) ∧
  (∀ w : F3, Runs (.imadw w)
    (fun s k =>
      let gt := laGate (s.gang k.gk) w isPair isSource isSource (some isPair) false (modsIn w.mods 0b01000) true
      { gt with legal := gt.legal && inDemand (s.gang k.gk) w.dst 2 && inDemand (s.gang k.gk) w.srcC 2
                srcs := gt.srcs ++ [nextReg w.srcC 1], regs := vregsOf (gt.srcs ++ [nextReg w.srcC 1]) })
    always fun x t =>
      let u := w.mods.getLsbD 3
      let sum (l : Nat) : Int := asInt u (x.a3 w l) * asInt u (x.b3 w true l) +
        ((x.c3 w l).toNat + 2 ^ 32 * (x.rd 3 (nextReg w.srcC 1) l).toNat)
      (t.weave x.k.wk).took w.dst x.act (fun l => BitVec.ofInt 32 (sum l)) ∧
      (t.weave x.k.wk).took (nextReg w.dst 1) x.act (fun l => BitVec.ofInt 32 (sum l / 2 ^ 32)) ∧
      t.past x.k x.k.lanes ∧ x.s.frame t x.k [w.dst, nextReg w.dst 1])

/-- R105, R175: FRCP, FSQRT, FRSQ, FEXP2, FLOG2, FSIN, FCOS and FTANH issue one long-latency result, the function of
SRCB for every lane that computes, with the flags that its write-back raises; fpsw and the generators stay. Within the
bound of R105 the last bits are free values (log entry 18), and the statement holds for all of them. -/
def Obligations.UnaryFunctionsIssueResults : Prop :=
  ∀ w : F3, ∀ f ∈ [((.frcp w : Instr), frcp32), (.fsqrt w, fsqrt32), (.frsq w, transcendental .frsq), (.fexp2 w, transcendental .fexp2),
      (.flog2 w, transcendental .flog2), (.fsin w, transcendental .fsin), (.fcos w, transcendental .fcos), (.ftanh w, transcendental .ftanh)],
    Runs f.1 (fun s k => laGate (s.gang k.gk) w isDest isUnused isSource none true (w.mods == 0) false) always fun x t =>
      x.defers t [w.dst]
        ((lanesOf (computing w.dst x.act)).map fun l => { dst := w.dst, lane := laneKey w.dst l, val := (f.2 (x.b3 w false l)).1 })
        (x.flags w.dst x.act fun l g => ((f.2 (x.b3 w false l)).1, (f.2 (x.b3 w false l)).2, g)) true

/-- R69, R70, R166: a D2 word none of whose halves reads what it must wait for reads the operands of both halves before it
writes, and each half that is not long-latency writes its value to its own destination for the lanes that its own
predicate passes, the high half's generator step coming first. -/
def Obligations.PairedWordResults : Prop :=
  ∀ hi lo : D2Half, Runs (.d2Word hi lo)
    (fun s k =>
      let uni (h : D2Half) : Bool := d2Int h.op && !perLane h.d
      { legal := d2Legal (s.gang k.gk) (s.weave k.wk) hi lo, engine := .la, laUni := uni hi && uni lo
        regs := vregsOf (halfSrcs hi ++ halfSrcs lo) })
    (fun x => x.halfFree hi ∧ x.halfFree lo) fun x t =>
      let gen (l : Nat) : Word := if (computing hi.d (x.halfLanes hi)).getLsbD l then (x.half 0 hi l (x.w.lane l).gen).2.2 else (x.w.lane l).gen
      (d2LL hi.op = false → (t.weave x.k.wk).took hi.d (x.halfLanes hi) fun l => (x.half 0 hi l (x.w.lane l).gen).1) ∧
      (d2LL lo.op = false → (t.weave x.k.wk).took lo.d (x.halfLanes lo) fun l => (x.half 2 lo l (gen l)).1) ∧
      t.past x.k x.k.lanes ∧
      x.s.frameBy Weave.restLL t x.k [hi.d, lo.d, .special .fpsw, .special .sdlo, .special .sdhi]

/-- R182 to R184: QSWAP, QBCAST and SHFL give a lane the vector register SRCA of another lane as it stood before the
word, whatever that lane's status; WRED gives every lane the tree reduction over the lanes of `active` that are not
helpers. -/
def Obligations.ExchangeResults : Prop :=
  (∀ w : F3, Runs (.qswap w) (fun s k => laGate (s.gang k.gk) w isLaneDest isV isUnused none false (w.mods.extractLsb' 2 3 == 0 && w.mods != 0) false)
    always fun x t => x.writes t w.dst fun l => x.rd 0 w.a (Nat.xor l (w.mods.toNat % 4))) ∧
  (∀ w : F3, Runs (.qbcast w) (fun s k => laGate (s.gang k.gk) w isLaneDest isV isUnused none false (w.mods.extractLsb' 2 3 == 0) false)
    always fun x t => x.writes t w.dst fun l => x.rd 0 w.a (4 * (l / 4) + w.mods.toNat % 4)) ∧
  (∀ w : F3, Runs (.shfl w) (fun s k => laGate (s.gang k.gk) w isLaneDest isV isSource none false
      (w.mods.extractLsb' 3 2 == 0 && decide (rndCode w.mods ≤ 5)) false)
    always fun x t => x.writes t w.dst fun l =>
      x.rd 0 w.a (l - l % 2 ^ rndCode w.mods + (x.rd 1 w.b l).toNat % 2 ^ rndCode w.mods)) ∧
  (∀ w : F3, Runs (.wred w)
    (fun s k =>
      let ok := !w.mods.getLsbD 4 && decide (w.mods.toNat ≤ 10)
      { laGate (s.gang k.gk) w isDest isSource isUnused none false ok false with
        legal := f3Legal (s.gang k.gk) w isDest isSource isUnused none false true false ok })
    (fun x => someLane x ∧ w.dst ≠ .special .fpsw) fun x t =>
      let v := x.act &&& ~~~x.k.helpers
      let r := wredTree w.mods.toNat ((List.range 32).map fun l => if v.getLsbD l then some (x.rd 0 w.a l) else none) 5
      (t.weave x.k.wk).took w.dst x.act (fun _ => (r.1.head?.join).getD 0) ∧
      (t.weave x.k.wk).fpsw = x.w.fpsw ||| r.2.setWidth 32 ∧
      t.past x.k x.k.lanes ∧ x.s.frame t x.k [w.dst, .special .fpsw])

/-- R68, R163, R164, R173 to R181: a floating-point word writes its value, ORs its flags into fpsw and steps the generators
of the lanes that round with them; SRND writes the stepped generator or its value in [0, 1); an immediate is bits [31:8]
of an FP32 value. -/
def Obligations.FloatResults : Prop :=
  ((∀ w, ∀ f ∈ floatForms w, Runs f.i f.gate always fun x t =>
    x.floats t w.dst fun l g => f.val (x.a3 f.w l) (x.b3 f.w f.c.isSome l) (x.c3 f.w l) g) ∧
  (∀ w : F3, Runs (.srnd w) (fun s k => laGate (s.gang k.gk) w isV isUnused isUnused none false (modsIn w.mods 1) false)
    always fun x t => x.floats t w.dst fun _ g => (if w.mods.getLsbD 0
      then BitVec.ofNat 32 (roundTo .f32 .rn false (.fin false ((genStep g).toNat / 256) 1 (-24))).1 else genStep g, 0, genStep g))) ∧
  (∀ w : FI, ∀ f ∈ floatImmForms w, Runs f.1
    (fun s k => { legal := fiLegal (s.gang k.gk) w f.2.1 isSource f.2.2.1 && uniformOk w.dst [w.a]
                  engine := .la, privileged := privDst w.dst, pred := w.pred.toNat, neg := w.neg, srcs := [w.a], regs := vregsOf [w.a] })
    always fun x t => x.floats t w.dst fun l g => f.2.2.2 (x.rd 0 w.a l) (BitVec.ofNat 32 (w.imm.toNat * 256)) g)

/-- R190, R191: BRA sends the lanes of `active` to the target and the others on; BRAU sends the whole lane set one way,
by all or by any of its lanes that are not helpers, always where it has no predicate. No register and no memory
changes. -/
def Obligations.BranchesGoToTheirTargets : Prop :=
  (∀ w : FI, Runs (.bra w) (transferGate w) always fun x t =>
    t.wentTo x.k x.act (fun _ => x.direct w) ∧ t.past x.k (x.k.lanes &&& ~~~x.act) ∧ x.s.frame t x.k []) ∧
  (∀ w : FI, Runs (.brau w)
    (fun s k => { sqGateI (s.gang k.gk) { w with mods := 0 } isUnused isUnused k.last [] with
                  legal := fiLegal (s.gang k.gk) w isUnused isUnused (modsIn w.mods 1 && k.last) })
    always fun x t =>
      let v := x.k.lanes &&& ~~~x.k.helpers
      let p := x.act &&& ~~~x.k.helpers
      x.s.frame t x.k [] ∧
      if (w.pred = 0 ∧ w.neg = false) ∨ (if w.mods.getLsbD 0 then p = v else p ≠ 0)
        then t.wentTo x.k x.k.lanes (fun _ => x.direct w) else t.past x.k x.k.lanes)

/-- R192 to R194: JMPI, CALL, CALLI and RET on lanes whose targets pass R192's checks and whose return stacks need no
memory: each lane goes to its target; a call pushes the next clause's header; a return pops the newest entry. -/
def Obligations.CallsAndReturns : Prop :=
  (∀ w : F3, Runs (.jmpi w) (pairGate w fun k => w.mods == 0 && k.last)
    (fun x => (x.b.sortTargets x.k x.act (x.pairTarget w)).2 = (x.act, 0, 0)) fun x t =>
      t.wentTo x.k x.act (fun l => BitVec.ofNat 64 (x.pairTarget w l)) ∧
      x.keepsFile (x.b.sortTargets x.k x.act (x.pairTarget w)).1 t []) ∧
  (∀ w : FI, Runs (.call w) (transferGate w) (fun x => ∀ l, l < 32 → x.act.getLsbD l = true → (x.lane l).rasn < 4) fun x t =>
    x.called x.s t fun _ => x.direct w) ∧
  (∀ w : F3, Runs (.calli w) (pairGate w fun k => w.mods == 0 && k.last)
    (fun x => (x.b.sortTargets x.k x.act (x.pairTarget w)).2 = (x.act, 0, 0) ∧
      ∀ l, l < 32 → x.act.getLsbD l = true → (x.lane l).rasn < 4) fun x t =>
      x.called (x.b.sortTargets x.k x.act (x.pairTarget w)).1 t fun l => BitVec.ofNat 64 (x.pairTarget w l)) ∧
  (∀ w : F3, Runs (.ret w) (fun s k => sqGate (s.gang k.gk) w isUnused isUnused isUnused (w.mods == 0 && k.last) [])
    (fun x => ∀ l, l < 32 → x.act.getLsbD l = true →
      (x.lane l).rasn ≠ 0 ∧ (Table.get 0 (x.lane l).ras ((x.lane l).rasn - 1)).toNat % 8 = 0) fun x t =>
      t.wentTo x.k x.act (fun l => Table.get 0 (x.lane l).ras ((x.lane l).rasn - 1)) ∧
      t.past x.k (x.k.lanes &&& ~~~x.act) ∧ x.keepsRegs t [] ∧
      ∀ l, l < 32 → x.act.getLsbD l = true → (x.laneIn t l).rasn = (x.lane l).rasn - 1)

/-- R197 to R199: MEET gives the old mr to its destination and sets mr to the target's offset from the kernel; REJOIN sets
mr; EXIT makes each lane of `active` leave, or a helper where another lane of its quad runs on; NOP and YIELD go on. -/
def Obligations.MeetExitAndHints : Prop :=
  (∀ w : FI, Runs (.meet w) (fun s k => sqGateI (s.gang k.gk) w (fun o => isV o || isZero o) isUnused true []) always fun x t =>
    (isV w.dst = true → (t.weave x.k.wk).took w.dst x.act fun l => x.rd 0 (.special .mr) l) ∧
    (∀ l, l < 32 → x.act.getLsbD l = true →
      (x.laneIn t l).mr = ((x.direct w - x.g.kaddr).setWidth 32 : Word) &&& 0xFFFFFFF8#32) ∧
    t.past x.k x.k.lanes ∧ x.s.frame t x.k [w.dst, .special .mr]) ∧
  (∀ w : F3, Runs (.rejoin w) (fun s k => sqGate (s.gang k.gk) w isUnused isVS isUnused (w.mods == 0) [w.a]) always fun x t =>
    (t.weave x.k.wk).took (.special .mr) x.act (fun l => x.rd 0 w.a l) ∧ t.past x.k x.k.lanes ∧ x.s.frame t x.k [.special .mr]) ∧
  (∀ w : F3, Runs (.exit w) (fun s k => sqGate (s.gang k.gk) w isUnused isUnused isUnused (w.mods == 0 && k.last) [])
    (fun x => ∀ l, l < 32 → x.act.getLsbD l = true → (x.lane l).status ≠ .exited) fun x t =>
      x.keepsRegs t [] ∧
      ∀ l, l < 32 → x.act.getLsbD l = true → (x.laneIn t l).status =
        if (List.range 4).any (fun j => (x.lane (4 * (l / 4) + j)).status == .live && !x.act.getLsbD (4 * (l / 4) + j))
          then .helper else .exited) ∧
  (∀ w : F3, Runs (.nop w) (fun s k => sqGate (s.gang k.gk) w isUnused isUnused isUnused (w.mods == 0) []) always fun x t =>
    t.past x.k x.k.lanes ∧ x.s.frame t x.k []) ∧
  (∀ w : F3, Runs (.yield w) (fun s k => sqGate (s.gang k.gk) w isUnused isUnused isUnused (w.mods == 0) []) always fun x t =>
    t.past x.k x.k.lanes ∧ x.keepsRegs t [])

/-- R200, R201, R205, R208, R210, R215: each answers its value in the destination and changes nothing else. -/
def Obligations.SequencerReads : Prop :=
  ∀ w v, ∀ f ∈ sequencerReads w v, Runs f.i f.gate f.ok fun x t => x.writes t f.dst (f.val x)

/-- R209: GBAR and CBAR hold the lanes of the set; when every weave that counts has arrived and its stores are visible, for
CBAR of every gang of the cohorts, none of which is yet to come or saved, none of them is held any more. -/
def Obligations.Barriers : Prop :=
  (∀ w : F3, Runs (.gbar w) (fun s k => sqGate (s.gang k.gk) w isUnused isUnused isUnused (w.mods == 0 && w.pred == 0) [])
    (fun x => x.k.wk ∈ x.s.weavesOf x.k.gk ∧ x.w.ended = false ∧ x.act &&& x.w.liveMask ≠ 0) fun x t =>
      let b := x.b.holdLanes x.k x.act .gbar
      x.keepsRegs t [] ∧
      if ∀ wk ∈ b.weavesOf x.k.gk, (b.weave wk).counts = true → (b.weave wk).arrived .gbar = true ∧ (b.weave wk).sq = []
        then ∀ l, l < 32 → x.act.getLsbD l = true → (x.laneIn t l).hold = none
        else x.s.waitsAt t x.k x.act .gbar) ∧
  (∀ w : F3, Runs (.cbar w) (fun s k => sqGate (s.gang k.gk) w isUnused isUnused isUnused (w.mods == 0 && w.pred == 0) [])
    (fun x => x.k.wk ∈ x.s.weavesOf x.k.gk ∧ x.w.ended = false ∧ x.act &&& x.w.liveMask ≠ 0 ∧
      ∃ c ∈ x.s.cohortSet x.g.cohort, ∃ e ∈ (x.s.cohort c).gangs, e.2 = x.k.gk) fun x t =>
      let b := x.b.holdLanes x.k x.act .cbar
      x.keepsRegs t [] ∧
      if ∀ c ∈ b.cohortSet x.g.cohort, b.cohortPresent c = true ∧ ∀ e ∈ (b.cohort c).gangs, ∀ wk ∈ b.weavesOf e.2,
          (b.weave wk).counts = true → (b.weave wk).arrived .cbar = true ∧ (b.weave wk).sq = []
        then ∀ l, l < 32 → x.act.getLsbD l = true → (x.laneIn t l).hold = none
        else x.s.waitsAt t x.k x.act .cbar)

/-- R210: RSEND writes the offset, full and with the producer's phase, to the head slot and moves the head; RTAKE takes
the tail slot's offset, empties it and moves the tail, and its lanes are held while the slot is not ready. -/
def Obligations.StageRings : Prop :=
  (∀ w : F3, ∀ r, Runs (.rsend w) (fun s k => sqGate (s.gang k.gk) w isUnused isSorConst isS (w.mods == 0) [w.a, w.b])
    (fun x => anyLane x ∧ x.s.ring x.k (x.rd 0 w.a 0).toNat = some r ∧ x.s.inStage x.k r.prod = true ∧ r.count < r.maxocc ∧
      x.w.sq = [] ∧ r.head < 16) fun x t =>
      t.past x.k x.k.lanes ∧ x.keepsRegs t [] ∧ ∃ u, t.ring x.k (x.rd 0 w.a 0).toNat = some u ∧
        Table.get 0 u.words r.head = x.rd 1 w.b 0 ∧ u.full.getLsbD r.head = true ∧ u.pha.getLsbD r.head = r.ppha ∧
        u.head = (if r.head + 1 = r.slots then 0 else r.head + 1) ∧ u.ppha = (if r.head + 1 = r.slots then !r.ppha else r.ppha) ∧
        u.tail = r.tail ∧ u.cpha = r.cpha) ∧
  (∀ w : F3, ∀ r, Runs (.rtake w) (fun s k => sqGate (s.gang k.gk) w isS isSorConst isUnused (w.mods == 0) [w.a])
    (fun x => anyLane x ∧ x.s.ring x.k (x.rd 0 w.a 0).toNat = some r ∧ x.s.inStage x.k r.cons = true ∧ r.tail < 16) fun x t =>
      if r.full.getLsbD r.tail = true ∧ r.pha.getLsbD r.tail = r.cpha then
        (t.weave x.k.wk).took w.dst x.act (fun _ => Table.get 0 r.words r.tail) ∧ t.past x.k x.k.lanes ∧ x.keepsRegs t [w.dst] ∧
        ∃ u, t.ring x.k (x.rd 0 w.a 0).toNat = some u ∧ u.full.getLsbD r.tail = false ∧
          u.tail = (if r.tail + 1 = r.slots then 0 else r.tail + 1) ∧ u.cpha = (if r.tail + 1 = r.slots then !r.cpha else r.cpha) ∧
          u.head = r.head ∧ u.ppha = r.ppha
      else x.s.waitsAt t x.k x.act (.ringEmpty (x.rd 0 w.a 0).toNat) ∧ t.past x.k (x.k.lanes &&& ~~~x.act) ∧ x.keepsRegs t [])

/-- R58, R211: a fault raised for lanes that can enter the handler puts those of them that are live into it: the fault
record is written, each lane saves its resume address, goes to TVEC and is privileged. Registers other than fault.pc
stay where no result is outstanding. -/
def Obligations.FaultsEnterTheHandler : Prop :=
  ∀ (s : State) (wk : Nat) (f : PendFault), s.canEnter wk f.mask → f.keepPc = false →
    s.handling (s.raise wk f) wk (f.mask &&& (s.weave wk).liveMask) f.status f.addr f.ecause f.resume_ ∧
    ((s.weave wk).ll = [] → ∀ o l, l < 32 → o ≠ .special .faultPcLo → o ≠ .special .faultPcHi →
      ((s.raise wk f).weave wk).kept o l = (s.weave wk).kept o l) ∧
    (s.raise wk f).mem = s.mem

/-- R58, R86: a word in hand whose fields are illegal raises 0x01 for its lane set, a privileged word in lanes that are not
privileged 0x04, and a word that the weave's role may not issue 0x02 with detail 0x01, in that order; fault.pc is the
word's address. A word that acts once for its weave, of an engine or a slice, only goes on where helpers alone execute it
(R267, R273, R316, R341, R359, R380). -/
def Obligations.RefusedWordsFault : Prop :=
  (∀ w, ∀ f ∈ onceForms w, Runs f.1 f.2 (fun x => ¬someLane x) fun x t => t.past x.k x.k.lanes ∧ x.s.frame t x.k []) ∧
  ∀ (s : State) (k : Ctx) (g : Gate) (eff : Env → BitVec 32 → State → State), s.canEnter k.wk k.lanes →
    let m := k.lanes &&& (s.weave k.wk).liveMask
    let noPriv := ∃ l, l < 32 ∧ (k.lanes &&& ~~~k.helpers).getLsbD l = true ∧ ((s.weave k.wk).lane l).priv = false
    let role := roleAllows (roleOf (s.gang k.gk) (s.weave k.wk).num) g.engine g.laUni
    (g.legal = false → s.handling (s.runWord k g eff) k.wk m 0x01#32 0 0 k.pc) ∧
    (g.legal = true → g.privileged = true → noPriv → s.handling (s.runWord k g eff) k.wk m 0x04#32 0 0 k.pc) ∧
    (g.legal = true → (g.privileged = false ∨ ¬noPriv) → role = false → s.handling (s.runWord k g eff) k.wk m 0x102#32 0 0 k.pc)

/-- R212 to R214: TRAP enters the handler with ECAUSE 1 and fault.code IMM[15:0]·2^8, resuming at the next clause; SYSC
sends s0 to s3 of its lanes and holds them, or answers 0xFFFF_FFFF in s0 for an unknown service; ERET sends each lane to its
fault.pc, as a header where bit 0 is set, and leaves privileged mode. The clause instance that ERET returns to is the
model's reading (log entry 14). -/
def Obligations.TrapsCallsAndReturnsFromThem : Prop :=
  (∀ w : FI, Runs (.trap w) (fun s k => sqGateI (s.gang k.gk) w isUnused isUnused (k.last && w.imm.extractLsb' 16 8 == 0) [])
    (fun x => (x.b.advance x.k x.act).calm x.k.wk x.act) fun x t =>
      x.s.handling t x.k.wk (x.act &&& x.w.liveMask) (BitVec.ofNat 32 (w.imm.toNat % 2 ^ 16 * 2 ^ 8)) 0 1 (x.k.next ||| 1)) ∧
  (∀ w : FI, Runs (.sysc w) (fun s k => sqGateI (s.gang k.gk) w isUnused isUnused (k.last && w.imm.extractLsb' 16 8 == 0) [])
    anyLane fun x t =>
      if [0x0000, 0x0001, 0x0010, 0x0011, 0x0020].contains w.imm.toNat then
        x.s.waitsAt t x.k x.act (.sysc (w.imm.extractLsb' 0 16)) ∧
        (t.weave x.k.wk).syscs = x.w.syscs ++ [SyscReq.mk (w.imm.extractLsb' 0 16) x.act
          [x.rd 0 (.s 0) 0, x.rd 1 (.s 1) 0, x.rd 2 (.s 2) 0, x.rd 3 (.s 3) 0]] ∧ x.keepsRegs t []
      else (t.weave x.k.wk).sget 0 = 0xFFFFFFFF#32 ∧ t.past x.k x.k.lanes ∧ x.s.frame t x.k [.s 0]) ∧
  (∀ w : F3, Runs (.eret w) (fun s k => { sqGate (s.gang k.gk) w isUnused isUnused isUnused (w.mods == 0 && k.last) [] with privileged := true })
    (fun x => x.w.pend = [] ∧ ∀ l, l < 32 → x.act.getLsbD l = true → ((x.lane l).faultPc).toNat / 2 % 4 = 0) fun x t =>
      x.keepsRegs t [] ∧ ∀ l, l < 32 → x.act.getLsbD l = true →
        (x.laneIn t l).pc = (x.lane l).faultPc &&& ~~~1#64 ∧ (x.laneIn t l).hdr = (x.lane l).faultPc.getLsbD 0 ∧
        (x.laneIn t l).priv = false ∧ (x.laneIn t l).clause = (x.lane l).back)

/-- R202, R203: CVDECL adds the executing lanes to the declared set, makes them the set, or takes them from it; a .new while
signatures stand is held. SIGN adds the executing declared lanes to the signed set; with .w they wait for the round. When
that completes the set of a bound register without a bond, the round issues: no lane is signed, the round's number rises,
nothing is bound. -/
def Obligations.ConvergenceWords : Prop :=
  (∀ w : F3, ∀ c, c = convIndex w.dst → Runs (.cvdecl w)
    (fun s k => sqGate (s.gang k.gk) w isC isUnused isUnused (modsIn w.mods 3 && w.mods != 3) [])
    (fun x => anyLane x ∧ (x.s.cohorts.find x.home).isSome = true) fun x t =>
      let v := x.s.conv x.home c
      let m := x.act &&& ~~~x.k.helpers
      x.keepsRegs t [] ∧
      (w.mods = 0 → t.past x.k x.k.lanes ∧
        t.conv x.home c = { v with decl := Table.set 0 v.decl x.k.wk (Table.get 0 v.decl x.k.wk ||| m) }) ∧
      (w.mods = 1 → v.sig = [] → t.past x.k x.k.lanes ∧ t.conv x.home c = { v with decl := [(x.k.wk, m)] }) ∧
      (w.mods = 1 → v.sig ≠ [] → x.s.waitsAt t x.k x.act (.roundNew c) ∧ t.past x.k (x.k.lanes &&& ~~~x.act) ∧ t.conv x.home c = v) ∧
      (w.mods = 2 →
        let u := { v with decl := Table.set 0 v.decl x.k.wk (Table.get 0 v.decl x.k.wk &&& ~~~m)
                          sig := Table.set 0 v.sig x.k.wk (Table.get 0 v.sig x.k.wk &&& ~~~m) }
        standing x.s u → (u.sig ≠ u.decl ∨ u.bound = false) → t.past x.k x.k.lanes ∧ t.conv x.home c = u)) ∧
  (∀ w : F3, ∀ c, c = convIndex w.a → Runs (.sign w) (fun s k => { sqGate (s.gang k.gk) w isUnused isC isUnused (modsIn w.mods 1) [] with srcs := [] })
    (fun x => (x.s.cohorts.find x.home).isSome = true) fun x t =>
      let v := x.s.conv x.home c
      let m := x.act &&& ~~~x.k.helpers &&& Table.get 0 v.decl x.k.wk
      let u := { v with sig := Table.set 0 v.sig x.k.wk (Table.get 0 v.sig x.k.wk ||| m) }
      x.keepsRegs t [] ∧ t.past x.k (x.k.lanes &&& ~~~m) ∧
      (m = 0 → t.conv x.home c = v) ∧
      (m ≠ 0 → standing x.s u → (u.sig ≠ u.decl ∨ u.bound = false) →
        t.conv x.home c = u ∧
        if w.mods.getLsbD 0 then x.s.waitsAt t x.k m (.signW c v.round) else t.past x.k m) ∧
      (m ≠ 0 → standing x.s u → u.sig = u.decl → u.bound = true →
        (x.s.bonds.any fun e => x.s.bondHome e.2 == x.home && e.2.c == c) = false →
        t.conv x.home c = { v with sig := [], round := v.round + 1, bound := false }))

/-- R73, R204, R206, R207: HWAIT on a Resolved handle, and HWAIT.all where every handle named has resolved, write the status
at once; an HWAIT on a Pending handle holds its lanes, and one on a handle that is Empty, Cancelled or beyond the demand is
fault 0x18. HCANCEL leaves a Resolved or Cancelled handle and moves a Pending one to Cancelled; HMOV copies a reference and
state, held while its destination is Pending on another operation; HMOV.st stores the token of a record and HMOV.ld loads
the record that a token names, or Empty. The check value of a token is a free value (log entry 27). -/
def Obligations.HandleWords : Prop :=
  let hwait (w : F3) : State → Ctx → Gate := fun s k => sqGate { s.gang k.gk with hreg := 16 } w isVSZ isH isUnused (w.mods == 0) []
  ((∀ w : F3, ∀ st, Runs (.hwait w) (hwait w)
    (fun x => anyLane x ∧ handleIndex w.a < x.g.hreg ∧ x.s.handle x.w (handleIndex w.a) = .resolved st) fun x t =>
      x.writes t w.dst fun _ => st) ∧
  (∀ w : F3, ∀ r, Runs (.hwait w) (hwait w)
    (fun x => anyLane x ∧ handleIndex w.a < x.g.hreg ∧ r ≠ 0 ∧ x.s.handle x.w (handleIndex w.a) = .pending r) fun x t =>
      x.s.waitsAt t x.k x.act (.hwait [(r, 0)] w.dst) ∧ t.past x.k (x.k.lanes &&& ~~~x.act) ∧ x.keepsRegs t []) ∧
  (∀ w : F3, Runs (.hwait w) (hwait w)
    (fun x => (x.g.hreg ≤ handleIndex w.a ∨ x.s.handle x.w (handleIndex w.a) = .empty ∨
      x.s.handle x.w (handleIndex w.a) = .cancelled) ∧ x.b.canEnter x.k.wk x.act) fun x t =>
      x.s.handling t x.k.wk (x.act &&& x.w.liveMask) 0x18#32 0 0 x.k.pc) ∧
  (∀ w : F3, ∀ sts : Nat → Word, Runs (.hwaitAll w) (fun s k => sqGate (s.gang k.gk) w isVSZ isS isUnused (modsIn w.mods 1) [w.a])
    (fun x => anyLane x ∧ ∀ h, h < 16 → (x.rd 0 w.a 0).getLsbD h = true → h < x.g.hreg ∧ x.s.handle x.w h = .resolved (sts h)) fun x t =>
      x.writes t w.dst fun _ => ((((List.range 16).filter fun h => (x.rd 0 w.a 0).getLsbD h).map sts).find? fun st => st != 0).getD 0)) ∧
  ((∀ w : F3, ∀ r, Runs (.hcancel w) (fun s k => sqGate (s.gang k.gk) w isUnused isH isUnused (w.mods == 0) [])
    (fun x => anyLane x ∧ (x.s.ops.find r).isSome = true ∧
      (x.s.handle x.w (handleIndex w.a) = .pending r ∨ (∃ st, x.s.handle x.w (handleIndex w.a) = .resolved st) ∨
        x.s.handle x.w (handleIndex w.a) = .cancelled)) fun x t =>
      t.past x.k x.k.lanes ∧ x.keepsRegs t [] ∧ t.handle (t.weave x.k.wk) (handleIndex w.a) =
        if x.s.handle x.w (handleIndex w.a) = .pending r then .cancelled else x.s.handle x.w (handleIndex w.a)) ∧
  (∀ w : F3, Runs (.hmov w) (fun s k => sqGate (s.gang k.gk) w isH isH isUnused (w.mods == 0) []) anyLane fun x t =>
      x.keepsRegs t [] ∧ t.past x.k (x.k.lanes &&& ~~~x.act) ∧
      match x.s.handle x.w (handleIndex w.dst) with
      | .pending r =>
        if Table.get none x.w.handles (handleIndex w.a) = some r then t.past x.k x.k.lanes ∧ x.s.frame t x.k []
        else x.s.waitsAt t x.k x.act (.destPending (handleIndex w.dst) r)
      | _ => t.past x.k x.k.lanes ∧ t.handle (t.weave x.k.wk) (handleIndex w.dst) = x.s.handle x.w (handleIndex w.a)) ∧
  (∀ w : F3, Runs (.hmovSt w) (fun s k => sqGate (s.gang k.gk) w isUnused isS isH (modsIn w.mods 3) [w.a])
    (fun x => anyLane x ∧ (x.s.gangs.find x.k.gk).isSome = true ∧ x.w.scratchQueued = false ∧ (x.rd 0 w.a 0).toNat % 8 = 0 ∧
      (x.rd 0 w.a 0).toNat + 8 ≤ 256 * x.g.spb) fun x t =>
      let token (r : Nat) : Nat := r % 2 ^ 16 + 2 ^ 16 * (Config.tokenCheck x.k.gk r).toNat
      let tok : Nat := match x.s.handle x.w (handleIndex w.b), Table.get none x.w.handles (handleIndex w.b) with
        | .cancelled, _ => 0
        | _, some r => token r
        | _, none => match (x.w.hsaved.find (handleIndex w.b)).bind savedRecord with
          | some r => token r
          | none => 0
      t.past x.k x.k.lanes ∧ x.keepsRegs t [] ∧
      ∀ a, Table.get 0 (t.gang x.k.gk).scratch a =
        if (x.rd 0 w.a 0).toNat ≤ a ∧ a < (x.rd 0 w.a 0).toNat + 8 then (bytesOf 8 tok).getD (a - (x.rd 0 w.a 0).toNat) 0
        else Table.get 0 x.g.scratch a) ∧
  (∀ w : F3, Runs (.hmovLd w) (fun s k => sqGate (s.gang k.gk) w isH isS isUnused (modsIn w.mods 3) [w.a])
    (fun x => anyLane x ∧ x.w.scratchQueued = false ∧ (x.rd 0 w.a 0).toNat % 8 = 0 ∧ (x.rd 0 w.a 0).toNat + 8 ≤ 256 * x.g.spb ∧
      (∀ u ∈ x.g.spPoison, ¬(8 * u < (x.rd 0 w.a 0).toNat + 8 ∧ (x.rd 0 w.a 0).toNat < 8 * u + 8)) ∧
      ∀ r, x.s.handle x.w (handleIndex w.dst) ≠ .pending r) fun x t =>
      let tok := leNat (x.g.spRead (x.rd 0 w.a 0).toNat 8)
      t.past x.k x.k.lanes ∧ x.keepsRegs t [] ∧
      match (x.s.ops.map (·.1)).find? fun r => x.b.recordLives x.k.gk r && tokenOf x.k.gk r == tok with
      | some r => Table.get none (t.weave x.k.wk).handles (handleIndex w.dst) = some r
      | none => t.handle (t.weave x.k.wk) (handleIndex w.dst) = match x.b.savedToken x.k.gk tok with
        | some v => .resolved (v.extractLsb' 8 32)
        | none => .empty))

/-- R196, R208, R215: WRSR in privileged lanes writes the register that IMM names, a read-only one ignoring it, the weave's
with the value of a lane of `active` (which one is a free value, log entry 120) and a lane's own by each lane of `active`;
every lane of the set goes on. STKSET sets the overflow base of each lane whose pair is a multiple of 64; CLRFLG clears the counts of the flags that IMM names and keeps the others. -/
def Obligations.SystemRegistersAndFlags : Prop :=
  (∀ w : FI, ∀ r, sysOf w = some r → plainSys r = true → Runs (.wrsr w)
    (fun s k => { sqGateI (s.gang k.gk) w isUnused isVS (sysOf w).isSome [w.a] with privileged := true })
    always fun x t =>
      t.past x.k x.k.lanes ∧ x.keepsRegs t [] ∧
      if r.lane then ∀ l, l < 32 → x.act.getLsbD l = true → t.readSys x.k r l = sysKeeps r (x.s.readSys x.k r l) (x.rd 0 w.a l)
      else x.act ≠ 0 → ∃ l, l < 32 ∧ x.act.getLsbD l = true ∧
        t.readSys x.k r 0 = sysKeeps r (x.s.readSys x.k r 0) (x.rd 0 w.a l)) ∧
  ((∀ w : F3, Runs (.stkset w)
    (fun s k =>
      let gt := sqGate (s.gang k.gk) w isUnused isPair isUnused (w.mods == 0) [w.a, nextReg w.a 1]
      { gt with legal := gt.legal && inDemand (s.gang k.gk) w.a 2 })
    (fun x => ∀ l, l < 32 → (x.act &&& ~~~x.k.helpers).getLsbD l = true → x.pairTarget w l % 64 = 0) fun x t =>
      t.past x.k x.k.lanes ∧ x.keepsRegs t [] ∧
      ∀ l, l < 32 → x.act.getLsbD l = true → (x.laneIn t l).stkb =
        if x.pairTarget w l % 64 = 0 then BitVec.ofNat 64 (x.pairTarget w l) else (x.lane l).stkb) ∧
  (∀ w : FI, Runs (.clrflg w) (fun s k => sqGateI (s.gang k.gk) w isUnused isUnused (w.imm.extractLsb' 12 12 == 0) []) anyLane fun x t =>
      t.past x.k x.k.lanes ∧ x.keepsRegs t [] ∧
      ∀ f, f < 12 → (t.weave x.k.wk).flag f = if w.imm.getLsbD f then 0 else x.started.flag f))

/-- R223, R224: a store whose lanes pass the checks enters one entry at the tail of the weave's queue, with each lane's
address and bytes; neither memory nor the scratchpad nor a register changes before the entry leaves, but for what the
translation sets. -/
def Obligations.StoresEnterTheQueue : Prop :=
  (∀ w v, ∀ f ∈ storeForms w v, ∀ (c1 : State) (ps : List (Nat × Nat)), Runs f.i f.gate
    (fun x => x.w.sqFull = false ∧ ps ≠ [] ∧ x.b.checkLanes x.k (x.act &&& ~~~x.k.helpers) (f.addr x) (widthBytes (widthCode f.m)) (widthBytes (widthCode f.m)) .write false = (c1, { pass := ps }))
    fun x t => t.past x.k x.k.lanes ∧ x.keepsFile c1 t [] ∧ (t.gang x.k.gk).scratch = x.g.scratch ∧
      ∃ e, (t.weave x.k.wk).sq.getLast? = some e ∧ (t.weave x.k.wk).sq.length = x.w.sq.length + 1 ∧ e.kind = .global ∧ e.mask = x.k.lanes ∧
        e.items = ps.map fun r => { lane := r.1, addr := r.2, va := BitVec.ofNat 64 (f.addr x r.1), bytes := x.stored f.o f.m r.1 }) ∧
  (∀ w v, ∀ f ∈ scratchStoreForms w v, Runs f.i f.gate
    (fun x => x.w.sqFull = false ∧ someLane x ∧ ∀ l, l < 32 → (x.act &&& ~~~x.k.helpers).getLsbD l = true →
      x.reaches (f.addr x l) (widthBytes (widthCode f.m)))
    fun x t => t.past x.k x.k.lanes ∧ x.keepsRegs t [] ∧ (t.gang x.k.gk).scratch = x.g.scratch ∧
      ∃ e, (t.weave x.k.wk).sq.getLast? = some e ∧ (t.weave x.k.wk).sq.length = x.w.sq.length + 1 ∧ e.kind = .scratch ∧ e.mask = x.k.lanes ∧
        e.items = (lanesOf (x.act &&& ~~~x.k.helpers)).map fun l =>
          { lane := l, addr := f.addr x l, va := BitVec.ofNat 64 (f.addr x l), bytes := x.stored f.o f.m l })

/-- R221, R225, R226: LDS of aligned offsets within the allocation, whose data are good, gives each lane the words at its
offset, and a helper whose offset is not so zero; ATOM performs the lanes' operations one after the other in ascending
order, each lane receiving the word before its own, and a helper 0. -/
def Obligations.ScratchpadAccesses : Prop :=
  (∀ w v, ∀ f ∈ scratchLoadForms w v, Runs f.i f.gate
    (fun x => x.w.sq = [] ∧ ∀ l, l < 32 → x.act.getLsbD l = true →
      x.s.bankHeld x.k.core (f.addr x l) (widthBytes (widthCode f.m)) = false ∧
      (x.k.helpers.getLsbD l = false → x.reads (f.addr x l) (widthBytes (widthCode f.m))))
    fun x t => t.past x.k x.k.lanes ∧ x.keepsRegs t (regsOfGroup f.o (widthCode f.m)) ∧ (t.gang x.k.gk).scratch = x.g.scratch ∧
      ∀ j, j < widthRegs (widthCode f.m) → (t.weave x.k.wk).took (nextReg f.o j) x.act fun l =>
        if (x.g.spReadCheck (f.addr x l) (widthBytes (widthCode f.m))).isSome then 0
        else (loadWords (widthCode f.m) (memRead x.g.scratch (f.addr x l) (widthBytes (widthCode f.m)))).getD j 0) ∧
  (∀ w : F3, Runs (.atom w)
    (fun s k =>
      { legal := f3Legal (s.gang k.gk) w (fun o => isV o || isZero o) isVS isSource (some isSource) false true true
          (modsIn w.mods 15 && decide (atomOp w.mods ≤ 10) && (atomOp w.mods == 9 || isZero w.srcC))
        engine := .ls, pred := w.pred.toNat, neg := w.neg, srcs := f3Srcs w true, regs := vregsOf (f3Srcs w true), holds := holdsOf w
        drops := vregsOf [w.dst] })
    (fun x => (x.s.gangs.find x.k.gk).isSome = true ∧ x.w.sq = [] ∧ ∀ l, l < 32 → x.act.getLsbD l = true →
      x.s.bankHeld x.k.core (x.a3 w l).toNat 4 = false ∧ (x.k.helpers.getLsbD l = false → x.reads (x.a3 w l).toNat 4))
    fun x t =>
      let r := (lanesOf (x.act &&& ~~~x.k.helpers)).foldl (fun (r : List Host.Cell × List (Nat × Word)) l =>
        let v : Word := BitVec.ofNat 32 (leNat (memRead r.1 (x.a3 w l).toNat 4))
        (memWrite r.1 (x.a3 w l).toNat (bytesOf 4 (atomValue (atomOp w.mods) v (x.b3 w true l) (x.c3 w l)).toNat), r.2 ++ [(l, v)])) (x.g.scratch, [])
      t.past x.k x.k.lanes ∧ x.keepsRegs t [w.dst] ∧ (t.gang x.k.gk).scratch = r.1 ∧
      ∀ l, l < 32 → x.act.getLsbD l = true → isV w.dst = true → (t.weave x.k.wk).kept w.dst l = Table.get 0 r.2 l)

/-- R227 to R230, R319: FENCE goes on, a .full one once the weave's queue is empty and an .acq one once no RATOM is in it, else
its lanes are held; a prefetch changes no
register; the three forms of CCTL leave no line of the address, no data line and no instruction line of the partition
in the core, and change nothing else. -/
def Obligations.FencesAndCacheControl : Prop :=
  (∀ w : F3, Runs (.fence w)
    (fun s k => { legal := f3Legal (s.gang k.gk) w isUnused isUnused isUnused none false false false
                    ((w.mods.extractLsb' 0 2).toNat != 0 && (w.mods.extractLsb' 2 3).toNat != 7)
                  engine := .ls, pred := w.pred.toNat, neg := w.neg }) anyLane fun x t =>
      if w.mods.toNat % 4 = 3 ∧ x.w.sq ≠ [] then x.s.waitsAt t x.k x.k.lanes .fenceWait ∧ x.keepsRegs t []
      else if w.mods.toNat % 4 = 2 ∧ x.w.ratomQueued = true then x.s.waitsAt t x.k x.k.lanes .acqWait ∧ x.keepsRegs t []
      else t.past x.k x.k.lanes ∧ x.s.frame t x.k []) ∧
  (∀ w : F3, Runs (.pfl1 w) (fun s k => memGate (s.gang k.gk) w isUnused true (modsIn w.mods 0b11000) []) always fun x t =>
    t.past x.k x.k.lanes ∧ ∀ o l, l < 32 → (t.weave x.k.wk).kept o l = x.w.kept o l) ∧
  (∀ w : FI, Runs (.pfl1Fi w) (fun s k => memGateI (s.gang k.gk) w isUnused true (w.mods == 0) []) always fun x t =>
    t.past x.k x.k.lanes ∧ ∀ o l, l < 32 → (t.weave x.k.wk).kept o l = x.w.kept o l) ∧
  (∀ w : F3, Runs (.cctlIvl w) (fun s k => memGate (s.gang k.gk) w isUnused true (widthCode w.mods == 0) []) always fun x t =>
    t.past x.k x.k.lanes ∧ x.s.frame t x.k [] ∧ ∀ l, l < 32 → x.act.getLsbD l = true → ∀ y ∈ (t.core x.k.core).l1,
      ¬(y.part = x.k.part ∧ y.vline = x.glob w l / 64)) ∧
  (∀ w : F3, Runs (.cctlIvd w) (fun s k => cctlGate (s.gang k.gk) w 1) anyLane fun x t =>
    t.past x.k x.k.lanes ∧ x.s.frame t x.k [] ∧ ∀ y ∈ (t.core x.k.core).l1, y.part ≠ x.k.part) ∧
  (∀ w : F3, Runs (.cctlIvi w) (fun s k => cctlGate (s.gang k.gk) w 2) anyLane fun x t =>
    t.past x.k x.k.lanes ∧ x.s.frame t x.k [] ∧ ∀ y ∈ (t.core x.k.core).icache, y.part ≠ x.k.part)

/-- R231 to R234: NLEASE answers 2 where a lease stands, 3 for a bad size or base, else it takes a lease in a core of the
cluster that has room (0), and in memory (1) where none has; NLEASE.st gives the lease's state word and the base's high word; NREL ends the lease; NSPL and
NFIL write and read slots of a lease held in a neighbour, and memory at the slot's address for one in memory, a slot that nothing has written reading 0. That the
leaf controller answers in the step that asks, and the order of its checks, are the model's (log entries 12 and 31);
which of the cores lends is a free value. -/
def Obligations.SpillLeases : Prop :=
  (∀ w : F3, Runs (.nlease w) (nleaseGate w) anyLane fun x t =>
      let n := (x.rd 0 w.a 0).toNat
      let base : Nat := (x.rd 1 w.b 0).toNat + 2 ^ 32 * (x.rd 4 (nextReg w.b 1) 0).toNat
      let u := (t.weave x.k.wk).lease
      t.past x.k x.k.lanes ∧ (∀ o l, l < 32 → o ≠ w.dst → (t.weave x.k.wk).kept o l = x.w.kept o l) ∧
      if x.w.lease.state ≠ .none then (t.weave x.k.wk).kept w.dst 0 = 2 ∧ u = x.w.lease
      else if n % 8 ≠ 0 ∨ n < 8 ∨ 64 < n ∨ base % 128 ≠ 0 then (t.weave x.k.wk).kept w.dst 0 = 3 ∧ u = x.w.lease
      else u.n = n ∧ u.base = BitVec.ofNat 64 base ∧ u.slots = [] ∧
        if x.b.lenders x.k.core n = [] then u.state = .memory ∧ (t.weave x.k.wk).kept w.dst 0 = 1
        else u.state = .neighbour ∧ u.lender ∈ x.b.lenders x.k.core n ∧ (t.weave x.k.wk).kept w.dst 0 = 0) ∧
  (∀ w : F3, Runs (.nleaseSt w)
    (fun s k =>
      let gt := lsGate (s.gang k.gk) w isPairS isUnused isUnused (w.mods == 1) []
      { gt with legal := gt.legal && inDemand (s.gang k.gk) w.dst 2 }) anyLane fun x t =>
      let y := x.w.lease
      t.past x.k x.k.lanes ∧ x.s.frame t x.k [w.dst, nextReg w.dst 1] ∧
      (t.weave x.k.wk).kept (nextReg w.dst 1) 0 = (if y.state = .none then 0 else hiWord y.base) ∧
      (t.weave x.k.wk).kept w.dst 0 = match y.state with
        | .none => 0
        | .neighbour => (loWord y.base &&& 0xFFFFFF80#32) ||| BitVec.ofNat 32 (y.n / 8 * 4 + 1)
        | .memory => (loWord y.base &&& 0xFFFFFF80#32) ||| BitVec.ofNat 32 (y.n / 8 * 4 + 2)
        | .lost => (loWord y.base &&& 0xFFFFFF80#32) ||| BitVec.ofNat 32 (y.n / 8 * 4 + 3)) ∧
  (∀ w : F3, Runs (.nrel w) (fun s k => lsGate (s.gang k.gk) w isUnused isUnused isUnused (w.mods == 0) []) anyLane fun x t =>
      t.past x.k x.k.lanes ∧ x.keepsRegs t [] ∧ (t.weave x.k.wk).lease = {}) ∧
  (∀ w : F3, Runs (.nspl w) (fun s k => lsGate (s.gang k.gk) w isUnused isSorConst isV (w.mods == 0) [w.a, w.b])
    (fun x => x.w.lease.state = .neighbour ∧ x.w.lease.pushing = false ∧ (x.rd 0 w.a 0).toNat < x.w.lease.n) fun x t =>
      t.past x.k x.k.lanes ∧ x.keepsRegs t [] ∧
      ∀ i l, l < 32 → Table.get 0 (t.weave x.k.wk).lease.slots (32 * i + l) =
        if i = (x.rd 0 w.a 0).toNat ∧ (x.act &&& ~~~x.k.helpers).getLsbD l = true then x.rd 1 w.b l
        else Table.get 0 x.w.lease.slots (32 * i + l)) ∧
  (∀ w : F3, ∀ (c1 : State) (ps : List (Nat × Nat)), Runs (.nspl w) (fun s k => lsGate (s.gang k.gk) w isUnused isSorConst isV (w.mods == 0) [w.a, w.b])
    (fun x => x.w.lease.state = .memory ∧ x.w.lease.pushing = false ∧ (x.rd 0 w.a 0).toNat < x.w.lease.n ∧ x.w.sqFull = false ∧ ps ≠ [] ∧
      x.b.checkLanes x.k (x.act &&& ~~~x.k.helpers) (fun l => x.w.lease.addr (x.rd 0 w.a 0).toNat l) 4 4 .write false = (c1, { pass := ps })) fun x t =>
      t.past x.k x.k.lanes ∧ x.keepsFile c1 t [] ∧ ∃ e, (t.weave x.k.wk).sq.getLast? = some e ∧ e.kind = .global ∧
        e.items.map (fun i => (i.lane, i.addr, i.bytes)) = ps.map fun r => (r.1, r.2, bytesOf 4 (x.rd 1 w.b r.1).toNat)) ∧
  (∀ w : F3, Runs (.nfil w) (fun s k => lsGate (s.gang k.gk) w isV isSorConst isUnused (w.mods == 0) [w.a])
    (fun x => x.w.lease.state = .neighbour ∧ x.w.lease.pushing = false ∧ (x.rd 0 w.a 0).toNat < x.w.lease.n) fun x t =>
      x.loads x.s t [w.dst] ((lanesOf x.act).map fun l =>
        { dst := w.dst, lane := l, val := Table.get 0 x.w.lease.slots (32 * (x.rd 0 w.a 0).toNat + l) })) ∧
  (∀ w : F3, ∀ (c1 c2 : State) (ps : List (Nat × Nat)) (got : List (Nat × List Byte)),
    Runs (.nfil w) (fun s k => lsGate (s.gang k.gk) w isV isSorConst isUnused (w.mods == 0) [w.a])
    (fun x => x.w.lease.state = .memory ∧ x.w.lease.pushing = false ∧ (x.rd 0 w.a 0).toNat < x.w.lease.n ∧
      x.b.checkLanes x.k x.act (fun l => x.w.lease.addr (x.rd 0 w.a 0).toNat l) 4 4 .read false = (c1, { pass := ps }) ∧
      c1.loadLanes x.k ps (fun l => x.w.lease.addr (x.rd 0 w.a 0).toNat l) 4 = (c2, got, 0)) fun x t =>
      x.loads c2 t [w.dst] (groupWrites w.dst 4 (got.map fun r =>
        if x.w.lease.holds (x.rd 0 w.a 0).toNat r.1 then r else (r.1, [0, 0, 0, 0])) (zeroHelpers x.k x.act ps)))

/-- R235, R236: PGMAP answers the status of its checks; on 0 it writes the entry (16 copies for a 64 KiB page) and no
other byte; PGDONE answers 1 for no ticket of the partition, 2 for a queue that is not the region's, else it closes the
ticket and answers 0. That the slices and the pager answer in the step that asks is the model's choice (log entry 12). -/
def Obligations.PagerWords : Prop :=
  (∀ w : F3, Runs (.pgmap w)
    (fun s k => { legal := f3Legal (s.gang k.gk) w isS isPairS isPairS (some isSorConst) false false false (w.mods == 0) &&
                    inDemand (s.gang k.gk) w.a 2 && inDemand (s.gang k.gk) w.b 2
                  engine := .ls, guarded := true, pred := w.pred.toNat, neg := w.neg
                  srcs := [w.a, nextReg w.a 1, w.b, nextReg w.b 1, w.srcC] }) anyLane fun x t =>
      let ent : Nat := (x.rd 1 w.b 0).toNat + 2 ^ 32 * (x.rd 5 (nextReg w.b 1) 0).toNat
      let r := x.b.pgmapCheck x.k (x.pairOf w.a 0) ent (x.rd 2 w.srcC 0).toNat
      let n := if ent / 32 % 4 = 1 then 16 else 1
      t.past x.k x.k.lanes ∧ (t.weave x.k.wk).kept w.dst 0 = BitVec.ofNat 32 r.1 ∧
      (∀ o l, l < 32 → o ≠ w.dst → (t.weave x.k.wk).kept o l = x.w.kept o l) ∧
      ∀ a, Table.get 0 t.mem a = if r.1 = 0 ∧ r.2 ≤ a ∧ a < r.2 + 8 * n then (bytesOf 8 ent).getD ((a - r.2) % 8) 0 else Table.get 0 x.s.mem a) ∧
  (∀ w : F3, Runs (.pgdone w)
    (fun s k => { lsGate (s.gang k.gk) w isS isS isUnused (modsIn w.mods 1) [w.a] with guarded := true })
    (fun x => anyLane x ∧ x.w.sq = []) fun x t =>
      let n := (x.rd 0 w.a 0).toNat
      match x.s.tickets.find n with
      | none => (t.weave x.k.wk).kept w.dst 0 = 1 ∧ t.past x.k x.k.lanes ∧ x.s.frame t x.k [w.dst]
      | some tk =>
        if tk.part ≠ x.k.part then (t.weave x.k.wk).kept w.dst 0 = 1 ∧ t.past x.k x.k.lanes ∧ x.s.frame t x.k [w.dst]
        else if (x.s.launch x.k.launch).queue ≠ bits (x.s.regionWord x.k.part tk.region 4) 31 16 then
          (t.weave x.k.wk).kept w.dst 0 = 2 ∧ t.past x.k x.k.lanes ∧ x.s.frame t x.k [w.dst]
        else (t.weave x.k.wk).kept w.dst 0 = 0 ∧ t.tickets = x.s.tickets.erase n ∧ (w.mods = 0 → t.past x.k x.k.lanes))

/-- R120, R146, R147, R219 to R221: a global load whose lanes pass the checks and need not wait for a queued store issues one result
that holds, for each lane, the words of the bytes at its address, extended as the width says; LDC does so once; no byte
of memory changes beyond what the translation of its addresses sets. A lane without queued stores, whose line the core
does not hold and whose slice is awake, gets the bytes of memory; the width codes give the extended byte and half, the word, and
groups. A translation changes no byte of memory but the eight of the leaf entry that it uses, and no more of those than
the bits A and D. That a load takes its value as it issues is the model's choice (log entry 10). -/
def Obligations.GlobalLoads : Prop :=
  ((∀ w v, ∀ f ∈ loadForms w v, ∀ (c1 c2 : State) (ps : List (Nat × Nat)) (got : List (Nat × List Byte)), Runs f.i f.gate
    (fun x => x.b.checkLanes x.k x.act (f.addr x) (widthBytes (widthCode f.m)) (widthBytes (widthCode f.m)) .read false = (c1, { pass := ps }) ∧
      c1.loadLanes x.k ps (f.addr x) (widthBytes (widthCode f.m)) = (c2, got, 0))
    fun x t => x.loads c2 t (regsOfGroup f.o (widthCode f.m)) (groupWrites f.o (widthCode f.m) got (zeroHelpers x.k x.act ps))) ∧
  (∀ w v, ∀ f ∈ uniformLoadForms w v, ∀ (c1 c2 : State) (pa : Nat) (bs : List Byte), Runs f.i f.gate
    (fun x => anyLane x ∧
      x.b.check x.k.part (8 * x.k.part) x.k.asker (f.addr x (lowest x.act)) (widthBytes (widthCode f.m))
        (widthBytes (widthCode f.m)) .read false false = (c1, .pass pa) ∧
      c1.loadLane x.k 6 (lowest (x.act &&& ~~~x.k.helpers)) (f.addr x (lowest x.act)) pa (widthBytes (widthCode f.m)) = (c2, some bs))
    fun x t => x.loads c2 t (regsOfGroup f.o (widthCode f.m)) (groupWrites f.o (widthCode f.m) [(0, bs)] 0))) ∧
  ((∀ (s : State) (k : Ctx) (kind l va pa n : Nat), (s.weave k.wk).sq = [] → inMmio pa = false → s.sliceWakes pa = false → (s.gang k.gk).tag = none →
    ((s.core k.core).l1.any fun x => x.part == k.part && x.vline == va / 64) = false → pa % 64 + n ≤ 64 →
    (s.loadLane k kind l va pa n).2 = some (memRead s.mem pa n)) ∧
  (∀ a b c d : Byte, loadWords 0 [a] = [a.setWidth 32] ∧ loadWords 1 [a] = [a.signExtend 32] ∧
    loadWords 2 [a, b] = [(b ++ a).setWidth 32] ∧ loadWords 3 [a, b] = [(b ++ a).signExtend 32] ∧
    loadWords 4 [a, b, c, d] = [BitVec.ofNat 32 (a.toNat + 2 ^ 8 * b.toNat + 2 ^ 16 * c.toNat + 2 ^ 24 * d.toNat)]) ∧
  (∀ x y : Word, loadWords 5 (bytesOf 4 x.toNat ++ bytesOf 4 y.toNat) = [x, y]) ∧
  (∀ x y z u : Word, loadWords 6 (bytesOf 4 x.toNat ++ bytesOf 4 y.toNat ++ bytesOf 4 z.toNat ++ bytesOf 4 u.toNat) = [x, y, z, u]) ∧
  ∀ (s : State) (cluster p va : Nat) (k : AccessKind) (a : Nat),
    Table.get 0 (s.translate cluster p va k).1.mem a ≠ Table.get 0 s.mem a →
      ∃ pte level e, s.walk p va = .leaf pte level e ∧ pte ≤ a ∧ a < pte + 8 ∧
        memQword (s.translate cluster p va k).1.mem pte ||| 0x180 = memQword s.mem pte ||| 0x180)

/-- R341, R342: DLD gives each lane the decayed value of the stamped word at its address, DRAW its two words as they
stand, where the lanes pass the checks, no queued store of the weave touches a word and its slice is awake. That a load takes its value as
it issues is the model's choice (log entry 10). -/
def Obligations.StampedLoads : Prop :=
  ∀ (w : F3) (c1 : State) (ps : List (Nat × Nat)),
    let ok : Issue → Prop := fun x => (isS w.a = true → someLane x) ∧
      x.b.checkLanes x.k (x.asked w.a x.act) (x.pairOf w.a) 8 8 .read true = (c1, { pass := ps }) ∧
      ∀ r ∈ ps, (c1.weave x.k.wk).sqTouches r.2 8 = false ∧ c1.sliceWakes r.2 = false
    let word (x : Issue) (r : Nat × Nat) : Nat := leNat (c1.viewBytes x.k.part (c1.gang x.k.gk).tag r.2 8)
    let zeros (x : Issue) (n : Nat) : List LLWrite := (lanesOf (zeroHelpers x.k (if isS w.a then 0 else x.act) ps)).flatMap fun l =>
      (List.range n).map fun j => { dst := nextReg w.dst j, lane := l, val := 0 }
    Runs (.dld w) (fun s k => steGate (s.gang k.gk) w isVS isUnused (w.mods == 0 && (isS w.a || isV w.dst)) false []) ok (fun x t =>
      x.loads c1 t [w.dst] (ps.flatMap (fun r => stampWrites x w r.1 [decayed (c1.part x.k.part).stamp (word x r)]) ++ zeros x 1)) ∧
    Runs (.draw w) (fun s k =>
      { steGate (s.gang k.gk) w isPair isUnused (w.mods == 0 && (isS w.a || isV w.dst) && inDemand (s.gang k.gk) w.dst 2) false [] with
        drops := vregsOf [w.dst, nextReg w.dst 1] }) ok (fun x t =>
      x.loads c1 t [w.dst, nextReg w.dst 1] (ps.flatMap (fun r => stampWrites x w r.1
        [BitVec.ofNat 32 (word x r), BitVec.ofNat 32 (word x r / 2 ^ 32)]) ++ zeros x 2))

/-- R343 to R346: DADD and DSET whose lanes pass the checks enter one entry at the tail of the store queue, with each
lane's address and operands; the lanes are held until it is performed, and no register and no byte of memory changes
meanwhile, but for what the translation sets. Which lanes are held is the model's reading of R346 (log entry 112). -/
def Obligations.StampedUpdates : Prop :=
  ∀ (w : F3) (c1 : State) (ps : List (Nat × Nat)),
    let ok (acc : AccessKind) : Issue → Prop := fun x => someLane x ∧ x.w.sqFull = false ∧ ps ≠ [] ∧
      x.b.checkLanes x.k (x.asked w.a (x.act &&& ~~~x.k.helpers)) (x.pairOf w.a) 8 8 acc true = (c1, { pass := ps })
    let post (kind : SqKind) (x : Issue) (t : State) : Prop :=
      let held := if isS w.a then x.act &&& ~~~x.k.helpers else maskOfPairs ps
      x.s.waitsAt t x.k held .performed ∧ x.keepsFile c1 t [] ∧
      ∃ e, (t.weave x.k.wk).sq.getLast? = some e ∧ (t.weave x.k.wk).sq.length = x.w.sq.length + 1 ∧ e.kind = kind ∧ e.wait = held ∧
        e.items.map (fun i => (i.lane, i.addr, i.x, i.y)) =
          ps.map fun r => (r.1, r.2, (x.rd 1 w.dst r.1).setWidth 64, (x.rd 2 w.b r.1).setWidth 64)
    Runs (.dadd w)
      (fun s k =>
        let at_ := w.mods.getLsbD 0
        let vals := if at_ then [w.dst, w.b] else [w.dst]
        steGate (s.gang k.gk) w isVSConst (if at_ then isVS else isUnused) (modsIn w.mods 1 && stampUniform w vals) true vals)
      (ok .rmw) (post (.dadd (w.mods.getLsbD 0))) ∧
    Runs (.dset w)
      (fun s k => steGate (s.gang k.gk) w isVSConst (fun o => isVS o || isInt o) (w.mods == 0 && stampUniform w [w.dst, w.b]) true [w.dst, w.b])
      (ok .write) (post .dset)

/-- R348 to R350, R354: STEPRD reads the step, .pend the pending advance, .ge waits until the step reaches its source;
STEPADV adds an advance of 1 to 65 536 to a pending one that stays within 2^20, and FTSET stages a factor of index 0 to
255, each answering 0, and else a status with no effect; SWPSTAT reads a region's record. That the partition manager
answers in the step that asks is the model's choice (log entry 12). -/
def Obligations.StepAndFactors : Prop :=
  (∀ w : F3, Runs (.steprd w) (fun s k => stepGate (s.gang k.gk) w isPairS isUnused isUnused (w.mods == 0 && inDemand (s.gang k.gk) w.dst 2) false [])
    someLane fun x t => x.writes2 t w.dst x.stamp.step) ∧
  (∀ w : F3, Runs (.steprdPend w) (fun s k => stepGate (s.gang k.gk) w isPairS isUnused isUnused (w.mods == 2 && inDemand (s.gang k.gk) w.dst 2) false [])
    someLane fun x t => x.writes2 t w.dst (BitVec.ofNat 64 x.stamp.pend)) ∧
  (∀ w : F3, Runs (.steprdGe w) (fun s k => stepGate (s.gang k.gk) w isPairS isSorConst isUnused (w.mods == 1 && inDemand (s.gang k.gk) w.dst 2) false [w.a])
    someLane fun x t =>
      if (x.stamp.step.toNat + 2 ^ 32 - (x.rd 0 w.a 0).toNat) % 2 ^ 32 < 2 ^ 31 then x.writes2 t w.dst x.stamp.step
      else x.s.waitsAt t x.k x.k.lanes (.stepGe (x.rd 0 w.a 0)) ∧ x.keepsRegs t []) ∧
  (∀ w : F3, Runs (.stepadv w) (fun s k => stepGate (s.gang k.gk) w isS isSorConst isUnused (w.mods == 0) true [w.a]) someLane fun x t =>
    let n := (x.rd 0 w.a 0).toNat
    if n = 0 ∨ 65536 < n then x.writes t w.dst fun _ => 1
    else if 2 ^ 20 < x.stamp.pend + n then x.writes t w.dst fun _ => 2
    else x.answers t w.dst 0 ∧ (t.part x.k.part).stamp = { x.stamp with pend := x.stamp.pend + n } ∧ (t.part x.k.part).solo = true) ∧
  (∀ w : F3, Runs (.ftset w) (fun s k => stepGate (s.gang k.gk) w isS isSorConst isSorConst (w.mods == 0) true [w.a, w.b]) someLane fun x t =>
    let i := (x.rd 0 w.a 0).toNat
    if 255 < i then x.writes t w.dst fun _ => 1
    else x.answers t w.dst 0 ∧ (t.part x.k.part).solo = true ∧ (t.part x.k.part).stamp.ft = x.stamp.ft ∧
      ∀ j, Table.get 0 (t.part x.k.part).stamp.stg j = (if j = i then x.rd 1 w.b 0 else Table.get 0 x.stamp.stg j) ∧
        Table.get false (t.part x.k.part).stamp.stgv j = (if j = i then true else Table.get false x.stamp.stgv j)) ∧
  (∀ w : F3, Runs (.swpstat w) (fun s k => stepGate (s.gang k.gk) w isS isSorConst isUnused (w.mods == 0) false [w.a]) someLane fun x t =>
    let sel := (x.rd 0 w.a 0).toNat
    let r : Sweep := Table.get {} x.stamp.regs (sel / 4)
    x.writes t w.dst fun _ =>
      if sel = 64 then BitVec.ofNat 32 x.stamp.thr else if sel = 65 then BitVec.ofNat 32 x.stamp.pend else if 65 < sel then 0
      else match sel % 4 with
        | 0 => (if r.v then 1#32 else 0#32) ||| (if r.sw then 2#32 else 0#32)
        | 1 => r.floor.setWidth 32
        | 2 => BitVec.ofNat 32 (r.cursor % 2 ^ 26)
        | _ => BitVec.ofNat 32 (r.skippg.toNat + 2 ^ 16 * r.winw.toNat))

/-- R18, R19, R71, R72, R294, R356: a command that passes its checks issues once: its operation is Pending, its handle
register and its AFLAG stand for it, and its lanes go on where its engine's queue has a place and no earlier command of
the weave is held for one; else they are held, with AFLAG set. One whose handle register is Pending, or whose AFLAG has 15
bindings, is held and issues nothing. The alignment of ACCLD and ACCST and the rows of DRAIN are the model's readings
(log entries 52 and 53). -/
def Obligations.CommandsIssue : Prop :=
  ∀ w : FX, ∀ f ∈ copyForms w ++ engineForms w ++ matrixForms w,
    Runs f.i f.gate (fun x => x.canCommand w ∧ x.hasRoom f.eng ∧ f.ready x) (fun x t => x.commands t w f.i f.eng) ∧
    Runs f.i f.gate (fun x => x.canCommand w ∧ ¬x.hasRoom f.eng ∧ f.ready x) (fun x t =>
      x.makes t w f.i f.eng true ∧ x.s.waitsAt t x.k x.act (.cmdQueue x.s.nextKey) ∧ t.past x.k (x.k.lanes &&& ~~~x.act)) ∧
    (∀ r, Runs f.i f.gate (fun x => f.ready x ∧ w.noh = false ∧ x.s.handle x.w w.hdst.toNat = .pending r) fun x t =>
      x.s.waitsAt t x.k x.k.lanes (.destPending w.hdst.toNat r) ∧ x.keepsRegs t [] ∧ t.ops = x.s.ops) ∧
    Runs f.i f.gate (fun x => f.ready x ∧ (w.noh = true ∨ ∀ r, x.s.handle x.w w.hdst.toNat ≠ .pending r) ∧ w.afen = true ∧
      15 ≤ x.started.flag w.aflag.toNat)
      fun x t => x.s.waitsAt t x.k x.k.lanes (.flagFull w.aflag.toNat) ∧ x.keepsRegs t [] ∧ t.ops = x.s.ops

/-- R246, R256 to R258, R266: TCFGRD and ACCSTAT answer the state that their selector names; ACCRD reads its row, each
lane its own column, whole or read out and with `.sr` by a stepped generator; ACCWR writes the columns of the lanes of
`active` and no other entry; OPFENCE goes on once the weave's queue and results are empty. What ACCRD and ACCWR do
behind earlier operations is the model's reading (log entry 49), and no clause covers it. -/
def Obligations.AccumulatorWords : Prop :=
  (∀ w : F3, Runs (.tcfgrd w) (fun s k => mxGate (s.gang k.gk) w isS isSorInt isUnused (w.mods == 0) [w.a]) someLane fun x t =>
    let sel := (x.rd 0 w.a 0).toNat
    let c := x.g.cfgNew
    x.writes t w.dst fun _ => match sel with
      | 0 => c.tcw
      | 1 => BitVec.ofNat 32 (c.npl + 8 * c.spn)
      | 2 => c.off0
      | 3 => c.first0
      | 4 => c.off1
      | 5 => c.first1
      | _ => if sel - 6 < min 8 x.g.treg then Table.get 0 c.tiles (sel - 6) else 0) ∧
  (∀ w : F3, Runs (.accstat w) (fun s k => mxGate (s.gang k.gk) w isS isSorInt isUnused (modsIn w.mods 1) [w.a])
    (fun x => someLane x ∧ (w.mods = 1 → (x.rd 0 w.a 0).toNat = 0)) fun x t =>
    let sel := (x.rd 0 w.a 0).toNat
    x.answers t w.dst (x.b.accstat x.k.gk sel) ∧ (t.gang x.k.gk).sticky = if w.mods = 1 then 0 else x.g.sticky) ∧
  (∀ w : F3, Runs (.opfence w) (fun s k => mxGate (s.gang k.gk) w isUnused isUnused isUnused (w.mods == 0) []) someLane fun x t =>
    if x.w.sq = [] ∧ x.w.ll = [] then t.past x.k x.k.lanes ∧ x.s.frame t x.k []
    else x.s.waitsAt t x.k x.k.lanes .opFence ∧ x.keepsRegs t []) ∧
  (∀ w : F3, Runs (.accrd w)
    (fun s k =>
      let g := s.gang k.gk
      let ent := w.mods.getLsbD 3
      let sr := (w.mods.extractLsb' 0 3).toNat == 4
      { mxGate g w isV isSorInt isUnused
          (!w.mods.getLsbD 4 && (if ent then w.mods.extractLsb' 0 3 == 0 && isPair w.dst && inDemand g w.dst 2 else sr || w.mods.extractLsb' 0 3 == 0)) [w.a]
        with drops := vregsOf (w.dst :: if ent then [nextReg w.dst 1] else []) })
    (fun x => someLane x ∧ (x.rd 0 w.a 0).toNat < x.g.accr ∧ x.rowFree (x.rd 0 w.a 0).toNat) fun x t =>
      let ent := w.mods.getLsbD 3
      let sr := (w.mods.extractLsb' 0 3).toNat == 4
      let e (l : Nat) : BitVec 48 := x.g.entry (x.rd 0 w.a 0).toNat l
      x.loads x.s t ((if ent then [w.dst, nextReg w.dst 1] else [w.dst]) ++ if sr then [.special .sdlo, .special .sdhi] else [])
        ((lanesOf x.act).flatMap fun l =>
          if ent then [{ dst := w.dst, lane := l, val := (e l).setWidth 32 }, { dst := nextReg w.dst 1, lane := l, val := BitVec.ofNat 32 ((e l).toNat / 2 ^ 32) }]
          else [{ dst := w.dst, lane := l, val := readOut (if sr then some (genStep (x.lane l).gen) else none) (e l) }]) ∧
      ∀ l, l < 32 → x.act.getLsbD l = true → (x.laneIn t l).gen = if sr then genStep (x.lane l).gen else (x.lane l).gen) ∧
  (∀ w : F3, Runs (.accwr w)
    (fun s k =>
      let g := s.gang k.gk
      let ent := w.mods.getLsbD 3
      mxGate g w isV isSorInt isUnused (w.mods &&& 0b10111#5 == 0 && (!ent || (isPair w.dst && inDemand g w.dst 2)))
        (if ent then [w.dst, nextReg w.dst 1, w.a] else [w.dst, w.a]))
    (fun x => someLane x ∧ x.standsGang ∧ (x.rd 0 w.a 0).toNat < x.g.accr ∧ x.rowFree (x.rd 0 w.a 0).toNat) fun x t =>
      t.past x.k x.k.lanes ∧ x.keepsRegs t [] ∧
      ∀ r c, c < 32 → (t.gang x.k.gk).entry r c =
        if r = (x.rd 0 w.a 0).toNat ∧ (x.act &&& ~~~x.k.helpers).getLsbD c = true then
          BitVec.ofNat 48 ((x.rd 1 w.dst c).toNat + if w.mods.getLsbD 3 then (x.rd 5 (nextReg w.dst 1) c).toNat * 2 ^ 32 else 0)
        else x.g.entry r c)

/-- R250, R251: a multiply of a gang without a bond, whose plane is issued, of the opcode's kind and of a pair of
formats that multiply, whose registers and row are in range and whose handle register is not Pending, issues once: an
accepted operation with the operand's words, those of the reuse latch where they are the same registers'. The order of
the checks is the model's (log entry 55). -/
def Obligations.MultipliesIssue : Prop :=
  ∀ w : F3, ∀ f ∈ multiplyForms w, ∀ n : Nat, Runs f.1
    (fun s k => mxGate (s.gang k.gk) { w with reuse := false } (fun d => isH d || isZero d) isV isSorInt (w.mods.extractLsb' 3 2 == 0) [w.b])
    (fun x =>
      let p := (x.b.core x.k.core).plane n
      someLane x ∧ x.g.planes[(w.mods.extractLsb' 0 2).toNat]? = some n ∧ p.issued = true ∧ f.2.takes p = true ∧ mxPairs p.iwfmt (x.afmt w) = true ∧
      regNum w.a + mxGroup p.iwfmt p.ispn (x.afmt w) ≤ x.g.vreg ∧ (x.rd 6 w.b 0).toNat < x.g.accr ∧
      (isH w.dst = true → ∀ r, x.s.handle x.w (handleIndex w.dst) ≠ .pending r) ∧ x.s.bondOf x.k.gk = none)
    fun x t =>
      let p := (x.b.core x.k.core).plane n
      let size := mxGroup p.iwfmt p.ispn (x.afmt w)
      let data := match x.w.reuse with
        | some (r, ws) => if w.reuse = true ∧ r = regNum w.a ∧ ws.length = 32 * size then ws else x.e.groupWords (regNum w.a) size
        | none => x.e.groupWords (regNum w.a) size
      t.past x.k x.k.lanes ∧ x.keepsRegs t [] ∧ t.gangs = x.s.gangs ∧
      (∃ o, t.ops.find x.s.nextKey = some o ∧ o.instr = f.1 ∧ o.engine = .mx ∧ o.gang = x.k.gk ∧ o.accepted = true ∧ o.state = .pending ∧ o.amat = data) ∧
      (isH w.dst = true → t.handle (t.weave x.k.wk) (handleIndex w.dst) = .pending x.s.nextKey) ∧
      (t.weave x.k.wk).reuse = if w.reuse then some (regNum w.a, data) else none

/-- R278, R280, R284: BLEASE answers 1 to a gang that is no member, 2 for a bad mask, 3 where the bond is not formed, and
else adds its weaves to the gang's lease; BREL ends leases, and when a formed bond's gang holds none any more the bond
dissolves; BSTAT reads the bond. -/
def Obligations.BondLeases : Prop :=
  (∀ w : F3, ∀ bk b, Runs (.blease w) (fun s k => bcGate (s.gang k.gk) w isS isSorInt isUnused (w.mods == 0) [w.a])
    (fun x => someLane x ∧ (match x.s.bondOf x.k.gk with | some y => some y | none => x.s.bondAt x.g.cohort) = some (bk, b) ∧ x.s.bonds.find bk = some b ∧ b.state ≠ .forming ∧ b.state ≠ .surrendered)
    fun x t =>
      let mask : BitVec 16 := (x.rd 0 w.a 0).setWidth 16
      let m := b.memberOf x.k.gk
      let all := Table.get 0 b.leases m ||| mask
      if x.k.gk ∉ b.members then x.writes t w.dst fun _ => 1
      else if mask = 0 ∨ 2 ^ x.g.weaves ≤ mask.toNat ∨ (∀ n, n < x.g.weaves → all.getLsbD n = true → roleOf x.g n % 2 = 1) then x.writes t w.dst fun _ => 2
      else if b.state ≠ .formed then x.writes t w.dst fun _ => 3
      else x.answers t w.dst 0 ∧ t.bonds.find bk = some { b with leases := Table.set 0 b.leases m all }) ∧
  (∀ w : F3, ∀ bk b, Runs (.brel w) (fun s k => bcGate (s.gang k.gk) w isUnused isSorInt isUnused (w.mods == 0) [w.a])
    (fun x => someLane x ∧ x.s.bondOf x.k.gk = some (bk, b) ∧ x.s.bonds.find bk = some b ∧ b.state = .formed) fun x t =>
      let mask : BitVec 16 := (x.rd 0 w.a 0).setWidth 16
      let m := b.memberOf x.k.gk
      let now := Table.get 0 b.leases m &&& ~~~mask
      t.past x.k x.k.lanes ∧ x.keepsRegs t [] ∧
      if now = 0 ∧ Table.get 0 b.leases m ≠ 0 then ∀ c, t.bonds.find bk = some c → c.state = .dissolving ∧ c.leases = []
      else ∃ c, t.bonds.find bk = some c ∧ c.state = .formed ∧ c.leases = Table.set 0 b.leases m now) ∧
  (∀ w : F3, Runs (.brel w) (fun s k => bcGate (s.gang k.gk) w isUnused isSorInt isUnused (w.mods == 0) [w.a])
    (fun x => someLane x ∧ x.s.bondOf x.k.gk = none) fun x t => t.past x.k x.k.lanes ∧ x.s.frame t x.k []) ∧
  (∀ w : F3, Runs (.bstat w) (fun s k => bcGate (s.gang k.gk) w isS isSorInt isUnused (w.mods == 0) [w.a]) someLane fun x t =>
    x.writes t w.dst fun _ => x.s.bstat x.k.gk (x.rd 0 w.a 0).toNat) ∧
  (∀ (s : State) (gk bk : Nat) (b : Bond), s.bondOf gk = some (bk, b) → b.seam = false →
    s.bstat gk 0 = BitVec.ofNat 32 (bondCode b.state + (b.h - 1) * 2 ^ 3 + (b.w - 1) * 2 ^ 6 + b.c * 2 ^ 12 + b.memberOf gk * 2 ^ 15 +
      b.memberOf gk / b.w * 2 ^ 20 + b.memberOf gk % b.w * 2 ^ 23) ∧ s.bstat gk 2 = b.rounds)

/-- R274, R275: BSEAM.q answers whether a cluster faces in a direction and whether the cohort is paired; .pair answers 1
where none faces, 2 to a paired cohort, 3 where no cohort there is unpaired, 4 to a gang that is not of rank 0, pairs
the two where the other waits in the opposite direction and the second declares no lane, and else waits; .un ends a
pairing that has no bond. The order of the checks of .pair and its choice of a cohort are the model's reading (log entry
58). -/
def Obligations.SeamPairing : Prop :=
  (∀ w : F3, Runs (.bseamQ w) (fun s k => bcGate (s.gang k.gk) w isS isSorInt isUnused (w.mods == 0) [w.a]) someLane fun x t =>
    x.writes t w.dst fun _ => BitVec.ofNat 32 ((if x.dir w ≤ 3 ∧ (facing (x.k.core / 16) (x.dir w)).isSome = true then 1 else 0) +
      if x.mine.partner.isSome then 2 + 4 * x.mine.dir else 0)) ∧
  (∀ w : F3, ∀ cl, Runs (.bseamPair w) (fun s k => bcGate (s.gang k.gk) w isS isSorInt isUnused (w.mods.extractLsb' 2 3 == 0) [w.a])
    (fun x => someLane x ∧ x.g.seamAsk = none ∧ x.standsGang ∧ (x.s.cohorts.find x.g.cohort).isSome = true ∧
      cl = (if x.dir w ≤ 3 then facing (x.k.core / 16) (x.dir w) else none)) fun x t =>
      match cl with
      | none => x.writes t w.dst fun _ => 1
      | some n =>
        if x.mine.partner.isSome = true then x.writes t w.dst fun _ => 2
        else match x.s.unpaired x.g.launch n with
          | [] => x.answers t w.dst 3
          | c :: _ =>
            if x.g.rank ≠ 0 then x.writes t w.dst fun _ => 4
            else match x.s.pairAsk c with
              | none => x.s.waitsAt t x.k x.k.lanes (.seamAsk (x.dir w)) ∧ x.keepsRegs t []
              | some (_, _, pd) =>
                if pd ≠ (x.dir w + 2) % 4 then x.s.waitsAt t x.k x.k.lanes (.seamAsk (x.dir w)) ∧ x.keepsRegs t []
                else (∀ e ∈ (x.s.cohort (if x.dir w = 1 ∨ x.dir w = 2 then c else x.g.cohort)).conv, e.2.decl = []) → c ≠ x.g.cohort →
                  x.answers t w.dst 0 ∧ (t.cohort x.g.cohort).partner = some c ∧ (t.cohort c).partner = some x.g.cohort ∧
                  (t.cohort x.g.cohort).dir = x.dir w ∧ (t.cohort c).dir = (x.dir w + 2) % 4) ∧
  (∀ w : F3, Runs (.bseamUn w) (fun s k => bcGate (s.gang k.gk) w isS isUnused isUnused (w.mods.extractLsb' 2 3 == 0) []) someLane fun x t =>
    match x.mine.partner with
    | none => x.writes t w.dst fun _ => 2
    | some d =>
      if (x.s.bondAt x.g.cohort).isSome = true then x.writes t w.dst fun _ => 6
      else x.answers t w.dst 0 ∧ (t.cohort x.g.cohort).partner = none ∧ (t.cohort d).partner = none)

/-- R320 to R324: QENQ, whose queue's slices are awake, completes, with answer 2 for a queue that cannot be used and 1 for a
full one; else it answers 0, gives its words to the oldest waiter where there is one, and stores them at the tail where
there is none. That the slice answers in the step that asks is the model's choice (log entry 12). -/
def Obligations.QueueEntriesEnter : Prop :=
  ∀ (w : F3) (s : State) (k : Ctx), s.inHand k → s.passes k (queueGate w true true s k) = true →
    let x := s.issueOf k (queueGate w true true s k)
    let r := x.q w
    let fits := inDemand x.g w.b (r.bytes / 4) = true ∧ regNum w.b + r.bytes / 4 ≤ 64 ∧
      (∀ m, (s.launch k.launch).queueOcc.find (x.qn w) = some m → r.count + 1 ≤ m) ∧ x.w.sq = []
    someLane x → s.queueWakes k.part (x.qn w) = false →
    (¬x.queueUsable w → ∃ t, exec (.qenq w) s = .next t ∧ x.answers t w.dst 2) ∧
    (x.queueUsable w → fits → s.waitersOf k.part (x.qn w) r = [] → r.count = r.depth →
      ∃ t, exec (.qenq w) s = .next t ∧ x.answers t w.dst 1) ∧
    (x.queueUsable w → fits → s.waitersOf k.part (x.qn w) r = [] → r.count < r.depth →
      (∃ c pa, x.b.ringCheck k.part r.tail r .write = (c, .pass pa)) →
      let a := r.base + r.bytes * r.tail
      ∃ t, exec (.qenq w) s = .next t ∧ x.tells t w.dst 0 ∧
        t.queue x w = { r with tail := (r.tail + 1) % r.depth, count := r.count + 1 } ∧
        (a + r.bytes ≤ r.at_ ∨ r.at_ + 32 ≤ a →
          memRead t.mem a r.bytes = (List.range (r.bytes / 4)).flatMap fun j => bytesOf 4 (x.rd (8 + j) (nextReg w.b j) 0).toNat) ∧
        ∀ i, (i < a ∨ a + r.bytes ≤ i) → (i < r.at_ ∨ r.at_ + 32 ≤ i) → Table.get 0 t.mem i = Table.get 0 s.mem i) ∧
    (∀ y ys, x.queueUsable w → fits → s.waitersOf k.part (x.qn w) r = y :: ys → y.wk ≠ k.wk →
      ∃ t, exec (.qenq w) s = .next t ∧ x.tells t w.dst 0 ∧ y ∉ t.waitersOf k.part (x.qn w) r ∧ (t.queue x w).count = r.count ∧ x.recordOnly t w)

/-- R320: QSTAT, whose queue's slices are awake, completes: it answers COUNT in bits [15:0], WAITERS in [23:16] and V in [24]. For
a queue that cannot be used it answers 2, which is the model's reading (log entry 29). -/
def Obligations.QueueStatusCompletes : Prop :=
  ∀ (w : F3) (s : State) (k : Ctx), s.inHand k → s.passes k (queueGate w false false s k) = true →
    let x := s.issueOf k (queueGate w false false s k)
    someLane x → s.queueWakes k.part (x.qn w) = false →
    (x.queueUsable w → ∃ t, exec (.qstat w) s = .next t ∧
      x.answers t w.dst (BitVec.ofNat 32 ((x.q w).count + (x.q w).waiters * 2 ^ 16 + 2 ^ 24))) ∧
    (¬x.queueUsable w → ∃ t, exec (.qstat w) s = .next t ∧ x.answers t w.dst 2)

/-- R320 to R324: QDEQ and QPARK, whose queue's slices are awake, answer 2 for a queue that cannot be used, and else 0 and the
words of the head entry, which leaves the queue; of an empty queue QDEQ answers 1, and QPARK, in its turn, parks the
weave as its youngest waiter. That the slice answers in the step that asks is the model's choice (log entry 12). -/
def Obligations.QueueEntriesLeave : Prop :=
  let awake (w : F3) (x : Issue) : Prop := someLane x ∧ x.s.queueWakes x.k.part (x.qn w) = false
  let readable (w : F3) (x : Issue) : Prop := ∃ c pa, x.b.ringCheck x.k.part (x.q w).head (x.q w) .read = (c, .pass pa)
  (∀ w : F3, Runs (.qdeq w) (queueGate w false true) (fun x => awake w x ∧ ¬x.queueUsable w) fun x t =>
    x.loads x.s t [w.dst] [{ dst := nextReg w.dst 0, lane := 0, val := 2 }]) ∧
  (∀ w : F3, Runs (.qdeq w) (queueGate w false true)
    (fun x => awake w x ∧ x.queueUsable w ∧ entryFits x.g w.dst ((x.q w).bytes / 4) = true ∧ ((x.q w).count ≠ 0 → readable w x)) fun x t =>
      let n := (x.q w).bytes / 4
      if (x.q w).count = 0 then x.loads x.s t [w.dst] [{ dst := nextReg w.dst 0, lane := 0, val := 1 }]
      else x.loads t t ((List.range (n + 1)).map (nextReg w.dst)) ((0 :: x.headWords w).zipIdx.map fun (v, i) => { dst := nextReg w.dst i, lane := 0, val := v }) ∧ x.recordOnly t w ∧
        ((x.q w).depth ≠ 0 → t.queue x w = { x.q w with head := ((x.q w).head + 1) % (x.q w).depth, count := (x.q w).count - 1 })) ∧
  (∀ w : F3, Runs (.qpark w) (queueGate w false true) (fun x => awake w x ∧ ¬x.queueUsable w) fun x t => x.answers t w.dst 2) ∧
  (∀ w : F3, Runs (.qpark w) (queueGate w false true)
    (fun x => awake w x ∧ x.queueUsable w ∧ entryFits x.g w.dst ((x.q w).bytes / 4) = true ∧
      if (x.q w).count = 0 then x.b.parkTurn (x.s.homeSlice (x.q w).at_) x.k.wk = true else readable w x) fun x t =>
      let n := (x.q w).bytes / 4
      let u := t.weave x.k.wk
      x.recordOnly t w ∧ if (x.q w).count ≠ 0 then
        t.past x.k x.k.lanes ∧ (∀ o l, l < 32 → o ∉ (List.range (n + 1)).map (nextReg w.dst) → u.kept o l = x.w.kept o l) ∧
        (∀ j, j < n + 1 → u.kept (nextReg w.dst j) 0 = (0 :: x.headWords w).getD j 0) ∧
        ((x.q w).depth ≠ 0 → t.queue x w = { x.q w with head := ((x.q w).head + 1) % (x.q w).depth, count := (x.q w).count - 1 })
      else x.s.waitsAt t x.k x.act (.parkedOn (x.qn w) (regNum w.dst)) ∧ (∀ o l, l < 32 → u.kept o l = x.w.kept o l) ∧
        t.waitersOf x.k.part (x.qn w) (x.q w) =
          x.s.waitersOf x.k.part (x.qn w) (x.q w) ++ [{ part := x.k.part, queue := x.qn w, wk := x.k.wk, dst := regNum w.dst }])

/-- R327 to R329, R331, R416, R309: WATCH of an awake slice arms a watch and answers its number, or all ones where the
partition's quota or the pool is used up; .cancel frees one of the partition's that has not fired; GRES gives the tile's regulator the greatest residual;
SGSTAT reads an entry of the partition's pattern table, and with .clr frees it. -/
def Obligations.WatchesResidualsPatterns : Prop :=
  (∀ w : F3, ∀ (c1 : State) (pa : Nat), Runs (.watch w)
    (fun s k =>
      let g := s.gang k.gk
      seGate g w isS isPairS isPairS (some isS)
        (modsIn w.mods 3 && inDemand g w.a 2 && inDemand g w.b 2 && inDemand g w.srcC 5 && decide (regNum w.srcC + 5 ≤ 64)) true
        ([w.a, nextReg w.a 1, w.b, nextReg w.b 1] ++ (List.range 5).map (nextReg w.srcC)))
    (fun x => someLane x ∧ (x.rd 6 (nextReg w.srcC 0) 0).toNat % 8 = 0 ∧ c1.sliceWakes pa = false ∧
      x.b.check x.k.part (8 * x.k.part) x.k.asker (x.pairOf w.a 0) 8 8 .read true false = (c1, .pass pa)) fun x t =>
      let r (i : Nat) : Nat := (x.rd (6 + i) (nextReg w.srcC i) 0).toNat
      let value : Nat := (x.rd 1 w.b 0).toNat + 2 ^ 32 * (x.rd 5 (nextReg w.b 1) 0).toNat
      let cond := w.mods.toNat % 4
      let room := (x.s.watches.filter fun e => e.2.part == x.k.part).length < (x.s.part x.k.part).ctl.wquota
      let free := ∃ n, n < 4096 ∧ x.s.watches.find n = none
      x.keepsFile c1 t [w.dst] ∧ t.past x.k x.k.lanes ∧
      (room → free →
        ∃ n, n < 4096 ∧ x.s.watches.find n = none ∧ (t.weave x.k.wk).took w.dst x.act (fun _ => BitVec.ofNat 32 n) ∧
          t.watches.find n = some { part := x.k.part, pa := pa, cond := cond, value := BitVec.ofNat 64 value, hostAddr := BitVec.ofNat 64 (r 0 + 2 ^ 32 * r 1)
                                    hostVal := BitVec.ofNat 64 (r 2 + 2 ^ 32 * r 3), vector := r 4 % 2048, fired := watchHolds cond (memQword c1.mem pa) value }) ∧
      (¬(room ∧ free) → (t.weave x.k.wk).took w.dst x.act fun _ => 0xFFFFFFFF)) ∧
  (∀ w : F3, Runs (.watchCancel w) (fun s k => seGate (s.gang k.gk) w isS isSorInt isUnused (some isUnused) (w.mods == 16) true [w.a]) someLane fun x t =>
    let n := (x.rd 0 w.a 0).toNat
    match x.s.watches.find n with
    | none => x.writes t w.dst fun _ => 1
    | some y => if y.part = x.k.part ∧ y.fired = false then x.answers t w.dst 0 ∧ t.watches = x.s.watches.erase n else x.writes t w.dst fun _ => 1) ∧
  (∀ w : F3, ∀ l y, Runs (.gres w) (fun s k => seGate (s.gang k.gk) w isUnused isVSConst isUnused none (w.mods == 0) false [w.a])
    (fun x => someLane x ∧ x.g.tag.isSome = true ∧ x.s.launches.find x.k.launch = some l ∧ l.tiles.find x.g.tile = some y) fun x t =>
      let v := (match (lanesOf (x.act &&& ~~~x.k.helpers)).map (x.rd 0 w.a) with | v :: vs => vs.foldl residualMax v | [] => 0)
      t.past x.k x.k.lanes ∧ x.keepsRegs t [] ∧
      ∃ z, (t.launch x.k.launch).tiles.find x.g.tile = some z ∧ z.res = some (match y.res with | none => residualMax v v | some o => residualMax o v)) ∧
  (∀ w : F3, Runs (.gres w) (fun s k => seGate (s.gang k.gk) w isUnused isVSConst isUnused none (w.mods == 0) false [w.a])
    (fun x => x.g.tag = none) fun x t => t.past x.k x.k.lanes ∧ x.s.frame t x.k []) ∧
  (∀ w : F3, Runs (.sgstat w) (fun s k => { mxGate (s.gang k.gk) w isS isSorInt isUnused (modsIn w.mods 1) [w.a] with engine := .ce }) anyLane fun x t =>
    let a := (x.rd 0 w.a 0).toNat
    let y := Table.get {} (x.s.part x.k.part).gather (a / 4)
    x.answers t w.dst (if 32 ≤ a then 0 else match a % 4 with
      | 0 => if y.valid then BitVec.ofNat 32 (y.detail % 256 + y.pattern % 16 * 256) else 0
      | 1 => loWord y.addr
      | 2 => hiWord y.addr
      | _ => y.count) ∧
    (t.part x.k.part).gather = if w.mods.getLsbD 0 = true ∧ a < 32 then (x.s.part x.k.part).gather.erase (a / 4) else (x.s.part x.k.part).gather)

/-- R317 to R319: a RATOM whose lanes pass the checks enters one entry with each lane's address and operands, and one result
that is not written back before the slice has performed it; its lanes go on. What the operations leave in a word or
doubleword is the sum, the signed or unsigned minimum and maximum, the bits, the operand, or the operand where the word
compares equal. -/
def Obligations.RemoteAtomics : Prop :=
  (∀ (w : F3) (c1 : State) (ps : List (Nat × Nat)),
    let wide := ratomWide w.mods
    let n := if wide then 8 else 4
    Runs (.ratom w)
      (fun s k =>
        let g := s.gang k.gk
        let gt := seGate g w isVSZ isPair isVSConst (some fun _ => true) (ratomLegal g w) true (ratomSrcs w)
        { gt with legal := gt.legal && uniformOk w.dst (ratomSrcs w), drops := vregsOf (ratomDsts w) })
      (fun x => someLane x ∧ x.w.sqFull = false ∧ ps ≠ [] ∧
        x.b.checkLanes x.k (if perLane w.dst then x.act &&& ~~~x.k.helpers else x.first) (x.pairOf w.a) n n .rmw true = (c1, { pass := ps }))
      fun x t => t.past x.k x.k.lanes ∧ x.keepsFile c1 t [w.dst, nextReg w.dst 1] ∧
        (∃ p, (t.weave x.k.wk).ll.getLast? = some p ∧ p.ready = false ∧ p.id = x.w.nextId ∧ p.clause = x.k.run) ∧
        ∃ e, (t.weave x.k.wk).sq.getLast? = some e ∧ (t.weave x.k.wk).sq.length = x.w.sq.length + 1 ∧
          e.kind = .ratom (ratomOp w.mods) wide w.dst x.w.nextId (!perLane w.dst) ∧
          e.items.map (fun i => (i.lane, i.addr, i.x, i.y)) =
            ps.map fun r => (r.1, r.2, x.e.wideAt x.s.ops wide 1 w.b r.1, x.e.wideAt x.s.ops wide 2 w.srcC r.1)) ∧
  (∀ (wide : Bool) (m x c : Nat),
    let n := if wide then 64 else 32
    let b := if wide then 8 else 4
    let sg (v : Nat) : Int := (BitVec.ofNat n v).toInt
    m < 2 ^ n → x < 2 ^ n → c < 2 ^ n →
    ratomValue 0 b m x c = (m + x) % 2 ^ n ∧ sg (ratomValue 2 b m x c) = min (sg m) (sg x) ∧ sg (ratomValue 3 b m x c) = max (sg m) (sg x) ∧
    ratomValue 4 b m x c = min m x ∧ ratomValue 5 b m x c = max m x ∧ ratomValue 9 b m x c = x ∧ ratomValue 10 b m x c = (if m = c then x else m) ∧
    ∀ j, j < n → (ratomValue 6 b m x c).testBit j = (m.testBit j && x.testBit j) ∧ (ratomValue 7 b m x c).testBit j = (m.testBit j || x.testBit j) ∧
      (ratomValue 8 b m x c).testBit j = (m.testBit j != x.testBit j))

/-- R320, R321, R325, R326, R330: QINIT, of privileged lanes, answers 1 for a bad number, depth, size or base, else
writes an empty record and answers 0; .inv makes the record one that cannot be used; the waiters leave. CNTRD reads a
counter, or the sum of a die's, at 32 bits; CNTCLR clears the partition's counters of the kinds of its mask and no
other; SFLUSH writes back, or drops, the lines that it names, one after the other. That the slices answer in the step
that asks is the model's choice (log entry 12). -/
def Obligations.QueueInitAndCounters : Prop :=
  ((∀ w : F3, Runs (.qinit w)
    (fun s k =>
      let g := s.gang k.gk
      let gt := seGate g w isS isSorInt isS none (w.mods == 0 && inDemand g w.b 3) true [w.a, w.b, nextReg w.b 1, nextReg w.b 2]
      { gt with privileged := true })
    (fun x => someLane x ∧ ∀ y ∈ x.s.waitersOf x.k.part (x.qn w) (x.q w), y.wk ≠ x.k.wk) fun x t =>
      let base : Nat := (x.rd 1 w.b 0).toNat + 2 ^ 32 * (x.rd 4 (nextReg w.b 1) 0).toNat
      let c := (x.rd 5 (nextReg w.b 2) 0).toNat
      let depth := if c % 2 ^ 16 = 0 then 32768 else c % 2 ^ 16
      let esz := c / 2 ^ 16 % 4
      if 4095 < x.qn w ∨ depth < 2 ∨ 32768 < depth ∨ esz = 3 ∨ base % 64 ≠ 0 ∨ hbmEnd < base + depth * (8 * 2 ^ esz) ∨
          x.b.ringWritable x.k.part base (depth * (8 * 2 ^ esz)) = false then x.answers t w.dst 1
      else x.tells t w.dst 0 ∧ x.recordOnly t w ∧ t.waitersOf x.k.part (x.qn w) (x.q w) = [] ∧
        t.queue x w = { at_ := (x.q w).at_, base := base, depth := depth, esz := esz, v := true, head := 0, tail := 0, count := 0, waiters := 0 }) ∧
  (∀ w : F3, Runs (.qinitInv w)
    (fun s k => { seGate (s.gang k.gk) w isS isSorInt isUnused none (w.mods == 1) true [w.a] with privileged := true })
    (fun x => someLane x ∧ ∀ y ∈ x.s.waitersOf x.k.part (x.qn w) (x.q w), y.wk ≠ x.k.wk) fun x t =>
      if 4095 < x.qn w then x.answers t w.dst 1
      else x.tells t w.dst 0 ∧ x.recordOnly t w ∧ t.waitersOf x.k.part (x.qn w) (x.q w) = [] ∧ (t.queue x w).v = false ∧ (t.queue x w).count = 0)) ∧
  ((∀ w : F3, Runs (.cntrd w) (fun s k => seGate (s.gang k.gk) w isS isSorInt isUnused none (w.mods == 0) false [w.a]) someLane fun x t =>
    let sel := (x.rd 0 w.a 0).toNat
    let n (slice : Nat) : Nat := (Table.get 0 (x.s.slice slice).counts (8 * x.k.part + sel % 8)).toNat
    let die := sel / 8 % 4
    let v : Word := if 2 ^ 11 ≤ sel then 0
      else if sel.testBit 10 then BitVec.ofNat 32 (min (2 ^ 32 - 1) (((List.range 32).map fun i => n (32 * die + i)).sum))
      else BitVec.ofNat 32 (n (32 * die + sel / 2 ^ 5 % 2 ^ 5))
    x.loads x.s t [w.dst] [{ dst := w.dst, lane := 0, val := v }]) ∧
  (∀ w : F3, Runs (.cntclr w) (fun s k => seGate (s.gang k.gk) w isUnused isSorInt isUnused none (w.mods == 0) true [w.a]) someLane fun x t =>
    t.past x.k x.k.lanes ∧ x.keepsRegs t [] ∧ ∀ p slice kind, kind < 8 →
      Table.get 0 (t.slice slice).counts (8 * p + kind) =
        if p = x.k.part ∧ (x.rd 0 w.a 0).getLsbD kind = true then 0 else Table.get 0 (x.s.slice slice).counts (8 * p + kind)) ∧
  (∀ w : F3, ∀ c : State, Runs (.sflush w)
    (fun s k => seGate (s.gang k.gk) w isUnused isPairS isS none (modsIn w.mods 1 && inDemand (s.gang k.gk) w.a 2) false [w.a, nextReg w.a 1, w.b])
    (fun x => someLane x ∧
      let n := (x.rd 1 w.b 0).toNat
      x.b.flushed x.k (x.act &&& ~~~x.k.helpers) (w.mods.getLsbD 0) (x.pairOf w.a 0 / 64)
        (if n = 0 then 0 else (x.pairOf w.a 0 + n - 1) / 64 - x.pairOf w.a 0 / 64 + 1) = some c) fun x t =>
      t.past x.k x.k.lanes ∧ x.keepsFile c t [] ∧ t.slices = c.slices) ∧
  (∀ (s : State) (p pa line : Nat), line = pa / 64 →
    (∀ y ∈ ((s.flushLine p pa true).slice (s.homeSlice pa)).lines, y.line ≠ line) ∧
    (∀ y ∈ ((s.flushLine p pa false).slice (s.homeSlice pa)).lines, y.line = line → y.dirty = 0) ∧
    (s.flushLine p pa false).mem = s.mem))

/-- R356 to R358, R365 to R368: while no TKMRG of the weave is Pending, TKCFG answers 1 for a size outside 1 to 64, else
empties the list and gives it its size and order; TKCLR empties it; TKINS offers each lane's entry in ascending order;
TKRD reads the key or the identifier of an entry; TKSTAT reads the list's status. While one is, TKCFG waits. That TKRD
takes a special operand is the model's reading (log entry 110). -/
def Obligations.RankedListWords : Prop :=
  (∀ w : F3, Runs (.tkcfg w) (fun s k => nnGate (s.gang k.gk) w isS isSorInt isUnused (modsIn w.mods 1) [w.a]) someLane fun x t =>
    let n := (x.rd 0 w.a 0).toNat
    if x.s.merging x.k.wk = true then x.s.waitsAt t x.k x.k.lanes .tkmrgOut ∧ x.keepsRegs t []
    else if n = 0 ∨ 64 < n then x.writes t w.dst fun _ => 1
    else x.answers t w.dst 0 ∧ (t.weave x.k.wk).list = { k := n, max := w.mods.getLsbD 0, ents := [], rejected := 0 }) ∧
  (∀ w : F3, Runs (.tkclr w) (fun s k => nnGate (s.gang k.gk) w isUnused isUnused isUnused (w.mods == 0) [])
    (fun x => someLane x ∧ x.s.merging x.k.wk = false) fun x t =>
      t.past x.k x.k.lanes ∧ x.keepsRegs t [] ∧ (t.weave x.k.wk).list = { x.w.list with ents := [], rejected := 0 }) ∧
  (∀ w : F3, Runs (.tkins w) (fun s k => nnGate (s.gang k.gk) w isUnused isVS isVSInt (w.mods == 0) [w.a, w.b])
    (fun x => x.s.merging x.k.wk = false) fun x t =>
      t.past x.k x.k.lanes ∧ x.keepsRegs t [] ∧
      (t.weave x.k.wk).list = (lanesOf (x.act &&& ~~~x.k.helpers)).foldl (fun r l => r.offer (x.rd 0 w.a l, x.rd 1 w.b l)) x.w.list) ∧
  (∀ w : F3, Runs (.tkrd w)
    (fun s k =>
      let gt := nnGate (s.gang k.gk) w isVS (fun o => isVSInt o || isSpecial o) isUnused (modsIn w.mods 1) [w.a]
      { gt with legal := gt.legal && uniformOk w.dst [w.a], drops := vregsOf [w.dst] })
    (fun x => x.s.merging x.k.wk = false) fun x t =>
      x.loads x.s t [w.dst] ((if perLane w.dst then lanesOf x.act else if x.act &&& ~~~x.k.helpers = 0 then [] else (lanesOf x.act).take 1).map fun l =>
        let e := x.w.list.ents[(x.rd 0 w.a l).toNat]?
        { dst := w.dst, lane := if perLane w.dst then l else 0
          val := if w.mods.getLsbD 0 then (e.map (·.2)).getD 0xFFFFFFFF else (e.map (·.1)).getD 0x7FC00000 })) ∧
  (∀ w : F3, Runs (.tkstat w) (fun s k => nnGate (s.gang k.gk) w isS isSorInt isUnused (w.mods == 0) [w.a]) someLane fun x t =>
    let r := x.w.list
    x.writes t w.dst fun _ => match (x.rd 0 w.a 0).toNat with
      | 0 => BitVec.ofNat 32 (r.ents.length + (if r.max then 2 ^ 7 else 0) + r.k * 2 ^ 8 + if x.s.merging x.k.wk then 2 ^ 15 else 0)
      | 1 => r.rejected
      | _ => 0) ∧
  (∀ (r : RankList) (e : Word × Word), (FVal.ofBits .f32 e.1.toNat).isNan = true →
    (r.offer e).ents = r.ents ∧ (r.offer e).rejected.toNat = min (2 ^ 32 - 1) (r.rejected.toNat + 1)) ∧
  (∀ (r : RankList) (e : Word × Word), r.ents.length ≤ r.k → (r.offer e).ents.length ≤ r.k ∧ (r.offer e).k = r.k ∧ (r.offer e).max = r.max)

/-- R377 to R385: XST of ranks within a bound launch enters one entry with each lane's offset, bytes and rank, and of an
unbound one only notes detail 0x01; XSTEP of a bound launch holds its lanes on an accepted command, and of an unbound one
resolves with detail 0x01; XSTAT and XCNT answer what their selectors name, XSTAT.clr clearing the status word. -/
def Obligations.ExchangeWords : Prop :=
  (∀ w : F3, Runs (.xst w) (xstGate w)
    (fun x => x.xstFits w ∧ (x.b.boundRegion x.g).isSome = true ∧
      ∀ l, l < 32 → (x.act &&& ~~~x.k.helpers).getLsbD l = true → (x.rd 0 w.a l).toNat < (x.s.launch x.k.launch).gangCount) fun x t =>
      t.past x.k x.k.lanes ∧ x.keepsRegs t [] ∧ (t.weave x.k.wk).xstatus = x.w.xstatus ∧
      ∃ e, (t.weave x.k.wk).sq.getLast? = some e ∧ (t.weave x.k.wk).sq.length = x.w.sq.length + 1 ∧ e.kind = .xst ∧ e.mask = x.k.lanes ∧
        e.items.map (fun i => (i.lane, i.addr, i.bytes, i.x)) = (lanesOf (x.act &&& ~~~x.k.helpers)).map fun l =>
          (l, (x.rd 1 w.b l).toNat, x.stored w.dst w.mods l, (x.rd 0 w.a l).setWidth 64)) ∧
  (∀ w : F3, Runs (.xst w) (xstGate w) (fun x => x.xstFits w ∧ x.b.boundRegion x.g = none) fun x t =>
      t.past x.k x.k.lanes ∧ x.keepsRegs t [] ∧ (t.weave x.k.wk).sq.length = x.w.sq.length ∧
      (t.weave x.k.wk).xstatus = if x.w.xstatus = 0 then
        BitVec.ofNat 32 (0x140 + (x.rd 0 w.a (lowest (x.act &&& ~~~x.k.helpers))).toNat % 2 ^ 16 * 2 ^ 16) else x.w.xstatus) ∧
  (∀ w : FX, Runs (.xstep w) (fun s k => fxGate (s.gang k.gk) w .xe 0 (w.dbase == 0 && w.subop == 0 && w.imm == 0) true)
    (fun x => x.canCommand w ∧ x.hasRoom .xe ∧ x.w.sq = []) fun x t =>
      x.keepsRegs t [] ∧
      ∃ o, t.ops.find x.s.nextKey = some o ∧ o.instr = .xstep w ∧ o.accepted = true ∧
        if (x.b.boundRegion x.g).isSome then o.state = .pending ∧ x.s.waitsAt t x.k x.act (.xstep (some x.s.nextKey))
        else o.state = .resolved 0x140 ∧ t.past x.k x.k.lanes) ∧
  (∀ w : F3, Runs (.xstat w) (fun s k => xeGate (s.gang k.gk) w isS isSorInt isUnused (modsIn w.mods 1) false [w.a])
    (fun x => someLane x ∧ (w.mods = 1 → (x.rd 0 w.a 0).toNat = 3)) fun x t =>
      x.answers t w.dst (x.b.xstat x.k (x.rd 0 w.a 0).toNat) ∧ (t.weave x.k.wk).xstatus = if w.mods = 1 then 0 else x.w.xstatus) ∧
  (∀ w : F3, Runs (.xcnt w) (fun s k => xeGate (s.gang k.gk) w isS isSorInt isUnused (w.mods == 0) false [w.a]) someLane fun x t =>
    let sel := (x.rd 0 w.a 0).toNat
    x.writes t w.dst fun _ =>
      if sel < 4 then Table.get 0 x.g.xcnt sel
      else if 0x100 ≤ sel ∧ sel < 0x1C0 ∧ x.s.ownsPort x.k.part (sel - 0x100) = true ∧ (x.s.rxBuf (sel - 0x100)).v = true then
        BitVec.ofNat 32 ((x.s.rxBuf (sel - 0x100)).fulls - (x.s.rxBuf (sel - 0x100)).taken)
      else if 0x200 ≤ sel ∧ sel < 0x2C0 ∧ x.s.ownsPort x.k.part (sel - 0x200) = true ∧ (x.s.txChan (sel - 0x200)).v = true then
        BitVec.ofNat 32 (x.s.txChan (sel - 0x200)).credits
      else 0)

/-- R386 to R390: LBUFCFG answers 2 for a port that is not the partition's (or, for .tx, is down), 1 for a bad size or
base, 3 for a buffer that is configured or a peer that refuses, 4 for a page that does not translate, and else
configures; LPOLL takes the oldest full slot in its turn, answers 1 with .try where it can take none, and else waits in turn; LRET returns the oldest
taken slot. What a peer reports to .tx are free values (log entry 40); what LPOLL takes, and a .nb behind a
waiting LPOLL, are the model's reading (log entries 44 and 145). -/
def Obligations.HuapolWords : Prop :=
  (∀ w : F3, Runs (.lbufcfgRx w)
    (fun s k =>
      let gt := xeGate (s.gang k.gk) w isS isSorInt isS (w.mods == 0) true [w.a, w.b, nextReg w.b 1, nextReg w.b 2]
      { gt with legal := gt.legal && inDemand (s.gang k.gk) w.b 3 && decide (regNum w.b + 3 ≤ 64) }) someLane fun x t =>
      let base : Nat := (x.rd 1 w.b 0).toNat + 2 ^ 32 * (x.rd 4 (nextReg w.b 1) 0).toNat
      let c := (x.rd 5 (nextReg w.b 2) 0).toNat
      let size := 256 * (c % 2 ^ 13)
      let slots := c / 2 ^ 13 % 16 + 1
      if ¬x.owns w then x.writes t w.dst fun _ => 2
      else if size = 0 ∨ 4096 * 256 < size ∨ 2 ^ 17 ≤ c ∨ base % 256 ≠ 0 then x.writes t w.dst fun _ => 1
      else if (x.s.rxBuf (x.chan w)).v = true then x.writes t w.dst fun _ => 3
      else match x.b.bufferPages x.k base (slots * size) with
        | (_, none) => x.writes t w.dst fun _ => 4
        | (c1, some pages) => (t.weave x.k.wk).took w.dst x.act (fun _ => 0) ∧ t.past x.k x.k.lanes ∧ x.keepsFile c1 t [w.dst] ∧
          t.rxBuf (x.chan w) = { v := true, base := BitVec.ofNat 64 base, size := size, slots := slots, pages := pages }) ∧
  (∀ w : F3, Runs (.lbufcfgTx w) (linkGate w 1) someLane fun x t =>
      if ¬x.owns w ∨ (x.s.port (x.chan w / 16)).up = false then x.writes t w.dst fun _ => 2
      else (x.answers t w.dst 3 ∧ t.txChan (x.chan w) = x.s.txChan (x.chan w)) ∨
        (x.answers t w.dst 0 ∧ let y := t.txChan (x.chan w); y.v = true ∧ 1 ≤ y.slots ∧ y.slots ≤ 16 ∧ y.credits = y.slots ∧ y.size % 256 = 0 ∧ 256 ≤ y.size ∧
          y.failed = false)) ∧
  (∀ w : F3, Runs (.lbufcfgOff w) (linkGate w 2) someLane fun x t =>
      if ¬x.owns w then x.writes t w.dst fun _ => 2 else x.answers t w.dst 0 ∧ t.rxBuf (x.chan w) = {}) ∧
  (∀ w : F3, Runs (.lpoll w) (fun s k => xeGate (s.gang k.gk) w isPairS isSorInt isUnused (modsIn w.mods 1 && inDemand (s.gang k.gk) w.dst 2) true [w.a])
    someLane fun x t =>
      let y := x.s.rxBuf (x.chan w)
      if ¬x.owns w ∨ y.v = false then x.writes2 t w.dst 0x2FFFFFFFF
      else if y.full.getLsbD y.take = true ∧ y.taken < y.fulls ∧ x.b.pollTurn (x.chan w) x.k.wk = true then
        (t.weave x.k.wk).took w.dst x.act (fun _ => BitVec.ofNat 32 y.take) ∧ (t.weave x.k.wk).took (nextReg w.dst 1) x.act (fun _ => Table.get 0 y.lens y.take) ∧
        t.past x.k x.k.lanes ∧ x.keepsRegs t [w.dst, nextReg w.dst 1] ∧
        t.rxBuf (x.chan w) = { y with pollq := y.pollq.filter (· != x.k.wk), take := (y.take + 1) % y.slots, taken := y.taken + 1 }
      else if w.mods = 1 then x.writes2 t w.dst 0x1FFFFFFFF
      else x.s.waitsAt t x.k x.k.lanes (.slotEmpty (x.chan w)) ∧ x.keepsRegs t [] ∧
        t.rxBuf (x.chan w) = { y with pollq := if y.pollq.contains x.k.wk then y.pollq else y.pollq ++ [x.k.wk] }) ∧
  (∀ w : F3, Runs (.lret w) (linkGate w 0) someLane fun x t =>
      let y := x.s.rxBuf (x.chan w)
      if ¬x.owns w ∨ y.v = false then x.writes t w.dst fun _ => 2
      else if y.taken = 0 then x.writes t w.dst fun _ => 1
      else if x.w.sq ≠ [] then x.s.waitsAt t x.k x.k.lanes .queueBusy ∧ x.keepsRegs t []
      else x.answers t w.dst 0 ∧ t.rxBuf (x.chan w) =
        { y with full := setBit y.full y.ret false, ret := (y.ret + 1) % y.slots, taken := y.taken - 1 })

/-- R408 to R411: each word counts and moves on; PLSET replaces a field of the packet's word by the low bits of its source;
PLDEP adds a dependency while fewer than four stand; PLSTAT reads the run; PLGO and PLREPEAT end the run, PLCANCEL with
status 0x100; in a weave they raise fault 0x02 with detail 0x02. -/
def Obligations.PrologueWords : Prop :=
  (∀ (w : FI) (s : State) (p : Nat) (x : Prologue) (l : Launch), s.prologueRuns p x w.pred.toNat w.neg → s.launches.find x.launch = some l →
    (fiLegal proGang w isUnused proOperand (w.mods == 0) && w.imm.extractLsb' 15 9 == 0) = true →
    let word := (w.imm.extractLsb' 0 5).toNat
    let lsb := (w.imm.extractLsb' 5 5).toNat
    let n := (w.imm.extractLsb' 10 5).toNat + 1
    lsb + n ≤ 32 →
    ∃ t, exec (.plset w) s = .next t ∧ (t.part p).prologue = some x.step ∧
      (∀ j, j ≠ word / 2 → Table.get 0 (t.launch x.launch).packet j = Table.get 0 l.packet j) ∧
      ∀ i, i < 64 → (Table.get 0 (t.launch x.launch).packet (word / 2)).getLsbD i =
        if 32 * (word % 2) + lsb ≤ i ∧ i < 32 * (word % 2) + lsb + n then (x.rd w.a).getLsbD (i - (32 * (word % 2) + lsb))
        else (Table.get 0 l.packet (word / 2)).getLsbD i) ∧
  (∀ (w : FI) (s : State) (p : Nat) (x : Prologue) (l : Launch), s.prologueRuns p x w.pred.toNat w.neg → s.launches.find x.launch = some l →
    (fiLegal proGang w isUnused isPairS (w.mods == 0) && w.imm.extractLsb' 1 23 == 0) = true → l.field 0 22 20 < 4 →
    ∃ t, exec (.pldep w) s = .next t ∧ (t.part p).prologue = some x.step ∧ (t.launch x.launch).field 0 22 20 = l.field 0 22 20 + 1 ∧
      Table.get 0 (t.launch x.launch).packet (6 + l.field 0 22 20) =
        BitVec.ofNat 64 (x.pairAt w.a / 2 * 2 + if w.imm.getLsbD 0 then 1 else 0)) ∧
  (∀ (w : F3) (s : State) (p : Nat) (x : Prologue), s.prologueRuns p x w.pred.toNat w.neg → proF3 w isS isSorInt = true →
    let l := s.launch x.launch
    let v : Word := match (x.rd w.a).toNat with
      | 0 => l.run.setWidth 32 | 1 => BitVec.ofNat 32 (x.count + 1) | 2 => l.prevStatus | 3 => l.prevPass | 4 => l.prevFail | _ => 0
    ∃ t, exec (.plstat w) s = .next t ∧ ({ t with parts := s.parts } : State) = s ∧ (t.part p).prologue = some (x.step.wr w.dst v)) ∧
  (∀ (w : F3) (s : State) (p : Nat) (x : Prologue) (l : Launch), s.prologueRuns p x w.pred.toNat w.neg → s.launches.find x.launch = some l →
    proF3 w isUnused isUnused = true → l.ended = false →
    (l.field 0 3 0 = 0 ∨ l.field 0 3 0 = 2 →
      (∃ t, exec (.plgo w) s = .next t ∧ (t.part p).prologue = none ∧ (t.launch x.launch).prologued = true ∧ (t.launch x.launch).repeat_ = false ∧
        ∃ e, t.agenda = e :: s.agenda ∧ e.args.a = x.launch ∧ e.what = if l.field 0 3 0 = 0 then .directPacket else .guardedPacket) ∧
      (∃ t, exec (.plrepeat w) s = .next t ∧ (t.part p).prologue = none ∧ (t.launch x.launch).prologued = true ∧
        ((t.launch x.launch).repeat_ = true ↔ l.run ≠ 0xFFFF))) ∧
    ∃ t, exec (.plcancel w) s = .next t ∧ (t.part p).prologue = none ∧ (t.launch x.launch).ended = true ∧ (t.launch x.launch).status = 0x100) ∧
  (∀ (w : F3) (s : State) (p : Nat) (x : Prologue), s.atPrologue p x → proF3 w isUnused isUnused = true →
    (x.preds.getLsbD w.pred.toNat != w.neg) = false → ∀ i ∈ bareForms w,
      ∃ t, exec i s = .next t ∧ ({ t with parts := s.parts } : State) = s ∧ (t.part p).prologue = some x.step) ∧
  (∀ (w : F3) (s : State) (k : Ctx), s.inHand k → ∀ i ∈ bareForms w, exec i s = .next (s.fault k k.lanes 0x202 0)) ∧
  (∀ (w : F3) (s : State) (p : Nat) (x : Prologue), s.prologueRuns p x w.pred.toNat w.neg →
    isS w.dst = true → proOperand w.a = true → proOperand w.b = true → w.mods = 0 → w.modb = 0 → w.hold = 0 → w.reuse = false →
    ∃ t, exec (.iadd w) s = .next t ∧ ({ t with parts := s.parts } : State) = s ∧ (t.part p).prologue = some (x.step.wr w.dst (x.rd w.a + x.rd w.b)))

/-- R119, R123, R224, R318, R319, R344, R346: the oldest entry of a weave's store queue leaves it; a store's bytes enter
memory, or the scratchpad, and no other byte changes; an atomic leaves its value; DSET and DADD leave a word stamped
with the partition's step; an entry whose home slice wakes a way stays. That a store is visible as it leaves is the model's reading (log entry 13). -/
def Obligations.StoresLeaveTheQueue : Prop :=
  ∀ (s : State) (a : EvArgs) (e : SqEntry) (rest : List SqEntry), s.event a → s.calmWeave a.a → (s.weave a.a).sq = e :: rest →
    let g := (s.weave a.a).gang
    let st := (s.part (s.gang g).part).stamp
    let awake : Prop := ∀ i ∈ e.items, s.sliceWakes i.addr = false
    (e.kind = .global → awake → e.tag = none → (∀ i ∈ e.items, inMmio i.addr = false) → s.gives .storeQueueLeave fun t =>
      (t.weave a.a).sq = rest ∧ (∀ b, (∀ i ∈ e.items, b < i.addr ∨ i.addr + i.bytes.length ≤ b) → Table.get 0 t.mem b = Table.get 0 s.mem b) ∧
      ∀ i, e.items = [i] → memRead t.mem i.addr i.bytes.length = i.bytes) ∧
    (e.kind = .scratch → (s.gangs.find g).isSome = true → s.gives .storeQueueLeave fun t =>
      (t.weave a.a).sq = rest ∧ s.memoryKept t ∧
      (∀ b, (∀ i ∈ e.items, b < i.addr ∨ i.addr + i.bytes.length ≤ b) → Table.get 0 (t.gang g).scratch b = Table.get 0 (s.gang g).scratch b) ∧
      ∀ i, e.items = [i] → memRead (t.gang g).scratch i.addr i.bytes.length = i.bytes) ∧
    (∀ op wide d ll uni i, e.kind = .ratom op wide d ll uni → awake → e.items = [i] → (wide = true → op ≠ 1) → s.gives .storeQueueLeave fun t =>
      let n := if wide then 8 else 4
      let old := leNat (memRead s.mem i.addr n)
      (t.weave a.a).sq = rest ∧ keptOutside s t i.addr n ∧
      leNat (memRead t.mem i.addr n) = ratomValue op n old (i.x.toNat % 2 ^ (8 * n)) (i.y.toNat % 2 ^ (8 * n)) ∧
      ∀ p ∈ (t.weave a.a).ll, p.id = ll → p.ready = true ∧ ∀ x ∈ p.writes, x.lane = (if perLane d then i.lane else 0) →
        x.val = if x.dst = d then BitVec.ofNat 32 old else BitVec.ofNat 32 (old / 2 ^ 32)) ∧
    (∀ i, e.kind = .dset → awake → e.items = [i] → s.gives .storeQueueLeave fun t =>
      (t.weave a.a).sq = rest ∧ keptOutside s t i.addr 8 ∧
      memQword t.mem i.addr = i.x.toNat % 2 ^ 32 + st.step.toNat % 2 ^ 24 * 2 ^ 32 + i.y.toNat % 2 ^ 8 * 2 ^ 56) ∧
    (∀ i, e.kind = .dadd false → awake → e.items = [i] → s.gives .storeQueueLeave fun t =>
      let w := memQword s.mem i.addr
      (t.weave a.a).sq = rest ∧ keptOutside s t i.addr 8 ∧
      memQword t.mem i.addr = (ffma32 .rn false (BitVec.ofNat 32 w) (st.decay w) (i.x.setWidth 32)).1.toNat +
        st.step.toNat % 2 ^ 24 * 2 ^ 32 + w / 2 ^ 56 * 2 ^ 56) ∧
    (e.kind.isScratch = false → ¬ awake → s.gives .storeQueueLeave fun t => t = s)

/-- R25, R32, R48, R65, R72, R231 to R233, R347, R425: a ready result is written back and is outstanding no more; an
accepted copy command holds its descriptor's registers and its AFLAG falls; a window fault that is due enters with
status 0x38; no core issues without its rails or without a context in its table; a revoked lease keeps no slot, unless
it must wait; a dealt table waits for the next period; a weave that has ended holds no lease and waits at no queue. When
an event is due is the model's choice (log entry 1). -/
def Obligations.CoreEvents : Prop :=
  ∀ (s : State) (a : EvArgs), s.event a →
    (∀ p x, ((s.weave a.a).ll.filter (·.ready))[a.b]? = some p → p.writes = [x] → s.calmWeave a.a → isVS x.dst = true → s.gives .llWriteback fun t =>
      s.memoryKept t ∧ (t.weave a.a).kept x.dst x.lane = x.val ∧ ∀ q ∈ (t.weave a.a).ll, q.id ≠ p.id) ∧
    (((s.weave a.a).ll.filter (·.ready))[a.b]? = none → s.gives .llWriteback fun t => t = s) ∧
    (∀ o w, s.canAccept a.a = true → s.ops.find a.a = some o → o.accepted = false → o.fx = some w →
      (o.instr = .tcopy w ∨ o.instr = .tfill w ∨ o.instr = .gdist w ∨ o.instr = .drain w) → s.calmWeave o.wk → s.gives .commandAccept fun t =>
        s.memoryKept t ∧ (t.op a.a).accepted = true ∧ (t.op a.a).begun = true ∧ (t.op a.a).full = false ∧
        (o.engine = .mx → (t.op a.a).desc = o.desc) ∧
        (o.engine ≠ .mx → (s.weave o.wk).ll = [] →
          ∀ j, j < 12 → w.dbase.toNat + j < 64 → (t.op a.a).desc.getD j 0 = (s.weave o.wk).sget (w.dbase.toNat + j)) ∧
        ∀ f, o.aflag = some f → (t.weave o.wk).flag f = (s.weave o.wk).flag f - 1) ∧
    (s.canAccept a.a = false → s.gives .commandAccept fun t => t = s) ∧
    (∀ f l, (s.weave a.a).win = [f] → f.ll = none → l = (s.weave a.a).lane f.lane → f.lane < 32 → l.hdr = true → l.status = .live →
      (s.weaves.find a.a).isSome = true → s.gives .windowFaultDelivery fun t =>
        t = (s.modWeave a.a fun w => { w with win := [] }).raise a.a
          { status := 0x38#32 ||| (f.detail <<< 8), mask := maskOf fun i => i == f.lane, addr := f.addr, resume_ := l.pc ||| 1 }) ∧
    ((s.weave a.a).win = [] → s.gives .windowFaultDelivery fun t => t = s) ∧
    (s.tripped = true ∨ s.rails = false ∨ s.slotOrder a.a 0 = [] → s.gives .issueCycle fun t => t = s) ∧
    (∀ t, (s.issueContexts a.a (s.slotOrder a.a 0)) = t → s.tripped = false → s.rails = true → s.gives .issueCycle fun u => u = t) ∧
    ((s.weave a.a).lease.state ≠ .neighbour ∨ (s.weave a.a).lease.tickets ≠ [] → s.gives .leaseRevoke fun t => t = s) ∧
    ((s.weaves.find a.a).isSome = true → (s.weave a.a).lease.state = .neighbour → (s.weave a.a).lease.tickets = [] → s.gives .leaseRevoke fun t =>
      let x := (s.weave a.a).lease
      let y := (t.weave a.a).lease
      (y.state = .neighbour ∧ y.slots = x.slots ∧ y.pushing = true ∧ y.tickets ≠ []) ∨
      ((y.state = .memory ∨ y.state = .lost) ∧ y.slots = [] ∧ y.pushing = false ∧ y.tickets = [])) ∧
    s.gives .slotTableDeal (fun t =>
      ({ t with cores := s.cores } : State) = s ∧ (Table.get {} (t.core a.a).tabs a.b).ents = (Table.get {} (s.core a.a).tabs a.b).ents ∧
      (Table.get {} (t.core a.a).tabs a.b).next = some (dealTable ((List.range 4).filterMap fun i =>
        (s.slotPart a.a i).map fun p => (i, (s.part p).ctl.weight)))) ∧
    (∀ w, s.weaves.find a.a = some w → w.ended = false → w.liveMask = 0 → w.sq = [] → s.ordered w.gang = false → s.cutShort w.gang = false → s.gives .weaveEnd fun t =>
      (t.weave a.a).ended = true ∧ (t.weave a.a).lease = {} ∧ (∀ n, ∀ y ∈ (t.slice n).waiters, y.wk ≠ a.a) ∧
      ((∀ e ∈ s.slices, ∀ y ∈ e.2.waiters, y.wk ≠ a.a) → s.memoryKept t)) ∧
    (∀ w, s.weaves.find a.a = some w → w.ended = true ∨ w.liveMask ≠ 0 ∨ w.sq ≠ [] → s.gives .weaveEnd fun t => t = s) ∧
    (∀ g, s.gangs.find a.a = some g → (∃ wk ∈ s.weavesOf a.a, (s.weave wk).ended = false) → s.gives .gangEnd fun t => t = s) ∧
    (s.gangs.find a.a = none → s.gives .gangEnd fun t => t = s)

/-- R146, R155 to R157, R160, R312 to R315, R326, R330 to R333: a walk fills a translation and changes no memory beyond
its leaf; the invalidations leave no translation of the pages, or of the partition, and set BUSY, which its completion
clears once no access through a removed translation is left; a refused register write changes only the log; a host read
of the physical function's DEVID gives 0x4B004600, and one that a table refuses ends with Completer Abort; a slice's
requests, fills and write-backs keep the committed bytes, a write's but its own; a tile's provisional bytes enter memory as they commit, and go as they are discarded. When
an event is due is the model's choice (log entry 1). -/
def Obligations.SliceAndTranslationEvents : Prop :=
  ∀ (s : State) (a : EvArgs), s.event a →
    s.gives .tlbWalk (fun t => t = (s.useLeaf a.a a.b a.value.toNat a.kind (s.walk a.b a.value.toNat)).1 ∧
      ∀ b, Table.get 0 t.mem b ≠ Table.get 0 s.mem b → ∃ pte level e, s.walk a.b a.value.toNat = .leaf pte level e ∧ pte ≤ b ∧ b < pte + 8) ∧
    s.gives .invalidatePage (fun t => s.memoryKept t ∧ (t.part a.a).trans.busy = true ∧
      let va := (s.part a.a).trans.invVa
      ∀ e ∈ t.tlb, ∀ y ∈ e.2, ¬(y.part = a.a ∧ y.vbase ≤ va ∧ va < y.vbase + pageBytes y.size)) ∧
    s.gives .invalidateRange (fun t => s.memoryKept t ∧ (t.part a.a).trans.busy = true ∧
      let va := (s.part a.a).trans.invVa
      ∀ e ∈ t.tlb, ∀ y ∈ e.2, ¬(y.part = a.a ∧ y.vbase < va + 4096 * a.b ∧ va < y.vbase + pageBytes y.size)) ∧
    (∀ x : TransBlock, x.tinvva < 2 ^ 57 → canonical x.invVa = true ∧ x.invVa % 2 ^ 57 = x.tinvva) ∧
    s.gives .invalidatePartition (fun t => s.memoryKept t ∧ (t.part a.a).trans.busy = true ∧ ∀ e ∈ t.tlb, ∀ y ∈ e.2, y.part ≠ a.a) ∧
    (s.staleAccess a.a = false → s.gives .invalidationDone fun t => ({ t with parts := s.parts } : State) = s ∧
      (t.part a.a).trans = { (s.part a.a).trans with busy := false }) ∧
    (s.staleAccess a.a = true → s.gives .invalidationDone fun t => t = s) ∧
    s.gives .refusalLogClear (fun t => ({ t with acc := s.acc } : State) = s ∧ (t.accTable a.a).logv = false ∧ (t.accTable a.a).logCount = (s.accTable a.a).logCount) ∧
    (a.on = false → inMmio a.b = true → s.accessOk (s.targetOf a.b) a.a a.b a.c .write = false → s.gives .registerWrite fun t =>
      ({ t with acc := s.acc } : State) = s) ∧
    (a.on = false → inMmio a.b = false → s.gives .registerWrite fun t => t = s) ∧
    (a.on = true → s.mailbox.go = false → s.status.therm ≠ 2 → a.b = 0x1008 → a.c = 8 → s.gives .registerWrite fun t =>
      ({ t with mailbox := s.mailbox } : State) = s ∧ t.mailbox = { s.mailbox with arg := a.value }) ∧
    (let x := s.slice a.a
     let need := x.missing a.b (lineMask 0 64);
      (a.on = false → s.gives .sliceReadRequest fun t => ({ t with slices := s.slices } : State) = s) ∧
      (a.on = false → x.waking = 0 → (∀ y ∈ x.input, y.line ≠ a.b) → (∀ e ∈ x.miss, e.line ≠ a.b) → x.miss.length < 64 → need ≠ 0 →
        s.gives .sliceReadRequest fun t => (t.slice a.a).miss = x.miss ++ [{ line := a.b, part := a.c, need := need }] ∧ (t.slice a.a).input = x.input) ∧
      (a.on = false → x.waking ≠ 0 ∨ (∃ y ∈ x.input, y.line = a.b) → s.gives .sliceReadRequest fun t =>
        (t.slice a.a).miss = x.miss ∧ (t.slice a.a).lines = x.lines ∧
        (t.slice a.a).input = x.input ++ [{ part := a.c, line := a.b, mask := lineMask 0 64 }])) ∧
    (a.on = true → a.a = 8 → a.b = 0 → a.c = 1 → a.d = 4 → s.gives .sliceReadRequest fun t =>
      t = { s with hostReads := s.hostReads ++ [{ fn := 8, aborted := false, bytes := [0x00, 0x46, 0x00, 0x4B] }] }) ∧
    (a.on = true → a.a < 8 → a.c ≠ 1 → s.populated a.b = true → s.refuser (8 * a.a + 7) a.b a.d .read ≠ none → s.gives .sliceReadRequest fun t =>
      s.memoryKept t ∧ t.hostReads = s.hostReads ++ [{ fn := a.a, aborted := true, bytes := [] }]) ∧
    (inHbm a.b = true → a.bytes ≠ [] → a.b % 64 + a.bytes.length ≤ 64 → s.populated a.b = true →
      let refused := s.refuser (8 * a.c + 7) a.b a.bytes.length .write
      let r : SliceReq := { part := a.c, line := a.b / 64, write := true, mask := lineMask (a.b % 64) a.bytes.length, pa := a.b, bytes := a.bytes };
      (refused = none → s.status.svc ≠ 3 → (s.slice (s.homeSlice a.b)).accepts r = true → s.gives .sliceWriteRequest fun t =>
        keptOutside s t a.b a.bytes.length ∧ memRead t.mem a.b a.bytes.length = a.bytes) ∧
      (refused = none → s.status.svc ≠ 3 → (s.slice (s.homeSlice a.b)).accepts r = false → s.gives .sliceWriteRequest fun t =>
        s.memoryKept t ∧ (t.slice (s.homeSlice a.b)).input = (s.slice (s.homeSlice a.b)).input ++ [r]) ∧
      (refused ≠ none → s.gives .sliceWriteRequest fun t => ({ t with acc := s.acc } : State) = s)) ∧
    (let x := s.slice a.a
     let found := x.miss.find? fun e => e.line == a.b;
      (found = none → s.gives .sectorFillComplete fun t => t = s) ∧
      (∀ m, found = some m → x.room a.b = false → s.gives .sectorFillComplete fun t => t = s) ∧
      (∀ m, found = some m → x.room a.b = true → x.input = [] → s.gives .sectorFillComplete fun t =>
        ({ t with slices := s.slices } : State) = s ∧ (t.slice a.a).miss = x.miss.filter (fun e => e.line != a.b) ∧
        ((t.slice a.a).line a.b).valid = (x.line a.b).valid ||| m.need)) ∧
    ((s.slice a.a).input = [] → s.gives .writeBackDrain fun t => ({ t with slices := s.slices } : State) = s ∧ (t.slice a.a).wb = (s.slice a.a).wb.drop 1) ∧
    s.gives .provisionalWrite (fun t => s.memoryKept t) ∧
    (∀ e, (s.slice a.a).prov.filter (fun y => y.part == a.b && y.tag == a.c) = [e] → s.gives .tileCommit fun t =>
      (∀ i, i < 32 → Table.get 0 t.mem (32 * e.sector + i) = if e.mask.getLsbD i then e.data.getD i 0 else Table.get 0 s.mem (32 * e.sector + i)) ∧
      keptOutside s t (32 * e.sector) 32 ∧ ∀ y ∈ (t.slice a.a).prov, ¬(y.part = a.b ∧ y.tag = a.c)) ∧
    s.gives .tileDiscard (fun t => s.memoryKept t ∧ ∀ y ∈ (t.slice a.a).prov, ¬(y.part = a.b ∧ y.tag = a.c)) ∧
    (s.tickets.find a.a = none → s.gives .pagerUpcall fun t => t = s) ∧
    (∀ k, s.tickets.find a.a = some k → k.sent = true → s.gives .pagerUpcall fun t => t = s) ∧
    (∀ k q r, s.tickets.find a.a = some k → k.sent = false → q = bits (s.regionWord k.part k.region 4) 15 0 → r = s.qrec k.part q →
      s.queueOk k.part q = true → s.queueWakes k.part q = false → r.esz = 2 → s.waitersOf k.part q r = [] → r.count < r.depth →
      (∃ s1 pa, s.ringCheck k.part r.tail r .write = (s1, .pass pa)) → s.gives .pagerUpcall fun t =>
        t.tickets.find a.a = some { k with sent := true } ∧ (t.qrec k.part q).count = r.count + 1)

/-- R289, R425: WSLOT, of privileged lanes, stages the sixteen entries of a pair in the core's table of the unit, a slot whose
entry is another partition's, or would be, keeping what it had; WSLOT.rd reads the table that stands. A table that is
dealt has 16 entries, all of one context alone, and for weights 1, 16, 16 and 16 the shares 1, 5, 5 and 5. -/
def Obligations.SlotTables : Prop :=
  ((∀ w : F3, Runs (.wslot w) (fun s k => { bcGate (s.gang k.gk) w isUnused isS isS (w.mods.extractLsb' 3 2 == 0) [w.a, w.b] with privileged := true })
    someLane fun x t =>
      let u := (w.mods.extractLsb' 0 2).toNat
      let tab (s : State) : SlotTable := Table.get {} (s.core x.k.core).tabs u
      let v : Nat := (x.rd 0 w.a 0).toNat + 2 ^ 32 * (x.rd 1 w.b 0).toNat
      let foreign (n : Nat) : Prop := ∃ q, x.b.slotPart x.k.core n = some q ∧ q ≠ x.k.part
      t.past x.k x.k.lanes ∧ x.keepsRegs t [] ∧ (tab t).ents = (tab x.s).ents ∧
      ∃ es, (tab t).next = some es ∧ es.length = 16 ∧ ∀ i, i < 16 →
        let now := (tab x.s).ents.getD i (false, 0)
        let new_ : Bool × Nat := ((v / 16 ^ i % 16 / 8 == 1), v / 16 ^ i % 4)
        ((now.1 = true ∧ foreign now.2) ∨ (new_.1 = true ∧ foreign new_.2) → es.getD i (false, 0) = ((tab x.s).next.getD (tab x.s).ents).getD i (false, 0)) ∧
        (¬((now.1 = true ∧ foreign now.2) ∨ (new_.1 = true ∧ foreign new_.2)) → es.getD i (false, 0) = new_)) ∧
  (∀ w : F3, Runs (.wslotRd w)
    (fun s k => { bcGate (s.gang k.gk) w isPairS isUnused isUnused (w.mods.extractLsb' 3 2 == 0 && inDemand (s.gang k.gk) w.dst 2) [] with privileged := true })
    someLane fun x t =>
      let es := (Table.get {} (x.b.core x.k.core).tabs (w.mods.extractLsb' 0 2).toNat).ents
      x.writes2 t w.dst (pair (slotWord (es.take 8)) (slotWord (es.drop 8))))) ∧
  ((∀ ws, (dealTable ws).length = 16) ∧
  (∀ c w, c < 4 → 0 < w → dealTable [(c, w)] = List.replicate 16 (true, c)) ∧
  ((dealTable [(0, 1), (1, 16), (2, 16), (3, 16)]).count (true, 0) = 1 ∧ ∀ c, 1 ≤ c → c ≤ 3 →
    (dealTable [(0, 1), (1, 16), (2, 16), (3, 16)]).count (true, c) = 5))

/-- R107, R244, R248 to R264, R281, R285: a multiply in its turn adds the array's partials to its row; TCFG takes
effect; a DRAIN begins, computes a shard and ends; a matrix command clears or loads what it names; a bond forms where
its members stand; a round is granted, issues once every member has granted it, and accumulates in its bottom row; a
link error loses the bond. When an event is due is the model's choice (log entry 1). -/
def Obligations.MatrixEvents : Prop :=
  ∀ (s : State) (a : EvArgs), s.event a →
    (∀ o g w p, s.matrixTurn a.a o g → (o.instr = .mma w ∨ o.instr = .mmas w ∨ o.instr = .mmal w ∨ o.instr = .mmac w) → s.isShare a.a = false →
      p = (s.core o.core).plane (o.arg 0) → p.latched = true → p.faulted = false → (g.stream (o.arg 1)).off = 0xFFFFFFFF →
      (g.stream (o.arg 1)).skewed = false → s.gives .matrixOperationExecute fun t =>
        s.memoryKept t ∧ (t.op a.a).state = .resolved 0 ∧
        ∀ n row, n < 32 → (t.gang o.gang).entry row n =
          if row = (o.aux.getD 0 0).toNat then
            accumulate (g.entry row n) (southPartial [{ planes := [p], a := wordBytes o.amat, afmt := o.arg 2, scales := none }] 0 n)
          else g.entry row n) ∧
    (∀ o g w p, s.matrixTurn a.a o g → o.instr = .mma w → s.isShare a.a = false → p = (s.core o.core).plane (o.arg 0) → p.latched = false →
      s.gives .matrixOperationExecute fun t => s.memoryKept t ∧ (t.op a.a).state = .resolved 0x28 ∧ (t.gang o.gang).acc = g.acc) ∧
    (∀ o g w, s.matrixTurn a.a o g → o.instr = .tcfgTile w → s.gives .tcfgEffect fun t =>
      (t.op a.a).state = .resolved 0 ∧ Table.get 0 (t.gang o.gang).cfg.tiles (o.arg 0) = o.aux.getD 6 0) ∧
    (∀ o g w, s.matrixTurn a.a o g → o.instr = .tcfgCfg w → s.gives .tcfgEffect fun t =>
      (t.op a.a).state = .resolved 0 ∧ (t.gang o.gang).cfg.tcw = o.aux.getD 5 0 ∧ (t.gang o.gang).cfg.npl = o.arg 1 ∧
      (∀ i ∈ o.amat, (t.core o.core).plane i.toNat = {}) ∧ (t.gang o.gang).str0.ctr = o.aux.getD 9 0) ∧
    (∀ o g w, s.matrixTurn a.a o g → o.instr = .drain w → o.unit = 0 → o.reg2 7 = 0 → s.gives .drainShard fun t =>
      s.memoryKept t ∧ (t.op a.a).unit = 1 ∧ (t.gang o.gang).drain.valid = true ∧ (t.gang o.gang).drain.shards = 0 ∧
      (t.gang o.gang).drain.base = BitVec.ofNat 64 (o.reg2 0)) ∧
    (∀ o g w s1 s2 adr b, s.matrixTurn a.a o g → o.instr = .drain w → w.subop = 0 → o.phase = 1 → 1 ≤ o.unit → o.unit ≤ o.arg 0 →
      s.shardPlace a.a false (o.unit - 1) = (s1, .inl (adr, false)) → s1.engRead (o.ask 2) adr 4096 = (s2, .bytes b) → s.gives .drainShard fun t =>
        s2.memoryKept t ∧ (t.op a.a).unit = o.unit + 1 ∧
        ∀ y c, y < 32 → c < 32 →
          let row := (o.aux.getD 0 0).toNat + 32 * (o.unit - 1)
          (t.gang o.gang).entry (row + y) c =
            entryOf (BitVec.ofNat 32 ((drainWords g row (w.imm == 4) false false (elemsOf 4 b 1024) (s2.weave o.wk).gens).2.getD (32 * y + c) 0))) ∧
    (∀ o g w, s.matrixTurn a.a o g → o.instr = .drain w → w.subop.getLsbD 0 = false → o.phase = 2 → o.arg 0 < o.unit → s.gives .drainShard fun t =>
      s.memoryKept t ∧ (t.op a.a).state = .resolved 0 ∧ (t.gang o.gang).drain.known = true ∧ (t.gang o.gang).drain.nonfin = true ∧
      (t.gang o.gang).acc = g.acc) ∧
    (∀ o g w, s.matrixTurn a.a o g → o.instr = .cbkld w → s.gives .matrixCommandUnit fun t =>
      s.memoryKept t ∧ (t.op a.a).state = .resolved 0 ∧ (t.gang o.gang).codebook = codebookOf (g.spRead w.imm.toNat 32) ∧ (t.gang o.gang).acc = g.acc) ∧
    (∀ o g w, s.matrixTurn a.a o g → o.instr = .accz w → s.gives .matrixCommandUnit fun t =>
      s.memoryKept t ∧ (t.op a.a).unit = o.unit + 1 ∧
      ∀ row c, c < 32 → (t.gang o.gang).entry row c =
        if row ∈ unitRows (o.aux.getD 0 0).toNat (o.aux.getD 1 0).toNat o.unit then 0 else g.entry row c) ∧
    (s.mxReady a.a = false → s.gives .matrixOperationExecute (fun t => t = s) ∧ s.gives .tcfgEffect (fun t => t = s) ∧
      s.gives .matrixCommandUnit (fun t => t = s) ∧ s.gives .drainShard fun t => t = s) ∧
    (∀ b o, s.bonds.find a.a = some b → b.state = .forming → b.stopped = false → s.ops.find b.op = some o → o.state = .pending →
      (b.members.map fun m => (s.gang m).core) ∈
        rectangles b.h b.w b.seamDir (s.cohortCluster b.cohort) (s.cohortCluster ((s.cohort b.cohort).partner.getD b.cohort)) →
      s.rectangleFree b.members (b.members.map fun m => (s.gang m).core) = true → s.gives .bondFormComplete fun t =>
        s.memoryKept t ∧ t.bonds.find a.a = some { b with state := .formed } ∧ (t.op b.op).state = .resolved 0) ∧
    (s.bonds.find a.a = none → s.gives .bondFormComplete (fun t => t = s) ∧ s.gives .roundIssue (fun t => t = s) ∧ s.gives .roundComplete fun t => t = s) ∧
    (∀ b x sh, s.bonds.find a.a = some b → b.armed = some x → x.shares.find a.b = some sh → x.granted.find a.b = none → (s.op sh.op).arg 7 = 1 →
      let g := s.gang (b.gangOf a.b);
      (s.serves g.core 0 g.launch (s.grantWaits g.core) = true → s.gives .roundGrant fun t =>
        s.memoryKept t ∧ t.bonds.find a.a = some { b with armed := some { x with granted := Table.insert x.granted a.b (s.op sh.op).amat } } ∧
        t.turnOf g.core 0 = some g.launch ∧ ((s.ops.find sh.op).isSome = true → (t.op sh.op).accepted = true)) ∧
      (s.serves g.core 0 g.launch (s.grantWaits g.core) = false → s.gives .roundGrant fun t => t = s)) ∧
    (∀ b x, s.bonds.find a.a = some b → b.armed = some x → x.granted.length < b.members.length → s.gives .roundIssue fun t => t = s) ∧
    (∀ b x, s.bonds.find a.a = some b → b.armed = some x → b.members.length ≤ x.granted.length → (∀ e ∈ x.shares, s.mxFree (s.op e.2.op) = true) →
      b.flight = [] → s.gives .roundIssue fun t =>
        s.memoryKept t ∧ ∃ b2, t.bonds.find a.a = some b2 ∧ b2.flight = [{ x with issued := true }] ∧ b2.rounds = b.rounds + 1) ∧
    (∀ b x rest m, s.bonds.find a.a = some b → b.flight = x :: rest → (List.range (b.h * b.w)).find? (fun m => !(s.sharePlane b x m).latched) = some m →
      s.gives .roundComplete fun t => s.memoryKept t ∧ (∀ k, (t.gang k).acc = (s.gang k).acc) ∧
        ∀ e ∈ x.shares, (s.ops.find e.2.op).isSome = true → (s.op e.2.op).state = .pending →
          (t.op e.2.op).state = .resolved (if b.badCols = [] then 0x28 ||| BitVec.ofNat 32 m <<< 8 else 0x29)) ∧
    (∀ b x rest, s.bonds.find a.a = some b → b.flight = x :: rest → (∀ m, m < b.h * b.w → (s.sharePlane b x m).latched = true ∧ (s.sharePlane b x m).faulted = false) →
      s.noScales b x → b.badCols = [] →
      (∀ c d, c < b.w → d < b.w → b.gangOf (b.at_ (b.h - 1) c) = b.gangOf (b.at_ (b.h - 1) d) → c = d) → s.gives .roundComplete fun t =>
        s.memoryKept t ∧
        (∀ e ∈ x.shares, (s.ops.find e.2.op).isSome = true → (s.op e.2.op).state = .pending → (t.op e.2.op).state = .resolved 0) ∧
        ∀ c n row, c < b.w → n < 32 → let gk := b.gangOf (b.at_ (b.h - 1) c)
          (s.gangs.find gk).isSome = true → (t.gang gk).entry row n =
            if row = ((x.shares.find (b.at_ (b.h - 1) c)).getD {}).row then accumulate ((s.gang gk).entry row n) (southPartial (s.roundRows b x) c n)
            else (s.gang gk).entry row n) ∧
    (∀ b, s.bonds.find a.a = some b → b.state = .formed → b.flight ≠ [] → s.gives .operandLinkError fun t =>
      s.memoryKept t ∧ t.status.ehead = (s.status.ehead + 1) % 64 ∧ (Table.get {} t.status.elog s.status.ehead).q0 &&& 0xFF0F = 0x000B ∧
      ∃ b2, t.bonds.find a.a = some b2 ∧ b2.state = .lost ∧ b2.leases = [] ∧ b2.shares = [] ∧ b2.armed = none ∧
        (a.on = false → a.b ∈ b2.badCols) ∧ (a.on = true → ∀ c, a.b ≤ c → c < b.w → c ∈ b2.badCols)) ∧
    (∀ b, s.bonds.find a.a = some b → b.state = .dissolving → b.flight ≠ [] → s.gives .operandLinkError fun t =>
      s.memoryKept t ∧ ∃ b2, t.bonds.find a.a = some b2 ∧ b2.state = .dissolving ∧ b2.leases = b.leases ∧ (a.on = false → a.b ∈ b2.badCols))

/-- R303 to R309, R317, R322, R327, R328, R338, R353, R367, R372: a copy unit drops or writes a pattern and takes
its core's cycle; an NVMe completion writes its queue entry, moves the head and rings the doorbell, and a command of four
seconds times out; a candidate's distance is written; a merge
offers the entries it names; a watch that fired writes host memory and raises its vector; a solo boundary and a visit of
a sweep do as the stamp rules say. When an event is due, and when a merge resolves, are the model's (log entries 1 and
74). -/
def Obligations.CopySearchStampEvents : Prop :=
  ∀ (s : State) (a : EvArgs), s.event a →
    (∀ o w, s.copyTurn a.a o → o.instr = .sgpatInv w → s.gives .copyUnit fun t =>
      s.memoryKept t ∧ (t.op a.a).state = .resolved 0 ∧ (Table.get {} (t.part o.part).pats (w.imm.extractLsb' 0 4).toNat).v = false ∧
      t.turnOf o.core 1 = some o.launch) ∧
    (∀ o w, s.copyTurn a.a o → o.instr = .sgpat w → (o.reg 0).toNat < 8 →
      1 ≤ (o.reg 1).toNat → (o.reg 1).toNat ≤ 65536 → 1 ≤ (o.reg 3).toNat → (o.reg 3).toNat ≤ 65536 → s.gives .copyUnit fun t =>
        s.memoryKept t ∧ (t.op a.a).state = .resolved 0 ∧ Table.get {} (t.part o.part).pats (w.imm.extractLsb' 0 4).toNat = patternOf o.desc) ∧
    (s.ceGoes a.a = false ∨ s.serves (s.op a.a).core 1 (s.op a.a).launch (s.ceReady (s.op a.a).core) = false → s.gives .copyUnit fun t => t = s) ∧
    (∀ o e c, s.ops.find a.a = some o → o.storEntry = some (e, true) → o.cmds[a.b]? = some c → c.status = none →
      let x := s.stor o.part e
      let head := (x.head + 1) % max 1 x.qsize;
      (a.on = false → s.gives .nvmeCompletion fun t =>
        keptOutside s t (x.cqbase.toNat + 16 * x.head) 16 ∧ t.doorbells = s.doorbells ++ [(x.cqdb.toNat, BitVec.ofNat 64 head)] ∧
        t.stor o.part e = { x with head := head } ∧ ((t.op a.a).cmds.getD a.b {}).status = some (if a.c = 0 then 0 else 0x22 + a.c % 2 ^ 15 * 256)) ∧
      (a.on = true → s.gives .nvmeCompletion fun t => t = s)) ∧
    (∀ o e store c, s.ops.find a.a = some o → o.storEntry = some (e, store) → o.cmds[a.b]? = some c → c.status = none →
      c.since.toNat + 4000000 ≤ s.us.toNat → s.gives .nvmeTimeout fun t =>
        (store = true → s.memoryKept t) ∧ ((t.op a.a).cmds.getD a.b {}).status = some (0x22 + 0x8001 * 256)) ∧
    (∀ o c, s.ops.find a.a = some o → o.cmds[a.b]? = some c → c.status.isSome = true ∨ s.us.toNat < c.since.toNat + 4000000 → s.gives .nvmeTimeout fun t => t = s) ∧
    (∀ o g w, s.searchTurn a.a o → s.gangs.find o.gang = some g → o.instr = .gdist w → w.subop.getLsbD 5 = false →
      leNat (g.spRead ((o.reg 1).toNat + 4 * o.unit) 4) = 0xFFFFFFFF → s.gives .gdistCandidate fun t =>
        s.memoryKept t ∧ (t.op a.a).unit = o.unit + 1 ∧ t.turnOf o.core 2 = some o.launch ∧
        t.gang o.gang = g.spWrite ((o.reg 7).toNat + 4 * o.unit) (bytesOf 4 0x7FC00000)) ∧
    (∀ o g w s1 row, s.searchTurn a.a o → s.gangs.find o.gang = some g → o.instr = .gdist w → w.subop.getLsbD 5 = false →
      let f := (w.subop.extractLsb' 2 3).toNat
      let d := (o.reg 5).toNat
      let ident := leNat (g.spRead ((o.reg 1).toNat + 4 * o.unit) 4)
      ident ≠ 0xFFFFFFFF →
      (s.takeTurn o.core 2 o.launch).nnRead (o.ask 3) ((o.reg2 2 + ident * (o.reg 4).toNat) % 2 ^ 64) (d * gdistSize f) = (s1, .bytes row) →
      s.gives .gdistCandidate fun t =>
        (t.op a.a).unit = o.unit + 1 ∧ t.gang o.gang = g.spWrite ((o.reg 7).toNat + 4 * o.unit)
          (bytesOf 4 (distance (w.subop.extractLsb' 0 2).toNat (gdistPairs f (g.spRead (o.reg 0).toNat (4 * d)) row d)).toNat)) ∧
    (∀ o w, s.searchTurn a.a o → (s.weaves.find o.wk).isSome = true → o.instr = .tkmrgWv w → s.gives .tkmrgResolve fun t =>
      s.memoryKept t ∧ (t.op a.a).state = .resolved 0 ∧
      (t.weave o.wk).list = (((List.range (s.gang o.gang).weaves).filter fun n => w.imm.getLsbD n && n != o.wk % 16).flatMap fun n =>
        (s.weave (16 * o.gang + n)).list.ents).foldl RankList.offer (s.weave o.wk).list) ∧
    (s.nnTurn a.a = false → s.gives .gdistCandidate (fun t => t = s) ∧ s.gives .tkmrgResolve fun t => t = s) ∧
    (∀ x, s.watches.find a.a = some x → x.fired = true → s.gives .watchFire fun t =>
      ({ t with watches := s.watches, hostMem := s.hostMem, msix := s.msix } : State) = s ∧ t.watches = s.watches.erase a.a ∧
      t.msix = s.msix ++ [(x.part, x.vector)] ∧ memRead t.hostMem x.hostAddr.toNat 8 = bytesOf 8 x.hostVal.toNat ∧
      ∀ i, (i < x.hostAddr.toNat ∨ x.hostAddr.toNat + 8 ≤ i) → Table.get 0 t.hostMem i = Table.get 0 s.hostMem i) ∧
    (∀ x, s.watches.find a.a = some x → x.fired = false → s.gives .watchFire fun t => t = s) ∧
    (let p := s.part a.a;
      (p.solo = true → p.regions = [] → 64 ≤ (s.clk - p.soloSince).toNat → s.gives .soloBoundary fun t =>
        ({ t with parts := s.parts } : State) = s ∧ (t.part a.a).solo = false ∧ (t.part a.a).stamp.step = p.stamp.step + BitVec.ofNat 64 p.stamp.allowed ∧
        (t.part a.a).stamp.pend = p.stamp.pend - p.stamp.allowed ∧ (t.part a.a).stamp.stgv = [] ∧ (t.part a.a).stamp.stg = p.stamp.stg) ∧
      (p.solo = false ∨ p.regions ≠ [] ∨ (s.clk - p.soloSince).toNat < 64 → s.gives .soloBoundary fun t => t = s)) ∧
    (∀ s1 s2 t0 g pa, s.startSte a.a = s1 → (s1.part a.a).stamp = t0 → Table.get {} t0.regs a.b = g → g.sw = true → (s1.part a.a).suspended = false →
      s1.check a.a (8 * a.a) { cluster := 65, core := 0 } (g.vbase + BitVec.ofNat 64 (8 * g.cursor)).toNat 8 8 .rmw true true = (s2, .pass pa) →
      s2.sliceWakes pa = false →
      let w := memQword s2.mem pa
      let d := stampAge t0.step.toNat (stampedStamp w)
      s.gives .sweepVisit fun t => keptOutside s2 t pa 8 ∧
        (outOfWindow d = true ∨ d = 0 → s2.memoryKept t) ∧
        (outOfWindow d = false → d ≠ 0 → memRead t.mem pa 8 =
          bytesOf 8 (stampedWord (rne32Mul (stampedVal w) (t0.decay w)) t0.step.toNat (stampedIndex w)))) ∧
    ((Table.get {} ((s.startSte a.a).part a.a).stamp.regs a.b).sw = false → s.gives .sweepVisit fun t => t = s.startSte a.a)

/-- R376, R378, R381, R387 to R391: an exchange datum lands in the shadow half when its cycle has come; the release of a
complete step swaps the halves, counts it and comes 8 + 2 Rmax cycles after the step was complete; a flit out of order
asks again; a link that goes down fails its channels; slots fill, credits return, and reports resolve the sends that
wait for them. When an event is due, and what a sender learns of a lost buffer, are the model's (log entries 1 and 113). -/
def Obligations.ExchangeEvents : Prop :=
  ∀ (s : State) (a : EvArgs), s.event a →
    (∀ r d g, (s.part a.a).regions.find a.b = some r → r.flight[a.c]? = some d → d.due ≤ s.clk.toNat → d.op = none → s.gangs.find d.gang = some g →
      (∃ wk ∈ s.weavesOf d.gang, (s.weave wk).counts = true) → s.gives .xstLand fun t =>
        s.memoryKept t ∧ (t.part a.a).regions.find a.b = some { r with flight := r.flight.eraseIdx a.c } ∧
        memRead (t.gang d.gang).shadow d.off d.bytes.length = d.bytes ∧
        (∀ i, (i < d.off ∨ d.off + d.bytes.length ≤ i) → Table.get 0 (t.gang d.gang).shadow i = Table.get 0 g.shadow i) ∧
        (t.gang d.gang).scratch = g.scratch ∧
        (Table.get 0 (t.gang d.gang).xcnt 0).toNat = min (2 ^ 32 - 1) ((Table.get 0 g.xcnt 0).toNat + d.units)) ∧
    (∀ r d, (s.part a.a).regions.find a.b = some r → r.flight[a.c]? = some d → s.clk.toNat < d.due → s.gives .xstLand fun t => t = s) ∧
    (∀ r, (s.part a.a).regions.find a.b = some r → s.stepComplete r = false → s.gives .escapementRelease fun t =>
      ({ t with parts := s.parts } : State) = s ∧ (t.part a.a).regions.find a.b = some { r with t := none }) ∧
    (∀ r, (s.part a.a).regions.find a.b = some r → s.stepComplete r = true → r.t = none → s.gives .escapementRelease fun t =>
      ({ t with parts := s.parts } : State) = s ∧ (t.part a.a).regions.find a.b = some { r with t := some s.clk.toNat }) ∧
    (∀ r b, (s.part a.a).regions.find a.b = some r → s.stepComplete r = true → r.t = some b → s.clk.toNat < b + 8 + 2 * r.rmax →
      s.gives .escapementRelease fun t => t = s) ∧
    (∀ r b l, (s.part a.a).regions.find a.b = some r → s.stepComplete r = true → r.t = some b → b + 8 + 2 * r.rmax ≤ s.clk.toNat → r.launch = some l →
      (s.gangsOf l).Nodup → s.gives .escapementRelease fun t =>
        s.memoryKept t ∧ (t.part a.a).regions.find a.b = some { r with steps := r.steps + 1, t := none } ∧ (t.part a.a).solo = false ∧
        (∀ g ∈ s.gangsOf l, (t.gang g).scratch = (s.gang g).shadow ∧ (t.gang g).shadow = (s.gang g).scratch ∧
          Table.get 0 (t.gang g).xcnt 1 = Table.get 0 (s.gang g).xcnt 0 ∧ Table.get 0 (t.gang g).xcnt 0 = 0 ∧
          Table.get 0 (t.gang g).xcnt 3 = Table.get 0 (s.gang g).xcnt 2 ∧ Table.get 0 (t.gang g).xcnt 2 = 0)) ∧
    (∀ o w x, s.ops.find a.a = some o → o.instr = .lsend w → o.fx = some x → o.state = .pending → o.stopped = false →
      (o.unit ≠ 0 → o.unit ≠ 2 → x.subop.getLsbD 0 = false → s.gives .lsendDeparture fun t => s.memoryKept t ∧ (t.op a.a).state = .resolved 0) ∧
      (o.unit ≠ 0 → o.unit ≠ 2 → x.subop.getLsbD 0 = true → s.gives .lsendDeparture fun t => t = s) ∧
      (o.unit = 0 → o.ready = true → s.ownsPort o.part (x.imm.toNat % 256) = true → (s.txChan (x.imm.toNat % 256)).v = true →
        (s.txChan (x.imm.toNat % 256)).failed = true → s.gives .lsendDeparture fun t => (t.op a.a).state = .resolved 0x441)) ∧
    ((s.port a.a).up = false → s.gives .huapolFlitReceive fun t => t = s) ∧
    ((s.port a.a).up = true → a.bytes.length ≠ 256 ∨ (crc64 (a.bytes.take 248)).toNat ≠ leNat (a.bytes.drop 248) ∨
        6 ≤ bits (leNat (a.bytes.take 8)) 3 0 ∨ BitVec.ofNat 32 (leNat ((a.bytes.drop 240).take 4)) ≠ (s.port a.a).seqIn → s.gives .huapolFlitReceive fun t =>
      ({ t with ports := s.ports } : State) = s ∧ t.port a.a = (s.port a.a).send 3 0 0 false 0 []) ∧
    ((s.port a.a).up = true → a.bytes.length = 256 → (crc64 (a.bytes.take 248)).toNat = leNat (a.bytes.drop 248) →
        BitVec.ofNat 32 (leNat ((a.bytes.drop 240).take 4)) = (s.port a.a).seqIn → bits (leNat (a.bytes.take 8)) 3 0 = 1 → s.gives .huapolFlitReceive fun t =>
      ({ t with ports := s.ports, agenda := s.agenda } : State) = s ∧ t.port a.a = { s.port a.a with seqIn := (s.port a.a).seqIn + 1 } ∧
      t.agenda = { what := .creditReceive, args := { a := a.a, b := bits (leNat (a.bytes.take 8)) 7 4, c := 0 } } :: s.agenda) ∧
    s.gives .linkDown (fun t => s.memoryKept t ∧ (t.port a.a).up = false ∧ t.status.ehead = (s.status.ehead + 1) % 64 ∧
      (a.a < 12 → t.status.hpup.getLsbD a.a = false) ∧
      (∀ c, c < 16 → (s.txChan (16 * a.a + c)).v = true → (t.txChan (16 * a.a + c)).failed = true) ∧
      (∀ b, (t.rxBuf (16 * a.a + b % 16)).lastSeen = 0) ∧
      ∀ r o c, s.ops.find r = some o → o.channel = some c → c / 16 = a.a → o.state = .pending → (t.op r).state = .resolved 0x241) ∧
    (let n := 16 * a.a + a.b
      let y := s.rxBuf n;
      (a.b < 16 → y.v = true → a.c < 16 → y.lastSeen.getLsbD a.c = true → s.gives .slotFull fun t =>
        s.memoryKept t ∧ let z := t.rxBuf n; z.full.getLsbD a.c = true ∧ z.lastSeen.getLsbD a.c = false ∧ z.refused.getLsbD a.c = false ∧ z.fill = (a.c + 1) % y.slots ∧ Table.get 0 z.got a.c = 0 ∧
        Table.get 0 z.lens a.c = if y.refused.getLsbD a.c then 0xFFFFFFFF else BitVec.ofNat 32 (Table.get 0 y.got a.c)) ∧
      (y.v = false ∨ y.lastSeen.getLsbD a.c = false → s.gives .slotFull fun t => t = s)) ∧
    (let n := 16 * a.a + a.b
      let c := s.txChan n;
      (a.b < 16 → c.v = true → (∀ e ∈ s.ops, e.2.channel = some n → e.2.waitsSlot = false) → s.gives .creditReceive fun t =>
        ({ t with ports := s.ports } : State) = s ∧ t.txChan n = { c with credits := min c.slots (c.credits + 1) }) ∧
      (c.v = false → s.gives .creditReceive fun t => t = s)) ∧
    (∀ r o, s.ops.find r = some o → o.state = .pending → o.channel = some (16 * a.a + a.b) → ackOf (16 * a.a + a.b) a.c (16 * a.a + a.b) o = true →
      s.gives .fullAcknowledgement (fun t => s.memoryKept t ∧ (t.op r).state = .resolved 0) ∧
      s.gives .discardReport fun t => s.memoryKept t ∧ (t.op r).state = .resolved 0x441 ∧ (a.b < 16 → (t.txChan (16 * a.a + a.b)).failed = true))

/-- R1, R213, R285, R314, R420 to R423, R427, R431 to R435, R437 to R450: a message takes a permit of its
direction or waits for one; a service replies in s0 and on; a mailbox command does its work and ends with its MST; PSUSPEND stores the
stamp block; a report and a public key are written into the argument buffer. When an event is due, when a permit
returns, and what PDESTROY and unusable arguments do, are the model's (log entries 1, 88, 97 and 144). -/
def Obligations.FirmwareEvents : Prop :=
  ∀ (s : State) (a : EvArgs), s.event a →
    (let k := Table.get {} s.links a.a;
      let up := min 8 (k.permitsUp + a.b)
      let down := min 8 (k.permitsDown + a.b)
      (a.on = true → a.bytes.length = 64 → s.gives .commandLinkMessage fun t =>
        let q := k.waitUp ++ [a.bytes]
        ({ t with links := s.links } : State) = s ∧
        Table.get {} t.links a.a = { k with permitsUp := up - q.length, up := k.up ++ q.take up, waitUp := q.drop up }) ∧
      (a.on = false → a.bytes.length = 64 → s.gives .commandLinkMessage fun t =>
        let q := k.waitDown ++ [a.bytes]
        ({ t with links := s.links } : State) = s ∧
        Table.get {} t.links a.a = { k with permitsDown := down - q.length, down := k.down ++ q.take down, waitDown := q.drop down }) ∧
      s.gives .commandLinkError fun t =>
        s.memoryKept t ∧ Table.get {} t.links a.a = { resets := k.resets + 1 } ∧ t.status.ehead = (s.status.ehead + 1) % 64 ∧
        ∀ e ∈ s.gangs, e.2.core / 16 = a.a → ∀ l, s.launches.find e.2.launch = some l → l.ended = false →
          (t.launch e.2.launch).ended = true ∧ (t.launch e.2.launch).status = 0x60) ∧
    (let w := s.weave a.a
     let g := s.gang w.gang;
      ((s.weaves.find a.a).isSome = true →
        (∀ q, w.asked 0 = some q → s.gives .syscNull fun t => s.replied t a.a q [0]) ∧
        (∀ q, w.asked 0x10 = some q → s.gives .syscPartitionInfo fun t =>
          s.replied t a.a q [BitVec.ofNat 32 g.part, loWord (s.part g.part).ctl.clmask, hiWord (s.part g.part).ctl.clmask, BitVec.ofNat 32 (g.core / 16)]) ∧
        (∀ q, w.asked 0x11 = some q → s.gives .syscTime fun t => s.replied t a.a q [loWord s.us, hiWord s.us]) ∧
        (∀ q, w.asked 0x20 = some q → (s.part g.part).flog.length < 256 → s.gives .syscLog fun t =>
          s.replied t a.a q [0] ∧ (t.part g.part).flog = (s.part g.part).flog ++ [q.args]) ∧
        (∀ q, w.asked 0x20 = some q → 256 ≤ (s.part g.part).flog.length → s.gives .syscLog fun t =>
          s.replied t a.a q [1] ∧ (t.part g.part).flog = (s.part g.part).flog) ∧
        (∀ q, w.asked 1 = some q → w.ecause ≠ 2 → s.gives .syscSaveDone fun t => s.replied t a.a q [0xFFFFFFFE]) ∧
        (∀ q, w.asked 1 = some q → w.ecause = 2 → (∀ l, l < 32 → (w.waiting q).getLsbD l = true → (w.lane l).priv = true) → s.ordered w.gang = false →
          s.gives .syscSaveDone fun t => s.memoryKept t ∧ (s.gangs.find w.gang = some g → (t.gang w.gang).savedWeaves.getLsbD w.num = decide (w.num < 16)) ∧
            ∀ l, l < 32 → (w.waiting q).getLsbD l = true → ((t.weave a.a).lane l).hold = some .saved)) ∧
      (w.asked 0 = none → s.gives .syscNull fun t => t = s) ∧
      (w.asked 1 = none → s.ordered w.gang = true → g.savedWeaves ≠ 0 → s.saveOver w.gang = true → s.gives .syscSaveDone fun t =>
        t.gangs.find w.gang = none ∧ ((t.launch g.launch).saved.getLast?.map (·.key)) = some w.gang)) ∧
    (s.mails 1 false → s.descriptorOk s.argBytes = true → s.gives .pcreate fun t =>
      let c := controlOf s.argBytes
      s.memoryKept t ∧ s.mailed t 0 ∧ (t.part s.mailbox.part).ctl = c ∧ (t.part s.mailbox.part).front.qdbase = c.qdbase &&& 0x1FFFFFFFFFFF000 ∧
      (∀ n, n < 12 → bit c.hpmask n = true → (t.port n).owner = some s.mailbox.part) ∧
      ∀ j k, j < 172 → k < 8 → Table.get {} (t.accTable j).rows (8 * s.mailbox.part + k) = c.row s.mailbox.part k) ∧
    (s.mails 1 false → s.descriptorOk s.argBytes = false → s.gives .pcreate fun t => ({ t with mailbox := s.mailbox } : State) = s ∧ s.mailed t 2) ∧
    (s.mails 2 true → s.gives .pdestroy fun t =>
      s.memoryKept t ∧ s.mailed t 0 ∧ t.part s.mailbox.part = {} ∧ (∀ e ∈ t.launches, e.2.part ≠ s.mailbox.part) ∧
      (∀ e ∈ t.gangs, e.2.part ≠ s.mailbox.part) ∧ (∀ e ∈ t.ops, e.2.part ≠ s.mailbox.part) ∧ (∀ e ∈ t.watches, e.2.part ≠ s.mailbox.part) ∧
      ∀ j k, j < 172 → k < 8 → Table.get {} (t.accTable j).rows (8 * s.mailbox.part + k) = {}) ∧
    (let p := s.mailbox.part;
      (s.mails 3 true → s.busyQueues p = [] → s.quiet p = true → s.gives .psuspend fun t =>
        s.mailed t 0 ∧ (t.part p).suspended = true ∧ (t.part p).stamp = (s.part p).stamp ∧ (t.part p).ctl = (s.part p).ctl ∧
        memRead t.mem s.mailbox.arg.toNat 4096 = (s.part p).stamp.bytes ∧ keptOutside s t s.mailbox.arg.toNat 4096) ∧
      (s.mails 3 true → s.busyQueues p = [] → s.quiet p = false → s.gives .psuspend fun t =>
        s.memoryKept t ∧ t.mailbox = s.mailbox ∧ (t.part p).suspended = true) ∧
      (s.mails 4 true → s.gives .presume fun t =>
        s.memoryKept t ∧ s.mailed t 0 ∧ (t.part p).suspended = false ∧ (t.part p).stamp = (s.part p).stamp.load s.argBytes) ∧
      (s.mails 5 true → (s.argBytes.getD 0 0).toNat < 16 → storOk ((s.argBytes.drop 64).take 64) = true → s.gives .storset fun t =>
        s.memoryKept t ∧ s.mailed t 0 ∧ t.stor p (s.argBytes.getD 0 0).toNat =
          { storOf ((s.argBytes.drop 64).take 64) with waiting := (s.stor p (s.argBytes.getD 0 0).toNat).waiting }) ∧
      (s.mails 5 true → 16 ≤ (s.argBytes.getD 0 0).toNat → s.gives .storset fun t => ({ t with mailbox := s.mailbox } : State) = s ∧ s.mailed t 2)) ∧
    (s.mailbox.go = true → s.mailbox.cmd = 6 → s.alarm.refuse = false →
      let hdr := memRead s.hostMem s.mailbox.arg.toNat 256
      let img := hdr ++ memRead s.hostMem (s.mailbox.arg.toNat + 256) (imageWord hdr 0xC)
      (s.fw.imageValid img = true → s.gives .imgwrite fun t => s.memoryKept t ∧ s.mailed t 0 ∧ t.fw = { s.fw with flash := img }) ∧
      (s.fw.imageValid img = false → s.gives .imgwrite fun t => ({ t with mailbox := s.mailbox } : State) = s ∧ s.mailed t 4)) ∧
    (s.mailbox.go = true → s.mailbox.cmd = 7 → s.alarm.refuse = false → s.argOk = true → s.gives .attest fun t =>
      let at_ := s.mailbox.arg.toNat
      s.mailed t 0 ∧ t.fw = { s.fw with session := true } ∧ memRead t.mem (at_ + 0x100) 32 = memRead s.mem at_ 32 ∧
      ∀ i, i < at_ + 0x100 → Table.get 0 t.mem i = Table.get 0 s.mem i) ∧
    (s.mailbox.go = true → s.mailbox.cmd = 8 → s.argOk = true →
      (Config.blobVerifies s.fw.keyHash s.argBytes = true → s.gives .provision fun t =>
        s.mailed t 0 ∧ t.fw.identity = some (Config.newKey s.fw.identities) ∧ t.alarm = { s.alarm with src := 0, erased := false, refuse := false } ∧
        memRead t.mem (s.mailbox.arg.toNat + 0x100) 64 = fit 64 (Config.publicKey (Config.newKey s.fw.identities)) ∧
        keptOutside s t (s.mailbox.arg.toNat + 0x100) 64) ∧
      (Config.blobVerifies s.fw.keyHash s.argBytes = false → s.gives .provision fun t => ({ t with mailbox := s.mailbox } : State) = s ∧ s.mailed t 4)) ∧
    (s.mailbox.go = true → s.alarm.refuse = true → s.mailbox.cmd = 1 → s.gives .pcreate fun t => ({ t with mailbox := s.mailbox } : State) = s ∧ s.mailed t 5) ∧
    (s.mailbox.go = false → s.gives .pcreate (fun t => t = s) ∧ s.gives .pdestroy (fun t => t = s) ∧ s.gives .psuspend (fun t => t = s) ∧
      s.gives .presume (fun t => t = s) ∧ s.gives .storset (fun t => t = s) ∧ s.gives .imgwrite (fun t => t = s) ∧ s.gives .attest (fun t => t = s) ∧
      s.gives .provision fun t => t = s)

/-- R315, R431, R435, R437 to R450: reset keeps memory, runs a valid image and else stays in service state 3; full
service comes once no gang is resident; 100 degrees hold, 95 release and 115 trip; an alarm erases the keys, removes
every partition and refuses service; errors count and are logged, an uncorrectable one resolves or faults what touched
the data; banks and ways gate and wake. When an event is due, and what a reset, a trip and an alarm keep, are the
model's (log entries 1, 87, 101 and 108). -/
def Obligations.PackageEvents : Prop :=
  ∀ (s : State) (a : EvArgs), s.event a →
    (s.fw.imageValid s.fw.flash = true → s.mailbox.go = false ∨ s.mailbox.cmd ≠ 6 → s.gives .reset fun t =>
      t.mem = s.mem ∧ t.status.svc = 1 ∧ t.fw.imageOk = true ∧ t.fw.running = s.fw.flash ∧ t.weaves = [] ∧ t.gangs = [] ∧ t.launches = [] ∧
      t.alarm.refuse = false ∧ t.alarm.count = s.alarm.count ∧ t.status.therm = (if s.tripped then 2 else 0) ∧ t.tripped = false ∧
      t.fw.identity = s.fw.identity ∧ ∀ n, n < 12 → (t.port n).up = bit a.b n) ∧
    (s.fw.imageValid s.fw.flash = false → s.gives .reset fun t =>
      t.mem = s.mem ∧ t.status.svc = 3 ∧ t.fw.imageOk = false ∧ t.weaves = [] ∧ t.gangs = [] ∧ t.launches = []) ∧
    (s.status.svc = 1 → s.allDies = true → s.launches = [] → s.gangs = [] → (∀ e ∈ s.parts, (s.part e.1).prologue = none) → s.gives .fullServiceSwitch fun t =>
      s.memoryKept t ∧ t.status.svc = 2 ∧ t.fw.switching = false) ∧
    (s.status.svc = 1 → s.allDies = true → s.gangs ≠ [] → s.gives .fullServiceSwitch fun t => t.status.svc = 1 ∧ t.fw.switching = true) ∧
    (s.status.svc ≠ 1 → s.gives .fullServiceSwitch fun t => t = s) ∧
    (100 ≤ a.b → s.gives .thermalHold fun t => s.memoryKept t ∧ t.status.therm = 1 ∧ Table.get 0 t.sensors a.a = a.b) ∧
    (s.status.therm = 1 → (∀ e ∈ Table.set 0 s.sensors a.a a.b, e.2 ≤ 95) → s.gives .thermalRelease fun t => s.memoryKept t ∧ t.status.therm = 0) ∧
    (s.status.therm ≠ 1 → s.gives .thermalRelease fun t => ({ t with sensors := s.sensors } : State) = s) ∧
    (115 ≤ a.b → s.gives .thermalTrip fun t => t.mem = s.mem ∧ t.rails = false ∧ t.tripped = true ∧ t.weaves = [] ∧ t.gangs = []) ∧
    ((∀ e ∈ Table.set 0 s.sensors a.a a.b, e.2 < 100) →
      s.gives .thermalTrip (fun t => ({ t with sensors := s.sensors } : State) = s) ∧ s.gives .thermalHold fun t => ({ t with sensors := s.sensors } : State) = s) ∧
    s.gives .securityAlarm (fun t =>
      s.memoryKept t ∧ t.alarm.erased = true ∧ t.alarm.refuse = true ∧ (a.a < 4 → t.alarm.src.getLsbD a.a = true) ∧ t.fw.identity = none ∧ t.fw.session = false ∧
      t.tlb = [] ∧ (∀ e ∈ s.parts, t.part e.1 = {}) ∧ (s.mailbox.go = true → t.mailbox = { s.mailbox with go := false, mst := 5 })) ∧
    (a.a < 3 → s.gives .correctedError fun t =>
      ({ t with status := s.status } : State) = s ∧ t.status.elog = s.status.elog ∧
      (Table.get 0 t.status.cecnt a.a).toNat = min (2 ^ 32 - 1) ((Table.get 0 s.status.cecnt a.a).toNat + 1)) ∧
    (3 ≤ a.a → a.a < 6 → s.gives .correctedError fun t =>
      ({ t with status := s.status } : State) = s ∧ t.status.ehead = (s.status.ehead + 1) % 64 ∧
      (Table.get 0 t.status.cecnt a.a).toNat = min (2 ^ 32 - 1) ((Table.get 0 s.status.cecnt a.a).toNat + 1) ∧
      (Table.get {} t.status.elog s.status.ehead).q0.toNat % 16 = a.a ∧ (Table.get {} t.status.elog s.status.ehead).q1 = BitVec.ofNat 64 a.c) ∧
    (a.victim = .nobody → s.gives .uncorrectableError fun t =>
      ({ t with status := s.status } : State) = s ∧ t.status.ehead = (s.status.ehead + 1) % 64 ∧ t.status.cecnt = s.status.cecnt ∧
      (Table.get {} t.status.elog s.status.ehead).q0.toNat % 16 = a.a % 8 + 8 ∧ (Table.get {} t.status.elog s.status.ehead).q1 = BitVec.ofNat 64 a.c) ∧
    (∀ r o, a.victim = .command r → s.ops.find r = some o → o.state = .pending →
      (o.engine = .mx ∨ o.storEntry = none ∨ o.cmds = [] → (∀ w, o.instr ≠ .gdist w) → s.gives .uncorrectableError fun t =>
        s.memoryKept t ∧ (t.op r).state = .resolved 0x60 ∧ t.status.ehead = (s.status.ehead + 1) % 64) ∧
      (∀ w, o.instr = .gdist w → o.engine ≠ .mx → s.gives .uncorrectableError fun t =>
        s.memoryKept t ∧ (t.op r).state = .resolved (0x60 ||| BitVec.ofNat 32 (o.unit % 2 ^ 16 * 2 ^ 16))) ∧
      (∀ e, o.storEntry = some e → o.engine ≠ .mx → o.outstanding = true → s.gives .uncorrectableError fun t =>
        s.memoryKept t ∧ (t.op r).state = .pending ∧ (t.op r).stopped = o.stopped)) ∧
    (∀ pa, a.victim = .memory pa → s.gives .uncorrectableError fun t => s.memoryKept t ∧ pa / 8 ∈ t.poison ∧ ∀ q ∈ s.poison, q ∈ t.poison) ∧
    (∀ g y off, a.victim = .scratch g off → s.gangs.find g = some y → s.gives .uncorrectableError fun t =>
      s.memoryKept t ∧ (t.gang g).scratch = y.scratch ∧ off / 8 ∈ (t.gang g).spPoison) ∧
    (∀ l x, a.victim = .packet l → s.launches.find l = some x → x.ended = false →
      ((∀ y, (s.part x.part).prologue = some y → y.launch ≠ l) → s.gives .uncorrectableError fun t => s.memoryKept t ∧ t.finished l 0x330) ∧
      (∀ y, (s.part x.part).prologue = some y → y.launch = l → s.gives .uncorrectableError fun t =>
        s.memoryKept t ∧ t.finished l 0x600530 ∧ (t.part x.part).prologue = none)) ∧
    (∀ wk, a.victim = .lease wk → (s.weaves.find wk).isSome = true → s.gives .uncorrectableError fun t =>
      s.memoryKept t ∧ (t.weave wk).lease.state = .lost ∧ (t.weave wk).lease.slots = [] ∧ (t.weave wk).lease.lostCode = 0x60 ∧ (t.weave wk).lease.lostAddr = a.value) ∧
    (∀ wk m, a.victim = .lanes wk m → s.canEnter wk m → (s.weave wk).ll = [] → s.gives .uncorrectableError fun t =>
      s.memoryKept t ∧ (t.weave wk).fcode = 0x60 ∧ (t.weave wk).faddr = a.value ∧
      ∀ l, l < 32 → (m &&& (s.weave wk).liveMask).getLsbD l = true →
        ((t.weave wk).lane l).pc = (s.part (s.gang (s.weave wk).gang).part).ctl.tvec ∧ ((t.weave wk).lane l).priv = true ∧
        ((t.weave wk).lane l).faultPc = (if ((s.weave wk).lane l).hdr then ((s.weave wk).lane l).pc ||| 1 else ((s.weave wk).lane l).pc)) ∧
    (let x := s.core a.a;
      (a.b < 8 → a.on = true → x.spgate.getLsbD a.b = false → s.gives .scratchpadBankGate fun t =>
        ({ t with cores := s.cores } : State) = s ∧ (t.core a.a).spgate.getLsbD a.b = true ∧ (t.core a.a).waking.getLsbD a.b = true) ∧
      (a.b < 8 → a.on = false → (∀ e ∈ s.gangs, e.2.core ≠ a.a) → s.gives .scratchpadBankGate fun t =>
        ({ t with cores := s.cores } : State) = s ∧ (t.core a.a).spgate.getLsbD a.b = false ∧ (t.core a.a).waking.getLsbD a.b = false) ∧
      (∀ e, e ∈ s.gangs → e.2.core = a.a → a.on = false → s.gives .scratchpadBankGate fun t => t = s) ∧
      (a.b < 8 → s.gives .scratchpadBankWake fun t =>
        ({ t with cores := s.cores } : State) = s ∧ (t.core a.a).waking.getLsbD a.b = false ∧ (t.core a.a).spgate = x.spgate)) ∧
    (let y := s.slice a.a;
      (a.b < 16 → a.on = true → y.gate.getLsbD a.b = false → s.gives .l2WayGate fun t =>
        ({ t with slices := s.slices } : State) = s ∧ (t.slice a.a).gate.getLsbD a.b = true ∧ (t.slice a.a).waking.getLsbD a.b = true) ∧
      (a.b < 16 → a.on = false → y.gate.getLsbD a.b = true → 4 < y.ways → s.gives .l2WayGate fun t =>
        s.memoryKept t ∧ (t.slice a.a).gate.getLsbD a.b = false ∧ ∀ z ∈ (t.slice a.a).lines, z ∈ y.lines) ∧
      (a.on = false → y.ways ≤ 4 → s.gives .l2WayGate fun t => t = s) ∧
      (a.b < 16 → setBit y.waking a.b false ≠ 0 ∨ y.input = [] → s.gives .l2WayWake fun t =>
        ({ t with slices := s.slices } : State) = s ∧ (t.slice a.a).waking = setBit y.waking a.b false ∧ (t.slice a.a).input = y.input) ∧
      (∀ r, setBit y.waking a.b false = 0 → y.input = [r] → s.gives .l2WayWake fun t =>
        t = ((s.modSlice a.a fun x => { x with waking := 0 }).modSlice a.a fun x => { x with input := [] }).sliceRequest a.a r))

/-- R54 to R56, R374, R375, R396 to R406, R408, R452: a kick sets its slot's write index, or is recorded as an error; a
pending queue is mapped; an idle slot is freed; Ready queues age; the stream takes the choice; a packet taken becomes
its slot's head and its event comes next; a packet whose dependencies are met is Ready, or, where it runs no kernel,
completes with its effect; a dependency found met stays met; the 257th prologue word ends the run. When an event is due,
and the order of a packet's checks, are the model's (log entries 1 and 81). -/
def Obligations.FrontEndEvents : Prop :=
  ∀ (s : State) (a : EvArgs), s.event a →
    (∀ n x, a.c = 8 → a.b < (s.part a.a).front.qcount → s.slotOf a.a a.b = some (n, x) → s.slotAt n = some x →
      (indexOk a.value.toNat x.rptr.toNat x.log2n = true → s.gives .doorbellKick fun t =>
        ({ t with slots := s.slots } : State) = s ∧ t.slotAt n = some { x with w := a.value, lastKick := s.us.toNat }) ∧
      (indexOk a.value.toNat x.rptr.toNat x.log2n = false → s.gives .doorbellKick fun t =>
        ({ t with parts := s.parts } : State) = s ∧ (t.part a.a).front.qerr = BitVec.ofNat 16 a.b ∧ (t.part a.a).front.qerrv = true)) ∧
    (a.c ≠ 8 ∨ (s.part a.a).front.qcount ≤ a.b → s.gives .doorbellKick fun t =>
      ({ t with parts := s.parts } : State) = s ∧ (t.part a.a).front.qerr = BitVec.ofNat 16 a.b ∧ (t.part a.a).front.qerrv = true) ∧
    (∀ x s1 b n s2, s.pendingOrder.find? (fun y => y.part == a.a && y.tickets.isEmpty) = some x → x.queue = a.b → x.refused = false →
      s.feRead a.a (s.queueDesc a.a a.b) 256 false = (s1, .bytes b) → descOk b = true →
      indexOk (match x.w with
        | some v => v.toNat
        | none => qwordAt b 2) (qwordAt b 3) (bits (qwordAt b 1) 4 0) = true → s1.roomForQueue a.a = some (n, s2) → s.gives .queueMap fun t =>
        (∀ y ∈ t.pendingOrder, ¬(y.part = a.a ∧ y.queue = a.b)) ∧
        ∃ y, t.slotAt n = some y ∧ y.part = a.a ∧ y.queue = a.b ∧ y.rptr = BitVec.ofNat 64 (qwordAt b 3) ∧ y.rbase = BitVec.ofNat 64 (qwordAt b 0) ∧
          y.lrbase = BitVec.ofNat 64 (qwordAt b 4) ∧ y.log2n = bits (qwordAt b 1) 4 0 ∧ y.prio = bits (qwordAt b 1) 6 5) ∧
    (s.pendingOrder = [] → s.gives .queueMap fun t => t = s) ∧
    (∀ x, s.slotAt a.a = some x →
      (x.state = .idle → x.rptr = x.w → max x.since.toNat x.lastKick + (s.part x.part).front.tout ≤ s.us.toNat → s.gives .slotIdleTimeout fun t => t.slotAt a.a = none) ∧
      (x.state ≠ .idle ∨ x.rptr ≠ x.w ∨ s.us.toNat < max x.since.toNat x.lastKick + (s.part x.part).front.tout → s.gives .slotIdleTimeout fun t => t = s)) ∧
    s.gives .ageTick (fun t =>
      ({ t with slots := s.slots, launches := s.launches } : State) = s ∧
      (∀ n, t.slotAt n = (s.slotAt n).map fun x => if x.state = .ready then { x with age := min 65535 (x.age + 1) } else x) ∧
      ∀ l x, s.launches.find l = some x → t.launches.find l = some (if x.state = 2 ∧ s.slotOfHead l = none then { x with age := min 65535 (x.age + 1) } else x)) ∧
    (∀ l, (s.part a.a).stream = none → s.alarm.refuse = false → s.chooseReady a.a = some l → (s.launch l).typ ≠ 1 ∨ (s.launch l).prologued = true →
      s.gives .dispatchStreamChoice fun t => (t.part a.a).stream = some l ∧ (t.launch l).state = 4) ∧
    ((s.part a.a).stream.isSome = true ∨ s.alarm.refuse = true ∨ s.chooseReady a.a = none → s.gives .dispatchStreamChoice fun t => t = s) ∧
    (∀ x s1 b, s.slotAt a.a = some x → s.canTake x = true → x.refused = false →
      s.feRead x.part ((x.rbase.toNat + 128 * (x.rptr.toNat % 2 ^ x.log2n)) % 2 ^ 64) 128 false = (s1, .bytes b) → s.gives .packetTake fun t =>
        t.slotAt a.a = some { x with rptr := x.rptr + 1, head := some s1.nextKey, state := .waiting } ∧
        (∃ y, t.launches.find s1.nextKey = some y ∧ y.packet = packetOf b ∧ y.orig = packetOf b ∧ y.idx = x.rptr ∧ y.part = x.part ∧ y.queue = x.queue) ∧
        t.agenda.head? = some { what := packetEvent (bits (Table.get 0 (packetOf b) 0).toNat 3 0), args := { a := s1.nextKey, b := 0, c := 0 } }) ∧
    (∀ x, s.slotAt a.a = some x → s.canTake x = false → s.gives .packetTake fun t => t = s) ∧
    (∀ x, x.allMet = true → (s.part x.part).stream ≠ some a.a →
      (s.packetDue a.a 0 x → s.binding a.a = .none_ → s.gives .directPacket fun t => (t.launch a.a).state = 2 ∧ (t.launch a.a).ended = false) ∧
      (s.packetDue a.a 1 x → s.gives .indirectPacket fun t => (t.launch a.a).state = 2 ∧ (t.launch a.a).ended = false) ∧
      (s.packetDue a.a 2 x → x.region = none → s.gives .guardedPacket fun t => (t.launch a.a).state = 2 ∧ (t.launch a.a).ended = false)) ∧
    (∀ x, s.packetDue a.a 3 x → x.allMet = true → s.gives .signalPacket fun t => s.memoryKept t ∧ t.finished a.a 0) ∧
    (∀ x, s.packetDue a.a 3 x → x.allMet = false → s.gives .signalPacket fun t => t = s) ∧
    (∀ x, s.packetDue a.a 5 x → x.allMet = true → s.earlierDone a.a = true → s.gives .barrierPacket fun t => s.memoryKept t ∧ t.finished a.a 0) ∧
    (∀ x, s.packetDue a.a 5 x → x.allMet = false ∨ s.earlierDone a.a = false → s.gives .barrierPacket fun t => t = s) ∧
    (∀ x s1 pa n, s.packetDue a.a 4 x → x.allMet = true →
      s.check x.part (8 * x.part + 6) frontAsker (x.qword 8) 8 8 .read true false = (s1, .pass pa) →
      (List.range 4096).find? (fun n => (s1.watches.find n).isNone) = some n →
      (s1.watches.filter fun e => e.2.part == x.part).length < (s1.part x.part).ctl.wquota → s.gives .watchPacket fun t =>
        s1.memoryKept t ∧ t.finished a.a 0 ∧ (t.launch a.a).wnum = n ∧
        ∃ y, t.watches.find n = some y ∧ y.pa = pa ∧ y.cond = x.field 0x18 1 0 ∧ y.value.toNat = x.qword 0x10 ∧ y.hostAddr.toNat = x.qword 0x50 ∧
          y.fired = watchHolds y.cond (memQword s1.mem pa) y.value.toNat) ∧
    (∀ x s1 b, s.packetDue a.a 6 x → s.feRead x.part (x.qword 8) 128 false = (s1, .bytes b) →
      let reg := bits (qwordAt b 0) 6 4
      (bit (qwordAt b 0) 3 = true → s1.regionIdle x.part reg = true → s.gives .stitchPacket fun t =>
        s1.memoryKept t ∧ t.finished a.a 0 ∧ (t.part x.part).regions.find reg = none) ∧
      (bit (qwordAt b 0) 3 = false → s1.regionOk x.part reg b = true → s1.regionIdle x.part reg = true →
        (∀ e ∈ s1.gangs, e.2.region.isSome = true → e.2.core / 16 ∉ descClusters b) → s.gives .stitchPacket fun t =>
          s1.memoryKept t ∧ t.finished a.a 0 ∧ ∃ r, (t.part x.part).regions.find reg = some r ∧ r.cls = descClusters b ∧ r.queue = x.queue ∧
            r.topo = bits (qwordAt b 0) 2 0 ∧ r.txm1 = bits (qwordAt b 0) 17 15 ∧ r.launch = none ∧ r.steps = 0) ∧
      (bit (qwordAt b 0) 3 = false → s1.regionOk x.part reg b = false → s.gives .stitchPacket fun t => t.finished a.a 0x30)) ∧
    (∀ x, s.launches.find a.a = some x → (∃ d ∈ s.deps, d.launch = a.a ∧ d.dep = a.b ∧ d.met = true) → s.gives .dependencyEvaluation fun t =>
      (t.launch a.a).metDep a.b = true ∧ (a.b < 4 → (t.launch a.a).depmet.getLsbD a.b = true) ∧ ∀ d ∈ t.deps, ¬(d.launch = a.a ∧ d.dep = a.b)) ∧
    ((∀ d ∈ s.deps, ¬(d.launch = a.a ∧ d.dep = a.b ∧ d.met = true)) → s.gives .dependencyEvaluation fun t => t = s) ∧
    (∀ x s1 pa, s.launches.find a.a = some x → x.state = 1 → x.ended = false → a.b < min 4 x.depn → x.depTickets = [] →
      (∀ d ∈ s.deps, ¬(d.launch = a.a ∧ d.dep = a.b)) → x.metDep a.b = false →
      s.check x.part (8 * x.part + 6) frontAsker (x.dep a.b / 8 * 8) 8 8 .read true false = (s1, .pass pa) →
      (bit (memQword s1.mem pa) 0 = bit (x.dep a.b) 0 → s.gives .dependencyPoll fun t => (t.launch a.a).metDep a.b = true) ∧
      (bit (memQword s1.mem pa) 0 ≠ bit (x.dep a.b) 0 → s1.deps.length < 1024 → s.gives .dependencyPoll fun t =>
        { launch := a.a, dep := a.b, pa := pa, full := bit (x.dep a.b) 0 } ∈ t.deps ∧ (t.launch a.a).metDep a.b = false)) ∧
    (∀ x, (s.part a.a).prologue = some x →
      (256 ≤ x.count → (s.launches.find x.launch).isSome = true → s.gives .prologueWordLimit fun t =>
        s.memoryKept t ∧ (t.part a.a).prologue = none ∧ t.finished x.launch 0x630) ∧
      (x.count < 256 → s.gives .prologueWordLimit fun t => t = s))

/-- R51 to R53, R216 to R218, R375, R405, R407, R411 to R418, R428 to R430: a gang stands on the core it is dispatched
to; a launch that is over goes, or runs again; a tile commits only where its residual passes; a run past its limit ends
with 0xA30; a wait that is over, and a deadline, order pre-emption as the policy says; the trap brings every weave into
the handler with ECAUSE 2; a pre-empted launch resumes. When an event is due, and which launch gives way, are the
model's (log entries 1 and 92). -/
def Obligations.LaunchEvents : Prop :=
  ∀ (s : State) (a : EvArgs), s.event a →
    (∀ x, s.launches.find a.a = some x → s.dispatches a.a = some (a.b, false) → x.region = none → a.c ∈ s.coresFor a.a a.b → s.gives .gangDispatch fun t =>
      (t.launch a.a).nextg = a.b + 1 ∧
      ∃ k g, t.gangs.find k = some g ∧ g.part = x.part ∧ g.launch = a.a ∧ g.g = a.b ∧ g.core = a.c ∧ g.weaves = x.gangWeaves ∧ g.kaddr = Table.get 0 x.packet 1 ∧
        g.vreg = x.vreg ∧ g.sreg = x.sreg ∧ g.ended = false ∧
        ∀ n, n < x.gangWeaves → ∃ w, t.weaves.find (16 * k + n) = some w ∧ w.gang = k ∧ w.num = n ∧
          w.sget 0 = loWord (Table.get 0 x.packet 15) ∧ w.sget 1 = hiWord (Table.get 0 x.packet 15) ∧
          ∀ l, l < 32 → (w.lane l).pc = Table.get 0 x.packet 1 ∧ (w.lane l).hdr = true ∧ (w.lane l).gen = laneSeed (x.field 0 63 32) a.b n l) ∧
    (s.dispatches a.a = none → s.gives .gangDispatch fun t => t = s) ∧
    (∀ g, s.gangs.find a.a = some g → (∀ wk ∈ s.weavesOf a.a, (s.weave wk).ended = true) → (∀ e ∈ s.ops, e.2.gang = a.a → e.2.stopped = true ∨ ∃ st, e.2.state = .resolved st) →
      s.ordered a.a = false → s.gives .gangEnd fun t =>
        t.gangs.find a.a = none ∧ (∀ n, n < 16 → t.weaves.find (16 * a.a + n) = none) ∧ ∀ e ∈ t.ops, e.2.gang ≠ a.a) ∧
    (∀ x, s.launches.find a.a = some x → s.runOver a.a = true → x.repeat_ = false ∨ x.status ≠ 0 → s.gives .launchCompletion fun t =>
      t.launches.find a.a = none ∧ (∀ e ∈ t.ops, e.2.launch ≠ a.a) ∧ ∀ e ∈ t.cohorts, e.2.launch ≠ a.a) ∧
    (s.runOver a.a = false → s.gives .launchCompletion (fun t => t = s) ∧ s.gives .prologueRepeat fun t => t = s) ∧
    (∀ x, s.launches.find a.a = some x → s.runOver a.a = true → x.repeat_ = true → x.status = 0 → s.gives .prologueRepeat fun t =>
      let y := t.launch a.a
      y.state = 2 ∧ y.run = x.run + 1 ∧ y.packet = x.orig ∧ y.nextg = 0 ∧ y.prevStatus = 0 ∧ y.prevPass = x.tpass ∧ y.prevFail = x.tfail ∧ y.tpass = 0 ∧
      y.tfail = 0 ∧ y.prologued = false ∧ y.ended = false) ∧
    (∀ x y, s.launches.find a.a = some x → x.tiles.find a.b = some y → s.tileOver a.a a.b = true →
      (y.deciding = 0 → s.gives .tileDecision fun t =>
        let pass := !y.failed && !x.ended && residualOk y.res (Table.get 0 (s.part x.part).front.gtol (x.field 0 27 24))
        s.memoryKept t ∧ (t.launch a.a).tiles.find a.b = some { y with deciding := if pass then 1 else 2, failed := !pass } ∧
        ∀ n ∈ s.slicesOf x.part y.tag, { what := if pass then .tileCommit else .tileDiscard, args := { a := n, b := x.part, c := y.tag } } ∈ t.agenda) ∧
      (y.deciding = 1 → s.gives .tileDecision fun t =>
        (t.launch a.a).tpass = x.tpass + 1 ∧ (t.launch a.a).tfail = x.tfail ∧
        (t.launch a.a).tiles.find a.b = some { y with live := false, deciding := 0, exactLeft := 0, state := 1 }) ∧
      (y.deciding = 2 → s.gives .tileDecision fun t =>
        (t.launch a.a).tfail = x.tfail + 1 ∧ (t.launch a.a).tpass = x.tpass ∧
        ∃ z, (t.launch a.a).tiles.find a.b = some z ∧ z.live = false ∧ z.state = 2 ∧
          z.exactLeft = if x.ended then 0 else x.tileEnd a.b - a.b * x.gtile)) ∧
    (s.tileOver a.a a.b = false → s.gives .tileDecision fun t => t = s) ∧
    (∀ x, s.launches.find a.a = some x → x.state = 5 → x.ended = false → (s.part x.part).ctl.runlim ≠ 0 →
      1000 * (s.part x.part).ctl.runlim ≤ x.ran + (s.us - x.since).toNat → s.gives .runLimitExpiry fun t => s.memoryKept t ∧ t.finished a.a 0xA30) ∧
    ((s.part (s.launch a.a).part).ctl.runlim = 0 → s.gives .runLimitExpiry fun t => t = s) ∧
    (∀ v, s.waitedOut a.a = true → s.victim a.a = some v → s.gives .priorityWaitExpiry fun t =>
      ∃ o ∈ (t.part (s.launch v).part).preempts, o.queue = (s.launch v).queue ∧ o.cause = some a.a ∧ o.since = s.us ∧ o.expired = false) ∧
    (s.waitedOut a.a = false → s.gives .priorityWaitExpiry fun t => t = s) ∧
    (let due (o : PreemptOrder) : Prop := o.queue = a.b ∧ o.expired = false ∧ (s.part a.a).ctl.ddl ≤ (s.us - o.since).toNat;
      ((∃ o ∈ (s.part a.a).preempts, due o) → s.gives .drainDeadlineExpiry fun t =>
        (∀ o ∈ (t.part a.a).preempts, ¬ due o) ∧ (t.part a.a).preempts.length = (s.part a.a).preempts.length) ∧
      (∀ l x, (∃ o ∈ (s.part a.a).preempts, due o) → s.queueLaunches a.a a.b = [l] → s.launches.find l = some x → x.part = a.a → x.ended = false → s.gangsOf l ≠ [] →
        x.escalated = [] → (s.part a.a).ctl.tvec = 0 → s.gives .drainDeadlineExpiry fun t => t.finished l 0x930) ∧
      ((∀ o ∈ (s.part a.a).preempts, ¬ due o) → s.gives .drainDeadlineExpiry fun t => t = s)) ∧
    (∀ g, s.gangs.find a.a = some g → s.ordered a.a = true → g.blocksDue = true → (∀ e ∈ s.ops, e.2.gang = a.a → e.2.outstanding = false) →
      s.gives .preemptTrap fun t => (t.gang a.a).blocksDue = false ∧ t.ops = s.ops) ∧
    (∀ g, s.gangs.find a.a = some g → s.ordered a.a = true → g.blocksDue = false → g.region = none → s.bondOf a.a = none → s.gangAtTrap a.a = true →
      (∀ wk ∈ s.weavesOf a.a, (s.weaves.find wk).isSome = true ∧ (s.weave wk).gang = a.a ∧ (s.weave wk).ll = []) → s.gives .preemptTrap fun t =>
        (∀ wk ∈ s.weavesOf a.a, (s.weave wk).liveMask ≠ 0 → (t.weave wk).ecause = 2 ∧
          ∀ l, l < 32 → (s.weave wk).liveMask.getLsbD l = true →
            ((t.weave wk).lane l).priv = true ∧ ((t.weave wk).lane l).pc = (s.part g.part).ctl.tvec ∧
            ((t.weave wk).lane l).faultPc = (if ((s.weave wk).lane l).hdr then ((s.weave wk).lane l).pc ||| 1 else ((s.weave wk).lane l).pc)) ∧
        ∀ e ∈ t.ops, e.2.gang = a.a → e.2.stopped = true ∨ isTkmrg e.2.instr = true ∨ e.2.paused = true) ∧
    (s.ordered a.a = false → s.gives .preemptTrap fun t => t = s) ∧
    (∀ x t1, s.launches.find a.a = some x → x.ended = false → s.nextToResume x.part x.queue = some a.a → s.queueStopped x.part x.queue = false →
      s.status.therm ≠ 1 → s.alarm.refuse = false →
      s.restoreAll a.a = some t1 → s.gives .launchResume fun t =>
        t.gangs = t1.gangs ∧ t.weaves = t1.weaves ∧ (t.launch a.a).saved = [] ∧ (t.launch a.a).escalated = [] ∧
        (t.launch a.a).state = if x.nextg < x.gangCount then 2 else 5) ∧
    (∀ x, s.launches.find a.a = some x → s.nextToResume x.part x.queue ≠ some a.a → s.gives .launchResume fun t => t = s)

/-- R38, R58, R61, R67 to R71, R230 (and the assumption log's entry 9 for the form of a step): where the fetch of the issue cycle's
next word passes its checks and the core holds no copy of it, the step is `exec` of the instruction that the eight bytes at
its address decode to, in the state after the fetch, which differs in the core's cached words and the slices' counts only;
bytes that are no instruction raise their fault for the lanes; a prologue's word likewise; with no word left, the step is
`exec` of the next event, or the plan of the next cycle. -/
def Obligations.StepRunsTheDecodedWord : Prop :=
  ∀ s : State,
    (∀ i rest s1 pa, s.issue = .weave i :: rest →
      let w := s.weave i.wk
      let g := s.gang w.gang
      let who : Asker := { cluster := g.core / 16, core := g.core, weave := w.num }
      (s.fetching (.weave i) rest).check g.part (8 * g.part) who i.pc.toNat 8 1 .fetch false false = (s1, .pass pa) → s1.sliceWakes pa = false →
      (∀ l ∈ (s1.core g.core).icache, ¬(l.part = g.part ∧ l.va = i.pc.toNat)) →
      (∀ j, decode (BitVec.ofNat 64 (memQword s1.mem pa)) = .ok j →
        ∃ s2 : State, ({ s2 with cores := s1.cores, slices := s1.slices } : State) = s1 ∧ step s = exec j s2) ∧
      (∀ e, decode (BitVec.ofNat 64 (memQword s1.mem pa)) = .error e →
        ∃ s2 : State, ({ s2 with cores := s1.cores, slices := s1.slices } : State) = s1 ∧
          step s = .next (s2.raise i.wk { status := e.status, mask := i.lanes, addr := 0, resume_ := i.pc }))) ∧
    (∀ p x rest s1 v j, s.issue = .prologue p :: rest → (s.part p).prologue = some x → x.hdr = false → x.count < 256 →
      (s.fetching (.prologue p) rest).proWord p x.pc.toNat = (s1, .word v) → decode v = .ok j → step s = exec j s1) ∧
    (∀ x rest, s.issue = [] → s.agenda = x :: rest → step s = exec x.what { s with agenda := rest, cur := none, ev := x.args }) ∧
    (s.issue = [] → s.agenda = [] → step s = .next s.plan)

/-- R67 to R73, R84, R85: worked words of the chapters decode to the instructions that they encode; an unassigned opcode
and a format that an opcode does not list are no instruction. -/
def Obligations.DecodedWords : Prop :=
  let z : Operand := .special .zero
  decode 0x0000502C18B18640 = .ok (.iadd { dst := .v 10, a := .v 11, b := .v 12, modb := 0x58C, pred := 3, neg := false, hold := 1, reuse := false, mods := 0 }) ∧
  decode 0x9001012007035080 = .ok (.d2Word { op := .fadd, d := .v 4, s := .v 9, pred := 0, neg := false, mods := 0 }
    { op := .imax, d := .v 6, s := .s 2, pred := 0, neg := false, mods := 0 }) ∧
  decode 0x0980094002000000 = .ok (.cvt (wordF3 (.v 1) (.v 80) (.v 1) 0 0)) ∧
  decode 0x5060A00000001800 = .ok (.meet (wordFI (.v 20) (.v 0) 6 0 0)) ∧
  decode 0x1040002800000000 = .ok (.calli (wordF3 (.v 0) (.v 10) (.v 0) 0 0)) ∧
  decode 0x50300000000000C0 = .ok (.call (wordFI (.v 0) (.v 0) 0 0 3)) ∧
  decode 0x10D0068000000001 = .ok (.sign (wordF3 (.v 0) (.c 0) (.v 0) 1 0)) ∧
  decode 0x5190000000000400 = .ok (.sysc (wordFI (.v 0) (.v 0) 1 0 0)) ∧
  decode 0x5830280800004004 = .ok (.stsFi (wordFI (.v 5) (.v 2) 16 4 0)) ∧
  decode 0x18100D0810000004 = .ok (.st (wordF3 (.v 1) (.s 2) (.v 8) 4 0)) ∧
  decode 0x1E1F700800000400 = .ok (.dadd (wordF3 (.fp 14) (.v 2) (.v 0) 0 2)) ∧
  decode 0xDE72840000000000 = .ok (.swpreg (wordFX 10 1 false 0 0)) ∧
  decode 0xE802040000000000 = .ok (.tcopy (wordFX 8 1 false 0 0)) ∧
  decode 0xE002020000000400 = .ok (.tcfgCfg (wordFX 8 0 true 0 2)) ∧
  decode 0x204D403380000020 = .ok (.mma { dst := z, a := .v 12, b := .int 0, modb := 0, pred := 0, neg := false, hold := 0, reuse := true, mods := 0 }) ∧
  decode 0x251A370C00000000 = .ok (.blease (wordF3 (.s 6) (.int 3) (.v 0) 0 0)) ∧
  decode 0xE50000000000B200 = .ok (.bform (wordFX 0 0 false 0 0x59)) ∧
  decode 0x2B0D451A94000001 = .ok (.ratom (wordF3 z (.s 6) (.s 10) 1 0)) ∧
  decode 0x2BA0001400000000 = .ok (.gres (wordF3 (.v 0) (.v 5) (.v 0) 0 0)) ∧
  decode 0xF003840000000000 = .ok (.gdist (wordFX 14 1 false 0 0)) ∧
  decode 0x301A6F1000000000 = .ok (.tkcfg (wordF3 (.s 13) (.int 4) (.v 0) 0 0)) ∧
  decode 0x327A152000000001 = .ok (.lbufcfgTx (wordF3 (.s 2) (.s 8) (.v 0) 1 0)) ∧
  decode 0xF241040000008000 = .ok (.lsend (wordFX 4 1 false 0 64)) ∧
  decode 0x326AAD3400000600 = .ok (.lret (wordF3 (.s 21) (.s 13) (.v 0) 0 3)) ∧
  decode 0x7800050C01401000 = .ok (.plset (wordFI (.v 0) (.s 3) 0x5004 0 0)) ∧
  decode 0x3820000000000200 = .ok (.plcancel (wordF3 (.v 0) (.v 0) (.v 0) 0 1)) ∧
  decode 0x3FF0000000000000 = .error .unassigned ∧ decode 0xC000000000000000 = .error .format

/-- R67 to R73, R84: the word of every well-formed instruction, with every field at every value, decodes to that
instruction. -/
def Obligations.EncodeDecodeRoundTrip : Prop :=
  ∀ (i : Instr) (w : Dbl), i.wellFormed = true → encode i = some w → decode w = .ok i

/-- R149, R156, R159, R337, R396, R420 to R422, R435, R439: what reset leaves in the registers of the partitions, the
access tables, the firmware and the device status; memory is in its canonical form (an unlisted byte's value is the
model's choice, the assumption log's entry 3, and no clause rests on it). Values to which no rule gives a reset are the
model's (log entries 4 and 8). -/
def Obligations.ResetState : Prop :=
  State.reset.memOk ∧
  (∀ p, (State.reset.part p).trans.en = false ∧ (State.reset.part p).trans.ptroot = 0 ∧ (State.reset.part p).front.tout = 200 ∧
    (State.reset.part p).front.qdbase = 0 ∧ (State.reset.part p).ctl.tout = 200 ∧ (State.reset.part p).ctl.ddl = 50 ∧
    (State.reset.part p).ctl.pwait = 100 ∧ (State.reset.part p).ctl.act = false ∧ (State.reset.part p).ctl.tvec = 0 ∧
    (State.reset.part p).stamp.thr = 0x400000 ∧ (State.reset.part p).stamp.step = 0) ∧
  (∀ p i, i < 128 → (State.reset.part p).stamp.qword (0x400 + 8 * i) = 0x3F8000003F800000) ∧
  (∀ j m pa n k, m < 64 → State.reset.accessOk j m pa n k = false) ∧
  (∀ j pa n k, pa + n ≤ 0xFFFFFFFFF000 → State.reset.accessOk j 64 pa n k = true) ∧
  (∀ c, (Table.get {} State.reset.links c).permitsUp = 8 ∧ (Table.get {} State.reset.links c).permitsDown = 8) ∧
  (∀ c, (State.reset.core c).spgate = 0xFF) ∧ (∀ n, (State.reset.slice n).gate = 0xFFFF) ∧
  (∀ k, Table.get 0 State.reset.plmap k = 0) ∧
  State.reset.mailbox = {} ∧ State.reset.alarm.word = 0 ∧
  (∀ o, o < 0x1000 → State.reset.statusQword o = 0) ∧
  State.reset.gangs = [] ∧ State.reset.weaves = [] ∧ State.reset.launches = [] ∧ State.reset.watches = []

/-- Every step keeps the canonical form of the memories, which only the bytes that instructions and engines write, page
table bits and completed watches change. -/
def Obligations.MemoryCanonicalKeptByEveryStep : Prop :=
  ∀ s t : State, s.memOk → step s = .next t → t.memOk
end

