-- ==== Sys2Proof/Laws/Table.lean ====
section
/-! SUPPORT. Tables: what reads after writes give, and that writes keep the canonical form. -/

namespace Sys2Proof.Table

variable {α : Type}

theorem risesFrom_le {lo hi : Nat} {t : Table α} (h : risesFrom hi t = true) (hl : lo ≤ hi) : risesFrom lo t = true := by
  cases t with
  | nil => rfl
  | cons e r =>
    obtain ⟨i, a⟩ := e
    simp only [risesFrom, Bool.and_eq_true, decide_eq_true_eq] at *
    exact ⟨by omega, h.2⟩

/-- A key below every listed one reads the default. -/
theorem get_of_risesFrom {d : α} {lo k : Nat} {t : Table α} (h : risesFrom lo t = true) (hk : k < lo) : get d t k = d := by
  induction t generalizing lo with
  | nil => rfl
  | cons e r ih =>
    obtain ⟨i, a⟩ := e
    simp only [risesFrom, Bool.and_eq_true, decide_eq_true_eq] at h
    have hne : i ≠ k := by omega
    simp only [get, hne, if_false]
    exact ih h.2 (by omega)

/-- The value just put at a key is the one read there. -/
@[simp] theorem get_insert_same (d : α) (t : Table α) (k : Nat) (a : α) : get d (insert t k a) k = a := by
  induction t with
  | nil => simp [insert, get]
  | cons e r ih =>
    obtain ⟨i, b⟩ := e
    simp only [insert]
    split
    · simp [get]
    · split
      · simp [get]
      · rename_i h1 h2
        have : i ≠ k := fun h => h2 h.symm
        simp [get, this, ih]

/-- A put leaves every other key as it was. -/
theorem get_insert_ne (d : α) (t : Table α) {k j : Nat} (a : α) (hj : j ≠ k) : get d (insert t k a) j = get d t j := by
  induction t with
  | nil => simp [insert, get, Ne.symm hj]
  | cons e r ih =>
    obtain ⟨i, b⟩ := e
    have hk : ¬ k = j := fun h => hj h.symm
    simp only [insert]
    split
    · simp [get, hk]
    · split
      · rename_i h1 h2
        have hi : ¬ i = j := fun h => hj (h ▸ h2.symm)
        simp [get, hk, hi]
      · simp only [get, ih]

/-- An erased key reads the default. -/
@[simp] theorem get_erase_same (d : α) (t : Table α) (k : Nat) : get d (erase t k) k = d := by
  induction t with
  | nil => rfl
  | cons e r ih =>
    obtain ⟨i, b⟩ := e
    simp only [erase]
    split
    · exact ih
    · rename_i h
      simp [get, h, ih]

/-- An erasure leaves every other key as it was. -/
theorem get_erase_ne (d : α) (t : Table α) {k j : Nat} (hj : j ≠ k) : get d (erase t k) j = get d t j := by
  induction t with
  | nil => rfl
  | cons e r ih =>
    obtain ⟨i, b⟩ := e
    simp only [erase]
    split
    · rename_i h
      have hi : i ≠ j := fun h' => hj (h' ▸ h)
      simp [get, hi, ih]
    · simp only [get, ih]

/-- A read after a write of the same key. -/
@[simp] theorem get_set_same [DecidableEq α] (d : α) (t : Table α) (k : Nat) (a : α) : get d (set d t k a) k = a := by
  unfold set
  split
  · rename_i h
    simp [h]
  · simp

/-- A read after a write of another key. -/
theorem get_set_ne [DecidableEq α] (d : α) (t : Table α) {k j : Nat} (a : α) (hj : j ≠ k) : get d (set d t k a) j = get d t j := by
  unfold set
  split
  · exact get_erase_ne d t hj
  · exact get_insert_ne d t a hj

/-- Reads after a write, in one equation. -/
theorem get_set [DecidableEq α] (d : α) (t : Table α) (k j : Nat) (a : α) : get d (set d t k a) j = if j = k then a else get d t j := by
  split
  · rename_i h
    simp [h]
  · rename_i h
    exact get_set_ne d t a h

theorem find_eq_get {t : Table α} {k : Nat} {d : α} : get d t k = (find t k).getD d := by
  induction t with
  | nil => rfl
  | cons e r ih =>
    obtain ⟨i, b⟩ := e
    simp only [get, find]
    split <;> simp [ih]

@[simp] theorem find_insert_same (t : Table α) (k : Nat) (a : α) : find (insert t k a) k = some a := by
  induction t with
  | nil => simp [insert, find]
  | cons e r ih =>
    obtain ⟨i, b⟩ := e
    simp only [insert]
    split
    · simp [find]
    · split
      · simp [find]
      · rename_i h1 h2
        have : i ≠ k := fun h => h2 h.symm
        simp [find, this, ih]

theorem find_insert_ne (t : Table α) {k j : Nat} (a : α) (hj : j ≠ k) : find (insert t k a) j = find t j := by
  induction t with
  | nil => simp [insert, find, Ne.symm hj]
  | cons e r ih =>
    obtain ⟨i, b⟩ := e
    have hk : ¬ k = j := fun h => hj h.symm
    simp only [insert]
    split
    · simp [find, hk]
    · split
      · rename_i h1 h2
        have hi : ¬ i = j := fun h => hj (h ▸ h2.symm)
        simp [find, hk, hi]
      · simp only [find, ih]

@[simp] theorem find_erase_same (t : Table α) (k : Nat) : find (erase t k) k = none := by
  induction t with
  | nil => rfl
  | cons e r ih =>
    obtain ⟨i, b⟩ := e
    simp only [erase]
    split
    · exact ih
    · rename_i h
      simp [find, h, ih]

/-- What a changed table holds. -/
theorem find_modify (t : Table α) (k j : Nat) (f : α → α) :
    find (modify t k f) j = if j = k then (find t j).map f else find t j := by
  induction t with
  | nil => simp [modify, find]
  | cons e r ih =>
    obtain ⟨i, b⟩ := e
    simp only [modify]
    split
    · rename_i h
      simp only [find]
      split
      · rename_i h2
        simp [← h2, h]
      · rename_i h2
        have : j ≠ k := fun h3 => h2 (h.trans h3.symm)
        simp [this]
    · rename_i h
      simp only [find, ih]
      split
      · rename_i h2
        have : j ≠ k := fun h3 => h (h2.trans h3)
        simp [this]
      · rfl

/-- The value of the key that is changed, where it is listed. -/
theorem get_modify_same {d : α} {t : Table α} {k : Nat} {f : α → α} {a : α} (h : find t k = some a) :
    get d (modify t k f) k = f a := by
  simp [find_eq_get, find_modify, h]

/-- A change leaves every other key as it was. -/
theorem get_modify_ne (d : α) (t : Table α) {k j : Nat} (f : α → α) (hj : j ≠ k) : get d (modify t k f) j = get d t j := by
  simp [find_eq_get, find_modify, hj]

/-- A listed key is its found value. -/
theorem get_of_find {d : α} {t : Table α} {k : Nat} {a : α} (h : find t k = some a) : get d t k = a := by
  simp [find_eq_get, h]

theorem risesFrom_erase {lo : Nat} {t : Table α} (k : Nat) (h : risesFrom lo t = true) : risesFrom lo (erase t k) = true := by
  induction t generalizing lo with
  | nil => rfl
  | cons e r ih =>
    obtain ⟨i, b⟩ := e
    simp only [risesFrom, Bool.and_eq_true, decide_eq_true_eq] at h
    simp only [erase]
    split
    · exact ih (risesFrom_le h.2 (by omega))
    · simp only [risesFrom, Bool.and_eq_true, decide_eq_true_eq]
      exact ⟨h.1, ih h.2⟩

theorem risesFrom_insert {lo k : Nat} {t : Table α} (a : α) (h : risesFrom lo t = true) (hk : lo ≤ k) :
    risesFrom lo (insert t k a) = true := by
  induction t generalizing lo with
  | nil => simp [insert, risesFrom, hk]
  | cons e r ih =>
    obtain ⟨i, b⟩ := e
    simp only [risesFrom, Bool.and_eq_true, decide_eq_true_eq] at h
    simp only [insert]
    split
    · simp only [risesFrom, Bool.and_eq_true, decide_eq_true_eq]
      exact ⟨hk, by omega, h.2⟩
    · split
      · rename_i h1 h2
        simp only [risesFrom, Bool.and_eq_true, decide_eq_true_eq]
        exact ⟨hk, h2 ▸ h.2⟩
      · simp only [risesFrom, Bool.and_eq_true, decide_eq_true_eq]
        exact ⟨h.1, ih h.2 (by omega)⟩

theorem mem_of_mem_erase {t : Table α} {k : Nat} {e : Nat × α} (h : e ∈ erase t k) : e ∈ t := by
  induction t with
  | nil => simp [erase] at h
  | cons x r ih =>
    obtain ⟨i, b⟩ := x
    simp only [erase] at h
    split at h
    · exact List.mem_cons_of_mem _ (ih h)
    · rcases List.mem_cons.1 h with h | h
      · exact h ▸ List.mem_cons_self
      · exact List.mem_cons_of_mem _ (ih h)

theorem mem_of_mem_insert {t : Table α} {k : Nat} {a : α} {e : Nat × α} (h : e ∈ insert t k a) : e = (k, a) ∨ e ∈ t := by
  induction t with
  | nil => simpa [insert] using h
  | cons x r ih =>
    obtain ⟨i, b⟩ := x
    simp only [insert] at h
    split at h
    · rcases List.mem_cons.1 h with h | h
      · exact .inl h
      · exact .inr h
    · split at h
      · rcases List.mem_cons.1 h with h | h
        · exact .inl h
        · exact .inr (List.mem_cons_of_mem _ h)
      · rcases List.mem_cons.1 h with h | h
        · exact .inr (h ▸ List.mem_cons_self)
        · rcases ih h with h | h
          · exact .inl h
          · exact .inr (List.mem_cons_of_mem _ h)

/-- A write keeps the canonical form. -/
theorem wf_set [DecidableEq α] {d : α} {t : Table α} (k : Nat) (a : α) (h : wf d t = true) : wf d (set d t k a) = true := by
  simp only [wf, Bool.and_eq_true, List.all_eq_true, decide_eq_true_eq] at h ⊢
  unfold set
  split
  · exact ⟨risesFrom_erase k h.1, fun e he => h.2 e (mem_of_mem_erase he)⟩
  · rename_i ha
    refine ⟨risesFrom_insert a h.1 (by omega), fun e he => ?_⟩
    rcases mem_of_mem_insert he with rfl | he
    · exact ha
    · exact h.2 e he

end Sys2Proof.Table
end

