-- ==== Sys2Proof/Laws/Weave.lean ====
section
/-! SUPPORT. Lanes and registers: what reads after a change of lanes, a write and a latch give, and the frames of the
operations that every word uses. -/

namespace Sys2Proof.Machine

open Sys2Proof

/-! ### Lane masks -/

theorem mem_lanesOf {m : BitVec 32} {l : Nat} : l ∈ lanesOf m ↔ l < 32 ∧ m.getLsbD l = true := by
  simp [lanesOf]

theorem nodup_lanesOf (m : BitVec 32) : (lanesOf m).Nodup := List.Nodup.filter _ List.nodup_range

theorem getLsbD_maskOf (f : Nat → Bool) (l : Nat) (h : l < 32) : (maskOf f).getLsbD l = f l := by
  simp [maskOf, h]

theorem getLsbD_activeOf (w : Weave) (m : BitVec 32) (p : Nat) (neg : Bool) (l : Nat) (h : l < 32) :
    (activeOf w m p neg).getLsbD l = (m.getLsbD l && ((w.lane l).preds.getLsbD p != neg)) := getLsbD_maskOf _ l h

/-- A lane that executes belongs to the word's set. -/
theorem lanes_of_active {w : Weave} {m : BitVec 32} {p : Nat} {neg : Bool} {l : Nat} (h : l < 32)
    (ha : (activeOf w m p neg).getLsbD l = true) : m.getLsbD l = true := by
  rw [getLsbD_activeOf _ _ _ _ _ h] at ha
  exact (Bool.and_eq_true _ _ ▸ ha).1

theorem lanesOf_eq_nil {m : BitVec 32} : lanesOf m = [] ↔ m = 0 := by
  constructor
  · intro h
    apply BitVec.eq_of_getLsbD_eq
    intro i hi
    by_contra hc
    have hm : m.getLsbD i = true := by simpa using hc
    have : i ∈ lanesOf m := mem_lanesOf.2 ⟨hi, hm⟩
    rw [h] at this
    exact absurd this (by simp)
  · rintro rfl
    simp [lanesOf]

/-! ### Lanes -/

theorem lane_modLane (w : Weave) (l j : Nat) (f : Lane → Lane) :
    (w.modLane l f).lane j = if j = l then f (w.lane l) else w.lane j := Table.get_set ..

theorem modLane_eq (w : Weave) (l : Nat) (f : Lane → Lane) : w.modLane l f = { w with lanes := (w.modLane l f).lanes } := rfl

theorem lane_foldl_modLane (f : Nat → Lane → Lane) (ls : List Nat) (hn : ls.Nodup) (w : Weave) (j : Nat) :
    (ls.foldl (fun w l => w.modLane l (f l)) w).lane j = if j ∈ ls then f j (w.lane j) else w.lane j := by
  induction ls generalizing w with
  | nil => simp
  | cons l ls ih =>
    rw [List.foldl_cons, ih (List.nodup_cons.1 hn).2, lane_modLane]
    have hl := (List.nodup_cons.1 hn).1
    by_cases h : j ∈ ls
    · have : j ≠ l := fun e => hl (e ▸ h)
      simp [h, this]
    · by_cases hj : j = l
      · subst hj; simp [h]
      · simp [h, hj]

theorem foldl_modLane_eq (f : Nat → Lane → Lane) (ls : List Nat) (w : Weave) :
    ls.foldl (fun w l => w.modLane l (f l)) w = { w with lanes := (ls.foldl (fun w l => w.modLane l (f l)) w).lanes } := by
  induction ls generalizing w with
  | nil => rfl
  | cons l ls ih => rw [List.foldl_cons, ih]; rfl

/-- What `modLanes` does to a lane. -/
theorem lane_modLanes (w : Weave) (m : BitVec 32) (f : Lane → Lane) (j : Nat) :
    (w.modLanes m f).lane j = if j < 32 ∧ m.getLsbD j = true then f (w.lane j) else w.lane j := by
  have h := lane_foldl_modLane (fun _ => f) (lanesOf m) (nodup_lanesOf m) w j
  simp only [mem_lanesOf] at h
  exact h

/-- `modLanes` changes lanes only. -/
theorem modLanes_eq (w : Weave) (m : BitVec 32) (f : Lane → Lane) :
    w.modLanes m f = { w with lanes := (w.modLanes m f).lanes } := foldl_modLane_eq (fun _ => f) _ w

@[simp] theorem modLanes_vget (w : Weave) (m : BitVec 32) (f : Lane → Lane) (i l : Nat) :
    (w.modLanes m f).vget i l = w.vget i l := by rw [modLanes_eq]; rfl
@[simp] theorem modLanes_sget (w : Weave) (m : BitVec 32) (f : Lane → Lane) (i : Nat) :
    (w.modLanes m f).sget i = w.sget i := by rw [modLanes_eq]; rfl
@[simp] theorem modLanes_fpsw (w : Weave) (m : BitVec 32) (f : Lane → Lane) : (w.modLanes m f).fpsw = w.fpsw := by
  rw [modLanes_eq]
theorem modLanes_rest (w : Weave) (m : BitVec 32) (f : Lane → Lane) : (w.modLanes m f).rest = w.rest := by
  rw [modLanes_eq]; rfl

/-- What a register holds depends on the register file, the lane's own fields and fpsw only. -/
theorem kept_congr {w x : Weave} {l : Nat} (o : Operand) (hv : ∀ i, x.vget i l = w.vget i l) (hs : ∀ i, x.sget i = w.sget i)
    (hp : (x.lane l).preds = (w.lane l).preds) (hm : (x.lane l).mr = (w.lane l).mr) (hg : (x.lane l).gen = (w.lane l).gen)
    (hf : (x.lane l).faultPc = (w.lane l).faultPc) (hw : x.fpsw = w.fpsw) : x.kept o l = w.kept o l := by
  cases o with
  | v i => exact hv _
  | s i => exact hs _
  | p i => show (if (x.lane l).preds.getLsbD i.val then (1 : Word) else 0) = _; rw [hp]; rfl
  | special k =>
    cases k with
    | sdlo => show (x.lane l).gen &&& _ = _; rw [hg]; rfl
    | sdhi => show (x.lane l).gen >>> _ = _; rw [hg]; rfl
    | mr => exact hm
    | faultPcLo => show loWord (x.lane l).faultPc = _; rw [hf]; rfl
    | faultPcHi => show hiWord (x.lane l).faultPc = _; rw [hf]; rfl
    | fpsw => exact hw
    | _ => rfl
  | _ => rfl

/-- Lane moves keep what registers hold, if they keep predicates, meeting register, generator and resume address. -/
theorem modLanes_kept (w : Weave) (m : BitVec 32) (f : Lane → Lane)
    (hp : ∀ x, (f x).preds = x.preds) (hm : ∀ x, (f x).mr = x.mr) (hg : ∀ x, (f x).gen = x.gen)
    (hf : ∀ x, (f x).faultPc = x.faultPc) (o : Operand) (l : Nat) : (w.modLanes m f).kept o l = w.kept o l := by
  apply kept_congr
  · exact fun i => modLanes_vget ..
  · exact fun i => modLanes_sget ..
  · rw [lane_modLanes]; split <;> simp only [hp]
  · rw [lane_modLanes]; split <;> simp only [hm]
  · rw [lane_modLanes]; split <;> simp only [hg]
  · rw [lane_modLanes]; split <;> simp only [hf]
  · exact modLanes_fpsw ..

/-! ### Frames of a weave -/

theorem keeps_refl (w : Weave) (k : Ctx) (ds : List Operand) : Weave.keeps w w k ds :=
  ⟨rfl, fun _ _ _ _ => rfl, fun _ => rfl, fun _ _ _ => ⟨rfl, rfl⟩⟩

theorem keeps_trans {w x y : Weave} {k : Ctx} {ds : List Operand} (h1 : Weave.keeps w x k ds) (h2 : Weave.keeps x y k ds) :
    Weave.keeps w y k ds :=
  ⟨h2.1.trans h1.1, fun o l hl ho => (h2.2.1 o l hl ho).trans (h1.2.1 o l hl ho),
    fun l => (h2.2.2.1 l).trans (h1.2.2.1 l),
    fun l hl hm => ⟨(h2.2.2.2 l hl hm).1.trans (h1.2.2.2 l hl hm).1, (h2.2.2.2 l hl hm).2.trans (h1.2.2.2 l hl hm).2⟩⟩

theorem keeps_mono {w x : Weave} {k : Ctx} {ds es : List Operand} (h : Weave.keeps w x k ds) (hs : ∀ o, o ∈ ds → o ∈ es) :
    Weave.keeps w x k es :=
  ⟨h.1, fun o l hl ho => h.2.1 o l hl (fun hd => ho (hs o hd)), h.2.2⟩

/-- Going on keeps every register. -/
theorem keeps_goto (w : Weave) (k : Ctx) (m : BitVec 32) (hm : ∀ l, l < 32 → m.getLsbD l = true → k.lanes.getLsbD l = true)
    (pc : Dbl) (hdr : Bool) (ds : List Operand) : Weave.keeps w (w.modLanes m fun l => l.goto pc hdr) k ds := by
  refine ⟨modLanes_rest .., ?_, ?_, ?_⟩
  · intro o l _ _
    exact modLanes_kept _ _ (fun l => l.goto pc hdr) (fun _ => rfl) (fun _ => rfl) (fun _ => rfl) (fun _ => rfl) o l
  · intro l
    rw [lane_modLanes]
    split <;> rfl
  · intro l hl hk
    have : ¬ (l < 32 ∧ m.getLsbD l = true) := fun h => by simp [hm l hl h.2] at hk
    rw [lane_modLanes, if_neg this]
    exact ⟨rfl, rfl⟩

/-- A change of latches, high words, queue masks or outstanding results keeps everything. -/
theorem keeps_of_eq {w x : Weave} (k : Ctx) (ds : List Operand) (hr : x.rest = w.rest) (hv : x.vregs = w.vregs) (hs : x.sregs = w.sregs)
    (hl : x.lanes = w.lanes) (hf : x.fpsw = w.fpsw) : Weave.keeps w x k ds := by
  have hlane : ∀ l, x.lane l = w.lane l := fun l => by simp only [Weave.lane, hl]
  refine ⟨hr, ?_, fun l => by rw [hlane], fun l _ _ => by rw [hlane]; exact ⟨rfl, rfl⟩⟩
  intro o l _ _
  refine kept_congr o ?_ ?_ (by rw [hlane]) (by rw [hlane]) (by rw [hlane]) (by rw [hlane]) hf
  · intro i; simp only [Weave.vget, hv]
  · intro i; simp only [Weave.sget, hs]

/-! ### Writing a register -/

theorem keeps_cancelPending (w : Weave) (k : Ctx) (o : Operand) (l : Nat) (ds : List Operand) :
    Weave.keeps w (w.cancelPending o l) k ds := by
  unfold Weave.cancelPending Weave.cancelWrites
  split
  · exact keeps_refl ..
  · exact keeps_of_eq k ds rfl rfl rfl rfl rfl

theorem kept_cancelPending (w : Weave) (o : Operand) (l : Nat) (o' : Operand) (j : Nat) :
    (w.cancelPending o l).kept o' j = w.kept o' j := by
  unfold Weave.cancelPending Weave.cancelWrites
  split
  · rfl
  · exact kept_congr o' (fun _ => rfl) (fun _ => rfl) rfl rfl rfl rfl rfl

theorem keeps_dropLatch (w : Weave) (k : Ctx) (i : Nat) (ds : List Operand) : Weave.keeps w (w.dropLatch i) k ds :=
  keeps_of_eq k ds rfl rfl rfl rfl rfl

/-- Leaving no latch entry for a destination keeps everything. -/
theorem keeps_dropDst (w : Weave) (k : Ctx) (o : Operand) (ds : List Operand) : Weave.keeps w (w.dropDst o) k ds := by
  cases o with
  | v i => exact keeps_dropLatch ..
  | _ => exact keeps_refl ..

@[simp] theorem kept_dropDst (w : Weave) (d o : Operand) (l : Nat) : (w.dropDst d).kept o l = w.kept o l := by
  cases d with
  | v i => exact kept_congr o (fun _ => rfl) (fun _ => rfl) rfl rfl rfl rfl rfl
  | _ => rfl

@[simp] theorem lane_dropDst (w : Weave) (d : Operand) (l : Nat) : (w.dropDst d).lane l = w.lane l := by cases d <;> rfl

/-- Bits of a mask with one bit written. -/
theorem getLsbD_setBit {n : Nat} (m : BitVec n) (i j : Nat) (b : Bool) (hi : i < n) (hj : j < n) :
    (setBit m i b).getLsbD j = if j = i then b else m.getLsbD j := by
  have h1 : (BitVec.ofNat n (2 ^ i)).getLsbD j = decide (j = i) := by
    rw [BitVec.getLsbD_ofNat, Nat.testBit_two_pow]
    simp [hj, eq_comm]
  unfold setBit
  cases b
  · simp only [Bool.false_eq_true, if_false, BitVec.getLsbD_and, BitVec.getLsbD_not, h1]
    by_cases h : j = i <;> simp [h, hi, hj]
  · simp only [if_true, BitVec.getLsbD_or, h1]
    by_cases h : j = i <;> simp [h]

/-- A lane's change that leaves what the frame looks at. -/
theorem keeps_modLane (w : Weave) (k : Ctx) (l : Nat) (f : Lane → Lane) (ds : List Operand)
    (hr : (f (w.lane l)).rest = (w.lane l).rest) (hp : (f (w.lane l)).pc = (w.lane l).pc) (hh : (f (w.lane l)).hold = (w.lane l).hold)
    (hk : ∀ o j, j < 32 → o ∉ ds → (w.modLane l f).kept o j = w.kept o j) : Weave.keeps w (w.modLane l f) k ds := by
  refine ⟨rfl, hk, ?_, ?_⟩
  · intro j
    rw [lane_modLane]
    split
    · rename_i h; subst h; exact hr
    · rfl
  · intro j _ _
    rw [lane_modLane]
    split
    · rename_i h; subst h; exact ⟨hp, hh⟩
    · exact ⟨rfl, rfl⟩

theorem loWord_pair (a b : Word) : loWord (pair a b) = a := by
  apply BitVec.eq_of_getLsbD_eq
  intro i hi
  have h := BitVec.getLsbD_append (x := b) (y := a) (i := i)
  rw [if_pos hi] at h
  rw [loWord, BitVec.getLsbD_extractLsb', Nat.zero_add]
  simp only [hi, decide_true, Bool.true_and]
  exact h

theorem hiWord_pair (a b : Word) : hiWord (pair a b) = b := by
  apply BitVec.eq_of_getLsbD_eq
  intro i hi
  have h := BitVec.getLsbD_append (x := b) (y := a) (i := 32 + i)
  rw [if_neg (by omega), Nat.add_sub_cancel_left] at h
  rw [hiWord, BitVec.getLsbD_extractLsb']
  simp only [hi, decide_true, Bool.true_and]
  exact h

/-- The mask of the low half. -/
theorem getLsbD_low (i : Nat) : (0xFFFF#32).getLsbD i = decide (i < 16) := by
  by_cases h : i < 32
  · interval_cases i <;> rfl
  · rw [BitVec.getLsbD_of_ge _ _ (by omega)]; simp; omega

theorem getLsbD_high (i : Nat) : (0xFFFF0000#32).getLsbD i = decide (16 ≤ i ∧ i < 32) := by
  by_cases h : i < 32
  · interval_cases i <;> rfl
  · rw [BitVec.getLsbD_of_ge _ _ (by omega)]; simp; omega

theorem gen_lo_lo (g v : Word) : ((g &&& 0xFFFF0000#32) ||| (v &&& 0xFFFF#32)) &&& 0xFFFF#32 = v &&& 0xFFFF#32 := by
  apply BitVec.eq_of_getLsbD_eq
  intro i hi
  simp only [BitVec.getLsbD_and, BitVec.getLsbD_or, getLsbD_low, getLsbD_high]
  by_cases h : i < 16 <;> simp [h]

theorem gen_lo_hi (g v : Word) : ((g &&& 0xFFFF0000#32) ||| (v &&& 0xFFFF#32)) >>> 16 = g >>> 16 := by
  apply BitVec.eq_of_getLsbD_eq
  intro i hi
  simp only [BitVec.getLsbD_ushiftRight, BitVec.getLsbD_and, BitVec.getLsbD_or, getLsbD_low, getLsbD_high]
  by_cases h : 16 + i < 32
  · simp; omega
  · rw [BitVec.getLsbD_of_ge g _ (by omega)]; simp

theorem gen_hi_lo (g v : Word) : ((g &&& 0xFFFF#32) ||| (v <<< 16)) &&& 0xFFFF#32 = g &&& 0xFFFF#32 := by
  apply BitVec.eq_of_getLsbD_eq
  intro i hi
  simp only [BitVec.getLsbD_shiftLeft, BitVec.getLsbD_and, BitVec.getLsbD_or, getLsbD_low]
  by_cases h : i < 16 <;> simp [h]

theorem gen_hi_hi (g v : Word) : ((g &&& 0xFFFF#32) ||| (v <<< 16)) >>> 16 = v &&& 0xFFFF#32 := by
  apply BitVec.eq_of_getLsbD_eq
  intro i hi
  simp only [BitVec.getLsbD_ushiftRight, BitVec.getLsbD_shiftLeft, BitVec.getLsbD_and, BitVec.getLsbD_or, getLsbD_low]
  by_cases h : i < 16
  · simp [h]; omega
  · simp [h]; intro _; omega

/-- A write of a writable operand is what it holds afterwards. -/
theorem kept_put_same (w : Weave) (o : Operand) (l : Nat) (v : Word) (h : o ≠ .p 0) : (w.put o l v).kept o l = keptForm o v := by
  cases o with
  | v i => exact Table.get_set_same ..
  | s i => exact Table.get_set_same ..
  | p i =>
    have hi : i.val ≠ 0 := fun hc => h (by congr 1; exact Fin.ext hc)
    have hl : ((w.put (.p i) l v).lane l).preds = setBit (w.lane l).preds i.val (v.getLsbD 0) := by
      show ((if i.val = 0 then w else w.modLane l _).lane l).preds = _
      rw [if_neg hi, lane_modLane, if_pos rfl]
    show (if ((w.put (.p i) l v).lane l).preds.getLsbD i.val then (1 : Word) else 0) = if i.val = 0 then 1 else _
    rw [hl, getLsbD_setBit _ _ _ _ i.isLt i.isLt, if_neg hi, if_pos rfl]
  | special k =>
    cases k with
    | sdlo => show ((w.modLane l _).lane l).gen &&& _ = _; rw [lane_modLane, if_pos rfl]; exact gen_lo_lo ..
    | sdhi => show ((w.modLane l _).lane l).gen >>> _ = _; rw [lane_modLane, if_pos rfl]; exact gen_hi_hi ..
    | mr => show ((w.modLane l _).lane l).mr = _; rw [lane_modLane, if_pos rfl]; rfl
    | faultPcLo => show loWord ((w.modLane l _).lane l).faultPc = _; rw [lane_modLane, if_pos rfl]; exact loWord_pair ..
    | faultPcHi => show hiWord ((w.modLane l _).lane l).faultPc = _; rw [lane_modLane, if_pos rfl]; exact hiWord_pair ..
    | _ => rfl
  | _ => rfl

/-- What a lane's own fields hold of a predicate or special. -/
def laneRead (o : Operand) (x : Lane) : Word :=
  match o with
  | .p i => if x.preds.getLsbD i.val then 1 else 0
  | .special .sdlo => x.gen &&& 0xFFFF#32
  | .special .sdhi => x.gen >>> 16
  | .special .mr => x.mr
  | .special .faultPcLo => loWord x.faultPc
  | .special .faultPcHi => hiWord x.faultPc
  | _ => 0

/-- A change of a lane that an operand does not show. -/
theorem kept_modLane (w : Weave) (l j : Nat) (f : Lane → Lane) (o : Operand) (h : ∀ x, laneRead o (f x) = laneRead o x) :
    (w.modLane l f).kept o j = w.kept o j := by
  have step : laneRead o ((w.modLane l f).lane j) = laneRead o (w.lane j) := by
    rw [lane_modLane]
    split
    · rename_i hx; subst hx; exact h _
    · rfl
  cases o with
  | p i => exact step
  | special k => cases k <;> first | exact step | rfl
  | _ => rfl

/-- A write leaves every other register as it was. -/
theorem kept_put_ne (w : Weave) (o o' : Operand) (l j : Nat) (v : Word) (hl : l < 32) (hj : j < 32) (h : o' ≠ o) :
    (w.put o l v).kept o' j = w.kept o' j := by
  cases o with
  | v i =>
    cases o' with
    | v i' =>
      have hi : i.val ≠ i'.val := fun hc => h (by congr 1; exact Fin.ext hc.symm)
      exact Table.get_set_ne _ _ _ (by omega)
    | special k' => cases k' <;> rfl
    | _ => rfl
  | s i =>
    cases o' with
    | s i' =>
      have hi : i.val ≠ i'.val := fun hc => h (by congr 1; exact Fin.ext hc.symm)
      exact Table.get_set_ne _ _ _ (fun hc => hi hc.symm)
    | special k' => cases k' <;> rfl
    | _ => rfl
  | p i =>
    show (if i.val = 0 then w else w.modLane l _).kept o' j = _
    by_cases h0 : i.val = 0
    · rw [if_pos h0]
    · rw [if_neg h0]
      apply kept_modLane
      intro x
      cases o' with
      | p i' =>
        have hi : i'.val ≠ i.val := fun hc => h (by congr 1; exact Fin.ext hc)
        show (if (setBit _ _ _).getLsbD _ then (1 : Word) else 0) = _
        rw [getLsbD_setBit _ _ _ _ i.isLt i'.isLt, if_neg hi]
        rfl
      | special k' => cases k' <;> rfl
      | _ => rfl
  | special k =>
    cases k with
    | sdlo =>
      refine kept_modLane _ _ _ _ _ fun x => ?_
      cases o' with
      | special k' => cases k' with
        | sdlo => exact absurd rfl h
        | sdhi => exact gen_lo_hi ..
        | _ => rfl
      | _ => rfl
    | sdhi =>
      refine kept_modLane _ _ _ _ _ fun x => ?_
      cases o' with
      | special k' => cases k' with
        | sdhi => exact absurd rfl h
        | sdlo => exact gen_hi_lo ..
        | _ => rfl
      | _ => rfl
    | mr =>
      refine kept_modLane _ _ _ _ _ fun x => ?_
      cases o' with
      | special k' => cases k' with
        | mr => exact absurd rfl h
        | _ => rfl
      | _ => rfl
    | faultPcLo =>
      refine kept_modLane _ _ _ _ _ fun x => ?_
      cases o' with
      | special k' => cases k' with
        | faultPcLo => exact absurd rfl h
        | faultPcHi => exact hiWord_pair ..
        | _ => rfl
      | _ => rfl
    | faultPcHi =>
      refine kept_modLane _ _ _ _ _ fun x => ?_
      cases o' with
      | special k' => cases k' with
        | faultPcHi => exact absurd rfl h
        | faultPcLo => exact loWord_pair ..
        | _ => rfl
      | _ => rfl
    | fpsw =>
      cases o' with
      | special k' => cases k' with
        | fpsw => exact absurd rfl h
        | _ => rfl
      | _ => rfl
    | _ => rfl
  | _ => rfl

/-- The frame of a write: pc, holds and everything but the destination stay. -/
theorem keeps_put (w : Weave) (k : Ctx) (o : Operand) (l : Nat) (v : Word) (hl : l < 32) : Weave.keeps w (w.put o l v) k [o] := by
  have lane (f : Lane → Lane) (hr : ∀ x, (f x).rest = x.rest) (hp : ∀ x, (f x).pc = x.pc) (hh : ∀ x, (f x).hold = x.hold) (j : Nat) :
      ((w.modLane l f).lane j).rest = (w.lane j).rest ∧ ((w.modLane l f).lane j).pc = (w.lane j).pc ∧
      ((w.modLane l f).lane j).hold = (w.lane j).hold := by
    rw [lane_modLane]
    split
    · rename_i h; subst h; exact ⟨hr _, hp _, hh _⟩
    · exact ⟨rfl, rfl, rfl⟩
  have all : (w.put o l v).rest = w.rest ∧ ∀ j, ((w.put o l v).lane j).rest = (w.lane j).rest ∧
      ((w.put o l v).lane j).pc = (w.lane j).pc ∧ ((w.put o l v).lane j).hold = (w.lane j).hold := by
    cases o with
    | p i =>
      show (if i.val = 0 then w else w.modLane l _).rest = _ ∧ ∀ j, ((if i.val = 0 then w else w.modLane l _).lane j).rest = _ ∧
        ((if i.val = 0 then w else w.modLane l _).lane j).pc = _ ∧ ((if i.val = 0 then w else w.modLane l _).lane j).hold = _
      split
      · exact ⟨rfl, fun _ => ⟨rfl, rfl, rfl⟩⟩
      · exact ⟨rfl, lane _ (fun _ => rfl) (fun _ => rfl) (fun _ => rfl)⟩
    | special k' =>
      cases k' with
      | sdlo | sdhi | mr | faultPcLo | faultPcHi => exact ⟨rfl, lane _ (fun _ => rfl) (fun _ => rfl) (fun _ => rfl)⟩
      | _ => exact ⟨rfl, fun _ => ⟨rfl, rfl, rfl⟩⟩
    | _ => exact ⟨rfl, fun _ => ⟨rfl, rfl, rfl⟩⟩
  exact ⟨all.1, fun o' j hj ho => kept_put_ne w o o' l j v hl hj (fun hc => ho (hc ▸ List.mem_singleton.2 rfl)),
    fun j => (all.2 j).1, fun j _ _ => (all.2 j).2⟩

theorem keeps_wr (w : Weave) (k : Ctx) (o : Operand) (l : Nat) (v : Word) (hl : l < 32) : Weave.keeps w (w.wr o l v) k [o] := by
  exact keeps_trans (keeps_trans (keeps_cancelPending w k o (laneKey o l) [o]) (keeps_put (w.cancelPending o (laneKey o l)) k o l v hl))
    (keeps_dropDst _ k o _)

theorem keeps_foldl_wr (k : Ctx) (o : Operand) (f : Nat → Word) (ls : List Nat) (hl : ∀ l ∈ ls, l < 32) (w : Weave) :
    Weave.keeps w (ls.foldl (fun w l => w.wr o l (f l)) w) k [o] := by
  induction ls generalizing w with
  | nil => exact keeps_refl ..
  | cons l ls ih =>
    exact keeps_trans (keeps_wr w k o l (f l) (hl l (List.mem_cons_self ..))) (ih (fun l h => hl l (List.mem_cons_of_mem _ h)) _)

/-- The frame of a masked write. -/
theorem keeps_wrMask (w : Weave) (k : Ctx) (o : Operand) (m : BitVec 32) (f : Nat → Word) : Weave.keeps w (w.wrMask o m f) k [o] := by
  unfold Weave.wrMask
  split
  · exact keeps_trans (keeps_foldl_wr k o f _ (fun l h => (mem_lanesOf.1 h).1) w) (keeps_dropDst ..)
  · split
    · exact keeps_refl ..
    · exact keeps_wr w k o 0 _ (by omega)

theorem kept_wr_same (w : Weave) (o : Operand) (l : Nat) (v : Word) (h : o ≠ .p 0) : (w.wr o l v).kept o l = keptForm o v := by
  rw [Weave.wr, kept_dropDst]
  exact kept_put_same _ _ l v h

/-- Two lanes' elements of one per-lane destination are apart. -/
theorem kept_wr_lane (w : Weave) (o : Operand) (l j : Nat) (v : Word) (_ : l < 32) (_ : j < 32) (hlj : j ≠ l) (ho : perLane o = true) :
    (w.wr o l v).kept o j = w.kept o j := by
  have hk := kept_cancelPending w o (laneKey o l) o j
  have lanes (x : Weave) (f : Lane → Lane) : (x.modLane l f).lane j = x.lane j := by rw [lane_modLane, if_neg hlj]
  have put (x : Weave) : (x.put o l v).kept o j = x.kept o j := by
    cases o with
    | v i => exact Table.get_set_ne _ _ _ (by omega)
    | p i =>
      show (if i.val = 0 then x else x.modLane l _).kept (.p i) j = _
      split
      · rfl
      · show (if ((x.modLane l _).lane j).preds.getLsbD i.val then (1 : Word) else 0) = _
        rw [lanes]; rfl
    | special k =>
      cases k with
      | sdlo => show ((x.modLane l _).lane j).gen &&& _ = _; rw [lanes]; rfl
      | sdhi => show ((x.modLane l _).lane j).gen >>> _ = _; rw [lanes]; rfl
      | mr => show ((x.modLane l _).lane j).mr = _; rw [lanes]; rfl
      | faultPcLo => show loWord ((x.modLane l _).lane j).faultPc = _; rw [lanes]; rfl
      | faultPcHi => show hiWord ((x.modLane l _).lane j).faultPc = _; rw [lanes]; rfl
      | _ => first | rfl | exact absurd ho (by decide)
    | _ => exact absurd ho (by simp [perLane])
  rw [Weave.wr, kept_dropDst]
  exact (put _).trans hk

theorem kept_foldl_wr (o : Operand) (f : Nat → Word) (ho : perLane o = true) (h0 : o ≠ .p 0) (ls : List Nat) (hn : ls.Nodup)
    (hl : ∀ l ∈ ls, l < 32) (w : Weave) (j : Nat) (hj : j < 32) :
    (ls.foldl (fun w l => w.wr o l (f l)) w).kept o j = if j ∈ ls then keptForm o (f j) else w.kept o j := by
  induction ls generalizing w with
  | nil => simp
  | cons l ls ih =>
    have hn' := List.nodup_cons.1 hn
    rw [List.foldl_cons, ih hn'.2 (fun l h => hl l (List.mem_cons_of_mem _ h))]
    by_cases h : j ∈ ls
    · simp [h]
    · by_cases hjl : j = l
      · subst hjl; simp [h, kept_wr_same _ _ _ _ h0]
      · simp [h, hjl, kept_wr_lane w o l j (f l) (hl l (List.mem_cons_self ..)) hj hjl ho]

/-- A masked write is what the destination holds afterwards. -/
theorem took_wrMask (w : Weave) (o : Operand) (m : BitVec 32) (f : Nat → Word) (h0 : o ≠ .p 0) : (w.wrMask o m f).took o m f := by
  unfold Weave.took Weave.wrMask
  split
  · rename_i ho
    intro l hl hm
    rw [kept_dropDst, kept_foldl_wr o f ho h0 _ (nodup_lanesOf m) (fun l h => (mem_lanesOf.1 h).1) w l hl, if_pos (mem_lanesOf.2 ⟨hl, hm⟩)]
  · rename_i ho
    intro hm
    have hne : lanesOf m ≠ [] := fun h => hm (lanesOf_eq_nil.1 h)
    cases hm' : lanesOf m with
    | nil => exact absurd hm' hne
    | cons l ls =>
      have : lowest m = l := by simp [lowest, hm']
      rw [this]
      exact kept_wr_same _ _ _ _ h0

/-- Where a lane stands. -/
def Lane.stand (x : Lane) : Dbl × Bool × Option Hold := (x.pc, x.hdr, x.hold)

/-- A write moves no lane. -/
theorem stand_put (w : Weave) (o : Operand) (l : Nat) (v : Word) (j : Nat) : ((w.put o l v).lane j).stand = (w.lane j).stand := by
  have lane (f : Lane → Lane) (h : ∀ x, (f x).stand = x.stand) : ((w.modLane l f).lane j).stand = (w.lane j).stand := by
    rw [lane_modLane]
    split
    · rename_i hx; subst hx; exact h _
    · rfl
  cases o with
  | p i =>
    show ((if i.val = 0 then w else w.modLane l _).lane j).stand = _
    split
    · rfl
    · exact lane _ fun _ => rfl
  | special k' =>
    cases k' with
    | sdlo | sdhi | mr | faultPcLo | faultPcHi => exact lane _ fun _ => rfl
    | _ => rfl
  | _ => rfl

theorem stand_wr (w : Weave) (o : Operand) (l : Nat) (v : Word) (j : Nat) : ((w.wr o l v).lane j).stand = (w.lane j).stand := by
  have hc : ((w.cancelPending o (laneKey o l)).lane j).stand = (w.lane j).stand := by
    unfold Weave.cancelPending Weave.cancelWrites
    split <;> rfl
  rw [Weave.wr, lane_dropDst]
  exact (stand_put _ _ l v j).trans hc

theorem stand_foldl_wr (o : Operand) (f : Nat → Word) (ls : List Nat) (w : Weave) (j : Nat) :
    ((ls.foldl (fun w l => w.wr o l (f l)) w).lane j).stand = (w.lane j).stand := by
  induction ls generalizing w with
  | nil => rfl
  | cons l ls ih => rw [List.foldl_cons, ih, stand_wr]

theorem stand_wrMask (w : Weave) (o : Operand) (m : BitVec 32) (f : Nat → Word) (j : Nat) :
    ((w.wrMask o m f).lane j).stand = (w.lane j).stand := by
  unfold Weave.wrMask
  split
  · rw [lane_dropDst]; exact stand_foldl_wr ..
  · split
    · rfl
    · exact stand_wr ..

/-! ### What issuing a word does to its weave -/

/-- Queue masks, high words and latches are not among what registers, lanes and the frame show. -/
theorem keeps_join (w : Weave) (k : Ctx) (m : BitVec 32) (ds : List Operand) : Weave.keeps w (w.join m) k ds := by
  refine keeps_of_eq k ds ?_ rfl rfl rfl rfl
  show ({ (w.join m) with vregs := _, sregs := _, lanes := _, fpsw := _, hold := _, reuse := _, ll := _, clkHi := _, stepHi := _, sq := _ } : Weave) = _
  have : ((w.join m).sq.map fun e => { e with mask := 0 }) = w.sq.map fun e => { e with mask := 0 } := by
    simp only [Weave.join, List.map_map]
    apply List.map_congr_left
    intro e _
    simp only [Function.comp]
    split <;> rfl
  rw [this]
  rfl

theorem keeps_latchHigh (w : Weave) (k : Ctx) (e : Env) (os ds : List Operand) : Weave.keeps w (w.latchHigh e os) k ds := by
  unfold Weave.latchHigh
  split <;> split <;> exact keeps_of_eq k ds rfl rfl rfl rfl rfl

theorem keeps_latch (w : Weave) (k : Ctx) (i : Nat) (vs : List Word) (ds : List Operand) : Weave.keeps w (w.latch i vs) k ds :=
  keeps_of_eq k ds rfl rfl rfl rfl rfl

theorem keeps_foldl_latch (k : Ctx) (ds : List Operand) (f : Nat → List Word) (is : List Nat) (w : Weave) :
    Weave.keeps w (is.foldl (fun w i => w.latch i (f i)) w) k ds := by
  induction is generalizing w with
  | nil => exact keeps_refl ..
  | cons i is ih => exact keeps_trans (keeps_latch w k i _ ds) (ih _)

theorem lanes_foldl_latch (f : Nat → List Word) (is : List Nat) (w : Weave) :
    (is.foldl (fun w i => w.latch i (f i)) w).lanes = w.lanes := by
  induction is generalizing w with
  | nil => rfl
  | cons i is ih => rw [List.foldl_cons, ih]; rfl

end Sys2Proof.Machine
end

