-- ==== Sys2Proof/Laws/Issue.lean ====
section
/-! SUPPORT. Words: what a word in hand answers, and the frames of what issuing a word and going on do. -/

namespace Sys2Proof.Machine

open Sys2Proof

/-! ### A word in hand answers its effect -/

theorem weave_isSome {s : State} {k : Ctx} (h : s.inHand k) : (s.weaves.find k.wk).isSome = true := by
  obtain ⟨i, _, hw, rfl⟩ := h
  exact hw

/-- A word that only weaves run. -/
theorem weaveOnly_eq {s : State} {k : Ctx} (h : s.inHand k) (f : Ctx → State) : weaveOnly s f = .next (f k) := by
  obtain ⟨i, hc, hw, rfl⟩ := h
  obtain ⟨w, hw⟩ := Option.isSome_iff_exists.1 hw
  simp only [weaveOnly, hc, onWeave, hw]

theorem onWeave_eq {s : State} {k : Ctx} (h : s.inHand k) (f : Ctx → State) : onWeave s f = .next (f k) := by
  obtain ⟨i, hc, hw, rfl⟩ := h
  obtain ⟨w, hw⟩ := Option.isSome_iff_exists.1 hw
  simp only [onWeave, hc, hw]

/-- When the checks of R86 pass, the word has its own effect on the state as it begins. -/
theorem runWord_of_passes {s : State} {c : Ctx} {k : Gate} (h : s.passes c k = true) (eff : Env → BitVec 32 → State → State) :
    s.runWord c k eff = eff (s.env c (s.acting c k)) (s.acting c k) (s.begun c k (s.env c (s.acting c k)) (s.acting c k)) := by
  simp only [State.passes, Bool.and_eq_true, Bool.not_eq_true', Bool.or_eq_true] at h
  obtain ⟨⟨⟨⟨⟨h1, h2⟩, h3⟩, h4⟩, h5⟩, h6⟩ := h
  have hp : (k.engine == .mx && !s.portFree c.core c.launch) = false := by
    rcases h5 with h5 | h5
    · rw [bne_iff_ne, ne_eq] at h5; simp [h5]
    · simp [h5]
  unfold State.runWord
  simp only [h1, h2, h3, h4, hp, Bool.not_true, Bool.false_eq_true, if_false]
  by_cases ha : s.acting c k = 0
  · simp only [ha, if_true, ne_eq, not_true, false_and, if_false]
  · have h6 := h6.resolve_left (by simpa using ha)
    have hn := Option.isNone_iff_eq_none.1 h6.1
    simp only [ha, if_false, hn, ne_eq, not_false_eq_true, true_and]
    rw [if_neg]
    intro hc
    have := h6.2
    rw [hc.1, hc.2] at this
    exact absurd this (by decide)

/-- The same, for a word that only weaves run, from an issue. -/
theorem weaveOnly_runWord {s : State} {k : Ctx} {g : Ctx → Gate} (h : s.inHand k) (hp : s.passes k (g k) = true)
    (eff : Ctx → Env → BitVec 32 → State → State) :
    weaveOnly s (fun k => s.runWord k (g k) (eff k)) =
      .next (eff k (s.issueOf k (g k)).e (s.issueOf k (g k)).act (s.issueOf k (g k)).b) := by
  rw [weaveOnly_eq h, runWord_of_passes hp]
  rfl

/-! ### The state's weaves -/

theorem weave_modWeave {s : State} {wk : Nat} (h : (s.weaves.find wk).isSome = true) (f : Weave → Weave) :
    (s.modWeave wk f).weave wk = f (s.weave wk) := by
  obtain ⟨w, hw⟩ := Option.isSome_iff_exists.1 h
  rw [State.weave, State.modWeave, Table.get_modify_same hw, State.weave, Table.get_of_find hw]

theorem isSome_modWeave {s : State} {wk : Nat} (h : (s.weaves.find wk).isSome = true) (f : Weave → Weave) (j : Nat) :
    ((s.modWeave j f).weaves.find wk).isSome = true := by
  rw [State.modWeave, Table.find_modify]
  split
  · obtain ⟨w, hw⟩ := Option.isSome_iff_exists.1 h
    rename_i hj; subst hj; simp [hw]
  · exact h

/-! ### Frames of the state -/

/-- What `State.frame` says, from the weave as it is and not as its clause has started. -/
def State.stays (s t : State) (k : Ctx) (ds : List Operand) : Prop :=
  ({ t with weaves := s.weaves, free := s.free, cores := s.cores } : State) = s ∧
  (∀ j, j ≠ k.wk → t.weaves.find j = s.weaves.find j) ∧
  (∀ a, Table.get 0 t.mem a = Table.get 0 s.mem a) ∧
  Weave.keeps (s.weave k.wk) (t.weave k.wk) k ds

theorem stays_refl (s : State) (k : Ctx) (ds : List Operand) : s.stays s k ds :=
  ⟨rfl, fun _ _ => rfl, fun _ => rfl, keeps_refl ..⟩

theorem stays_trans {s t u : State} {k : Ctx} {ds : List Operand} (h1 : s.stays t k ds) (h2 : t.stays u k ds) : s.stays u k ds := by
  refine ⟨?_, fun j hj => (h2.2.1 j hj).trans (h1.2.1 j hj), fun a => (h2.2.2.1 a).trans (h1.2.2.1 a), keeps_trans h1.2.2.2 h2.2.2.2⟩
  have h := congrArg (fun x : State => ({ x with weaves := s.weaves, free := s.free, cores := s.cores } : State)) h2.1
  exact h.trans h1.1

theorem stays_mono {s t : State} {k : Ctx} {ds es : List Operand} (h : s.stays t k ds) (hs : ∀ o, o ∈ ds → o ∈ es) : s.stays t k es :=
  ⟨h.1, h.2.1, h.2.2.1, keeps_mono h.2.2.2 hs⟩

theorem isSome_starts {s : State} {k : Ctx} {wk : Nat} (h : (s.weaves.find wk).isSome = true) : ((s.starts k).weaves.find wk).isSome = true := by
  unfold State.starts
  split
  · exact isSome_modWeave h _ _
  · exact h

/-- What holds from the started clause on is the word's frame. -/
theorem frame_of_starts {s t : State} {k : Ctx} {ds : List Operand} (h : (s.starts k).stays t k ds) : s.frame t k ds := by
  have hs : ({ s.starts k with weaves := s.weaves } : State) = s := by unfold State.starts; split <;> rfl
  have ho : ∀ j, j ≠ k.wk → (s.starts k).weaves.find j = s.weaves.find j := by
    intro j hj
    unfold State.starts
    split
    · rw [State.modWeave, Table.find_modify, if_neg hj]
    · rfl
  have hm : (s.starts k).mem = s.mem := by unfold State.starts; split <;> rfl
  refine ⟨?_, fun j hj => (h.2.1 j hj).trans (ho j hj), fun a => (h.2.2.1 a).trans (by rw [hm]), h.2.2.2⟩
  have h1 := congrArg (fun x : State => ({ x with weaves := s.weaves, free := s.free, cores := s.cores } : State)) h.1
  refine (h1.trans (congrArg (fun x : State => ({ x with free := s.free, cores := s.cores } : State)) hs))

theorem stays_modWeave {s : State} {k : Ctx} {ds : List Operand} (hw : (s.weaves.find k.wk).isSome = true) (f : Weave → Weave)
    (h : Weave.keeps (s.weave k.wk) (f (s.weave k.wk)) k ds) : s.stays (s.modWeave k.wk f) k ds := by
  refine ⟨rfl, fun j hj => ?_, fun _ => rfl, by rw [weave_modWeave hw]; exact h⟩
  rw [State.modWeave, Table.find_modify, if_neg hj]

/-- Going on past the word, for lanes of its set. -/
theorem stays_advance {s : State} {k : Ctx} {ds : List Operand} (hw : (s.weaves.find k.wk).isSome = true) (m : BitVec 32)
    (hm : ∀ l, l < 32 → m.getLsbD l = true → k.lanes.getLsbD l = true) : s.stays (s.advance k m) k ds := by
  apply stays_modWeave hw
  cases k.last
  · exact keeps_goto _ k m hm _ _ ds
  · exact keeps_goto _ k m hm _ _ ds

theorem isSome_advance {s : State} {k : Ctx} (hw : (s.weaves.find k.wk).isSome = true) (m : BitVec 32) :
    ((s.advance k m).weaves.find k.wk).isSome = true := isSome_modWeave hw _ _

theorem past_advance {s : State} {k : Ctx} (hw : (s.weaves.find k.wk).isSome = true) (m : BitVec 32) : (s.advance k m).past k m := by
  intro l hl hm
  rw [State.advance, weave_modWeave hw, lane_modLanes, if_pos ⟨hl, hm⟩]
  cases k.last <;> exact ⟨rfl, rfl, rfl⟩

/-! ### What issuing a word does -/

/-- The state before the port's cycle is taken and before a handle's read makes the word an acquire. -/
def State.begunPlain (s : State) (c : Ctx) (k : Gate) (e : Env) (act : BitVec 32) : State :=
  let t := ((s.starts c).advance c (c.lanes &&& ~~~act)).modWeave c.wk (Weave.issued c k e act)
  { t with free := t.free + wordFree }

/-- The same once the port's cycle is taken. -/
def State.begunPort (s : State) (c : Ctx) (k : Gate) (e : Env) (act : BitVec 32) : State :=
  if k.engine == .mx then (s.begunPlain c k e act).takeTurn c.core 0 c.launch else s.begunPlain c k e act

theorem begun_eq (s : State) (c : Ctx) (k : Gate) (e : Env) (act : BitVec 32) : s.begun c k e act =
    if act != 0 && k.srcs.any isH then ((s.begunPort c k e act).modWeave c.wk (·.dropLatches)).acquire c.core c.part
    else s.begunPort c k e act := rfl

theorem weave_begunPort (s : State) (c : Ctx) (k : Gate) (e : Env) (act : BitVec 32) (wk : Nat) :
    (s.begunPort c k e act).weave wk = (((s.starts c).advance c (c.lanes &&& ~~~act)).modWeave c.wk (Weave.issued c k e act)).weave wk := by
  unfold State.begunPort
  split <;> rfl

theorem isSome_begunPort {s : State} {c : Ctx} (hw : (s.weaves.find c.wk).isSome = true) (k : Gate) (e : Env) (act : BitVec 32) :
    ((s.begunPort c k e act).weaves.find c.wk).isSome = true := by
  have h := isSome_modWeave (isSome_modWeave (isSome_starts (k := c) hw) (fun w => w.modLanes (c.lanes &&& ~~~act) fun l =>
    if c.last then l.goto c.next true else l.goto (c.pc + 8) false) c.wk) (Weave.issued c k e act) c.wk
  unfold State.begunPort
  split <;> exact h

theorem keeps_foldl_latches (c : Ctx) (ds : List Operand) (f : Nat × Nat → List Word) (is : List (Nat × Nat)) (w : Weave) :
    Weave.keeps w (is.foldl (fun w i => w.latch i.2 (f i)) w) c ds := by
  induction is generalizing w with
  | nil => exact keeps_refl ..
  | cons i is ih => exact keeps_trans (keeps_latch w c i.2 _ ds) (ih _)

theorem keeps_foldl_dropLatch (c : Ctx) (ds : List Operand) (is : List Nat) (w : Weave) :
    Weave.keeps w (is.foldl Weave.dropLatch w) c ds := by
  induction is generalizing w with
  | nil => exact keeps_refl ..
  | cons i is ih => exact keeps_trans (keeps_dropLatch w c i ds) (ih _)

theorem lanes_foldl_latches (f : Nat × Nat → List Word) (is : List (Nat × Nat)) (w : Weave) :
    (is.foldl (fun w i => w.latch i.2 (f i)) w).lanes = w.lanes := by
  induction is generalizing w with
  | nil => rfl
  | cons i is ih => rw [List.foldl_cons, ih]; rfl

theorem lanes_foldl_dropLatch (is : List Nat) (w : Weave) : (is.foldl Weave.dropLatch w).lanes = w.lanes := by
  induction is generalizing w with
  | nil => rfl
  | cons i is ih => rw [List.foldl_cons, ih]; rfl

theorem keeps_issued (c : Ctx) (k : Gate) (e : Env) (act : BitVec 32) (w : Weave) (ds : List Operand) :
    Weave.keeps w (Weave.issued c k e act w) c ds := by
  unfold Weave.issued
  generalize (if act = 0 then ([] : List Operand) else k.srcs) = os
  have h1 := keeps_trans (keeps_join w c c.lanes ds) (keeps_latchHigh (w.join c.lanes) c e os ds)
  have h2 : Weave.keeps w (if k.regs.isEmpty then (w.join c.lanes).latchHigh e os
      else ((w.join c.lanes).latchHigh e os).useLatches k.regs) c ds := by
    split
    · exact h1
    · exact keeps_trans h1 (keeps_of_eq c ds rfl rfl rfl rfl rfl)
  have h3 := keeps_trans h2 (keeps_foldl_latches c ds (fun i => (List.range 32).map fun l => e.readV i.1 i.2 l (Fin.ofNat 320 i.2)) k.holds _)
  dsimp only
  by_cases ha : act = 0
  · rw [if_pos ha]; exact keeps_trans h3 (keeps_foldl_dropLatch ..)
  · rw [if_neg ha]; exact h3

theorem lanes_latchHigh (w : Weave) (e : Env) (os : List Operand) : (w.latchHigh e os).lanes = w.lanes := by
  unfold Weave.latchHigh
  split <;> split <;> rfl

theorem lanes_issued (c : Ctx) (k : Gate) (e : Env) (act : BitVec 32) (w : Weave) : (Weave.issued c k e act w).lanes = w.lanes := by
  unfold Weave.issued
  generalize (if act = 0 then ([] : List Operand) else k.srcs) = os
  have h1 : ((w.join c.lanes).latchHigh e os).lanes = w.lanes := lanes_latchHigh (w.join c.lanes) e _
  have h2 : (if k.regs.isEmpty then (w.join c.lanes).latchHigh e os
      else ((w.join c.lanes).latchHigh e os).useLatches k.regs).lanes = w.lanes := by
    split <;> exact h1
  dsimp only
  by_cases ha : act = 0
  · rw [if_pos ha, lanes_foldl_dropLatch, lanes_foldl_latches]; exact h2
  · rw [if_neg ha, lanes_foldl_latches]; exact h2

theorem isSome_begun {s : State} {c : Ctx} (hw : (s.weaves.find c.wk).isSome = true) (k : Gate) (e : Env) (act : BitVec 32) :
    ((s.begun c k e act).weaves.find c.wk).isSome = true := by
  rw [begun_eq]
  split
  · exact isSome_modWeave (isSome_begunPort hw k e act) _ _
  · exact isSome_begunPort hw k e act

/-- Issuing a word keeps every register and all memory, once its clause has started. -/
theorem stays_begun {s : State} {c : Ctx} (hw : (s.weaves.find c.wk).isSome = true) (k : Gate) (e : Env) (act : BitVec 32)
    (ds : List Operand) : (s.starts c).stays (s.begun c k e act) c ds := by
  have hm : ∀ l, l < 32 → (c.lanes &&& ~~~act).getLsbD l = true → c.lanes.getLsbD l = true := by
    intro l _ h
    rw [BitVec.getLsbD_and, Bool.and_eq_true] at h
    exact h.1
  have hw' := isSome_starts (k := c) hw
  have h1 := stays_advance (ds := ds) hw' (c.lanes &&& ~~~act) hm
  have h2 := stays_modWeave (ds := ds) (isSome_advance hw' (c.lanes &&& ~~~act)) (Weave.issued c k e act) (keeps_issued c k e act _ ds)
  have h3 := stays_trans h1 h2
  have h4 : (s.starts c).stays (s.begunPlain c k e act) c ds := ⟨h3.1, h3.2.1, h3.2.2.1, h3.2.2.2⟩
  have h5 : (s.starts c).stays (s.begunPort c k e act) c ds := by
    unfold State.begunPort
    split
    · exact ⟨h4.1, h4.2.1, h4.2.2.1, h4.2.2.2⟩
    · exact h4
  rw [begun_eq]
  split
  · refine stays_trans h5 ?_
    have h6 := stays_modWeave (ds := ds) (isSome_begunPort hw k e act) (·.dropLatches) (keeps_of_eq c ds rfl rfl rfl rfl rfl)
    exact ⟨h6.1, h6.2.1, h6.2.2.1, h6.2.2.2⟩
  · exact h5

theorem lanes_begun {s : State} {c : Ctx} (hw : (s.weaves.find c.wk).isSome = true) (k : Gate) (e : Env) (act : BitVec 32) :
    ((s.begun c k e act).weave c.wk).lanes = (((s.starts c).advance c (c.lanes &&& ~~~act)).weave c.wk).lanes := by
  have h3 : ((s.begunPort c k e act).weave c.wk).lanes = (((s.starts c).advance c (c.lanes &&& ~~~act)).weave c.wk).lanes := by
    rw [weave_begunPort, weave_modWeave (isSome_advance (isSome_starts hw) _), lanes_issued]
  rw [begun_eq]
  split
  · show (((s.begunPort c k e act).modWeave c.wk _).weave c.wk).lanes = _
    rw [weave_modWeave (isSome_begunPort hw k e act)]
    exact h3
  · exact h3

/-- After issuing, the lanes of the set stand as they stood, but those whose predicate fails stand past the word. -/
theorem stand_begun {s : State} {c : Ctx} (hw : (s.weaves.find c.wk).isSome = true) (k : Gate) (e : Env) (act : BitVec 32) (l : Nat)
    (hl : l < 32) (hc : c.lanes.getLsbD l = true) (ha : act.getLsbD l = false) :
    (((s.begun c k e act).weave c.wk).lane l).stand = (if c.last then (c.next, true, none) else (c.pc + 8, false, none)) := by
  have hm : (c.lanes &&& ~~~act).getLsbD l = true := by
    rw [BitVec.getLsbD_and, BitVec.getLsbD_not, hc, ha]
    simp [hl]
  obtain ⟨a, b, d⟩ := past_advance (isSome_starts (k := c) hw) (c.lanes &&& ~~~act) l hl hm
  show Lane.stand (Table.get {} _ l) = _
  rw [lanes_begun hw]
  show Lane.stand ((((s.starts c).advance c (c.lanes &&& ~~~act)).weave c.wk).lane l) = _
  unfold Lane.stand
  rw [a, b, d]
  cases c.last <;> rfl

theorem acting_lanes {s : State} {k : Ctx} {g : Gate} {l : Nat} (hl : l < 32) (h : (s.acting k g).getLsbD l = true) :
    k.lanes.getLsbD l = true := lanes_of_active hl h

/-- A word that changes its weave by `f`, keeping where lanes stand, and lets the lanes go on. -/
theorem frame_effect {s : State} {k : Ctx} (h : s.inHand k) (g : Gate) (f : Weave → Weave) (ds : List Operand)
    (hk : ∀ w, Weave.keeps w (f w) k ds) (hs : ∀ w j, ((f w).lane j).stand = (w.lane j).stand) :
    ((((s.issueOf k g).b.modWeave k.wk f).advance k (s.issueOf k g).act)).past k k.lanes ∧
    s.frame (((s.issueOf k g).b.modWeave k.wk f).advance k (s.issueOf k g).act) k ds := by
  have hw := weave_isSome h
  have hb : ((s.issueOf k g).b.weaves.find k.wk).isSome = true := isSome_begun hw g (s.issueOf k g).e (s.issueOf k g).act
  have hm := isSome_modWeave hb f k.wk
  constructor
  · intro l hl hc
    by_cases ha : (s.acting k g).getLsbD l = true
    · exact past_advance hm _ l hl ha
    · have hst : (((((s.issueOf k g).b.modWeave k.wk f).advance k (s.issueOf k g).act).weave k.wk).lane l).stand =
          (if k.last then (k.next, true, none) else (k.pc + 8, false, none)) := by
        rw [State.advance, weave_modWeave hm, lane_modLanes, if_neg (fun h => ha h.2), weave_modWeave hb, hs]
        exact stand_begun hw g _ _ l hl hc (by simpa using ha)
      unfold Lane.stand at hst
      cases hk' : k.last <;> simp only [hk', if_true, Bool.false_eq_true, if_false, Prod.mk.injEq] at hst <;>
        simpa using hst
  · exact frame_of_starts (stays_trans (stays_trans (stays_begun hw g _ _ ds) (stays_modWeave hb f (hk _)))
      (stays_advance hm _ fun l hl h => acting_lanes hl h))

/-- A masked write and going on is what `Issue.writes` says. -/
theorem writes_wrMask {s : State} {k : Ctx} (h : s.inHand k) (g : Gate) (o : Operand) (f : Nat → Word) (h0 : o ≠ .p 0) :
    (s.issueOf k g).writes (((s.issueOf k g).b.modWeave k.wk fun w => w.wrMask o (s.issueOf k g).act f).advance k (s.issueOf k g).act) o f := by
  have hw := weave_isSome h
  have hb : ((s.issueOf k g).b.weaves.find k.wk).isSome = true := isSome_begun hw g (s.issueOf k g).e (s.issueOf k g).act
  obtain ⟨hp, hf⟩ := frame_effect h g (fun w => w.wrMask o (s.issueOf k g).act f) [o] (fun w => keeps_wrMask w k o _ f)
    (fun w j => stand_wrMask w o _ f j)
  refine ⟨?_, hp, hf⟩
  have ht := took_wrMask ((s.issueOf k g).b.weave k.wk) o (s.issueOf k g).act f h0
  have hl : ∀ l, (((((s.issueOf k g).b.modWeave k.wk fun w => w.wrMask o (s.issueOf k g).act f).advance k (s.issueOf k g).act)).weave k.wk).kept o l =
      (((s.issueOf k g).b.weave k.wk).wrMask o (s.issueOf k g).act f).kept o l := by
    intro l
    rw [State.advance, weave_modWeave (isSome_modWeave hb _ _), weave_modWeave hb]
    apply modLanes_kept <;> intro x <;> cases k.last <;> rfl
  unfold Weave.took at ht ⊢
  split
  · rename_i ho
    rw [if_pos ho] at ht
    intro l h1 h2
    exact (hl l).trans (ht l h1 h2)
  · rename_i ho
    rw [if_neg ho] at ht
    intro hne
    exact (hl 0).trans (ht hne)

end Sys2Proof.Machine
end

