-- ==== Sys2Proof/Laws/Memory.lean ====
section
/-! SUPPORT. Memory: what a read after a write gives, and that every memory operation keeps the canonical form. -/

namespace Sys2Proof.Machine

open Sys2Proof

/-- The bytes written read back, and every other address reads as before. -/
theorem get_memWrite (m : List Host.Cell) (a : Nat) (bs : List Byte) (x : Nat) :
    Table.get 0 (memWrite m a bs) x = if a ≤ x ∧ x < a + bs.length then bs.getD (x - a) 0 else Table.get 0 m x := by
  induction bs generalizing m a with
  | nil => simp [memWrite]
  | cons b bs ih =>
    simp only [memWrite, ih, List.length_cons]
    by_cases h : a + 1 ≤ x ∧ x < a + 1 + bs.length
    · have h2 : a ≤ x ∧ x < a + (bs.length + 1) := by omega
      have h3 : x - a = (x - (a + 1)) + 1 := by omega
      simp [h, h2, h3]
    · simp only [h, if_false]
      by_cases hx : x = a
      · subst hx
        simp
      · have h2 : ¬ (a ≤ x ∧ x < a + (bs.length + 1)) := by omega
        simp [h2, Table.get_set_ne _ _ _ hx]

/-- Outside the bytes written a read gives what it gave before. -/
theorem get_memWrite_outside {m : List Host.Cell} {a x : Nat} {bs : List Byte} (h : ¬ (a ≤ x ∧ x < a + bs.length)) :
    Table.get 0 (memWrite m a bs) x = Table.get 0 m x := by
  rw [get_memWrite, if_neg h]

/-- A run of bytes reads as its bytes. -/
theorem memRead_eq (m : List Host.Cell) (a n : Nat) : memRead m a n = (List.range n).map fun i => Table.get 0 m (a + i) := by
  induction n generalizing a with
  | zero => rfl
  | succ n ih =>
    simp only [memRead, ih, List.range_succ_eq_map, List.map_cons, List.map_map, Nat.add_zero, List.cons.injEq, true_and]
    apply List.map_congr_left
    intro i _
    show Table.get 0 m (a + 1 + i) = Table.get 0 m (a + (i + 1))
    congr 1
    omega

@[simp] theorem memRead_length (m : List Host.Cell) (a n : Nat) : (memRead m a n).length = n := by
  simp [memRead_eq]

/-- What has been written reads back. -/
theorem memRead_memWrite (m : List Host.Cell) (a : Nat) (bs : List Byte) : memRead (memWrite m a bs) a bs.length = bs := by
  rw [memRead_eq]
  apply List.ext_getElem
  · simp
  · intro i h1 h2
    rw [List.getElem_map, List.getElem_range, get_memWrite, if_pos (by omega)]
    simp [h2]

/-- A write keeps the canonical form. -/
theorem wf_memWrite {m : List Host.Cell} (a : Nat) (bs : List Byte) (h : Memory.wf m = true) : Memory.wf (memWrite m a bs) = true := by
  induction bs generalizing m a with
  | nil => exact h
  | cons b bs ih => exact ih (a + 1) (Table.wf_set a b h)

/-- A fold of writes keeps the canonical form. -/
theorem wf_foldl_memWrite {α : Type} {m : List Host.Cell} (f : α → Nat) (g : α → List Byte) (xs : List α) (h : Memory.wf m = true) :
    Memory.wf (xs.foldl (fun m x => memWrite m (f x) (g x)) m) = true := by
  induction xs generalizing m with
  | nil => exact h
  | cons x xs ih => exact ih (wf_memWrite _ _ h)

/-- A fold of single-byte writes keeps the canonical form. -/
theorem wf_foldl_set {m : List Host.Cell} (xs : List (Nat × Byte)) (h : Memory.wf m = true) :
    Memory.wf (xs.foldl (fun m b => Table.set 0 m b.1 b.2) m) = true := by
  induction xs generalizing m with
  | nil => exact h
  | cons x xs ih => exact ih (Table.wf_set _ _ h)

/-- The bytes of a value. -/
@[simp] theorem bytesOf_length (n v : Nat) : (bytesOf n v).length = n := by
  induction n generalizing v with
  | zero => rfl
  | succ n ih => simp [bytesOf, ih]

/-- The value of the bytes of a value, within their number. -/
theorem leNat_bytesOf (n v : Nat) : leNat (bytesOf n v) = v % 256 ^ n := by
  induction n generalizing v with
  | zero => simp [bytesOf, leNat, Nat.mod_one]
  | succ n ih =>
    simp only [bytesOf, leNat, ih, BitVec.toNat_ofNat]
    rw [show (2 : Nat) ^ 8 = 256 from rfl, Nat.pow_succ, Nat.mul_comm (256 ^ n) 256, Nat.mod_mul]

/-- A qword written reads back. -/
theorem memQword_memWrite (m : List Host.Cell) (a v : Nat) : memQword (memWrite m a (bytesOf 8 v)) a = v % 2 ^ 64 := by
  have h := memRead_memWrite m a (bytesOf 8 v)
  rw [bytesOf_length] at h
  rw [memQword, h, leNat_bytesOf]
  rfl

end Sys2Proof.Machine
end

