-- ==== Sys2Proof/Laws/State.lean ====
section
/-! SUPPORT. What each named update of `State` leaves as it was, field by field, and what it writes. -/

namespace Sys2Proof.Machine

open Sys2Proof

/-! ### modWeave -/

@[simp] theorem clk_modWeave (s : State) (wk : Nat) (f : Weave → Weave) : (s.modWeave wk f).clk = s.clk := rfl
@[simp] theorem us_modWeave (s : State) (wk : Nat) (f : Weave → Weave) : (s.modWeave wk f).us = s.us := rfl
@[simp] theorem mem_modWeave (s : State) (wk : Nat) (f : Weave → Weave) : (s.modWeave wk f).mem = s.mem := rfl
@[simp] theorem poison_modWeave (s : State) (wk : Nat) (f : Weave → Weave) : (s.modWeave wk f).poison = s.poison := rfl
@[simp] theorem hostMem_modWeave (s : State) (wk : Nat) (f : Weave → Weave) : (s.modWeave wk f).hostMem = s.hostMem := rfl
@[simp] theorem parts_modWeave (s : State) (wk : Nat) (f : Weave → Weave) : (s.modWeave wk f).parts = s.parts := rfl
@[simp] theorem acc_modWeave (s : State) (wk : Nat) (f : Weave → Weave) : (s.modWeave wk f).acc = s.acc := rfl
@[simp] theorem plmap_modWeave (s : State) (wk : Nat) (f : Weave → Weave) : (s.modWeave wk f).plmap = s.plmap := rfl
@[simp] theorem tlb_modWeave (s : State) (wk : Nat) (f : Weave → Weave) : (s.modWeave wk f).tlb = s.tlb := rfl
@[simp] theorem tickets_modWeave (s : State) (wk : Nat) (f : Weave → Weave) : (s.modWeave wk f).tickets = s.tickets := rfl
@[simp] theorem nextTicket_modWeave (s : State) (wk : Nat) (f : Weave → Weave) : (s.modWeave wk f).nextTicket = s.nextTicket := rfl
@[simp] theorem cores_modWeave (s : State) (wk : Nat) (f : Weave → Weave) : (s.modWeave wk f).cores = s.cores := rfl
@[simp] theorem slices_modWeave (s : State) (wk : Nat) (f : Weave → Weave) : (s.modWeave wk f).slices = s.slices := rfl
@[simp] theorem gangs_modWeave (s : State) (wk : Nat) (f : Weave → Weave) : (s.modWeave wk f).gangs = s.gangs := rfl
@[simp] theorem cohorts_modWeave (s : State) (wk : Nat) (f : Weave → Weave) : (s.modWeave wk f).cohorts = s.cohorts := rfl
@[simp] theorem launches_modWeave (s : State) (wk : Nat) (f : Weave → Weave) : (s.modWeave wk f).launches = s.launches := rfl
@[simp] theorem ops_modWeave (s : State) (wk : Nat) (f : Weave → Weave) : (s.modWeave wk f).ops = s.ops := rfl
@[simp] theorem bonds_modWeave (s : State) (wk : Nat) (f : Weave → Weave) : (s.modWeave wk f).bonds = s.bonds := rfl
@[simp] theorem nextKey_modWeave (s : State) (wk : Nat) (f : Weave → Weave) : (s.modWeave wk f).nextKey = s.nextKey := rfl
@[simp] theorem slots_modWeave (s : State) (wk : Nat) (f : Weave → Weave) : (s.modWeave wk f).slots = s.slots := rfl
@[simp] theorem pendingOrder_modWeave (s : State) (wk : Nat) (f : Weave → Weave) : (s.modWeave wk f).pendingOrder = s.pendingOrder := rfl
@[simp] theorem watches_modWeave (s : State) (wk : Nat) (f : Weave → Weave) : (s.modWeave wk f).watches = s.watches := rfl
@[simp] theorem deps_modWeave (s : State) (wk : Nat) (f : Weave → Weave) : (s.modWeave wk f).deps = s.deps := rfl
@[simp] theorem ports_modWeave (s : State) (wk : Nat) (f : Weave → Weave) : (s.modWeave wk f).ports = s.ports := rfl
@[simp] theorem links_modWeave (s : State) (wk : Nat) (f : Weave → Weave) : (s.modWeave wk f).links = s.links := rfl
@[simp] theorem mailbox_modWeave (s : State) (wk : Nat) (f : Weave → Weave) : (s.modWeave wk f).mailbox = s.mailbox := rfl
@[simp] theorem alarm_modWeave (s : State) (wk : Nat) (f : Weave → Weave) : (s.modWeave wk f).alarm = s.alarm := rfl
@[simp] theorem status_modWeave (s : State) (wk : Nat) (f : Weave → Weave) : (s.modWeave wk f).status = s.status := rfl
@[simp] theorem fw_modWeave (s : State) (wk : Nat) (f : Weave → Weave) : (s.modWeave wk f).fw = s.fw := rfl
@[simp] theorem sensors_modWeave (s : State) (wk : Nat) (f : Weave → Weave) : (s.modWeave wk f).sensors = s.sensors := rfl
@[simp] theorem rails_modWeave (s : State) (wk : Nat) (f : Weave → Weave) : (s.modWeave wk f).rails = s.rails := rfl
@[simp] theorem tripped_modWeave (s : State) (wk : Nat) (f : Weave → Weave) : (s.modWeave wk f).tripped = s.tripped := rfl
@[simp] theorem hostReads_modWeave (s : State) (wk : Nat) (f : Weave → Weave) : (s.modWeave wk f).hostReads = s.hostReads := rfl
@[simp] theorem msix_modWeave (s : State) (wk : Nat) (f : Weave → Weave) : (s.modWeave wk f).msix = s.msix := rfl
@[simp] theorem doorbells_modWeave (s : State) (wk : Nat) (f : Weave → Weave) : (s.modWeave wk f).doorbells = s.doorbells := rfl
@[simp] theorem free_modWeave (s : State) (wk : Nat) (f : Weave → Weave) : (s.modWeave wk f).free = s.free := rfl
@[simp] theorem agenda_modWeave (s : State) (wk : Nat) (f : Weave → Weave) : (s.modWeave wk f).agenda = s.agenda := rfl
@[simp] theorem ev_modWeave (s : State) (wk : Nat) (f : Weave → Weave) : (s.modWeave wk f).ev = s.ev := rfl
@[simp] theorem issue_modWeave (s : State) (wk : Nat) (f : Weave → Weave) : (s.modWeave wk f).issue = s.issue := rfl
@[simp] theorem cur_modWeave (s : State) (wk : Nat) (f : Weave → Weave) : (s.modWeave wk f).cur = s.cur := rfl

/-! ### modGang -/

@[simp] theorem clk_modGang (s : State) (g : Nat) (f : Gang → Gang) : (s.modGang g f).clk = s.clk := rfl
@[simp] theorem us_modGang (s : State) (g : Nat) (f : Gang → Gang) : (s.modGang g f).us = s.us := rfl
@[simp] theorem mem_modGang (s : State) (g : Nat) (f : Gang → Gang) : (s.modGang g f).mem = s.mem := rfl
@[simp] theorem poison_modGang (s : State) (g : Nat) (f : Gang → Gang) : (s.modGang g f).poison = s.poison := rfl
@[simp] theorem hostMem_modGang (s : State) (g : Nat) (f : Gang → Gang) : (s.modGang g f).hostMem = s.hostMem := rfl
@[simp] theorem parts_modGang (s : State) (g : Nat) (f : Gang → Gang) : (s.modGang g f).parts = s.parts := rfl
@[simp] theorem acc_modGang (s : State) (g : Nat) (f : Gang → Gang) : (s.modGang g f).acc = s.acc := rfl
@[simp] theorem plmap_modGang (s : State) (g : Nat) (f : Gang → Gang) : (s.modGang g f).plmap = s.plmap := rfl
@[simp] theorem tlb_modGang (s : State) (g : Nat) (f : Gang → Gang) : (s.modGang g f).tlb = s.tlb := rfl
@[simp] theorem tickets_modGang (s : State) (g : Nat) (f : Gang → Gang) : (s.modGang g f).tickets = s.tickets := rfl
@[simp] theorem nextTicket_modGang (s : State) (g : Nat) (f : Gang → Gang) : (s.modGang g f).nextTicket = s.nextTicket := rfl
@[simp] theorem cores_modGang (s : State) (g : Nat) (f : Gang → Gang) : (s.modGang g f).cores = s.cores := rfl
@[simp] theorem slices_modGang (s : State) (g : Nat) (f : Gang → Gang) : (s.modGang g f).slices = s.slices := rfl
@[simp] theorem weaves_modGang (s : State) (g : Nat) (f : Gang → Gang) : (s.modGang g f).weaves = s.weaves := rfl
@[simp] theorem cohorts_modGang (s : State) (g : Nat) (f : Gang → Gang) : (s.modGang g f).cohorts = s.cohorts := rfl
@[simp] theorem launches_modGang (s : State) (g : Nat) (f : Gang → Gang) : (s.modGang g f).launches = s.launches := rfl
@[simp] theorem ops_modGang (s : State) (g : Nat) (f : Gang → Gang) : (s.modGang g f).ops = s.ops := rfl
@[simp] theorem bonds_modGang (s : State) (g : Nat) (f : Gang → Gang) : (s.modGang g f).bonds = s.bonds := rfl
@[simp] theorem nextKey_modGang (s : State) (g : Nat) (f : Gang → Gang) : (s.modGang g f).nextKey = s.nextKey := rfl
@[simp] theorem slots_modGang (s : State) (g : Nat) (f : Gang → Gang) : (s.modGang g f).slots = s.slots := rfl
@[simp] theorem pendingOrder_modGang (s : State) (g : Nat) (f : Gang → Gang) : (s.modGang g f).pendingOrder = s.pendingOrder := rfl
@[simp] theorem watches_modGang (s : State) (g : Nat) (f : Gang → Gang) : (s.modGang g f).watches = s.watches := rfl
@[simp] theorem deps_modGang (s : State) (g : Nat) (f : Gang → Gang) : (s.modGang g f).deps = s.deps := rfl
@[simp] theorem ports_modGang (s : State) (g : Nat) (f : Gang → Gang) : (s.modGang g f).ports = s.ports := rfl
@[simp] theorem links_modGang (s : State) (g : Nat) (f : Gang → Gang) : (s.modGang g f).links = s.links := rfl
@[simp] theorem mailbox_modGang (s : State) (g : Nat) (f : Gang → Gang) : (s.modGang g f).mailbox = s.mailbox := rfl
@[simp] theorem alarm_modGang (s : State) (g : Nat) (f : Gang → Gang) : (s.modGang g f).alarm = s.alarm := rfl
@[simp] theorem status_modGang (s : State) (g : Nat) (f : Gang → Gang) : (s.modGang g f).status = s.status := rfl
@[simp] theorem fw_modGang (s : State) (g : Nat) (f : Gang → Gang) : (s.modGang g f).fw = s.fw := rfl
@[simp] theorem sensors_modGang (s : State) (g : Nat) (f : Gang → Gang) : (s.modGang g f).sensors = s.sensors := rfl
@[simp] theorem rails_modGang (s : State) (g : Nat) (f : Gang → Gang) : (s.modGang g f).rails = s.rails := rfl
@[simp] theorem tripped_modGang (s : State) (g : Nat) (f : Gang → Gang) : (s.modGang g f).tripped = s.tripped := rfl
@[simp] theorem hostReads_modGang (s : State) (g : Nat) (f : Gang → Gang) : (s.modGang g f).hostReads = s.hostReads := rfl
@[simp] theorem msix_modGang (s : State) (g : Nat) (f : Gang → Gang) : (s.modGang g f).msix = s.msix := rfl
@[simp] theorem doorbells_modGang (s : State) (g : Nat) (f : Gang → Gang) : (s.modGang g f).doorbells = s.doorbells := rfl
@[simp] theorem free_modGang (s : State) (g : Nat) (f : Gang → Gang) : (s.modGang g f).free = s.free := rfl
@[simp] theorem agenda_modGang (s : State) (g : Nat) (f : Gang → Gang) : (s.modGang g f).agenda = s.agenda := rfl
@[simp] theorem ev_modGang (s : State) (g : Nat) (f : Gang → Gang) : (s.modGang g f).ev = s.ev := rfl
@[simp] theorem issue_modGang (s : State) (g : Nat) (f : Gang → Gang) : (s.modGang g f).issue = s.issue := rfl
@[simp] theorem cur_modGang (s : State) (g : Nat) (f : Gang → Gang) : (s.modGang g f).cur = s.cur := rfl

/-! ### modLaunch -/

@[simp] theorem clk_modLaunch (s : State) (l : Nat) (f : Launch → Launch) : (s.modLaunch l f).clk = s.clk := rfl
@[simp] theorem us_modLaunch (s : State) (l : Nat) (f : Launch → Launch) : (s.modLaunch l f).us = s.us := rfl
@[simp] theorem mem_modLaunch (s : State) (l : Nat) (f : Launch → Launch) : (s.modLaunch l f).mem = s.mem := rfl
@[simp] theorem poison_modLaunch (s : State) (l : Nat) (f : Launch → Launch) : (s.modLaunch l f).poison = s.poison := rfl
@[simp] theorem hostMem_modLaunch (s : State) (l : Nat) (f : Launch → Launch) : (s.modLaunch l f).hostMem = s.hostMem := rfl
@[simp] theorem parts_modLaunch (s : State) (l : Nat) (f : Launch → Launch) : (s.modLaunch l f).parts = s.parts := rfl
@[simp] theorem acc_modLaunch (s : State) (l : Nat) (f : Launch → Launch) : (s.modLaunch l f).acc = s.acc := rfl
@[simp] theorem plmap_modLaunch (s : State) (l : Nat) (f : Launch → Launch) : (s.modLaunch l f).plmap = s.plmap := rfl
@[simp] theorem tlb_modLaunch (s : State) (l : Nat) (f : Launch → Launch) : (s.modLaunch l f).tlb = s.tlb := rfl
@[simp] theorem tickets_modLaunch (s : State) (l : Nat) (f : Launch → Launch) : (s.modLaunch l f).tickets = s.tickets := rfl
@[simp] theorem nextTicket_modLaunch (s : State) (l : Nat) (f : Launch → Launch) : (s.modLaunch l f).nextTicket = s.nextTicket := rfl
@[simp] theorem cores_modLaunch (s : State) (l : Nat) (f : Launch → Launch) : (s.modLaunch l f).cores = s.cores := rfl
@[simp] theorem slices_modLaunch (s : State) (l : Nat) (f : Launch → Launch) : (s.modLaunch l f).slices = s.slices := rfl
@[simp] theorem gangs_modLaunch (s : State) (l : Nat) (f : Launch → Launch) : (s.modLaunch l f).gangs = s.gangs := rfl
@[simp] theorem weaves_modLaunch (s : State) (l : Nat) (f : Launch → Launch) : (s.modLaunch l f).weaves = s.weaves := rfl
@[simp] theorem cohorts_modLaunch (s : State) (l : Nat) (f : Launch → Launch) : (s.modLaunch l f).cohorts = s.cohorts := rfl
@[simp] theorem ops_modLaunch (s : State) (l : Nat) (f : Launch → Launch) : (s.modLaunch l f).ops = s.ops := rfl
@[simp] theorem bonds_modLaunch (s : State) (l : Nat) (f : Launch → Launch) : (s.modLaunch l f).bonds = s.bonds := rfl
@[simp] theorem nextKey_modLaunch (s : State) (l : Nat) (f : Launch → Launch) : (s.modLaunch l f).nextKey = s.nextKey := rfl
@[simp] theorem slots_modLaunch (s : State) (l : Nat) (f : Launch → Launch) : (s.modLaunch l f).slots = s.slots := rfl
@[simp] theorem pendingOrder_modLaunch (s : State) (l : Nat) (f : Launch → Launch) : (s.modLaunch l f).pendingOrder = s.pendingOrder := rfl
@[simp] theorem watches_modLaunch (s : State) (l : Nat) (f : Launch → Launch) : (s.modLaunch l f).watches = s.watches := rfl
@[simp] theorem deps_modLaunch (s : State) (l : Nat) (f : Launch → Launch) : (s.modLaunch l f).deps = s.deps := rfl
@[simp] theorem ports_modLaunch (s : State) (l : Nat) (f : Launch → Launch) : (s.modLaunch l f).ports = s.ports := rfl
@[simp] theorem links_modLaunch (s : State) (l : Nat) (f : Launch → Launch) : (s.modLaunch l f).links = s.links := rfl
@[simp] theorem mailbox_modLaunch (s : State) (l : Nat) (f : Launch → Launch) : (s.modLaunch l f).mailbox = s.mailbox := rfl
@[simp] theorem alarm_modLaunch (s : State) (l : Nat) (f : Launch → Launch) : (s.modLaunch l f).alarm = s.alarm := rfl
@[simp] theorem status_modLaunch (s : State) (l : Nat) (f : Launch → Launch) : (s.modLaunch l f).status = s.status := rfl
@[simp] theorem fw_modLaunch (s : State) (l : Nat) (f : Launch → Launch) : (s.modLaunch l f).fw = s.fw := rfl
@[simp] theorem sensors_modLaunch (s : State) (l : Nat) (f : Launch → Launch) : (s.modLaunch l f).sensors = s.sensors := rfl
@[simp] theorem rails_modLaunch (s : State) (l : Nat) (f : Launch → Launch) : (s.modLaunch l f).rails = s.rails := rfl
@[simp] theorem tripped_modLaunch (s : State) (l : Nat) (f : Launch → Launch) : (s.modLaunch l f).tripped = s.tripped := rfl
@[simp] theorem hostReads_modLaunch (s : State) (l : Nat) (f : Launch → Launch) : (s.modLaunch l f).hostReads = s.hostReads := rfl
@[simp] theorem msix_modLaunch (s : State) (l : Nat) (f : Launch → Launch) : (s.modLaunch l f).msix = s.msix := rfl
@[simp] theorem doorbells_modLaunch (s : State) (l : Nat) (f : Launch → Launch) : (s.modLaunch l f).doorbells = s.doorbells := rfl
@[simp] theorem free_modLaunch (s : State) (l : Nat) (f : Launch → Launch) : (s.modLaunch l f).free = s.free := rfl
@[simp] theorem agenda_modLaunch (s : State) (l : Nat) (f : Launch → Launch) : (s.modLaunch l f).agenda = s.agenda := rfl
@[simp] theorem ev_modLaunch (s : State) (l : Nat) (f : Launch → Launch) : (s.modLaunch l f).ev = s.ev := rfl
@[simp] theorem issue_modLaunch (s : State) (l : Nat) (f : Launch → Launch) : (s.modLaunch l f).issue = s.issue := rfl
@[simp] theorem cur_modLaunch (s : State) (l : Nat) (f : Launch → Launch) : (s.modLaunch l f).cur = s.cur := rfl

/-! ### modCohort -/

@[simp] theorem clk_modCohort (s : State) (c : Nat) (f : Cohort → Cohort) : (s.modCohort c f).clk = s.clk := rfl
@[simp] theorem us_modCohort (s : State) (c : Nat) (f : Cohort → Cohort) : (s.modCohort c f).us = s.us := rfl
@[simp] theorem mem_modCohort (s : State) (c : Nat) (f : Cohort → Cohort) : (s.modCohort c f).mem = s.mem := rfl
@[simp] theorem poison_modCohort (s : State) (c : Nat) (f : Cohort → Cohort) : (s.modCohort c f).poison = s.poison := rfl
@[simp] theorem hostMem_modCohort (s : State) (c : Nat) (f : Cohort → Cohort) : (s.modCohort c f).hostMem = s.hostMem := rfl
@[simp] theorem parts_modCohort (s : State) (c : Nat) (f : Cohort → Cohort) : (s.modCohort c f).parts = s.parts := rfl
@[simp] theorem acc_modCohort (s : State) (c : Nat) (f : Cohort → Cohort) : (s.modCohort c f).acc = s.acc := rfl
@[simp] theorem plmap_modCohort (s : State) (c : Nat) (f : Cohort → Cohort) : (s.modCohort c f).plmap = s.plmap := rfl
@[simp] theorem tlb_modCohort (s : State) (c : Nat) (f : Cohort → Cohort) : (s.modCohort c f).tlb = s.tlb := rfl
@[simp] theorem tickets_modCohort (s : State) (c : Nat) (f : Cohort → Cohort) : (s.modCohort c f).tickets = s.tickets := rfl
@[simp] theorem nextTicket_modCohort (s : State) (c : Nat) (f : Cohort → Cohort) : (s.modCohort c f).nextTicket = s.nextTicket := rfl
@[simp] theorem cores_modCohort (s : State) (c : Nat) (f : Cohort → Cohort) : (s.modCohort c f).cores = s.cores := rfl
@[simp] theorem slices_modCohort (s : State) (c : Nat) (f : Cohort → Cohort) : (s.modCohort c f).slices = s.slices := rfl
@[simp] theorem gangs_modCohort (s : State) (c : Nat) (f : Cohort → Cohort) : (s.modCohort c f).gangs = s.gangs := rfl
@[simp] theorem weaves_modCohort (s : State) (c : Nat) (f : Cohort → Cohort) : (s.modCohort c f).weaves = s.weaves := rfl
@[simp] theorem launches_modCohort (s : State) (c : Nat) (f : Cohort → Cohort) : (s.modCohort c f).launches = s.launches := rfl
@[simp] theorem ops_modCohort (s : State) (c : Nat) (f : Cohort → Cohort) : (s.modCohort c f).ops = s.ops := rfl
@[simp] theorem bonds_modCohort (s : State) (c : Nat) (f : Cohort → Cohort) : (s.modCohort c f).bonds = s.bonds := rfl
@[simp] theorem nextKey_modCohort (s : State) (c : Nat) (f : Cohort → Cohort) : (s.modCohort c f).nextKey = s.nextKey := rfl
@[simp] theorem slots_modCohort (s : State) (c : Nat) (f : Cohort → Cohort) : (s.modCohort c f).slots = s.slots := rfl
@[simp] theorem pendingOrder_modCohort (s : State) (c : Nat) (f : Cohort → Cohort) : (s.modCohort c f).pendingOrder = s.pendingOrder := rfl
@[simp] theorem watches_modCohort (s : State) (c : Nat) (f : Cohort → Cohort) : (s.modCohort c f).watches = s.watches := rfl
@[simp] theorem deps_modCohort (s : State) (c : Nat) (f : Cohort → Cohort) : (s.modCohort c f).deps = s.deps := rfl
@[simp] theorem ports_modCohort (s : State) (c : Nat) (f : Cohort → Cohort) : (s.modCohort c f).ports = s.ports := rfl
@[simp] theorem links_modCohort (s : State) (c : Nat) (f : Cohort → Cohort) : (s.modCohort c f).links = s.links := rfl
@[simp] theorem mailbox_modCohort (s : State) (c : Nat) (f : Cohort → Cohort) : (s.modCohort c f).mailbox = s.mailbox := rfl
@[simp] theorem alarm_modCohort (s : State) (c : Nat) (f : Cohort → Cohort) : (s.modCohort c f).alarm = s.alarm := rfl
@[simp] theorem status_modCohort (s : State) (c : Nat) (f : Cohort → Cohort) : (s.modCohort c f).status = s.status := rfl
@[simp] theorem fw_modCohort (s : State) (c : Nat) (f : Cohort → Cohort) : (s.modCohort c f).fw = s.fw := rfl
@[simp] theorem sensors_modCohort (s : State) (c : Nat) (f : Cohort → Cohort) : (s.modCohort c f).sensors = s.sensors := rfl
@[simp] theorem rails_modCohort (s : State) (c : Nat) (f : Cohort → Cohort) : (s.modCohort c f).rails = s.rails := rfl
@[simp] theorem tripped_modCohort (s : State) (c : Nat) (f : Cohort → Cohort) : (s.modCohort c f).tripped = s.tripped := rfl
@[simp] theorem hostReads_modCohort (s : State) (c : Nat) (f : Cohort → Cohort) : (s.modCohort c f).hostReads = s.hostReads := rfl
@[simp] theorem msix_modCohort (s : State) (c : Nat) (f : Cohort → Cohort) : (s.modCohort c f).msix = s.msix := rfl
@[simp] theorem doorbells_modCohort (s : State) (c : Nat) (f : Cohort → Cohort) : (s.modCohort c f).doorbells = s.doorbells := rfl
@[simp] theorem free_modCohort (s : State) (c : Nat) (f : Cohort → Cohort) : (s.modCohort c f).free = s.free := rfl
@[simp] theorem agenda_modCohort (s : State) (c : Nat) (f : Cohort → Cohort) : (s.modCohort c f).agenda = s.agenda := rfl
@[simp] theorem ev_modCohort (s : State) (c : Nat) (f : Cohort → Cohort) : (s.modCohort c f).ev = s.ev := rfl
@[simp] theorem issue_modCohort (s : State) (c : Nat) (f : Cohort → Cohort) : (s.modCohort c f).issue = s.issue := rfl
@[simp] theorem cur_modCohort (s : State) (c : Nat) (f : Cohort → Cohort) : (s.modCohort c f).cur = s.cur := rfl

/-! ### modOp -/

@[simp] theorem clk_modOp (s : State) (r : Nat) (f : AsyncOp → AsyncOp) : (s.modOp r f).clk = s.clk := rfl
@[simp] theorem us_modOp (s : State) (r : Nat) (f : AsyncOp → AsyncOp) : (s.modOp r f).us = s.us := rfl
@[simp] theorem mem_modOp (s : State) (r : Nat) (f : AsyncOp → AsyncOp) : (s.modOp r f).mem = s.mem := rfl
@[simp] theorem poison_modOp (s : State) (r : Nat) (f : AsyncOp → AsyncOp) : (s.modOp r f).poison = s.poison := rfl
@[simp] theorem hostMem_modOp (s : State) (r : Nat) (f : AsyncOp → AsyncOp) : (s.modOp r f).hostMem = s.hostMem := rfl
@[simp] theorem parts_modOp (s : State) (r : Nat) (f : AsyncOp → AsyncOp) : (s.modOp r f).parts = s.parts := rfl
@[simp] theorem acc_modOp (s : State) (r : Nat) (f : AsyncOp → AsyncOp) : (s.modOp r f).acc = s.acc := rfl
@[simp] theorem plmap_modOp (s : State) (r : Nat) (f : AsyncOp → AsyncOp) : (s.modOp r f).plmap = s.plmap := rfl
@[simp] theorem tlb_modOp (s : State) (r : Nat) (f : AsyncOp → AsyncOp) : (s.modOp r f).tlb = s.tlb := rfl
@[simp] theorem tickets_modOp (s : State) (r : Nat) (f : AsyncOp → AsyncOp) : (s.modOp r f).tickets = s.tickets := rfl
@[simp] theorem nextTicket_modOp (s : State) (r : Nat) (f : AsyncOp → AsyncOp) : (s.modOp r f).nextTicket = s.nextTicket := rfl
@[simp] theorem cores_modOp (s : State) (r : Nat) (f : AsyncOp → AsyncOp) : (s.modOp r f).cores = s.cores := rfl
@[simp] theorem slices_modOp (s : State) (r : Nat) (f : AsyncOp → AsyncOp) : (s.modOp r f).slices = s.slices := rfl
@[simp] theorem gangs_modOp (s : State) (r : Nat) (f : AsyncOp → AsyncOp) : (s.modOp r f).gangs = s.gangs := rfl
@[simp] theorem weaves_modOp (s : State) (r : Nat) (f : AsyncOp → AsyncOp) : (s.modOp r f).weaves = s.weaves := rfl
@[simp] theorem cohorts_modOp (s : State) (r : Nat) (f : AsyncOp → AsyncOp) : (s.modOp r f).cohorts = s.cohorts := rfl
@[simp] theorem launches_modOp (s : State) (r : Nat) (f : AsyncOp → AsyncOp) : (s.modOp r f).launches = s.launches := rfl
@[simp] theorem bonds_modOp (s : State) (r : Nat) (f : AsyncOp → AsyncOp) : (s.modOp r f).bonds = s.bonds := rfl
@[simp] theorem nextKey_modOp (s : State) (r : Nat) (f : AsyncOp → AsyncOp) : (s.modOp r f).nextKey = s.nextKey := rfl
@[simp] theorem slots_modOp (s : State) (r : Nat) (f : AsyncOp → AsyncOp) : (s.modOp r f).slots = s.slots := rfl
@[simp] theorem pendingOrder_modOp (s : State) (r : Nat) (f : AsyncOp → AsyncOp) : (s.modOp r f).pendingOrder = s.pendingOrder := rfl
@[simp] theorem watches_modOp (s : State) (r : Nat) (f : AsyncOp → AsyncOp) : (s.modOp r f).watches = s.watches := rfl
@[simp] theorem deps_modOp (s : State) (r : Nat) (f : AsyncOp → AsyncOp) : (s.modOp r f).deps = s.deps := rfl
@[simp] theorem ports_modOp (s : State) (r : Nat) (f : AsyncOp → AsyncOp) : (s.modOp r f).ports = s.ports := rfl
@[simp] theorem links_modOp (s : State) (r : Nat) (f : AsyncOp → AsyncOp) : (s.modOp r f).links = s.links := rfl
@[simp] theorem mailbox_modOp (s : State) (r : Nat) (f : AsyncOp → AsyncOp) : (s.modOp r f).mailbox = s.mailbox := rfl
@[simp] theorem alarm_modOp (s : State) (r : Nat) (f : AsyncOp → AsyncOp) : (s.modOp r f).alarm = s.alarm := rfl
@[simp] theorem status_modOp (s : State) (r : Nat) (f : AsyncOp → AsyncOp) : (s.modOp r f).status = s.status := rfl
@[simp] theorem fw_modOp (s : State) (r : Nat) (f : AsyncOp → AsyncOp) : (s.modOp r f).fw = s.fw := rfl
@[simp] theorem sensors_modOp (s : State) (r : Nat) (f : AsyncOp → AsyncOp) : (s.modOp r f).sensors = s.sensors := rfl
@[simp] theorem rails_modOp (s : State) (r : Nat) (f : AsyncOp → AsyncOp) : (s.modOp r f).rails = s.rails := rfl
@[simp] theorem tripped_modOp (s : State) (r : Nat) (f : AsyncOp → AsyncOp) : (s.modOp r f).tripped = s.tripped := rfl
@[simp] theorem hostReads_modOp (s : State) (r : Nat) (f : AsyncOp → AsyncOp) : (s.modOp r f).hostReads = s.hostReads := rfl
@[simp] theorem msix_modOp (s : State) (r : Nat) (f : AsyncOp → AsyncOp) : (s.modOp r f).msix = s.msix := rfl
@[simp] theorem doorbells_modOp (s : State) (r : Nat) (f : AsyncOp → AsyncOp) : (s.modOp r f).doorbells = s.doorbells := rfl
@[simp] theorem free_modOp (s : State) (r : Nat) (f : AsyncOp → AsyncOp) : (s.modOp r f).free = s.free := rfl
@[simp] theorem agenda_modOp (s : State) (r : Nat) (f : AsyncOp → AsyncOp) : (s.modOp r f).agenda = s.agenda := rfl
@[simp] theorem ev_modOp (s : State) (r : Nat) (f : AsyncOp → AsyncOp) : (s.modOp r f).ev = s.ev := rfl
@[simp] theorem issue_modOp (s : State) (r : Nat) (f : AsyncOp → AsyncOp) : (s.modOp r f).issue = s.issue := rfl
@[simp] theorem cur_modOp (s : State) (r : Nat) (f : AsyncOp → AsyncOp) : (s.modOp r f).cur = s.cur := rfl

/-! ### modBond -/

@[simp] theorem clk_modBond (s : State) (b : Nat) (f : Bond → Bond) : (s.modBond b f).clk = s.clk := rfl
@[simp] theorem us_modBond (s : State) (b : Nat) (f : Bond → Bond) : (s.modBond b f).us = s.us := rfl
@[simp] theorem mem_modBond (s : State) (b : Nat) (f : Bond → Bond) : (s.modBond b f).mem = s.mem := rfl
@[simp] theorem poison_modBond (s : State) (b : Nat) (f : Bond → Bond) : (s.modBond b f).poison = s.poison := rfl
@[simp] theorem hostMem_modBond (s : State) (b : Nat) (f : Bond → Bond) : (s.modBond b f).hostMem = s.hostMem := rfl
@[simp] theorem parts_modBond (s : State) (b : Nat) (f : Bond → Bond) : (s.modBond b f).parts = s.parts := rfl
@[simp] theorem acc_modBond (s : State) (b : Nat) (f : Bond → Bond) : (s.modBond b f).acc = s.acc := rfl
@[simp] theorem plmap_modBond (s : State) (b : Nat) (f : Bond → Bond) : (s.modBond b f).plmap = s.plmap := rfl
@[simp] theorem tlb_modBond (s : State) (b : Nat) (f : Bond → Bond) : (s.modBond b f).tlb = s.tlb := rfl
@[simp] theorem tickets_modBond (s : State) (b : Nat) (f : Bond → Bond) : (s.modBond b f).tickets = s.tickets := rfl
@[simp] theorem nextTicket_modBond (s : State) (b : Nat) (f : Bond → Bond) : (s.modBond b f).nextTicket = s.nextTicket := rfl
@[simp] theorem cores_modBond (s : State) (b : Nat) (f : Bond → Bond) : (s.modBond b f).cores = s.cores := rfl
@[simp] theorem slices_modBond (s : State) (b : Nat) (f : Bond → Bond) : (s.modBond b f).slices = s.slices := rfl
@[simp] theorem gangs_modBond (s : State) (b : Nat) (f : Bond → Bond) : (s.modBond b f).gangs = s.gangs := rfl
@[simp] theorem weaves_modBond (s : State) (b : Nat) (f : Bond → Bond) : (s.modBond b f).weaves = s.weaves := rfl
@[simp] theorem cohorts_modBond (s : State) (b : Nat) (f : Bond → Bond) : (s.modBond b f).cohorts = s.cohorts := rfl
@[simp] theorem launches_modBond (s : State) (b : Nat) (f : Bond → Bond) : (s.modBond b f).launches = s.launches := rfl
@[simp] theorem ops_modBond (s : State) (b : Nat) (f : Bond → Bond) : (s.modBond b f).ops = s.ops := rfl
@[simp] theorem nextKey_modBond (s : State) (b : Nat) (f : Bond → Bond) : (s.modBond b f).nextKey = s.nextKey := rfl
@[simp] theorem slots_modBond (s : State) (b : Nat) (f : Bond → Bond) : (s.modBond b f).slots = s.slots := rfl
@[simp] theorem pendingOrder_modBond (s : State) (b : Nat) (f : Bond → Bond) : (s.modBond b f).pendingOrder = s.pendingOrder := rfl
@[simp] theorem watches_modBond (s : State) (b : Nat) (f : Bond → Bond) : (s.modBond b f).watches = s.watches := rfl
@[simp] theorem deps_modBond (s : State) (b : Nat) (f : Bond → Bond) : (s.modBond b f).deps = s.deps := rfl
@[simp] theorem ports_modBond (s : State) (b : Nat) (f : Bond → Bond) : (s.modBond b f).ports = s.ports := rfl
@[simp] theorem links_modBond (s : State) (b : Nat) (f : Bond → Bond) : (s.modBond b f).links = s.links := rfl
@[simp] theorem mailbox_modBond (s : State) (b : Nat) (f : Bond → Bond) : (s.modBond b f).mailbox = s.mailbox := rfl
@[simp] theorem alarm_modBond (s : State) (b : Nat) (f : Bond → Bond) : (s.modBond b f).alarm = s.alarm := rfl
@[simp] theorem status_modBond (s : State) (b : Nat) (f : Bond → Bond) : (s.modBond b f).status = s.status := rfl
@[simp] theorem fw_modBond (s : State) (b : Nat) (f : Bond → Bond) : (s.modBond b f).fw = s.fw := rfl
@[simp] theorem sensors_modBond (s : State) (b : Nat) (f : Bond → Bond) : (s.modBond b f).sensors = s.sensors := rfl
@[simp] theorem rails_modBond (s : State) (b : Nat) (f : Bond → Bond) : (s.modBond b f).rails = s.rails := rfl
@[simp] theorem tripped_modBond (s : State) (b : Nat) (f : Bond → Bond) : (s.modBond b f).tripped = s.tripped := rfl
@[simp] theorem hostReads_modBond (s : State) (b : Nat) (f : Bond → Bond) : (s.modBond b f).hostReads = s.hostReads := rfl
@[simp] theorem msix_modBond (s : State) (b : Nat) (f : Bond → Bond) : (s.modBond b f).msix = s.msix := rfl
@[simp] theorem doorbells_modBond (s : State) (b : Nat) (f : Bond → Bond) : (s.modBond b f).doorbells = s.doorbells := rfl
@[simp] theorem free_modBond (s : State) (b : Nat) (f : Bond → Bond) : (s.modBond b f).free = s.free := rfl
@[simp] theorem agenda_modBond (s : State) (b : Nat) (f : Bond → Bond) : (s.modBond b f).agenda = s.agenda := rfl
@[simp] theorem ev_modBond (s : State) (b : Nat) (f : Bond → Bond) : (s.modBond b f).ev = s.ev := rfl
@[simp] theorem issue_modBond (s : State) (b : Nat) (f : Bond → Bond) : (s.modBond b f).issue = s.issue := rfl
@[simp] theorem cur_modBond (s : State) (b : Nat) (f : Bond → Bond) : (s.modBond b f).cur = s.cur := rfl

/-! ### modPart -/

@[simp] theorem clk_modPart (s : State) (p : Nat) (f : Partition → Partition) : (s.modPart p f).clk = s.clk := rfl
@[simp] theorem us_modPart (s : State) (p : Nat) (f : Partition → Partition) : (s.modPart p f).us = s.us := rfl
@[simp] theorem mem_modPart (s : State) (p : Nat) (f : Partition → Partition) : (s.modPart p f).mem = s.mem := rfl
@[simp] theorem poison_modPart (s : State) (p : Nat) (f : Partition → Partition) : (s.modPart p f).poison = s.poison := rfl
@[simp] theorem hostMem_modPart (s : State) (p : Nat) (f : Partition → Partition) : (s.modPart p f).hostMem = s.hostMem := rfl
@[simp] theorem acc_modPart (s : State) (p : Nat) (f : Partition → Partition) : (s.modPart p f).acc = s.acc := rfl
@[simp] theorem plmap_modPart (s : State) (p : Nat) (f : Partition → Partition) : (s.modPart p f).plmap = s.plmap := rfl
@[simp] theorem tlb_modPart (s : State) (p : Nat) (f : Partition → Partition) : (s.modPart p f).tlb = s.tlb := rfl
@[simp] theorem tickets_modPart (s : State) (p : Nat) (f : Partition → Partition) : (s.modPart p f).tickets = s.tickets := rfl
@[simp] theorem nextTicket_modPart (s : State) (p : Nat) (f : Partition → Partition) : (s.modPart p f).nextTicket = s.nextTicket := rfl
@[simp] theorem cores_modPart (s : State) (p : Nat) (f : Partition → Partition) : (s.modPart p f).cores = s.cores := rfl
@[simp] theorem slices_modPart (s : State) (p : Nat) (f : Partition → Partition) : (s.modPart p f).slices = s.slices := rfl
@[simp] theorem gangs_modPart (s : State) (p : Nat) (f : Partition → Partition) : (s.modPart p f).gangs = s.gangs := rfl
@[simp] theorem weaves_modPart (s : State) (p : Nat) (f : Partition → Partition) : (s.modPart p f).weaves = s.weaves := rfl
@[simp] theorem cohorts_modPart (s : State) (p : Nat) (f : Partition → Partition) : (s.modPart p f).cohorts = s.cohorts := rfl
@[simp] theorem launches_modPart (s : State) (p : Nat) (f : Partition → Partition) : (s.modPart p f).launches = s.launches := rfl
@[simp] theorem ops_modPart (s : State) (p : Nat) (f : Partition → Partition) : (s.modPart p f).ops = s.ops := rfl
@[simp] theorem bonds_modPart (s : State) (p : Nat) (f : Partition → Partition) : (s.modPart p f).bonds = s.bonds := rfl
@[simp] theorem nextKey_modPart (s : State) (p : Nat) (f : Partition → Partition) : (s.modPart p f).nextKey = s.nextKey := rfl
@[simp] theorem slots_modPart (s : State) (p : Nat) (f : Partition → Partition) : (s.modPart p f).slots = s.slots := rfl
@[simp] theorem pendingOrder_modPart (s : State) (p : Nat) (f : Partition → Partition) : (s.modPart p f).pendingOrder = s.pendingOrder := rfl
@[simp] theorem watches_modPart (s : State) (p : Nat) (f : Partition → Partition) : (s.modPart p f).watches = s.watches := rfl
@[simp] theorem deps_modPart (s : State) (p : Nat) (f : Partition → Partition) : (s.modPart p f).deps = s.deps := rfl
@[simp] theorem ports_modPart (s : State) (p : Nat) (f : Partition → Partition) : (s.modPart p f).ports = s.ports := rfl
@[simp] theorem links_modPart (s : State) (p : Nat) (f : Partition → Partition) : (s.modPart p f).links = s.links := rfl
@[simp] theorem mailbox_modPart (s : State) (p : Nat) (f : Partition → Partition) : (s.modPart p f).mailbox = s.mailbox := rfl
@[simp] theorem alarm_modPart (s : State) (p : Nat) (f : Partition → Partition) : (s.modPart p f).alarm = s.alarm := rfl
@[simp] theorem status_modPart (s : State) (p : Nat) (f : Partition → Partition) : (s.modPart p f).status = s.status := rfl
@[simp] theorem fw_modPart (s : State) (p : Nat) (f : Partition → Partition) : (s.modPart p f).fw = s.fw := rfl
@[simp] theorem sensors_modPart (s : State) (p : Nat) (f : Partition → Partition) : (s.modPart p f).sensors = s.sensors := rfl
@[simp] theorem rails_modPart (s : State) (p : Nat) (f : Partition → Partition) : (s.modPart p f).rails = s.rails := rfl
@[simp] theorem tripped_modPart (s : State) (p : Nat) (f : Partition → Partition) : (s.modPart p f).tripped = s.tripped := rfl
@[simp] theorem hostReads_modPart (s : State) (p : Nat) (f : Partition → Partition) : (s.modPart p f).hostReads = s.hostReads := rfl
@[simp] theorem msix_modPart (s : State) (p : Nat) (f : Partition → Partition) : (s.modPart p f).msix = s.msix := rfl
@[simp] theorem doorbells_modPart (s : State) (p : Nat) (f : Partition → Partition) : (s.modPart p f).doorbells = s.doorbells := rfl
@[simp] theorem free_modPart (s : State) (p : Nat) (f : Partition → Partition) : (s.modPart p f).free = s.free := rfl
@[simp] theorem agenda_modPart (s : State) (p : Nat) (f : Partition → Partition) : (s.modPart p f).agenda = s.agenda := rfl
@[simp] theorem ev_modPart (s : State) (p : Nat) (f : Partition → Partition) : (s.modPart p f).ev = s.ev := rfl
@[simp] theorem issue_modPart (s : State) (p : Nat) (f : Partition → Partition) : (s.modPart p f).issue = s.issue := rfl
@[simp] theorem cur_modPart (s : State) (p : Nat) (f : Partition → Partition) : (s.modPart p f).cur = s.cur := rfl

/-! ### modSlice -/

@[simp] theorem clk_modSlice (s : State) (n : Nat) (f : Slice → Slice) : (s.modSlice n f).clk = s.clk := rfl
@[simp] theorem us_modSlice (s : State) (n : Nat) (f : Slice → Slice) : (s.modSlice n f).us = s.us := rfl
@[simp] theorem mem_modSlice (s : State) (n : Nat) (f : Slice → Slice) : (s.modSlice n f).mem = s.mem := rfl
@[simp] theorem poison_modSlice (s : State) (n : Nat) (f : Slice → Slice) : (s.modSlice n f).poison = s.poison := rfl
@[simp] theorem hostMem_modSlice (s : State) (n : Nat) (f : Slice → Slice) : (s.modSlice n f).hostMem = s.hostMem := rfl
@[simp] theorem parts_modSlice (s : State) (n : Nat) (f : Slice → Slice) : (s.modSlice n f).parts = s.parts := rfl
@[simp] theorem acc_modSlice (s : State) (n : Nat) (f : Slice → Slice) : (s.modSlice n f).acc = s.acc := rfl
@[simp] theorem plmap_modSlice (s : State) (n : Nat) (f : Slice → Slice) : (s.modSlice n f).plmap = s.plmap := rfl
@[simp] theorem tlb_modSlice (s : State) (n : Nat) (f : Slice → Slice) : (s.modSlice n f).tlb = s.tlb := rfl
@[simp] theorem tickets_modSlice (s : State) (n : Nat) (f : Slice → Slice) : (s.modSlice n f).tickets = s.tickets := rfl
@[simp] theorem nextTicket_modSlice (s : State) (n : Nat) (f : Slice → Slice) : (s.modSlice n f).nextTicket = s.nextTicket := rfl
@[simp] theorem cores_modSlice (s : State) (n : Nat) (f : Slice → Slice) : (s.modSlice n f).cores = s.cores := rfl
@[simp] theorem gangs_modSlice (s : State) (n : Nat) (f : Slice → Slice) : (s.modSlice n f).gangs = s.gangs := rfl
@[simp] theorem weaves_modSlice (s : State) (n : Nat) (f : Slice → Slice) : (s.modSlice n f).weaves = s.weaves := rfl
@[simp] theorem cohorts_modSlice (s : State) (n : Nat) (f : Slice → Slice) : (s.modSlice n f).cohorts = s.cohorts := rfl
@[simp] theorem launches_modSlice (s : State) (n : Nat) (f : Slice → Slice) : (s.modSlice n f).launches = s.launches := rfl
@[simp] theorem ops_modSlice (s : State) (n : Nat) (f : Slice → Slice) : (s.modSlice n f).ops = s.ops := rfl
@[simp] theorem bonds_modSlice (s : State) (n : Nat) (f : Slice → Slice) : (s.modSlice n f).bonds = s.bonds := rfl
@[simp] theorem nextKey_modSlice (s : State) (n : Nat) (f : Slice → Slice) : (s.modSlice n f).nextKey = s.nextKey := rfl
@[simp] theorem slots_modSlice (s : State) (n : Nat) (f : Slice → Slice) : (s.modSlice n f).slots = s.slots := rfl
@[simp] theorem pendingOrder_modSlice (s : State) (n : Nat) (f : Slice → Slice) : (s.modSlice n f).pendingOrder = s.pendingOrder := rfl
@[simp] theorem watches_modSlice (s : State) (n : Nat) (f : Slice → Slice) : (s.modSlice n f).watches = s.watches := rfl
@[simp] theorem deps_modSlice (s : State) (n : Nat) (f : Slice → Slice) : (s.modSlice n f).deps = s.deps := rfl
@[simp] theorem ports_modSlice (s : State) (n : Nat) (f : Slice → Slice) : (s.modSlice n f).ports = s.ports := rfl
@[simp] theorem links_modSlice (s : State) (n : Nat) (f : Slice → Slice) : (s.modSlice n f).links = s.links := rfl
@[simp] theorem mailbox_modSlice (s : State) (n : Nat) (f : Slice → Slice) : (s.modSlice n f).mailbox = s.mailbox := rfl
@[simp] theorem alarm_modSlice (s : State) (n : Nat) (f : Slice → Slice) : (s.modSlice n f).alarm = s.alarm := rfl
@[simp] theorem status_modSlice (s : State) (n : Nat) (f : Slice → Slice) : (s.modSlice n f).status = s.status := rfl
@[simp] theorem fw_modSlice (s : State) (n : Nat) (f : Slice → Slice) : (s.modSlice n f).fw = s.fw := rfl
@[simp] theorem sensors_modSlice (s : State) (n : Nat) (f : Slice → Slice) : (s.modSlice n f).sensors = s.sensors := rfl
@[simp] theorem rails_modSlice (s : State) (n : Nat) (f : Slice → Slice) : (s.modSlice n f).rails = s.rails := rfl
@[simp] theorem tripped_modSlice (s : State) (n : Nat) (f : Slice → Slice) : (s.modSlice n f).tripped = s.tripped := rfl
@[simp] theorem hostReads_modSlice (s : State) (n : Nat) (f : Slice → Slice) : (s.modSlice n f).hostReads = s.hostReads := rfl
@[simp] theorem msix_modSlice (s : State) (n : Nat) (f : Slice → Slice) : (s.modSlice n f).msix = s.msix := rfl
@[simp] theorem doorbells_modSlice (s : State) (n : Nat) (f : Slice → Slice) : (s.modSlice n f).doorbells = s.doorbells := rfl
@[simp] theorem free_modSlice (s : State) (n : Nat) (f : Slice → Slice) : (s.modSlice n f).free = s.free := rfl
@[simp] theorem agenda_modSlice (s : State) (n : Nat) (f : Slice → Slice) : (s.modSlice n f).agenda = s.agenda := rfl
@[simp] theorem ev_modSlice (s : State) (n : Nat) (f : Slice → Slice) : (s.modSlice n f).ev = s.ev := rfl
@[simp] theorem issue_modSlice (s : State) (n : Nat) (f : Slice → Slice) : (s.modSlice n f).issue = s.issue := rfl
@[simp] theorem cur_modSlice (s : State) (n : Nat) (f : Slice → Slice) : (s.modSlice n f).cur = s.cur := rfl

/-! ### modCore -/

@[simp] theorem clk_modCore (s : State) (c : Nat) (f : Core → Core) : (s.modCore c f).clk = s.clk := rfl
@[simp] theorem us_modCore (s : State) (c : Nat) (f : Core → Core) : (s.modCore c f).us = s.us := rfl
@[simp] theorem mem_modCore (s : State) (c : Nat) (f : Core → Core) : (s.modCore c f).mem = s.mem := rfl
@[simp] theorem poison_modCore (s : State) (c : Nat) (f : Core → Core) : (s.modCore c f).poison = s.poison := rfl
@[simp] theorem hostMem_modCore (s : State) (c : Nat) (f : Core → Core) : (s.modCore c f).hostMem = s.hostMem := rfl
@[simp] theorem parts_modCore (s : State) (c : Nat) (f : Core → Core) : (s.modCore c f).parts = s.parts := rfl
@[simp] theorem acc_modCore (s : State) (c : Nat) (f : Core → Core) : (s.modCore c f).acc = s.acc := rfl
@[simp] theorem plmap_modCore (s : State) (c : Nat) (f : Core → Core) : (s.modCore c f).plmap = s.plmap := rfl
@[simp] theorem tlb_modCore (s : State) (c : Nat) (f : Core → Core) : (s.modCore c f).tlb = s.tlb := rfl
@[simp] theorem tickets_modCore (s : State) (c : Nat) (f : Core → Core) : (s.modCore c f).tickets = s.tickets := rfl
@[simp] theorem nextTicket_modCore (s : State) (c : Nat) (f : Core → Core) : (s.modCore c f).nextTicket = s.nextTicket := rfl
@[simp] theorem slices_modCore (s : State) (c : Nat) (f : Core → Core) : (s.modCore c f).slices = s.slices := rfl
@[simp] theorem gangs_modCore (s : State) (c : Nat) (f : Core → Core) : (s.modCore c f).gangs = s.gangs := rfl
@[simp] theorem weaves_modCore (s : State) (c : Nat) (f : Core → Core) : (s.modCore c f).weaves = s.weaves := rfl
@[simp] theorem cohorts_modCore (s : State) (c : Nat) (f : Core → Core) : (s.modCore c f).cohorts = s.cohorts := rfl
@[simp] theorem launches_modCore (s : State) (c : Nat) (f : Core → Core) : (s.modCore c f).launches = s.launches := rfl
@[simp] theorem ops_modCore (s : State) (c : Nat) (f : Core → Core) : (s.modCore c f).ops = s.ops := rfl
@[simp] theorem bonds_modCore (s : State) (c : Nat) (f : Core → Core) : (s.modCore c f).bonds = s.bonds := rfl
@[simp] theorem nextKey_modCore (s : State) (c : Nat) (f : Core → Core) : (s.modCore c f).nextKey = s.nextKey := rfl
@[simp] theorem slots_modCore (s : State) (c : Nat) (f : Core → Core) : (s.modCore c f).slots = s.slots := rfl
@[simp] theorem pendingOrder_modCore (s : State) (c : Nat) (f : Core → Core) : (s.modCore c f).pendingOrder = s.pendingOrder := rfl
@[simp] theorem watches_modCore (s : State) (c : Nat) (f : Core → Core) : (s.modCore c f).watches = s.watches := rfl
@[simp] theorem deps_modCore (s : State) (c : Nat) (f : Core → Core) : (s.modCore c f).deps = s.deps := rfl
@[simp] theorem ports_modCore (s : State) (c : Nat) (f : Core → Core) : (s.modCore c f).ports = s.ports := rfl
@[simp] theorem links_modCore (s : State) (c : Nat) (f : Core → Core) : (s.modCore c f).links = s.links := rfl
@[simp] theorem mailbox_modCore (s : State) (c : Nat) (f : Core → Core) : (s.modCore c f).mailbox = s.mailbox := rfl
@[simp] theorem alarm_modCore (s : State) (c : Nat) (f : Core → Core) : (s.modCore c f).alarm = s.alarm := rfl
@[simp] theorem status_modCore (s : State) (c : Nat) (f : Core → Core) : (s.modCore c f).status = s.status := rfl
@[simp] theorem fw_modCore (s : State) (c : Nat) (f : Core → Core) : (s.modCore c f).fw = s.fw := rfl
@[simp] theorem sensors_modCore (s : State) (c : Nat) (f : Core → Core) : (s.modCore c f).sensors = s.sensors := rfl
@[simp] theorem rails_modCore (s : State) (c : Nat) (f : Core → Core) : (s.modCore c f).rails = s.rails := rfl
@[simp] theorem tripped_modCore (s : State) (c : Nat) (f : Core → Core) : (s.modCore c f).tripped = s.tripped := rfl
@[simp] theorem hostReads_modCore (s : State) (c : Nat) (f : Core → Core) : (s.modCore c f).hostReads = s.hostReads := rfl
@[simp] theorem msix_modCore (s : State) (c : Nat) (f : Core → Core) : (s.modCore c f).msix = s.msix := rfl
@[simp] theorem doorbells_modCore (s : State) (c : Nat) (f : Core → Core) : (s.modCore c f).doorbells = s.doorbells := rfl
@[simp] theorem free_modCore (s : State) (c : Nat) (f : Core → Core) : (s.modCore c f).free = s.free := rfl
@[simp] theorem agenda_modCore (s : State) (c : Nat) (f : Core → Core) : (s.modCore c f).agenda = s.agenda := rfl
@[simp] theorem ev_modCore (s : State) (c : Nat) (f : Core → Core) : (s.modCore c f).ev = s.ev := rfl
@[simp] theorem issue_modCore (s : State) (c : Nat) (f : Core → Core) : (s.modCore c f).issue = s.issue := rfl
@[simp] theorem cur_modCore (s : State) (c : Nat) (f : Core → Core) : (s.modCore c f).cur = s.cur := rfl

/-! ### modPort -/

@[simp] theorem clk_modPort (s : State) (n : Nat) (f : Port → Port) : (s.modPort n f).clk = s.clk := rfl
@[simp] theorem us_modPort (s : State) (n : Nat) (f : Port → Port) : (s.modPort n f).us = s.us := rfl
@[simp] theorem mem_modPort (s : State) (n : Nat) (f : Port → Port) : (s.modPort n f).mem = s.mem := rfl
@[simp] theorem poison_modPort (s : State) (n : Nat) (f : Port → Port) : (s.modPort n f).poison = s.poison := rfl
@[simp] theorem hostMem_modPort (s : State) (n : Nat) (f : Port → Port) : (s.modPort n f).hostMem = s.hostMem := rfl
@[simp] theorem parts_modPort (s : State) (n : Nat) (f : Port → Port) : (s.modPort n f).parts = s.parts := rfl
@[simp] theorem acc_modPort (s : State) (n : Nat) (f : Port → Port) : (s.modPort n f).acc = s.acc := rfl
@[simp] theorem plmap_modPort (s : State) (n : Nat) (f : Port → Port) : (s.modPort n f).plmap = s.plmap := rfl
@[simp] theorem tlb_modPort (s : State) (n : Nat) (f : Port → Port) : (s.modPort n f).tlb = s.tlb := rfl
@[simp] theorem tickets_modPort (s : State) (n : Nat) (f : Port → Port) : (s.modPort n f).tickets = s.tickets := rfl
@[simp] theorem nextTicket_modPort (s : State) (n : Nat) (f : Port → Port) : (s.modPort n f).nextTicket = s.nextTicket := rfl
@[simp] theorem cores_modPort (s : State) (n : Nat) (f : Port → Port) : (s.modPort n f).cores = s.cores := rfl
@[simp] theorem slices_modPort (s : State) (n : Nat) (f : Port → Port) : (s.modPort n f).slices = s.slices := rfl
@[simp] theorem gangs_modPort (s : State) (n : Nat) (f : Port → Port) : (s.modPort n f).gangs = s.gangs := rfl
@[simp] theorem weaves_modPort (s : State) (n : Nat) (f : Port → Port) : (s.modPort n f).weaves = s.weaves := rfl
@[simp] theorem cohorts_modPort (s : State) (n : Nat) (f : Port → Port) : (s.modPort n f).cohorts = s.cohorts := rfl
@[simp] theorem launches_modPort (s : State) (n : Nat) (f : Port → Port) : (s.modPort n f).launches = s.launches := rfl
@[simp] theorem ops_modPort (s : State) (n : Nat) (f : Port → Port) : (s.modPort n f).ops = s.ops := rfl
@[simp] theorem bonds_modPort (s : State) (n : Nat) (f : Port → Port) : (s.modPort n f).bonds = s.bonds := rfl
@[simp] theorem nextKey_modPort (s : State) (n : Nat) (f : Port → Port) : (s.modPort n f).nextKey = s.nextKey := rfl
@[simp] theorem slots_modPort (s : State) (n : Nat) (f : Port → Port) : (s.modPort n f).slots = s.slots := rfl
@[simp] theorem pendingOrder_modPort (s : State) (n : Nat) (f : Port → Port) : (s.modPort n f).pendingOrder = s.pendingOrder := rfl
@[simp] theorem watches_modPort (s : State) (n : Nat) (f : Port → Port) : (s.modPort n f).watches = s.watches := rfl
@[simp] theorem deps_modPort (s : State) (n : Nat) (f : Port → Port) : (s.modPort n f).deps = s.deps := rfl
@[simp] theorem links_modPort (s : State) (n : Nat) (f : Port → Port) : (s.modPort n f).links = s.links := rfl
@[simp] theorem mailbox_modPort (s : State) (n : Nat) (f : Port → Port) : (s.modPort n f).mailbox = s.mailbox := rfl
@[simp] theorem alarm_modPort (s : State) (n : Nat) (f : Port → Port) : (s.modPort n f).alarm = s.alarm := rfl
@[simp] theorem status_modPort (s : State) (n : Nat) (f : Port → Port) : (s.modPort n f).status = s.status := rfl
@[simp] theorem fw_modPort (s : State) (n : Nat) (f : Port → Port) : (s.modPort n f).fw = s.fw := rfl
@[simp] theorem sensors_modPort (s : State) (n : Nat) (f : Port → Port) : (s.modPort n f).sensors = s.sensors := rfl
@[simp] theorem rails_modPort (s : State) (n : Nat) (f : Port → Port) : (s.modPort n f).rails = s.rails := rfl
@[simp] theorem tripped_modPort (s : State) (n : Nat) (f : Port → Port) : (s.modPort n f).tripped = s.tripped := rfl
@[simp] theorem hostReads_modPort (s : State) (n : Nat) (f : Port → Port) : (s.modPort n f).hostReads = s.hostReads := rfl
@[simp] theorem msix_modPort (s : State) (n : Nat) (f : Port → Port) : (s.modPort n f).msix = s.msix := rfl
@[simp] theorem doorbells_modPort (s : State) (n : Nat) (f : Port → Port) : (s.modPort n f).doorbells = s.doorbells := rfl
@[simp] theorem free_modPort (s : State) (n : Nat) (f : Port → Port) : (s.modPort n f).free = s.free := rfl
@[simp] theorem agenda_modPort (s : State) (n : Nat) (f : Port → Port) : (s.modPort n f).agenda = s.agenda := rfl
@[simp] theorem ev_modPort (s : State) (n : Nat) (f : Port → Port) : (s.modPort n f).ev = s.ev := rfl
@[simp] theorem issue_modPort (s : State) (n : Nat) (f : Port → Port) : (s.modPort n f).issue = s.issue := rfl
@[simp] theorem cur_modPort (s : State) (n : Nat) (f : Port → Port) : (s.modPort n f).cur = s.cur := rfl

/-! ### modSlot -/

@[simp] theorem clk_modSlot (s : State) (n : Nat) (f : QSlot → QSlot) : (s.modSlot n f).clk = s.clk := rfl
@[simp] theorem us_modSlot (s : State) (n : Nat) (f : QSlot → QSlot) : (s.modSlot n f).us = s.us := rfl
@[simp] theorem mem_modSlot (s : State) (n : Nat) (f : QSlot → QSlot) : (s.modSlot n f).mem = s.mem := rfl
@[simp] theorem poison_modSlot (s : State) (n : Nat) (f : QSlot → QSlot) : (s.modSlot n f).poison = s.poison := rfl
@[simp] theorem hostMem_modSlot (s : State) (n : Nat) (f : QSlot → QSlot) : (s.modSlot n f).hostMem = s.hostMem := rfl
@[simp] theorem parts_modSlot (s : State) (n : Nat) (f : QSlot → QSlot) : (s.modSlot n f).parts = s.parts := rfl
@[simp] theorem acc_modSlot (s : State) (n : Nat) (f : QSlot → QSlot) : (s.modSlot n f).acc = s.acc := rfl
@[simp] theorem plmap_modSlot (s : State) (n : Nat) (f : QSlot → QSlot) : (s.modSlot n f).plmap = s.plmap := rfl
@[simp] theorem tlb_modSlot (s : State) (n : Nat) (f : QSlot → QSlot) : (s.modSlot n f).tlb = s.tlb := rfl
@[simp] theorem tickets_modSlot (s : State) (n : Nat) (f : QSlot → QSlot) : (s.modSlot n f).tickets = s.tickets := rfl
@[simp] theorem nextTicket_modSlot (s : State) (n : Nat) (f : QSlot → QSlot) : (s.modSlot n f).nextTicket = s.nextTicket := rfl
@[simp] theorem cores_modSlot (s : State) (n : Nat) (f : QSlot → QSlot) : (s.modSlot n f).cores = s.cores := rfl
@[simp] theorem slices_modSlot (s : State) (n : Nat) (f : QSlot → QSlot) : (s.modSlot n f).slices = s.slices := rfl
@[simp] theorem gangs_modSlot (s : State) (n : Nat) (f : QSlot → QSlot) : (s.modSlot n f).gangs = s.gangs := rfl
@[simp] theorem weaves_modSlot (s : State) (n : Nat) (f : QSlot → QSlot) : (s.modSlot n f).weaves = s.weaves := rfl
@[simp] theorem cohorts_modSlot (s : State) (n : Nat) (f : QSlot → QSlot) : (s.modSlot n f).cohorts = s.cohorts := rfl
@[simp] theorem launches_modSlot (s : State) (n : Nat) (f : QSlot → QSlot) : (s.modSlot n f).launches = s.launches := rfl
@[simp] theorem ops_modSlot (s : State) (n : Nat) (f : QSlot → QSlot) : (s.modSlot n f).ops = s.ops := rfl
@[simp] theorem bonds_modSlot (s : State) (n : Nat) (f : QSlot → QSlot) : (s.modSlot n f).bonds = s.bonds := rfl
@[simp] theorem nextKey_modSlot (s : State) (n : Nat) (f : QSlot → QSlot) : (s.modSlot n f).nextKey = s.nextKey := rfl
@[simp] theorem pendingOrder_modSlot (s : State) (n : Nat) (f : QSlot → QSlot) : (s.modSlot n f).pendingOrder = s.pendingOrder := rfl
@[simp] theorem watches_modSlot (s : State) (n : Nat) (f : QSlot → QSlot) : (s.modSlot n f).watches = s.watches := rfl
@[simp] theorem deps_modSlot (s : State) (n : Nat) (f : QSlot → QSlot) : (s.modSlot n f).deps = s.deps := rfl
@[simp] theorem ports_modSlot (s : State) (n : Nat) (f : QSlot → QSlot) : (s.modSlot n f).ports = s.ports := rfl
@[simp] theorem links_modSlot (s : State) (n : Nat) (f : QSlot → QSlot) : (s.modSlot n f).links = s.links := rfl
@[simp] theorem mailbox_modSlot (s : State) (n : Nat) (f : QSlot → QSlot) : (s.modSlot n f).mailbox = s.mailbox := rfl
@[simp] theorem alarm_modSlot (s : State) (n : Nat) (f : QSlot → QSlot) : (s.modSlot n f).alarm = s.alarm := rfl
@[simp] theorem status_modSlot (s : State) (n : Nat) (f : QSlot → QSlot) : (s.modSlot n f).status = s.status := rfl
@[simp] theorem fw_modSlot (s : State) (n : Nat) (f : QSlot → QSlot) : (s.modSlot n f).fw = s.fw := rfl
@[simp] theorem sensors_modSlot (s : State) (n : Nat) (f : QSlot → QSlot) : (s.modSlot n f).sensors = s.sensors := rfl
@[simp] theorem rails_modSlot (s : State) (n : Nat) (f : QSlot → QSlot) : (s.modSlot n f).rails = s.rails := rfl
@[simp] theorem tripped_modSlot (s : State) (n : Nat) (f : QSlot → QSlot) : (s.modSlot n f).tripped = s.tripped := rfl
@[simp] theorem hostReads_modSlot (s : State) (n : Nat) (f : QSlot → QSlot) : (s.modSlot n f).hostReads = s.hostReads := rfl
@[simp] theorem msix_modSlot (s : State) (n : Nat) (f : QSlot → QSlot) : (s.modSlot n f).msix = s.msix := rfl
@[simp] theorem doorbells_modSlot (s : State) (n : Nat) (f : QSlot → QSlot) : (s.modSlot n f).doorbells = s.doorbells := rfl
@[simp] theorem free_modSlot (s : State) (n : Nat) (f : QSlot → QSlot) : (s.modSlot n f).free = s.free := rfl
@[simp] theorem agenda_modSlot (s : State) (n : Nat) (f : QSlot → QSlot) : (s.modSlot n f).agenda = s.agenda := rfl
@[simp] theorem ev_modSlot (s : State) (n : Nat) (f : QSlot → QSlot) : (s.modSlot n f).ev = s.ev := rfl
@[simp] theorem issue_modSlot (s : State) (n : Nat) (f : QSlot → QSlot) : (s.modSlot n f).issue = s.issue := rfl
@[simp] theorem cur_modSlot (s : State) (n : Nat) (f : QSlot → QSlot) : (s.modSlot n f).cur = s.cur := rfl

/-! ### What is read back -/

theorem gang_modGang {s : State} {k : Nat} (h : (s.gangs.find k).isSome = true) (f : Gang → Gang) : (s.modGang k f).gang k = f (s.gang k) := by
  obtain ⟨x, hx⟩ := Option.isSome_iff_exists.mp h
  show Table.get {} (s.gangs.modify k f) k = f (Table.get {} s.gangs k)
  rw [Table.get_modify_same hx, Table.get_of_find hx]

theorem gang_modGang_ne (s : State) {k j : Nat} (f : Gang → Gang) (h : j ≠ k) : (s.modGang k f).gang j = s.gang j :=
  Table.get_modify_ne _ _ _ h

theorem launch_modLaunch {s : State} {k : Nat} (h : (s.launches.find k).isSome = true) (f : Launch → Launch) : (s.modLaunch k f).launch k = f (s.launch k) := by
  obtain ⟨x, hx⟩ := Option.isSome_iff_exists.mp h
  show Table.get {} (s.launches.modify k f) k = f (Table.get {} s.launches k)
  rw [Table.get_modify_same hx, Table.get_of_find hx]

theorem launch_modLaunch_ne (s : State) {k j : Nat} (f : Launch → Launch) (h : j ≠ k) : (s.modLaunch k f).launch j = s.launch j :=
  Table.get_modify_ne _ _ _ h

theorem cohort_modCohort {s : State} {k : Nat} (h : (s.cohorts.find k).isSome = true) (f : Cohort → Cohort) : (s.modCohort k f).cohort k = f (s.cohort k) := by
  obtain ⟨x, hx⟩ := Option.isSome_iff_exists.mp h
  show Table.get {} (s.cohorts.modify k f) k = f (Table.get {} s.cohorts k)
  rw [Table.get_modify_same hx, Table.get_of_find hx]

theorem cohort_modCohort_ne (s : State) {k j : Nat} (f : Cohort → Cohort) (h : j ≠ k) : (s.modCohort k f).cohort j = s.cohort j :=
  Table.get_modify_ne _ _ _ h

theorem op_modOp {s : State} {k : Nat} (h : (s.ops.find k).isSome = true) (f : AsyncOp → AsyncOp) : (s.modOp k f).op k = f (s.op k) := by
  obtain ⟨x, hx⟩ := Option.isSome_iff_exists.mp h
  show Table.get {} (s.ops.modify k f) k = f (Table.get {} s.ops k)
  rw [Table.get_modify_same hx, Table.get_of_find hx]

theorem op_modOp_ne (s : State) {k j : Nat} (f : AsyncOp → AsyncOp) (h : j ≠ k) : (s.modOp k f).op j = s.op j :=
  Table.get_modify_ne _ _ _ h

@[simp] theorem part_modPart (s : State) (k : Nat) (f : Partition → Partition) : (s.modPart k f).part k = f (s.part k) :=
  Table.get_set_same _ _ _ _

theorem part_modPart_ne (s : State) {k j : Nat} (f : Partition → Partition) (h : j ≠ k) : (s.modPart k f).part j = s.part j :=
  Table.get_set_ne _ _ _ h

@[simp] theorem slice_modSlice (s : State) (k : Nat) (f : Slice → Slice) : (s.modSlice k f).slice k = f (s.slice k) :=
  Table.get_set_same _ _ _ _

theorem slice_modSlice_ne (s : State) {k j : Nat} (f : Slice → Slice) (h : j ≠ k) : (s.modSlice k f).slice j = s.slice j :=
  Table.get_set_ne _ _ _ h

@[simp] theorem core_modCore (s : State) (k : Nat) (f : Core → Core) : (s.modCore k f).core k = f (s.core k) :=
  Table.get_set_same _ _ _ _

theorem core_modCore_ne (s : State) {k j : Nat} (f : Core → Core) (h : j ≠ k) : (s.modCore k f).core j = s.core j :=
  Table.get_set_ne _ _ _ h

@[simp] theorem port_modPort (s : State) (k : Nat) (f : Port → Port) : (s.modPort k f).port k = f (s.port k) :=
  Table.get_set_same _ _ _ _

theorem port_modPort_ne (s : State) {k j : Nat} (f : Port → Port) (h : j ≠ k) : (s.modPort k f).port j = s.port j :=
  Table.get_set_ne _ _ _ h

end Sys2Proof.Machine
end

