-- ==== Sys2Proof/Laws/Kept.lean ====
section
/-! SUPPORT. What the shared operations do to memory: those of the first part leave it as it was, those of the second keep
its canonical form. -/

namespace Sys2Proof.Machine

open Sys2Proof

/-- Memory and host memory. -/
def State.mems (s : State) : List Host.Cell × List Host.Cell := (s.mem, s.hostMem)

theorem memOk_of_mems {s t : State} (h : t.mems = s.mems) (hs : s.memOk) : t.memOk := by
  have h1 : t.mem = s.mem := congrArg Prod.fst h
  have h2 : t.hostMem = s.hostMem := congrArg Prod.snd h
  rw [State.memOk, h1, h2]
  exact hs

/-- What every turn of a fold keeps, the fold keeps. -/
theorem foldl_keeps {σ α β : Type} (g : σ → β) (f : σ → α → σ) (h : ∀ s x, g (f s x) = g s) (xs : List α) (s : σ) :
    g (xs.foldl f s) = g s := by
  induction xs generalizing s with
  | nil => rfl
  | cons x xs ih => rw [List.foldl_cons, ih, h]

theorem foldl_mems {α : Type} (f : State → α → State) (h : ∀ s x, (f s x).mems = s.mems) (xs : List α) (s : State) :
    (xs.foldl f s).mems = s.mems := foldl_keeps State.mems f h xs s

theorem foldl_inv {σ α : Type} (p : σ → Prop) (f : σ → α → σ) (h : ∀ s x, p s → p (f s x)) (xs : List α) (s : σ) (hs : p s) :
    p (xs.foldl f s) := by
  induction xs generalizing s with
  | nil => exact hs
  | cons x xs ih => exact ih _ (h _ _ hs)

/-! ### Memory is as it was -/

@[simp] theorem mems_modWeave (s : State) (k : Nat) (f : Weave → Weave) : (s.modWeave k f).mems = s.mems := rfl
@[simp] theorem mems_modGang (s : State) (k : Nat) (f : Gang → Gang) : (s.modGang k f).mems = s.mems := rfl
@[simp] theorem mems_modLaunch (s : State) (k : Nat) (f : Launch → Launch) : (s.modLaunch k f).mems = s.mems := rfl
@[simp] theorem mems_modCohort (s : State) (k : Nat) (f : Cohort → Cohort) : (s.modCohort k f).mems = s.mems := rfl
@[simp] theorem mems_modOp (s : State) (k : Nat) (f : AsyncOp → AsyncOp) : (s.modOp k f).mems = s.mems := rfl
@[simp] theorem mems_modBond (s : State) (k : Nat) (f : Bond → Bond) : (s.modBond k f).mems = s.mems := rfl
@[simp] theorem mems_modPart (s : State) (k : Nat) (f : Partition → Partition) : (s.modPart k f).mems = s.mems := rfl
@[simp] theorem mems_modSlice (s : State) (k : Nat) (f : Slice → Slice) : (s.modSlice k f).mems = s.mems := rfl
@[simp] theorem mems_modCore (s : State) (k : Nat) (f : Core → Core) : (s.modCore k f).mems = s.mems := rfl
@[simp] theorem mems_modPort (s : State) (k : Nat) (f : Port → Port) : (s.modPort k f).mems = s.mems := rfl
@[simp] theorem mems_modSlot (s : State) (k : Nat) (f : QSlot → QSlot) : (s.modSlot k f).mems = s.mems := rfl
@[simp] theorem mems_resolve (s : State) (r : Nat) (st : Word) : (s.resolve r st).mems = s.mems := rfl
@[simp] theorem mems_cancelOp (s : State) (r : Nat) : (s.cancelOp r).mems = s.mems := rfl
@[simp] theorem mems_setConv (s : State) (home c : Nat) (v : Conv) : (s.setConv home c v).mems = s.mems := rfl
@[simp] theorem mems_advance (s : State) (c : Ctx) (m : BitVec 32) : (s.advance c m).mems = s.mems := rfl
@[simp] theorem mems_jump (s : State) (c : Ctx) (m : BitVec 32) (t : Dbl) : (s.jump c m t).mems = s.mems := rfl
@[simp] theorem mems_holdLanes (s : State) (c : Ctx) (m : BitVec 32) (h : Hold) : (s.holdLanes c m h).mems = s.mems := rfl
@[simp] theorem mems_holdIssue (s : State) (c : Ctx) (e : Env) (h : Hold) : (s.holdIssue c e h).mems = s.mems := rfl
@[simp] theorem mems_l1Drop (s : State) (c : Nat) (f : L1Line → Bool) : (s.l1Drop c f).mems = s.mems := rfl
@[simp] theorem mems_l1Fresh (s : State) (c p : Nat) (t : Option Nat) (pa n : Nat) : (s.l1Fresh c p t pa n).mems = s.mems := rfl
@[simp] theorem mems_takeTurn (s : State) (c u l : Nat) : (s.takeTurn c u l).mems = s.mems := rfl
@[simp] theorem mems_acquire (s : State) (c p : Nat) : (s.acquire c p).mems = s.mems := rfl
@[simp] theorem mems_markTileFailed (s : State) (l t : Nat) : (s.markTileFailed l t).mems = s.mems := rfl
@[simp] theorem mems_evalWatches (s : State) (pa n : Nat) : (s.evalWatches pa n).mems = s.mems := rfl
@[simp] theorem mems_logRefusal (s : State) (t m pa : Nat) (k : AccessKind) : (s.logRefusal t m pa k).mems = s.mems := rfl
@[simp] theorem mems_logUnpopulated (s : State) (p pa : Nat) : (s.logUnpopulated p pa).mems = s.mems := rfl
@[simp] theorem mems_tlbPut (s : State) (c : Nat) (t : Tlb) : (s.tlbPut c t).mems = s.mems := by
  unfold State.tlbPut
  dsimp only
  split <;> rfl
@[simp] theorem mems_tlbDrop (s : State) (p va n : Nat) (f : Tlb → Bool) : (s.tlbDrop p va n f).mems = s.mems := rfl
@[simp] theorem mems_stallOp (s : State) (r : Nat) (t : Option Nat) (k : AccessKind) : (s.stallOp r t k).mems = s.mems := rfl
@[simp] theorem mems_unasked (s s0 : State) : (s.unasked s0).mems = s.mems := rfl
@[simp] theorem mems_next (s : State) (i : Instr) (a b c : Nat) : (s.next_ i a b c).mems = s.mems := rfl
@[simp] theorem mems_logError (s : State) (c : Nat) (u : Bool) (d n p m : Nat) : (s.logError c u d n p m).mems = s.mems := rfl
@[simp] theorem mems_mailDone (s : State) (m : Nat) : (s.mailDone m).mems = s.mems := rfl

@[simp] theorem mems_modHome (s : State) (pa : Nat) (f : Slice → Slice) : (s.modHome pa f).mems = s.mems := by
  unfold State.modHome
  split <;> rfl

@[simp] theorem mems_countOnly (s : State) (p pa kind d : Nat) : (s.countOnly p pa kind d).mems = s.mems := mems_modHome ..
@[simp] theorem mems_lineRequest (s : State) (p pa : Nat) (w : Bool) (m : BitVec 64) : (s.lineRequest p pa w m).mems = s.mems := mems_modHome ..
@[simp] theorem mems_count (s : State) (p pa kind d : Nat) : (s.count p pa kind d).mems = s.mems := by simp [State.count]
@[simp] theorem mems_countWrite (s : State) (p : Nat) (t : Option Nat) (pa n d : Nat) : (s.countWrite p t pa n d).mems = s.mems := by
  unfold State.countWrite
  dsimp only
  split <;> simp
@[simp] theorem mems_countOp (s : State) (p pa n d : Nat) : (s.countOp p pa n d).mems = s.mems := by simp [State.countOp]

@[simp] theorem mems_resolveShares (s : State) (t : Table Share) (st : Word) : (s.resolveShares t st).mems = s.mems := by
  refine foldl_mems _ (fun s x => ?_) _ _
  simp

@[simp] theorem mems_releaseSigners (s : State) (home c : Nat) (r : Half) : (s.releaseSigners home c r).mems = s.mems := by
  refine foldl_mems _ (fun s x => ?_) _ _
  refine foldl_mems _ (fun s x => ?_) _ _
  refine foldl_mems _ (fun s x => ?_) _ _
  simp

@[simp] theorem mems_convCheck (s : State) (home c : Nat) : (s.convCheck home c).mems = s.mems := by
  have hb : ∀ (s : State) (b : Table Bond), ({ s with bonds := b } : State).mems = s.mems := fun _ _ => rfl
  have hf : ∀ (s0 s : State) (t : Table Bond), (t.foldl (fun s e =>
      if s0.bondHome e.2 = home ∧ e.2.c = c then s.resolveShares e.2.shares 0#32 else s) s).mems = s.mems := fun s0 s t =>
    foldl_mems _ (fun s x => by split <;> simp) _ _
  unfold State.convCheck
  dsimp only
  split
  · split <;> split <;> simp [hb, hf]
  · split
    · split
      · split <;> split <;> simp [hb]
      · split <;> simp
    · split <;> simp

@[simp] theorem mems_convCheckAll (s : State) (g : Nat) : (s.convCheckAll g).mems = s.mems := by
  refine foldl_mems _ (fun s x => ?_) _ _
  simp

@[simp] theorem mems_gbarCheck (s : State) (g : Nat) : (s.gbarCheck g).mems = s.mems := by
  unfold State.gbarCheck
  dsimp only
  split
  · rw [mems_modGang]
    refine foldl_mems _ (fun s x => ?_) _ _
    simp
  · simp

@[simp] theorem mems_cbarCheck (s : State) (g : Nat) : (s.cbarCheck g).mems = s.mems := by
  unfold State.cbarCheck
  dsimp only
  split
  · refine (foldl_mems _ (fun s x => ?_) _ _).trans (foldl_mems _ (fun s x => ?_) _ _) <;> simp
  · refine foldl_mems _ (fun s x => ?_) _ _
    simp

@[simp] theorem mems_exit (s : State) (wk : Nat) (m : BitVec 32) : (s.exit wk m).mems = s.mems := by simp [State.exit]

@[simp] theorem mems_killGang (s : State) (g : Nat) : (s.killGang g).mems = s.mems := by
  unfold State.killGang
  rw [mems_cbarCheck, mems_convCheckAll]
  refine (foldl_mems _ (fun s x => ?_) _ _).trans (foldl_mems _ (fun s x => ?_) _ _)
  · simp
  · split <;> simp

@[simp] theorem mems_endLaunch (s : State) (l : Nat) (st : Word) : (s.endLaunch l st).mems = s.mems := by
  refine foldl_mems _ (fun s x => ?_) _ _
  simp

@[simp] theorem mems_failTile (s : State) (l t : Nat) : (s.failTile l t).mems = s.mems := by
  refine foldl_mems _ (fun s x => ?_) _ _
  simp

@[simp] theorem mems_fatal (s : State) (g : Nat) (st : Word) : (s.fatal g st).mems = s.mems := by
  unfold State.fatal
  split <;> simp [State.guardFault]

@[simp] theorem mems_accept (s : State) (r : Nat) : (s.accept r).mems = s.mems := by
  unfold State.accept
  dsimp only
  split
  · rfl
  · repeat' split
    all_goals rfl

@[simp] theorem mems_acceptAll (s : State) (wk : Nat) : (s.acceptAll wk).mems = s.mems := by
  refine foldl_mems _ (fun s x => ?_) _ _
  split <;> simp

@[simp] theorem mems_enterHandler (s : State) (wk : Nat) (f : PendFault) : (s.enterHandler wk f).mems = s.mems := by
  unfold State.enterHandler
  simp

@[simp] theorem mems_raise (s : State) (wk : Nat) (f : PendFault) : (s.raise wk f).mems = s.mems := by
  unfold State.raise
  dsimp only
  repeat' split
  all_goals simp

@[simp] theorem mems_fault (s : State) (c : Ctx) (m : BitVec 32) (st : Word) (a : Dbl) : (s.fault c m st a).mems = s.mems := by
  simp [State.fault]

@[simp] theorem mems_deliverPend (s : State) (wk : Nat) : (s.deliverPend wk).mems = s.mems := by
  unfold State.deliverPend
  dsimp only
  repeat' split
  all_goals simp

@[simp] theorem mems_unpause (s : State) (g : Nat) : (s.unpause g).mems = s.mems := by
  unfold State.unpause
  split <;> rfl

@[simp] theorem mems_eret (s : State) (wk : Nat) (m : BitVec 32) : (s.eret wk m).mems = s.mems := by
  unfold State.eret
  dsimp only
  rw [mems_deliverPend]
  split <;> simp

@[simp] theorem mems_parkLanes (s : State) (wk : Nat) (p : List (Nat × Nat × Nat)) (k : AccessKind) : (s.parkLanes wk p k).mems = s.mems := rfl

@[simp] theorem mems_deliverFaults (s : State) (c : Ctx) (f : List (Nat × Word × Nat)) : (s.deliverFaults c f).mems = s.mems := by
  refine foldl_mems _ (fun s x => ?_) _ _
  simp

@[simp] theorem mems_finishAcc (s : State) (c : Ctx) (m : BitVec 32) (a : LaneAcc) (k : AccessKind) : (s.finishAcc c m a k).mems = s.mems := by
  simp [State.finishAcc]

@[simp] theorem mems_choose (s : State) : (s.choose).2.mems = s.mems := rfl
@[simp] theorem mems_takeFree (s : State) (n : Nat) : (s.takeFree n).2.mems = s.mems := rfl
@[simp] theorem mems_fresh (s : State) : (s.fresh).2.mems = s.mems := rfl

@[simp] theorem mems_countWalk (s : State) (p va : Nat) : (s.countWalk p va).mems = s.mems := by
  unfold State.countWalk
  dsimp only
  split
  · exact foldl_mems _ (fun _ _ => mems_count _ _ _ _ _) _ _
  · rfl

@[simp] theorem mems_pageFault (s : State) (p va : Nat) (k : AccessKind) (st : Word) (w : Asker) : (s.pageFault p va k st w).1.mems = s.mems := by
  unfold State.pageFault
  split
  · rfl
  · split <;> rfl

@[simp] theorem mems_checkPhysical (s : State) (p m pa n : Nat) (k : AccessKind) (h : Bool) : (s.checkPhysical p m pa n k h).1.mems = s.mems := by
  unfold State.checkPhysical
  repeat' split
  all_goals simp

theorem mems_foldl_modSlice (ks : List Nat) (f : Nat → Slice → Slice) (s : State) : (ks.foldl (fun s k => s.modSlice k (f k)) s).mems = s.mems := by
  refine foldl_mems _ (fun s x => ?_) _ _
  simp

@[simp] theorem mems_provSector (s : State) (p tag pa : Nat) (b : List Byte) : (s.provSector p tag pa b).mems = s.mems := by
  unfold State.provSector
  generalize List.range 128 = ks
  dsimp only
  split
  · rfl
  · split
    · rw [mems_modSlice]
    · split
      · rw [mems_modSlice]
      · split
        · rw [mems_markTileFailed, mems_foldl_modSlice ks fun _ x => { x with overfull := x.overfull ++ [(p, tag)] }]
        · rw [mems_foldl_modSlice ks fun _ x => { x with overfull := x.overfull ++ [(p, tag)] }]

@[simp] theorem mems_provWrite (s : State) (p tag pa : Nat) (b : List Byte) (n : Nat) : (s.provWrite p tag pa b n).mems = s.mems := by
  induction n generalizing s pa b with
  | zero => rfl
  | succ n ih =>
    unfold State.provWrite
    split
    · rfl
    · rw [ih, mems_provSector]

@[simp] theorem mems_l1Load (s : State) (c p k : Nat) (t : Option Nat) (va pa n : Nat) : (s.l1Load c p k t va pa n).1.mems = s.mems := by
  unfold State.l1Load
  dsimp only
  split
  · simp
  · split
    · rfl
    · split <;> simp

/-! ### Memory keeps its canonical form -/

/-- A committed write writes its bytes. -/
theorem mem_commitWrite (s : State) (pa : Nat) (b : List Byte) : (s.commitWrite pa b).mem = memWrite s.mem pa b := rfl
theorem hostMem_commitWrite (s : State) (pa : Nat) (b : List Byte) : (s.commitWrite pa b).hostMem = s.hostMem := rfl

theorem memOk_commitWrite {s : State} (pa : Nat) (b : List Byte) (h : s.memOk) : (s.commitWrite pa b).memOk :=
  ⟨wf_memWrite pa b h.1, h.2⟩

theorem memOk_agentWrite {s : State} (p m : Nat) (t : Option Nat) (pa : Nat) (b : List Byte) (h : s.memOk) : (s.agentWrite p m t pa b).memOk := by
  unfold State.agentWrite
  split
  · exact h
  · split
    · exact memOk_of_mems (mems_provWrite _ _ _ _ _ _) h
    · exact memOk_commitWrite _ _ h

theorem memOk_pteOr {s : State} (p pte m : Nat) (h : s.memOk) : (s.pteOr p pte m).memOk := by
  unfold State.pteOr
  dsimp only
  split
  · exact h
  · exact memOk_of_mems (by rw [mems_lineRequest, mems_count]) (memOk_commitWrite _ _ h)

theorem memOk_useLeaf {s : State} (c p va : Nat) (k : AccessKind) (w : Walk) (h : s.memOk) : (s.useLeaf c p va k w).1.memOk := by
  have h1 : (s.countWalk p va).memOk := memOk_of_mems (mems_countWalk _ _ _) h
  unfold State.useLeaf
  dsimp only
  split
  · exact h1
  · exact h1
  · refine memOk_of_mems (?_ : _ = _) h1
    dsimp only
    split
    · split <;> simp
    · simp
  · split
    · exact h1
    · split
      · exact memOk_of_mems (mems_logRefusal _ _ _ _ _) h1
      · exact memOk_of_mems (mems_tlbPut _ _ _) (memOk_pteOr _ _ _ h1)

theorem memOk_translate {s : State} (c p va : Nat) (k : AccessKind) (h : s.memOk) : (s.translate c p va k).1.memOk := by
  have hc : s.choose.2.memOk := memOk_of_mems (mems_choose s) h
  unfold State.translate
  dsimp only
  repeat' split
  all_goals first | exact h | exact hc | exact memOk_useLeaf _ _ _ _ _ h

theorem memOk_pageFault {s : State} (p va : Nat) (k : AccessKind) (st : Word) (w : Asker) (h : s.memOk) : (s.pageFault p va k st w).1.memOk :=
  memOk_of_mems (mems_pageFault _ _ _ _ _ _) h

theorem memOk_check {s : State} (p m : Nat) (w : Asker) (va n al : Nat) (k : AccessKind) (ho q : Bool) (h : s.memOk) :
    (s.check p m w va n al k ho q).1.memOk := by
  have ht := memOk_translate w.cluster p va k h
  unfold State.check
  split
  · exact h
  · split
    · exact h
    · split
      next e => rw [e] at ht; exact ht
      next st e =>
        rw [e] at ht
        split
        · exact ht
        · split
          next e2 =>
            have h2 := memOk_pageFault p va k st w ht
            rw [e2] at h2
            exact h2
          next e2 =>
            have h2 := memOk_pageFault p va k st w ht
            rw [e2] at h2
            exact h2
      next e =>
        rw [e] at ht
        exact memOk_of_mems (mems_checkPhysical _ _ _ _ _ _ _) ht

theorem memOk_fetchWord {s : State} (c p va : Nat) (w : Asker) (q : Bool) (h : s.memOk) : (s.fetchWord c p va w q).1.memOk := by
  have hk := memOk_check p (8 * p) w va 8 1 .fetch false q h
  unfold State.fetchWord
  split
  next e => rw [e] at hk; exact hk
  next e => rw [e] at hk; exact hk
  next s1 pa e =>
    rw [e] at hk
    dsimp only
    split
    · split
      · exact hk
      · exact memOk_of_mems (by simp) hk
    · split
      · exact hk
      · split
        · exact memOk_of_mems (mems_choose s1) hk
        · exact memOk_of_mems (by simp) hk

/-! ### The accesses of the engines and of the front end -/

theorem memOk_engRead {s : State} (q : EngAsk) (va n : Nat) (h : s.memOk) : (s.engRead q va n).1.memOk := by
  unfold State.engRead
  refine foldl_inv (fun r : State × Got => r.1.memOk) _ (fun r e hr => ?_) _ _ h
  obtain ⟨s, g⟩ := r
  dsimp only at hr ⊢
  split
  · have hk := memOk_check q.part q.master q.who (e.1 % 2 ^ 64) e.2 1 .read false false hr
    split
    next e =>
      rw [e] at hk
      split
      · exact memOk_of_mems (mems_unasked _ _) hk
      · exact memOk_of_mems (mems_count _ _ _ _ _) hk
    next e => rw [e] at hk; exact hk
    next e => rw [e] at hk; exact memOk_of_mems (mems_unasked _ _) hk
  · exact hr

theorem memOk_engPut {s : State} (q : EngAsk) (ps : List (Nat × Nat)) (b : List Byte) (h : s.memOk) : (s.engPut q ps b).memOk := by
  unfold State.engPut
  refine foldl_inv (fun r : State × List Byte => r.1.memOk) _ (fun r e hr => ?_) _ _ h
  exact memOk_of_mems (mems_countWrite _ _ _ _ _ _) (memOk_agentWrite _ _ _ _ _ hr)

theorem memOk_feRead {s : State} (p va n : Nat) (ho : Bool) (h : s.memOk) : (s.feRead p va n ho).1.memOk := by
  unfold State.feRead
  refine foldl_inv (fun r : State × Got => r.1.memOk) _ (fun r e hr => ?_) _ _ h
  obtain ⟨s, g⟩ := r
  dsimp only at hr ⊢
  split
  · have hk := memOk_check p (8 * p + 6) frontAsker (e.1 % 2 ^ 64) e.2 1 .read ho false hr
    split
    next e =>
      rw [e] at hk
      split
      · exact memOk_of_mems (mems_unasked _ _) hk
      · exact memOk_of_mems (mems_count _ _ _ _ _) hk
    next e => rw [e] at hk; exact hk
    next e => rw [e] at hk; exact memOk_of_mems (mems_unasked _ _) hk
  · exact hr

theorem memOk_fePut {s : State} (p va : Nat) (b : List Byte) (h : s.memOk) : (s.fePut p va b).memOk := by
  unfold State.fePut
  refine foldl_inv (fun r : State × List Byte => r.1.memOk) _ (fun r e hr => ?_) _ _ h
  obtain ⟨s, bs⟩ := r
  dsimp only at hr ⊢
  have hk := memOk_check p (8 * p + 6) frontAsker (e.1 % 2 ^ 64) e.2 1 .write false true hr
  split
  next e => rw [e] at hk; exact memOk_of_mems (mems_countWrite _ _ _ _ _ _) (memOk_agentWrite _ _ _ _ _ hk)
  next e => rw [e] at hk; exact hk

theorem memOk_feAdd {s : State} (p va n : Nat) (h : s.memOk) : (s.feAdd p va n).memOk := by
  have hk := memOk_check p (8 * p + 6) frontAsker va 8 8 .rmw true true h
  unfold State.feAdd
  split
  next e => rw [e] at hk; exact memOk_of_mems (mems_count _ _ _ _ _) (memOk_commitWrite _ _ hk)
  next e => rw [e] at hk; exact hk

theorem memOk_mergeSector {s : State} (e : ProvEntry) (h : s.memOk) : (s.mergeSector e).memOk :=
  ⟨wf_foldl_set _ h.1, h.2⟩

theorem memOk_putRecord {s : State} (l : Nat) (h : s.memOk) : (s.putRecord l).memOk := memOk_fePut _ _ _ h

theorem memOk_setStage {s : State} (l st : Nat) (h : s.memOk) : (s.setStage l st).memOk := by
  unfold State.setStage
  refine memOk_putRecord _ ?_
  split
  · exact h
  · exact h

end Sys2Proof.Machine
end

