-- ==== Sys2Proof/Tests/Slice0.lean ====
section
/-! SUPPORT. Tests: worked words, ill-formed terms, results that the chapters give, and for every statement a state and
operands that meet its hypotheses. -/

set_option Elab.async false

namespace Sys2Proof.Tests

open Sys2Proof Sys2Proof.Machine

/-! ### A small machine with one weave -/

/-- Lanes 0, 3, 30 and 31 of weave 16. -/
def slot0 : IssueSlot := { wk := 16, pc := 0x10008, lanes := 0xC0000009 }
def gang0 : Gang :=
  { launch := 1, kaddr := 0x10000, weaves := 2, vreg := 320, sreg := 64, preg := 16, hreg := 16, accr := 512, treg := 8, spb := 16, cohort := 1 }
def lane0 : Lane := { pc := 0x10008, clause := 1, gen := 1 }
def weave0 : Weave :=
  { gang := 1, clauses := [(1, { hdr := 0x10000, len := 1 })], nextId := 2, lanes := (List.range 32).map fun l => (l, lane0) }
def base : State :=
  { launches := [(1, { packet := [(2, 0x0000040000200001#64)], state := 5, nextg := 1 })]
    cohorts := [(1, { launch := 1, gangs := [(0, 1)] })]
    gangs := [(1, gang0)], weaves := [(16, weave0)], nextKey := 2, cur := some (.weave slot0) }

/-- The context of the word in hand. -/
abbrev ctx (s : State) : Ctx := s.ctxOf slot0

/-- A state meets every hypothesis of a clause of the form `Runs`, in the words of the clause itself. -/
def Met {P : Prop} {i : Instr} {gate : State → Ctx → Gate} {ok : Issue → Prop} {post : Issue → State → Prop}
    (_ : P → Runs i gate ok post) (s : State) : Prop :=
  s.inHand (ctx s) ∧ s.passes (ctx s) (gate s (ctx s)) = true ∧ ok (s.issueOf (ctx s) (gate s (ctx s)))

theorem met {P : Prop} {i : Instr} {gate : State → Ctx → Gate} {ok : Issue → Prop} {post : Issue → State → Prop}
    {c : P → Runs i gate ok post} {s : State} (p : s.passes (ctx s) (gate s (ctx s)) = true)
    (o : ok (s.issueOf (ctx s) (gate s (ctx s)))) (hc : s.cur = some (.weave slot0) := by rfl)
    (hw : (s.weaves.find 16).isSome = true := by rfl) : Met c s :=
  ⟨⟨slot0, hc, hw, rfl⟩, p, o⟩

theorem runs {x : Issue} (h : x.act ≠ 0 := by decide +kernel) : anyLane x := h
theorem live {x : Issue} (h : x.act &&& ~~~x.k.helpers ≠ 0 := by decide +kernel) : someLane x := h

/-- Each of `n` gates passes for one of some words. -/
def allPass {α : Type} (s : State) (gates : α → List (State → Ctx → Gate)) (n : Nat) (ws : List α) : Bool :=
  ws.all (fun w => (gates w).length == n) && (List.range n).all fun i => ws.any fun w =>
    match (gates w)[i]? with | some g => s.passes (ctx s) (g s (ctx s)) | none => false

/-- Words of three operands: vectors, predicates, a source C (MODB holds it), one source, a conversion. -/
def w3 : F3 := wordF3 (.v 1) (.v 2) (.v 3) 0 0
def withC (w : F3) (o : Operand) : F3 := { w with modb := (encodeOperand o).setWidth 12 <<< 3 }
def w3c : F3 := withC w3 (.v 4)
def w1 : F3 := wordF3 (.v 1) (.v 0) (.v 3) 0 0
def wp : F3 := wordF3 (.p 1) (.p 2) (.p 3) 0 0
def wcmp : F3 := wordF3 (.p 1) (.v 2) (.v 3) 0 0
def wsel : F3 := withC w3 (.p 2)
def w0 : F3 := wordF3 (.v 0) (.v 0) (.v 0) 0 0
def wi : FI := wordFI (.v 1) (.v 2) 5 0 0

theorem notPending {v : HState} (h : v = .empty := by decide +kernel) (r : Nat) : v ≠ .pending r := by rw [h]; exact nofun

/-- The base with something else in the weave, the gang or the cohort. -/
def withWeave (f : Weave → Weave) : State := base.modWeave 16 f
def withGang (f : Gang → Gang) : State := base.modGang 1 f
/-- The base with an operation record that handle h1 refers to. -/
def withOp (o : AsyncOp) : State :=
  { withWeave fun w => { w with handles := [(1, some 9)] } with ops := [(9, { o with gang := 1, launch := 1, wk := 16 })] }
def privileged : State := withWeave fun w => { w with lanes := w.lanes.map fun e => (e.1, { e.2 with priv := true }) }
/-- A partition with a trap handler. -/
def trapped : State := { base with parts := [(0, { ctl := { tvec := 0x40000 } })] }
theorem enters {s : State} {wk : Nat} {m : BitVec 32}
    (h : ((s.weaves.find wk).isSome = true ∧ m &&& (s.weave wk).liveMask ≠ 0 ∧ (s.part (s.gang (s.weave wk).gang).part).ctl.tvec ≠ 0 ∧
      s.busyTrap wk (m &&& (s.weave wk).liveMask) = false ∧ (s.weave wk).pend = []) ∧
      ∀ l, l < 32 → m.getLsbD l = true → ((s.weave wk).lane l).priv = false := by decide +kernel) :
    s.canEnter wk m := h
theorem isCalm {s : State} {wk : Nat} {m : BitVec 32}
    (h : (s.weaves.find wk).isSome = true ∧ m &&& (s.weave wk).liveMask ≠ 0 ∧ (s.part (s.gang (s.weave wk).gang).part).ctl.tvec ≠ 0 ∧
      s.busyTrap wk (m &&& (s.weave wk).liveMask) = false ∧ (s.weave wk).pend = [] := by decide +kernel) : s.calm wk m := h
/-- The first two megabytes mapped onto themselves, readable and writable by partition 0; s8 holds an address. -/
def row0 : AccRow := { ranges := [(0, { v := true, base := 0, limit := hbmEnd, rights := 7 })] }
def mapped : State := { withWeave fun w => { w with sregs := [(8, 0x20000#32), (20, 0x3000#32)] } with
  mem := [(0x1000, 1), (0x1001, 0x20), (0x2000, 1), (0x2001, 0x30), (0x3000, 0x7F)]
  status := { dies := 0xF, svc := 2 }
  acc := (List.range 136).map fun i => (i, { rows := (List.range 8).map fun m => (m, row0) })
  parts := [(0, { ctl := { act := true, tvec := 0x40000 }, trans := { en := true, ptroot := 1 } })] }

/-- A check of lanes whose lanes all pass. -/
theorem passed {r : State × LaneAcc} (h : r.2 = { pass := r.2.pass } := by decide +kernel) : r = (r.1, { pass := r.2.pass }) :=
  Prod.ext rfl h
theorem passedOne {r : State × Check} {pa : Nat} (h : r.2 = .pass pa := by decide +kernel) : r = (r.1, .pass pa) := Prod.ext rfl h
theorem loaded {r : State × List (Nat × List Byte) × BitVec 32} (h : r.2.2 = 0 := by decide +kernel) : r = (r.1, r.2.1, 0) :=
  Prod.ext rfl (Prod.ext rfl h)
theorem loadedOne {r : State × Option (List Byte)} {bs : List Byte} (h : r.2 = some bs := by decide +kernel) : r = (r.1, some bs) := Prod.ext rfl h
theorem flushedTo {r : Option State} (h : r.isSome = true := by decide +kernel) : r = some (r.get h) := (Option.some_get h).symm

/-- The hypotheses of a clause, in the words of the clause itself. -/
abbrev Hyp {P A B : Prop} (_ : P → A → B) : Prop := A
abbrev Hyp2 {P A B C : Prop} (_ : P → A → B → C) : Prop := A ∧ B
abbrev Hyp3 {P A B C D : Prop} (_ : P → A → B → C → D) : Prop := A ∧ B ∧ C
abbrev Hyp4 {P A B C D E : Prop} (_ : P → A → B → C → D → E) : Prop := A ∧ B ∧ C ∧ D
abbrev Hyp5 {P A B C D E F : Prop} (_ : P → A → B → C → D → E → F) : Prop := A ∧ B ∧ C ∧ D ∧ E
abbrev Hyp6 {P A B C D E F G : Prop} (_ : P → A → B → C → D → E → F → G) : Prop := A ∧ B ∧ C ∧ D ∧ E ∧ F
abbrev Hyp7 {P A B C D E F G H : Prop} (_ : P → A → B → C → D → E → F → G → H) : Prop := A ∧ B ∧ C ∧ D ∧ E ∧ F ∧ G
abbrev Hyp9 {P A B C D E F G H I J : Prop} (_ : P → A → B → C → D → E → F → G → H → I → J) : Prop := A ∧ B ∧ C ∧ D ∧ E ∧ F ∧ G ∧ H ∧ I
abbrev Hyp8 {P A B C D E F G H I : Prop} (_ : P → A → B → C → D → E → F → G → H → I) : Prop := A ∧ B ∧ C ∧ D ∧ E ∧ F ∧ G ∧ H
abbrev Hyp10 {P A B C D E F G H I J K : Prop} (_ : P → A → B → C → D → E → F → G → H → I → J → K) : Prop := A ∧ B ∧ C ∧ D ∧ E ∧ F ∧ G ∧ H ∧ I ∧ J
def fx (b : BitVec 6) (u : BitVec 8) (m : BitVec 24) : FX := wordFX b 2 false u m
theorem can {x : Issue} {w : FX} (a : w.afen = false := by rfl) (h : x.s.handle x.w w.hdst.toNat = .empty := by decide +kernel) : x.canCommand w :=
  ⟨.inr (notPending h), fun e => by rw [a] at e; cases e⟩

/-- An event in hand, with its arguments. -/
def event (s : State) (a : EvArgs) : State := { s with cur := none, ev := a }

/-- Queue 0 of partition 0: its record at 0x30000, a ring of four doublewords at 0x31000 with one entry. -/
def queued (count : Byte) : State := { mapped with
  mem := mapped.mem ++ [(0x30001, 0x10), (0x30002, 3), (0x30008, 4), (0x3000A, 4), (0x30014, count), (0x31000, 0x2A)]
  parts := [(0, { ctl := { act := true, tvec := 0x40000, qtbase := 0x30000, wquota := 8 }, trans := { en := true, ptroot := 1 } })] }

def bond0 : Bond := { h := 2, cohort := 1, members := [1, 2], state := .formed, leases := [(0, 1)] }

def bytesOfGot (g : Got) : Option (List Byte) := match g with | .bytes b => some b | _ => none
theorem got {r : State × Got} (h : (bytesOfGot r.2).isSome = true := by decide +kernel) : r = (r.1, .bytes ((bytesOfGot r.2).get h)) := by
  obtain ⟨s, g⟩ := r
  cases g with
  | bytes b => rfl
  | fault _ _ => cases h
  | wait _ _ => cases h
theorem placed {r : State × ((Nat × Bool) ⊕ Got)} {p : Nat × Bool} (h : r.2.getLeft? = some p := by decide +kernel) : r = (r.1, .inl p) :=
  Prod.ext rfl (Sum.getLeft?_eq_some_iff.mp h)
theorem isSomePair {r : Option (Nat × State)} (h : r.isSome = true := by decide +kernel) : r = some ((r.get h).1, (r.get h).2) :=
  (Option.some_get h).symm

/-! ### Worked words of the chapters -/

/-- Lane arithmetic, both slot forms (the chapter "Instruction encoding"); `CVT`, `FADD` with an immediate. -/
theorem test_decode_lanes :
    decode 0x0000502C18B18640 = .ok (.iadd { wordF3 (.v 10) (.v 11) (.v 12) 0 3 with modb := 0x58C, hold := 1 }) ∧
    decode 0x9001012007035080 = .ok (.d2Word { op := .fadd, d := .v 4, s := .v 9, pred := 0, neg := false, mods := 0 }
      { op := .imax, d := .v 6, s := .s 2, pred := 0, neg := false, mods := 0 }) ∧
    decode 0x0980094002000000 = .ok (.cvt (wordF3 (.v 1) (.v 80) (.v 1) 0 0)) ∧
    decode 0x4800180CFF000000 = .ok (.faddFi (wordFI (.v 3) (.v 3) 0x3FC000 0 0)) := by decide +kernel
theorem test_decode_sequencer :
    decode 0x5060A00000001800 = .ok (.meet (wordFI (.v 20) (.v 0) 6 0 0)) ∧ decode 0x1040002800000000 = .ok (.calli (wordF3 (.v 0) (.v 10) (.v 0) 0 0)) ∧
    decode 0x50300000000000C0 = .ok (.call (wordFI (.v 0) (.v 0) 0 0 3)) ∧ decode 0x10D0068000000001 = .ok (.sign (wordF3 (.v 0) (.c 0) (.v 0) 1 0)) ∧
    decode 0x5190000000000400 = .ok (.sysc (wordFI (.v 0) (.v 0) 1 0 0)) := by decide +kernel
theorem test_decode_memory :
    decode 0x5830280800004004 = .ok (.stsFi (wordFI (.v 5) (.v 2) 16 4 0)) ∧ decode 0x18100D0810000004 = .ok (.st (wordF3 (.v 1) (.s 2) (.v 8) 4 0)) ∧
    decode 0x1E1F700800000400 = .ok (.dadd (wordF3 (.fp 14) (.v 2) (.v 0) 0 2)) ∧ decode 0x1E00400800000000 = .ok (.dld (wordF3 (.v 8) (.v 2) (.v 0) 0 0)) ∧
    decode 0x1E4A351000000001 = .ok (.steprdGe (wordF3 (.s 6) (.s 4) (.v 0) 1 0)) ∧ decode 0xDE70000400000400 = .ok (.swpregThr (wordFX 0 0 false 2 2)) ∧
    decode 0xDE72840000000000 = .ok (.swpreg (wordFX 10 1 false 0 0)) ∧ decode 0xDE70080600000000 = .ok (.swpregNow (wordFX 0 2 false 3 0)) := by decide +kernel
theorem test_decode_matrix :
    decode 0xE002020000000400 = .ok (.tcfgCfg (wordFX 8 0 true 0 2)) ∧ decode 0xE000020200001200 = .ok (.tcfgTile (wordFX 0 0 true 1 9)) ∧
    decode 0x204D403382000021 = .ok (.mma { wordF3 (.special .zero) (.v 12) (.int 1) 1 0 with reuse := true }) ∧
    decode 0xE50000000000B200 = .ok (.bform (wordFX 0 0 false 0 0x59)) ∧ decode 0x251A370C00000000 = .ok (.blease (wordF3 (.s 6) (.int 3) (.v 0) 0 0)) ∧
    decode 0x2520070C00000000 = .ok (.brel (wordF3 (.v 0) (.int 3) (.v 0) 0 0)) ∧ decode 0x257A250C00000201 = .ok (.bseamPair (wordF3 (.s 4) (.s 3) (.v 0) 1 1)) := by
  decide +kernel
theorem test_decode_engines :
    decode 0xE802040000000000 = .ok (.tcopy (wordFX 8 1 false 0 0)) ∧ decode 0x2BA0001400000000 = .ok (.gres (wordF3 (.v 0) (.v 5) (.v 0) 0 0)) ∧
    decode 0x2B0D451A94000001 = .ok (.ratom (wordF3 (.special .zero) (.s 6) (.s 10) 1 0)) ∧ decode 0xF003840000000000 = .ok (.gdist (wordFX 14 1 false 0 0)) ∧
    decode 0x301A6F1000000000 = .ok (.tkcfg (wordF3 (.s 13) (.int 4) (.v 0) 0 0)) ∧ decode 0x302000180E000600 = .ok (.tkins (wordF3 (.v 0) (.v 6) (.v 7) 0 3)) ∧
    decode 0xF030080000000400 = .ok (.tkmrgWv (wordFX 0 2 false 0 2)) := by decide +kernel
theorem test_decode_links :
    decode 0x327A152000000001 = .ok (.lbufcfgTx (wordF3 (.s 2) (.s 8) (.v 0) 1 0)) ∧ decode 0x327A153690000000 = .ok (.lbufcfgRx (wordF3 (.s 2) (.s 13) (.s 8) 0 0)) ∧
    decode 0xF241040000008000 = .ok (.lsend (wordFX 4 1 false 0 64)) ∧ decode 0x325A753400000000 = .ok (.lpoll (wordF3 (.s 14) (.s 13) (.v 0) 0 0)) ∧
    decode 0x326AAD3400000600 = .ok (.lret (wordF3 (.s 21) (.s 13) (.v 0) 0 3)) ∧ decode 0x7800050C01401000 = .ok (.plset (wordFI (.v 0) (.s 3) 0x5004 0 0)) ∧
    decode 0x3820000000000200 = .ok (.plcancel (wordF3 (.v 0) (.v 0) (.v 0) 0 1)) ∧ decode 0x3810000000000000 = .ok (.plgo (wordF3 (.v 0) (.v 0) (.v 0) 0 0)) := by
  decide +kernel
/-- An unassigned opcode, a format that the opcode does not list, the reserved format of a word (R67, R84). -/
theorem test_decode_refuses : decode 0x3FF0000000000000 = .error .unassigned ∧ decode 0xC000000000000000 = .error .format := by decide +kernel

/-! ### Well-formedness refuses -/

/-- One ill-formed instruction for each check: the bits of MODS, SUBOP or IMM that are part of the opcode. -/
def illFormed : List Instr :=
  let m (x : BitVec 5) : F3 := { w0 with mods := x }
  let u (x : BitVec 8) : FX := fx 0 x 0
  [ .hwait (m 1), .hwaitAll (m 0), .hmov (m 1), .hmovSt (m 2), .hmovLd (m 1), .cctlIvl (m 1), .cctlIvd (m 2), .cctlIvi (m 0), .nlease (m 1), .nleaseSt (m 0),
    .steprd (m 1), .steprdGe (m 2), .steprdPend (m 0), .swpreg (u 1), .swpregInv (u 0), .swpregThr (u 3), .swpregNow (u 2), .tcfgCfg (u 1), .tcfgTile (u 0),
    .wslot (m 4), .wslotRd (m 0), .bseamQ (m 1), .bseamPair (m 2), .bseamUn (m 0), .tcopy (u 1), .tcopyG (u 0), .sgpat (u 1), .sgpatInv (u 0), .qinit (m 1),
    .qinitInv (m 0), .watch (m 16), .watchCancel (m 0), .tkmrgWv (u 1), .tkmrgSt (u 2), .tkmrgLd (u 0), .lbufcfgRx (m 1), .lbufcfgTx (m 2), .lbufcfgOff (m 0) ]
theorem test_wellFormed_refuses : (illFormed.any fun i => i.wellFormed) = false := by decide +kernel

/-! ### Values that the chapters work out -/

/-- Chapter "Numbers", stochastic rounding: two lanes convert 1 + 2^-9 to BF16. -/
theorem test_stochastic_conversion :
    (vCvt 0 2 4 false 0x3F804000 0x00000001).1 = 0x3F80 ∧ (vCvt 0 2 4 false 0x3F804000 0x00000001).2.2 = 0x80200003 ∧
    (vCvt 0 2 4 false 0x3F804000 0x0001A000).1 = 0x3F81 ∧ (vCvt 0 2 4 false 0x3F804000 0x0001A000).2.2 = 0x0000D000 := by decide +kernel
/-- Chapter "Numbers", accumulators: 1.0 added to 2^24 is not absorbed, 2^-9 is. -/
theorem test_accumulate :
    accumulate (entryOf 0x4B800000) 0x3F800000 ≠ entryOf 0x4B800000 ∧ readOut none (accumulate (accumulate (entryOf 0x4B800000) 0x3F800000) 0x3F800000) = 0x4B800001 ∧
    accumulate (entryOf 0x4B800000) 0x3B000000 = entryOf 0x4B800000 + 0x010000000000 := by decide +kernel
/-- Chapter "Lane arithmetic", WRED.fadd over three lanes in both orders. -/
theorem test_wred :
    (wredTree 8 ([some 0x4B800000, some 0x3F800000, some 0x3F800000] ++ List.replicate 29 none) 5).1.head? = some (some 0x4B800000) ∧
    (wredTree 8 ([some 0x3F800000, some 0x3F800000, some 0x4B800000] ++ List.replicate 29 none) 5) = ([some 0x4B800001], 0) := by decide +kernel
/-- Chapter "Address translation", the home of PA 0x0012_3456_7840. -/
theorem test_home : mapped.homeDie 0x001234567840 = 1 ∧ sliceHash 0x001234567840 = 18 := by decide +kernel
/-- Chapter "Stamps", the worked program: 16.0 stamped at 100 under factor 0.5 reads 2.0 at step 103. -/
theorem test_decay : ({ step := 103, ft := [(3, 0x3F000000)] } : Stamp).decay (stampedWord 0x41800000 100 3) = 0x3E000000 := by decide +kernel
/-- Chapter "Search", the worked program: the squared distances of vectors 0 and 9. -/
theorem test_distance :
    let one : FVal := .fin false 1 1 0
    let two : FVal := .fin false 2 1 0
    let half : FVal := .fin false 1 2 0
    let nil : FVal := .fin false 0 1 0
    distance 0 [(one, one), (half, nil)] = 0x3E800000 ∧ distance 0 [(one, nil), (half, two)] = 0x40500000 := by decide +kernel
/-- Chapter "Search", the merge: the four-way tie at 2.25 goes to the lowest identifier. -/
theorem test_merge :
    ([(0x3E800000, 0), (0x40100000, 2), (0x40100000, 7), (0x40A80000, 10)].foldl RankList.offer
      { k := 4, ents := [(0x3FA00000, 1), (0x3FA00000, 8), (0x40100000, 3), (0x40100000, 5)] }).ents =
      [(0x3E800000, 0), (0x3FA00000, 1), (0x3FA00000, 8), (0x40100000, 2)] := by decide +kernel
/-- Chapter "Exchange", a single edge between the dies: an XST lands after 12 cycles. -/
theorem test_latency : ({ cls := [3, 16] } : Region).latency 0 16 = 12 := by decide +kernel

/-! ### Steps of words that the chapters work out -/

/-- What a word leaves in the base machine. -/
def after (i : Instr) (s : State) : State := match exec i s with | .next t => t | _ => s
/-- Chapter "Lane arithmetic", the 64-bit add: the low word and its carry. -/
theorem test_iaddc :
    let s := withWeave fun w => { w with vregs := [(32 * 8 + 3, 0xFFFFFFF0), (32 * 10 + 3, 0x20)] }
    let t := after (.iaddc (withC (wordF3 (.v 12) (.v 8) (.v 10) 0 0) (.p 1))) s
    (t.weave 16).vget 12 3 = 0x10 ∧ ((t.weave 16).lane 3).preds = 3 ∧ ((t.weave 16).lane 4).preds = 1 ∧ (t.weave 16).vget 12 4 = 0 := by decide +kernel
/-- Chapter "Loads and stores", the scratchpad: with 256 bytes and v2 = 8 lane.id, lanes 30 and 31 fault, the others enter
the queue. -/
theorem test_sts_bounds :
    let s := ({ withGang fun g => { g with spb := 1 } with parts := trapped.parts, cur := some (.weave { slot0 with lanes := 0xFFFFFFFF }) }).modWeave 16 fun w =>
      { w with vregs := (List.range 32).map fun l => (64 + l, BitVec.ofNat 32 (8 * l)) }
    let t := (after (.stsFi (wordFI (.v 5) (.v 2) 16 4 0)) s).weave 16
    (t.sq.map fun e => e.items.length) = [30] ∧ t.fcode = 0x13 ∧ t.fmask = 0xC0000000 ∧ t.faddr = 0x100 := by decide +kernel
/-- The first word after reset with a word placed is the one fetched, decoded and executed: IADD of v11 and v12, both 0,
in every lane (R61). -/
theorem test_first_step :
    (match step (State.reset.withFetchWord 64 0x0000502C00000000) with
      | .next t => ((t.weave 16).lane 31).pc == 0x10010 && ((t.weave 16).lane 31).hdr
      | _ => false) = true := by decide +kernel

/-! ### Lane arithmetic -/

theorem test_meets_arithmetic : allPass base (fun w => (arithmeticForms w).map (·.gate)) 11 [w3, w3c, w1] = true := by decide +kernel
theorem test_meets_logic : allPass base (fun w => (logicForms w ++ predicateForms w).map (·.gate)) 20 [w3, w3c, w1, wp, wcmp, wsel] = true := by
  decide +kernel
theorem test_meets_immediates : allPass base (fun w => (immediateForms w).map (immGate w)) 17
    [wi, wordFI (.v 1) (.v 0) 5 0 0, wordFI (.p 1) (.v 2) 5 0 0] = true := by decide +kernel
theorem test_meets_wideSums :
    Met (fun h : Obligations.WideSums => h.1 (withC w3 (.p 2))) base ∧ Met (fun h : Obligations.WideSums => h.2 (withC (wordF3 (.v 4) (.v 2) (.v 3) 8 0) (.v 6))) base :=
  ⟨met (by decide +kernel) trivial, met (by decide +kernel) trivial⟩
theorem test_meets_unary : Met (fun h : Obligations.UnaryFunctionsIssueResults => h w1 _ (.head _)) base := met (by decide +kernel) trivial
def half0 (o : D2Op) (d s : Operand) : D2Half := { op := o, d := d, s := s, pred := 0, neg := false, mods := 0 }
theorem test_meets_paired : Met (fun h : Obligations.PairedWordResults => h (half0 .fadd (.v 4) (.v 9)) (half0 .imax (.v 6) (.s 2))) base :=
  met (by decide +kernel) ⟨fun _ => ⟨by decide +kernel, by decide +kernel⟩, fun _ => ⟨by decide +kernel, by decide +kernel⟩⟩
theorem test_meets_exchange :
    Met (fun h : Obligations.ExchangeResults => h.1 (wordF3 (.v 1) (.v 2) (.v 0) 3 0)) base ∧
    Met (fun h : Obligations.ExchangeResults => h.2.1 (wordF3 (.v 1) (.v 2) (.v 0) 3 0)) base ∧
    Met (fun h : Obligations.ExchangeResults => h.2.2.1 (wordF3 (.v 1) (.v 2) (.v 3) 5 0)) base ∧
    Met (fun h : Obligations.ExchangeResults => h.2.2.2 (wordF3 (.s 1) (.v 2) (.v 0) 10 0)) base :=
  ⟨met (by decide +kernel) trivial, met (by decide +kernel) trivial, met (by decide +kernel) trivial, met (by decide +kernel) ⟨live, by decide⟩⟩
theorem test_meets_floats : allPass base (fun w => (floatForms w).map (·.gate)) 14 [w3, w3c, w1, wcmp, wordF3 (.v 1) (.v 80) (.v 3) 0 0] = true ∧
    Met (fun h : Obligations.FloatResults => h.1.2 (wordF3 (.v 1) (.v 0) (.v 0) 1 0)) base ∧
    Met (fun h : Obligations.FloatResults => h.2 wi _ (.head _)) base :=
  ⟨by decide +kernel, met (by decide +kernel) trivial, met (by decide +kernel) trivial⟩

/-! ### The sequencer -/

/-- The word of a transfer: the last of its clause, in lanes that have called once. -/
def jump (a : Operand) : F3 := wordF3 (.v 0) a (.v 0) 0 0
def called1 : State := base.modWeave 16 fun w => { w with
  vregs := (List.range 32).map (fun l => (32 * 10 + l, 0x20000#32)), sregs := [(8, 0x20000#32)]
  lanes := (List.range 32).map fun l => (l, { lane0 with rasn := 1, ras := [(0, 0x20000#64)] }) }
theorem test_meets_branches : Met (fun h : Obligations.BranchesGoToTheirTargets => h.1 (wordFI (.v 0) (.v 0) 6 0 0)) base ∧
    Met (fun h : Obligations.BranchesGoToTheirTargets => h.2 (wordFI (.v 0) (.v 0) 6 1 0)) base :=
  ⟨met (by decide +kernel) trivial, met (by decide +kernel) trivial⟩
theorem test_meets_calls :
    Met (fun h : Obligations.CallsAndReturns => h.2.1 (wordFI (.v 0) (.v 0) 6 0 0)) base ∧
    Met (fun h : Obligations.CallsAndReturns => h.2.2.2 w0) called1 :=
  ⟨met (by decide +kernel) (by decide +kernel), met (by decide +kernel) (by decide +kernel)⟩
theorem test_meets_meetExit :
    Met (fun h : Obligations.MeetExitAndHints => h.1 (wordFI (.v 1) (.v 0) 6 0 0)) base ∧
    Met (fun h : Obligations.MeetExitAndHints => h.2.1 (jump (.v 2))) base ∧
    Met (fun h : Obligations.MeetExitAndHints => h.2.2.1 w0) base ∧
    Met (fun h : Obligations.MeetExitAndHints => h.2.2.2.1 w0) base ∧ Met (fun h : Obligations.MeetExitAndHints => h.2.2.2.2 w0) base :=
  ⟨met (by decide +kernel) trivial, met (by decide +kernel) trivial, met (by decide +kernel) (by decide +kernel), met (by decide +kernel) trivial,
    met (by decide +kernel) trivial⟩
theorem test_meets_indirect : Met (fun h : Obligations.CallsAndReturns => h.1 (jump (.s 8))) called1 ∧
    Met (fun h : Obligations.CallsAndReturns => h.2.2.1 (jump (.v 10))) called1 :=
  ⟨met (by decide +kernel) (by decide +kernel), met (by decide +kernel) (by decide +kernel)⟩

def ring0 : Ring := { full := 1, pha := 1, words := [(0, 64)], head := 1 }
def ringed : State := { base with
  cohorts := [(1, { launch := 1, gangs := [(0, 1)], rings := [(0, ring0)] })]
  launches := [(1, { packet := [(2, 0x0000040000200001#64)], state := 5, nextg := 1, stages := [(0, { wcount := 2 })] })] }
def wring : F3 := wordF3 (.s 1) (.int 0) (.s 2) 0 0
theorem test_meets_reads :
    allPass privileged (fun w => (sequencerReads w (wordFI (.s 1) (.v 0) 0x40 0 0)).map (·.gate)) 6
      [wordF3 (.s 1) (.v 2) (.v 0) 0 0, wordF3 (.s 1) (.v 0) (.v 0) 0 0, wordF3 (.s 1) (.h 1) (.v 0) 0 0, { wring with b := .v 0 }] = true ∧
    Met (fun h : Obligations.SequencerReads => h { wring with b := .v 0 } wi (sequencerReads _ _)[4] (List.getElem_mem _)) ringed ∧
    Met (fun h : Obligations.SequencerReads => h w0 (wordFI (.s 1) (.v 0) 0x18 0 0) (sequencerReads _ _)[5] (List.getElem_mem _)) privileged :=
  ⟨by decide +kernel, met (by decide +kernel) (fun _ => by decide +kernel), met (by decide +kernel) (fun h => by revert h; decide +kernel)⟩
theorem test_meets_barriers : Met (fun h : Obligations.Barriers => h.1 w0) base ∧ Met (fun h : Obligations.Barriers => h.2 w0) base :=
  ⟨met (by decide +kernel) (by decide +kernel), met (by decide +kernel) ⟨by decide +kernel, by decide +kernel, by decide +kernel, 1, by decide +kernel, (0, 1), by decide +kernel, rfl⟩⟩
theorem test_meets_rings :
    Met (fun h : Obligations.StageRings => h.1 (wordF3 (.v 0) (.int 0) (.s 2) 0 0) ring0) ringed ∧
    Met (fun h : Obligations.StageRings => h.2 (wordF3 (.s 1) (.int 0) (.v 0) 0 0) ring0) ringed :=
  ⟨met (by decide +kernel) ⟨runs, by decide +kernel⟩, met (by decide +kernel) ⟨runs, by decide +kernel⟩⟩

/-! ### Exceptions -/

theorem test_meets_faults :
    (∃ f : PendFault, trapped.canEnter 16 f.mask ∧ f.keepPc = false) ∧ trapped.canEnter (ctx trapped).wk (ctx trapped).lanes ∧
    (∃ l, l < 32 ∧ ((ctx trapped).lanes &&& ~~~(ctx trapped).helpers).getLsbD l = true ∧ ((trapped.weave 16).lane l).priv = false) ∧
    roleAllows (roleOf { gang0 with roles := 2 } 0) .la false = false :=
  ⟨⟨{ mask := 0xF }, enters, rfl⟩, enters, ⟨31, by decide +kernel⟩, by decide +kernel⟩
/-- The lanes in hand are helpers: a word that acts once for its weave finds no lane to act for. -/
theorem test_meets_helpersOnly :
    let s : State := withWeave fun w => { w with lanes := w.lanes.map fun e => (e.1, { e.2 with status := .helper }) }
    Met (fun h : Obligations.RefusedWordsFault => h.1 w0 (onceForms w0)[14] (List.getElem_mem _)) s ∧ (s.issueOf (ctx s) ((onceForms w0)[14].2 s (ctx s))).act ≠ 0 :=
  ⟨met (by decide +kernel) (by decide +kernel), by decide +kernel⟩
theorem test_meets_traps :
    Met (fun h : Obligations.TrapsCallsAndReturnsFromThem => h.1 (wordFI (.v 0) (.v 0) 0xFFFF 0 0)) trapped ∧
    Met (fun h : Obligations.TrapsCallsAndReturnsFromThem => h.2.1 (wordFI (.v 0) (.v 0) 0x20 0 0)) base ∧
    Met (fun h : Obligations.TrapsCallsAndReturnsFromThem => h.2.2 w0)
      (withWeave fun w => { w with lanes := w.lanes.map fun e => (e.1, { e.2 with priv := true, faultPc := 0x20001 }) }) :=
  ⟨met (by decide +kernel) isCalm, met (by decide +kernel) runs, met (by decide +kernel) (by decide +kernel)⟩

/-! ### Convergence, handles and system registers -/

def conv0 (v : Conv) : State := { base with cohorts := [(1, { launch := 1, gangs := [(0, 1)], conv := [(2, v)] })] }
def wdecl (m : BitVec 5) : F3 := wordF3 (.c 2) (.v 0) (.v 0) m 0
def wsign (m : BitVec 5) : F3 := wordF3 (.v 0) (.c 2) (.v 0) m 0
theorem test_meets_convergence :
    Met (fun h : Obligations.ConvergenceWords => h.1 (wdecl 2) 2 rfl) (conv0 { decl := [(16, 0xF)], sig := [(16, 0x1)] }) ∧
    Met (fun h : Obligations.ConvergenceWords => h.2 (wsign 1) 2 rfl) (conv0 { decl := [(16, 0xFFFFFFFF)], bound := true }) :=
  ⟨met (by decide +kernel) ⟨runs, by decide +kernel⟩, met (by decide +kernel) (by decide +kernel)⟩
theorem test_meets_handles :
    Met (fun h : Obligations.HandleWords => h.1.1 (wordF3 (.s 1) (.h 1) (.v 0) 0 0) 7) (withOp { state := .resolved 7 }) ∧
    Met (fun h : Obligations.HandleWords => h.1.2.1 (wordF3 (.s 1) (.h 1) (.v 0) 0 0) 9) (withOp {}) ∧
    Met (fun h : Obligations.HandleWords => h.1.2.2.1 (wordF3 (.s 1) (.h 1) (.v 0) 0 0)) trapped ∧
    Met (fun h : Obligations.HandleWords => h.1.2.2.2 (wordF3 (.s 1) (.s 2) (.v 0) 1 0) fun _ => 7)
      ((withOp { state := .resolved 7 }).modWeave 16 fun w => { w with sregs := [(2, 2)] }) ∧
    Met (fun h : Obligations.HandleWords => h.2.1 (wordF3 (.v 0) (.h 1) (.v 0) 0 0) 9) (withOp {}) ∧
    Met (fun h : Obligations.HandleWords => h.2.2.1 (wordF3 (.h 2) (.h 1) (.v 0) 0 0)) (withOp {}) ∧
    Met (fun h : Obligations.HandleWords => h.2.2.2.1 (wordF3 (.v 0) (.s 2) (.h 1) 1 0)) (withOp {}) ∧
    Met (fun h : Obligations.HandleWords => h.2.2.2.2 (wordF3 (.h 2) (.s 2) (.v 0) 1 0)) (withOp {}) := by
  refine ⟨met ?_ ?_, met ?_ ?_, met ?_ ?_, met ?_ ?_, met ?_ ⟨runs, ?_, .inl ?_⟩, met ?_ ?_, met ?_ ?_,
    met ?_ ⟨runs, ?_, ?_, ?_, ?_, notPending⟩⟩ <;> decide +kernel
theorem test_meets_system :
    Met (fun h : Obligations.SystemRegistersAndFlags => h.1 (wordFI (.v 0) (.s 2) 0x109 0 0) .ovf rfl rfl) privileged ∧
    Met (fun h : Obligations.SystemRegistersAndFlags => h.2.1 (wordF3 (.v 0) (.s 2) (.v 0) 0 0)) base ∧
    Met (fun h : Obligations.SystemRegistersAndFlags => h.2.2 (wordFI (.v 0) (.v 0) 0xFFF 0 0)) base :=
  ⟨met (by decide +kernel) trivial, met (by decide +kernel) (by decide +kernel), met (by decide +kernel) runs⟩

/-! ### Loads, stores, leases -/

def wst : F3 := wordF3 (.v 1) (.s 8) (.v 0) 4 0
def wsti : FI := wordFI (.v 1) (.s 8) 0xFFFFFC 4 0
def wsts : F3 := wordF3 (.v 1) (.s 9) (.v 0) 4 0
def wstsi : FI := wordFI (.v 1) (.s 9) 4092 4 0
theorem test_meets_stores :
    (∃ c ps, Met (fun h : Obligations.StoresEnterTheQueue => h.1 wst wsti _ (.head _) c ps) mapped) ∧
    (∃ c ps, Met (fun h : Obligations.StoresEnterTheQueue => h.1 wst wsti _ (.tail _ (.head _)) c ps) mapped) ∧
    Met (fun h : Obligations.StoresEnterTheQueue => h.2 wsts wstsi _ (.head _)) base ∧
    Met (fun h : Obligations.StoresEnterTheQueue => h.2 wsts wstsi _ (.tail _ (.head _))) base :=
  ⟨⟨_, _, met (by decide +kernel) ⟨by decide +kernel, by decide +kernel, passed⟩⟩, ⟨_, _, met (by decide +kernel) ⟨by decide +kernel, by decide +kernel, passed⟩⟩,
    met (by decide +kernel) ⟨by decide +kernel, live, by decide +kernel⟩, met (by decide +kernel) ⟨by decide +kernel, live, by decide +kernel⟩⟩
theorem test_meets_scratchpad :
    Met (fun h : Obligations.ScratchpadAccesses => h.1 { wsts with mods := 6, dst := .v 4 } wstsi _ (.head _)) base ∧
    Met (fun h : Obligations.ScratchpadAccesses => h.1 wsts wstsi _ (.tail _ (.head _))) base ∧
    Met (fun h : Obligations.ScratchpadAccesses => h.2 (withC (wordF3 (.v 1) (.v 2) (.v 3) 9 0) (.v 4))) base :=
  ⟨met (by decide +kernel) (by decide +kernel), met (by decide +kernel) (by decide +kernel), met (by decide +kernel) (by decide +kernel)⟩
theorem test_meets_fences :
    Met (fun h : Obligations.FencesAndCacheControl => h.1 { w0 with mods := 3 }) base ∧
    Met (fun h : Obligations.FencesAndCacheControl => h.2.1 { wst with dst := .v 0, mods := 0 }) mapped ∧
    Met (fun h : Obligations.FencesAndCacheControl => h.2.2.1 { wsti with dst := .v 0, mods := 0 }) mapped ∧
    Met (fun h : Obligations.FencesAndCacheControl => h.2.2.2.1 { wst with dst := .v 0, mods := 0 }) mapped ∧
    Met (fun h : Obligations.FencesAndCacheControl => h.2.2.2.2.1 { w0 with mods := 1 }) base ∧
    Met (fun h : Obligations.FencesAndCacheControl => h.2.2.2.2.2 { w0 with mods := 2 }) base :=
  ⟨met (by decide +kernel) runs, met (by decide +kernel) trivial, met (by decide +kernel) trivial, met (by decide +kernel) trivial,
    met (by decide +kernel) runs, met (by decide +kernel) runs⟩

def leased (st : LeaseState) : State := mapped.modWeave 16 fun w => { w with lease := { state := st, n := 8, base := 0x20000 } }
theorem test_meets_leases :
    Met (fun h : Obligations.SpillLeases => h.1 (wordF3 (.s 1) (.int 16) (.s 8) 0 0)) mapped ∧
    Met (fun h : Obligations.SpillLeases => h.2.1 (wordF3 (.s 2) (.v 0) (.v 0) 1 0)) (leased .memory) ∧
    Met (fun h : Obligations.SpillLeases => h.2.2.1 w0) (leased .neighbour) ∧
    Met (fun h : Obligations.SpillLeases => h.2.2.2.1 (wordF3 (.v 0) (.int 7) (.v 1) 0 0)) (leased .neighbour) ∧
    (∃ c ps, Met (fun h : Obligations.SpillLeases => h.2.2.2.2.1 (wordF3 (.v 0) (.int 7) (.v 1) 0 0) c ps) (leased .memory)) ∧
    Met (fun h : Obligations.SpillLeases => h.2.2.2.2.2.1 (wordF3 (.v 1) (.int 7) (.v 0) 0 0)) (leased .neighbour) ∧
    (∃ c d ps got, Met (fun h : Obligations.SpillLeases => h.2.2.2.2.2.2 (wordF3 (.v 1) (.int 7) (.v 0) 0 0) c d ps got) (leased .memory)) :=
  ⟨met (by decide +kernel) runs, met (by decide +kernel) runs, met (by decide +kernel) runs, met (by decide +kernel) (by decide +kernel),
    ⟨_, _, met (by decide +kernel) ⟨by decide +kernel, by decide +kernel, by decide +kernel, by decide +kernel, by decide +kernel, passed⟩⟩,
    met (by decide +kernel) (by decide +kernel),
    ⟨_, _, _, _, met (by decide +kernel) ⟨by decide +kernel, by decide +kernel, by decide +kernel, passed, loaded⟩⟩⟩
theorem test_meets_pager :
    Met (fun h : Obligations.PagerWords => h.1 (withC (wordF3 (.s 1) (.s 2) (.s 4) 0 0) (.int 0))) mapped ∧
    Met (fun h : Obligations.PagerWords => h.2 (wordF3 (.s 1) (.s 2) (.v 0) 1 0)) mapped :=
  ⟨met (by decide +kernel) runs, met (by decide +kernel) ⟨runs, by decide +kernel⟩⟩
theorem test_meets_leaf : Table.get 0 (mapped.translate 0 0 0x20000 .write).1.mem 0x3000 ≠ Table.get 0 mapped.mem 0x3000 := by decide +kernel
theorem test_meets_loads :
    (∃ c d ps got, Met (fun h : Obligations.GlobalLoads => h.1.1 wst wsti _ (.head _) c d ps got) mapped) ∧
    (∃ c d ps got, Met (fun h : Obligations.GlobalLoads => h.1.1 wst wsti _ (.tail _ (.head _)) c d ps got) mapped) ∧
    (∃ c d pa bs, Met (fun h : Obligations.GlobalLoads => h.1.2 (wordF3 (.s 4) (.s 8) (.s 1) 4 0) (wordFI (.s 4) (.s 8) 8 6 0) _ (.head _) c d pa bs) mapped) ∧
    (∃ c d pa bs, Met (fun h : Obligations.GlobalLoads => h.1.2 (wordF3 (.s 4) (.s 8) (.s 1) 4 0) (wordFI (.s 4) (.s 8) 8 4 0) _ (.tail _ (.head _)) c d pa bs) mapped) ∧
    ((mapped.weave 16).sq = [] ∧ inMmio 0x3F = false ∧ (mapped.gang 1).tag = none ∧
      ((mapped.core 0).l1.any fun x => x.part == 0 && x.vline == 0x3F / 64) = false ∧ 0x3F % 64 + 1 ≤ 64) :=
  ⟨⟨_, _, _, _, met (by decide +kernel) ⟨passed, loaded⟩⟩, ⟨_, _, _, _, met (by decide +kernel) ⟨passed, loaded⟩⟩,
    ⟨_, _, _, _, met (by decide +kernel) ⟨runs, passedOne (pa := 0x20000), loadedOne (bs := [0, 0, 0, 0])⟩⟩,
    ⟨_, _, _, _, met (by decide +kernel) ⟨runs, passedOne (pa := 0x20008), loadedOne (bs := [0, 0, 0, 0])⟩⟩, by decide +kernel⟩

/-! ### Stamps -/

def wstamp : F3 := wordF3 (.v 4) (.s 8) (.v 0) 0 0
theorem test_meets_stampedLoads :
    (∃ c ps, Met (fun h : Obligations.StampedLoads => (h wstamp c ps).1) mapped) ∧ ∃ c ps, Met (fun h : Obligations.StampedLoads => (h wstamp c ps).2) mapped :=
  ⟨⟨_, _, met (by decide +kernel) ⟨fun _ => live, passed, by decide +kernel⟩⟩, ⟨_, _, met (by decide +kernel) ⟨fun _ => live, passed, by decide +kernel⟩⟩⟩
theorem test_meets_stampedUpdates :
    (∃ c ps, Met (fun h : Obligations.StampedUpdates => (h (wordF3 (.s 3) (.s 8) (.s 4) 1 0) c ps).1) mapped) ∧
    ∃ c ps, Met (fun h : Obligations.StampedUpdates => (h (wordF3 (.s 3) (.s 8) (.int 31) 0 0) c ps).2) mapped :=
  ⟨⟨_, _, met (by decide +kernel) ⟨live, by decide +kernel, by decide +kernel, passed⟩⟩,
    ⟨_, _, met (by decide +kernel) ⟨live, by decide +kernel, by decide +kernel, passed⟩⟩⟩
theorem test_meets_steps :
    Met (fun h : Obligations.StepAndFactors => h.1 (wordF3 (.s 2) (.v 0) (.v 0) 0 0)) base ∧
    Met (fun h : Obligations.StepAndFactors => h.2.1 (wordF3 (.s 2) (.v 0) (.v 0) 2 0)) base ∧
    Met (fun h : Obligations.StepAndFactors => h.2.2.1 (wordF3 (.s 2) (.int 1) (.v 0) 1 0)) base ∧
    Met (fun h : Obligations.StepAndFactors => h.2.2.2.1 (wordF3 (.s 2) (.int 1) (.v 0) 0 0)) base ∧
    Met (fun h : Obligations.StepAndFactors => h.2.2.2.2.1 (wordF3 (.s 2) (.int 31) (.fp 3) 0 0)) base ∧
    Met (fun h : Obligations.StepAndFactors => h.2.2.2.2.2 (wordF3 (.s 2) (.s 8) (.v 0) 0 0)) base :=
  ⟨met (by decide +kernel) live, met (by decide +kernel) live, met (by decide +kernel) live, met (by decide +kernel) live, met (by decide +kernel) live,
    met (by decide +kernel) live⟩

/-! ### Commands -/

abbrev cmdForms (w : FX) : List FxForm := copyForms w ++ engineForms w ++ matrixForms w
/-- The hypotheses of the clause of a command that issues. -/
def CmdMet (i : Nat) (w : FX) (s : State) : Prop :=
  ∃ f, ∃ hf : f ∈ cmdForms w, (cmdForms w)[i]? = some f ∧ Met (fun h : Obligations.CommandsIssue => (h w f hf).1) s
theorem cmdMet {i : Nat} {w : FX} {s : State} {f : FxForm} (e : (cmdForms w)[i]? = some f) (r : f.ready (s.issueOf (ctx s) (f.gate s (ctx s))))
    (c : (s.issueOf (ctx s) (f.gate s (ctx s))).canCommand w) (m : (s.issueOf (ctx s) (f.gate s (ctx s))).hasRoom f.eng := by decide +kernel)
    (p : s.passes (ctx s) (f.gate s (ctx s)) = true := by decide +kernel) (hc : s.cur = some (.weave slot0) := by rfl)
    (hw : (s.weaves.find 16).isSome = true := by rfl) : CmdMet i w s :=
  ⟨f, List.mem_of_getElem? e, e, met p ⟨c, m, r⟩ hc hw⟩
/-- Descriptor registers from s8 on, an NX configuration of F16 weights, a claimed plane, an operation of h1, privilege. -/
def cmds (d : List Word) : State :=
  ({ privileged with ops := [(9, { gang := 1, launch := 1, wk := 16 })] }.modWeave 16 fun w =>
    { w with sregs := d.zipIdx.map fun (v, i) => (8 + i, v), handles := [(1, some 9)] }).modGang 1 fun g =>
    { g with planes := [0], cfgNew := { tcw := 0x1111 } }
theorem test_meets_copyCommands :
    CmdMet 0 (fx 8 0 0) (cmds []) ∧ CmdMet 1 (fx 8 1 0) (cmds []) ∧ CmdMet 2 (fx 8 3 0) (cmds []) ∧ CmdMet 3 (fx 8 0 0) (cmds []) ∧
    CmdMet 4 (fx 8 0 0) (cmds []) ∧ CmdMet 5 (fx 8 0 0) (cmds []) ∧ CmdMet 6 (fx 8 0 0) (cmds []) ∧ CmdMet 7 (fx 8 1 0) (cmds []) ∧
    CmdMet 8 (fx 8 0 0) (cmds []) ∧ CmdMet 9 (fx 0 1 0) (cmds []) ∧ CmdMet 10 (fx 8 0 0) (cmds []) := by
  refine ⟨cmdMet rfl ?_ can, cmdMet rfl ?_ can, cmdMet rfl ?_ can, cmdMet rfl ?_ can, cmdMet rfl ?_ can, cmdMet rfl ?_ can, cmdMet rfl ?_ can,
    cmdMet rfl ?_ can, cmdMet rfl ?_ can, cmdMet rfl ?_ can, cmdMet rfl ?_ can⟩ <;> dsimp only <;> decide +kernel
theorem test_meets_engineCommands :
    CmdMet 11 (fx 8 0 0) (cmds []) ∧ CmdMet 12 (fx 0 1 0) (cmds []) ∧ CmdMet 13 (fx 0 2 0x400000) (cmds []) ∧ CmdMet 14 (fx 0 3 0) (cmds []) ∧
    CmdMet 15 (fx 8 0 0) (cmds [0, 0, 0, 0, 0, 1024, 16]) ∧ CmdMet 16 (fx 0 0 0) (cmds []) ∧ CmdMet 17 (fx 8 1 0x10000) (cmds [3576]) ∧ CmdMet 18 (fx 8 2 0) (cmds []) ∧
    CmdMet 19 (fx 8 0 0) (cmds [0, 4088, 8]) ∧ CmdMet 20 (fx 8 1 64) (cmds []) := by
  refine ⟨cmdMet rfl ?_ can, cmdMet rfl trivial can, cmdMet rfl trivial can, cmdMet rfl trivial can, cmdMet rfl ?_ can, cmdMet rfl ?_ can,
    cmdMet rfl ?_ can, cmdMet rfl ?_ can, cmdMet rfl ?_ can, cmdMet rfl ?_ can⟩ <;> dsimp only <;> decide +kernel
theorem test_meets_matrixCommands :
    CmdMet 21 (fx 8 0 2) (cmds [0x1111, 0xFFFFFFFF, 0, 0xFFFFFFFF]) ∧ CmdMet 22 (fx 0 1 7) (cmds []) ∧ CmdMet 23 (fx 0 0 0) (cmds []) ∧ CmdMet 24 (fx 0 0 4064) (cmds []) ∧
    CmdMet 25 (fx 0 0 (511 * 2048)) (cmds []) ∧ CmdMet 26 (fx 8 0 0) (cmds []) ∧ CmdMet 27 (fx 8 0 4) (cmds []) ∧ CmdMet 28 (fx 8 1 4088) (cmds []) ∧
    CmdMet 29 (fx 8 1 4) (cmds [0, 0, 0, 32, 0, 0, 1]) ∧ CmdMet 30 (fx 0 0 0) (cmds []) ∧ CmdMet 31 (fx 0 0 0x59) (cmds []) ∧ CmdMet 32 (fx 0 0 0) (cmds []) ∧
    CmdMet 33 (fx 0 0 0) (cmds []) := by
  refine ⟨cmdMet rfl ?_ can, cmdMet rfl trivial can, cmdMet rfl ?_ can, cmdMet rfl ?_ can, cmdMet rfl ?_ can, cmdMet rfl ?_ can, cmdMet rfl ?_ can,
    cmdMet rfl ?_ can, cmdMet rfl ?_ can, cmdMet rfl trivial can, cmdMet rfl trivial can, cmdMet rfl trivial can, cmdMet rfl trivial can⟩ <;>
    dsimp only <;> decide +kernel
/-- A command that an earlier one held for a place keeps back, one whose handle register is Pending, one whose AFLAG is full. -/
theorem test_meets_commandsHeld :
    Met (fun h : Obligations.CommandsIssue => (h (fx 8 0 0) _ (.head _)).2.1) ({ cmds [] with ops := [(9, { gang := 1, launch := 1, wk := 16, engine := .ce, full := true })] }) ∧
    Met (fun h : Obligations.CommandsIssue => (h (wordFX 8 1 false 0 0) _ (.head _)).2.2.1 9) (cmds []) ∧
    Met (fun h : Obligations.CommandsIssue => (h { fx 8 0 0 with afen := true, aflag := 11 } _ (.head _)).2.2.2)
      ((cmds []).modWeave 16 fun w => { w with flags := [(11, 15)] }) := by
  refine ⟨met ?_ ⟨can, ?_, ?_⟩, met ?_ ⟨?_, ?_, ?_⟩, met ?_ ⟨?_, .inr notPending, ?_, ?_⟩⟩ <;> (try dsimp only) <;> decide +kernel

/-! ### The matrix engine and the bond controller -/

def rowed : State := withGang fun g => { g with acc := [(32 * 5, 0x123456789ABC)] }
theorem test_meets_accumulators :
    Met (fun h : Obligations.AccumulatorWords => h.1 (wordF3 (.s 1) (.int 5) (.v 0) 0 0)) base ∧
    Met (fun h : Obligations.AccumulatorWords => h.2.1 (wordF3 (.s 1) (.int 0) (.v 0) 1 0)) base ∧
    Met (fun h : Obligations.AccumulatorWords => h.2.2.1 w0) base ∧
    Met (fun h : Obligations.AccumulatorWords => h.2.2.2.1 (wordF3 (.v 2) (.int 5) (.v 0) 8 0)) rowed ∧
    Met (fun h : Obligations.AccumulatorWords => h.2.2.2.2 (wordF3 (.v 2) (.int 5) (.v 0) 8 0)) rowed := by
  refine ⟨met ?_ ?_, met ?_ ?_, met ?_ ?_, met ?_ ?_, met ?_ ?_⟩ <;> decide +kernel
/-- A gang with a plane that a WLATCH of F16, sparse, INT8-table or codebook weights has issued for. -/
def latched (p : Plane) : State :=
  { withGang fun g => { g with planes := [3], cfgNew := { tcw := 0x1111 } } with
    cores := [(0, { planes := [(3, { p with owner := some 1, issued := true })] })] }
theorem test_meets_multiplies :
    Met (fun h : Obligations.MultipliesIssue => h (wordF3 (.h 1) (.v 4) (.int 5) 0 0) _ (.head _) 3) (latched { iwfmt := 1 }) ∧
    Met (fun h : Obligations.MultipliesIssue => h (wordF3 (.h 1) (.v 4) (.int 5) 0 0) _ (.tail _ (.head _)) 3) (latched { iwfmt := 1, ispn := 1 }) ∧
    Met (fun h : Obligations.MultipliesIssue => h (wordF3 (.h 1) (.v 4) (.int 5) 0 0) _ (.tail _ (.tail _ (.head _))) 3) (latched { iwfmt := 12 }) ∧
    Met (fun h : Obligations.MultipliesIssue => h (wordF3 (.special .zero) (.v 4) (.int 5) 0 0) _ (.tail _ (.tail _ (.tail _ (.head _)))) 3) (latched { iwfmt := 11 }) :=
  ⟨met (by decide +kernel) ⟨live, by decide +kernel, by decide +kernel, by decide +kernel, by decide +kernel, by decide +kernel, by decide +kernel, fun _ => notPending, by decide +kernel⟩,
    met (by decide +kernel) ⟨live, by decide +kernel, by decide +kernel, by decide +kernel, by decide +kernel, by decide +kernel, by decide +kernel, fun _ => notPending, by decide +kernel⟩,
    met (by decide +kernel) ⟨live, by decide +kernel, by decide +kernel, by decide +kernel, by decide +kernel, by decide +kernel, by decide +kernel, fun _ => notPending, by decide +kernel⟩,
    met (by decide +kernel) ⟨live, by decide +kernel, by decide +kernel, by decide +kernel, by decide +kernel, by decide +kernel, by decide +kernel, fun _ => notPending, by decide +kernel⟩⟩
def bonded : State := { base with bonds := [(7, bond0)] }
theorem test_meets_bonds :
    Met (fun h : Obligations.BondLeases => h.1 (wordF3 (.s 1) (.int 3) (.v 0) 0 0) 7 bond0) bonded ∧
    Met (fun h : Obligations.BondLeases => h.2.1 (wordF3 (.v 0) (.int 1) (.v 0) 0 0) 7 bond0) bonded ∧
    Met (fun h : Obligations.BondLeases => h.2.2.1 (wordF3 (.v 0) (.int 1) (.v 0) 0 0)) base ∧
    Met (fun h : Obligations.BondLeases => h.2.2.2.1 (wordF3 (.s 1) (.int 0) (.v 0) 0 0)) bonded ∧
    (bonded.bondOf 2 = some (7, bond0) ∧ bond0.seam = false) :=
  ⟨met (by decide +kernel) ⟨live, by decide +kernel⟩, met (by decide +kernel) ⟨live, by decide +kernel⟩, met (by decide +kernel) (by decide +kernel),
    met (by decide +kernel) live, by decide +kernel⟩
/-- Two cohorts on facing clusters, the other one waiting with a direction. -/
def seamed (d : Nat) : State :=
  { base with
    cohorts := [(1, { launch := 1, cluster := 3, gangs := [(0, 1)] }), (2, { launch := 1, idx := 1, cluster := 16, gangs := [(0, 2)] })]
    gangs := [(1, { gang0 with core := 48 }), (2, { gang0 with core := 256, g := 1, cohort := 2, seamAsk := some (32, d) })] }
theorem test_meets_seams :
    Met (fun h : Obligations.SeamPairing => h.1 (wordF3 (.s 1) (.int 1) (.v 0) 0 0)) base ∧
    Met (fun h : Obligations.SeamPairing => h.2.1 (wordF3 (.s 1) (.int 1) (.v 0) 1 0) (some 16)) (seamed 3) ∧
    Met (fun h : Obligations.SeamPairing => h.2.2 (wordF3 (.s 1) (.v 0) (.v 0) 2 0)) base ∧
    (∃ c, facing 3 1 = some c ∧ (seamed 3).unpaired 1 c = [2] ∧ ∀ e ∈ ((seamed 3).cohort 2).conv, e.2.decl = []) :=
  ⟨met (by decide +kernel) live, met (by decide +kernel) (by decide +kernel), met (by decide +kernel) live, 16, by decide +kernel⟩

/-! ### The slice engine -/

def wq (d b : Operand) : F3 := wordF3 d (.int 0) b 0 0
/-- The same with weave 17 parked at it. -/
def waited : State := { queued 0 with slices := [((queued 0).homeSlice 0x30000, { waiters := [{ part := 0, queue := 0, wk := 17, dst := 4 }] })] }
theorem inHand0 {s : State} (hc : s.cur = some (.weave slot0) := by rfl) (hw : (s.weaves.find 16).isSome = true := by rfl) : s.inHand (ctx s) :=
  ⟨slot0, hc, hw, rfl⟩
def wenq : F3 := wq (.s 1) (.s 2)
/-- QENQ of a queue that cannot be used, a full one, one with a place, one that another weave waits at. -/
theorem test_meets_enqueues :
    (∃ p a e, Hyp (fun h : Obligations.QueueEntriesEnter => (h wenq mapped (ctx mapped) inHand0 p a e).1)) ∧
    (∃ p a e, Hyp4 (fun h : Obligations.QueueEntriesEnter => (h wenq (queued 4) (ctx (queued 4)) inHand0 p a e).2.1)) ∧
    (∃ p a e, Hyp5 (fun h : Obligations.QueueEntriesEnter => (h wenq (queued 1) (ctx (queued 1)) inHand0 p a e).2.2.1)) ∧
    (∃ p a e, Hyp4 (fun h : Obligations.QueueEntriesEnter => (h wenq waited (ctx waited) inHand0 p a e).2.2.2 { part := 0, queue := 0, wk := 17, dst := 4 } [])) :=
  ⟨⟨by decide +kernel, live, by decide +kernel, by decide +kernel⟩,
    ⟨by decide +kernel, live, by decide +kernel, by decide +kernel, ⟨by decide +kernel, by decide +kernel, nofun, rfl⟩, by decide +kernel, by decide +kernel⟩,
    ⟨by decide +kernel, live, by decide +kernel, by decide +kernel, ⟨by decide +kernel, by decide +kernel, nofun, rfl⟩, by decide +kernel, by decide +kernel,
      ⟨_, 0x31000, passedOne⟩⟩,
    ⟨by decide +kernel, live, by decide +kernel, by decide +kernel, ⟨by decide +kernel, by decide +kernel, nofun, rfl⟩, by decide +kernel, by decide +kernel⟩⟩
theorem test_meets_queueStatus :
    (∃ p a e, Hyp (fun h : Obligations.QueueStatusCompletes => (h (wq (.s 1) (.v 0)) (queued 1) (ctx (queued 1)) inHand0 p a e).1)) ∧
    (∃ p a e, Hyp (fun h : Obligations.QueueStatusCompletes => (h (wq (.s 1) (.v 0)) mapped (ctx mapped) inHand0 p a e).2)) :=
  ⟨⟨by decide +kernel, live, by decide +kernel, by decide +kernel⟩, ⟨by decide +kernel, live, by decide +kernel, by decide +kernel⟩⟩
theorem test_meets_dequeues :
    Met (fun h : Obligations.QueueEntriesLeave => h.1 (wq (.s 4) (.v 0))) mapped ∧
    Met (fun h : Obligations.QueueEntriesLeave => h.2.1 (wq (.s 4) (.v 0))) (queued 1) ∧
    Met (fun h : Obligations.QueueEntriesLeave => h.2.2.1 (wq (.s 4) (.v 0))) mapped ∧
    Met (fun h : Obligations.QueueEntriesLeave => h.2.2.2 (wq (.s 61) (.v 0))) (queued 1) ∧
    Met (fun h : Obligations.QueueEntriesLeave => h.2.2.2 (wq (.s 61) (.v 0))) (queued 0) :=
  ⟨met (by decide +kernel) ⟨⟨live, by decide +kernel⟩, by decide +kernel⟩,
    met (by decide +kernel) ⟨⟨live, by decide +kernel⟩, by decide +kernel, by decide +kernel, fun _ => ⟨_, 0x31000, passedOne⟩⟩,
    met (by decide +kernel) ⟨⟨live, by decide +kernel⟩, by decide +kernel⟩,
    met (by decide +kernel) ⟨⟨live, by decide +kernel⟩, by decide +kernel, by decide +kernel, (if_neg (by decide +kernel)).mpr ⟨_, 0x31000, passedOne⟩⟩,
    met (by decide +kernel) ⟨⟨live, by decide +kernel⟩, by decide +kernel, by decide +kernel, (if_pos (by decide +kernel)).mpr (by decide +kernel)⟩⟩
/-- The gang as a surrogate of tile 0, whose residual stands. -/
def tiled : State :=
  { withGang fun g => { g with tag := some 1 } with launches := [(1, { state := 5, nextg := 1, tiles := [(0, { tag := 1, live := true, res := some 0x3F800000 })] })] }
theorem test_meets_watches :
    (∃ c pa, Met (fun h : Obligations.WatchesResidualsPatterns => h.1 (withC (wordF3 (.s 1) (.s 8) (.s 2) 3 0) (.s 58)) c pa) (queued 0)) ∧
    Met (fun h : Obligations.WatchesResidualsPatterns => h.2.1 (wordF3 (.s 1) (.int 0) (.v 0) 16 0)) { base with watches := [(0, {})] } ∧
    Met (fun h : Obligations.WatchesResidualsPatterns => h.2.2.1 (wordF3 (.v 0) (.v 5) (.v 0) 0 0)
      { state := 5, nextg := 1, tiles := [(0, { tag := 1, live := true, res := some 0x3F800000 })] } { tag := 1, live := true, res := some 0x3F800000 }) tiled ∧
    Met (fun h : Obligations.WatchesResidualsPatterns => h.2.2.2.1 (wordF3 (.v 0) (.v 5) (.v 0) 0 0)) base ∧
    Met (fun h : Obligations.WatchesResidualsPatterns => h.2.2.2.2 (wordF3 (.s 1) (.int 31) (.v 0) 1 0)) base :=
  ⟨⟨_, 0x20000, met (by decide +kernel) ⟨live, by decide +kernel, by decide +kernel, passedOne⟩⟩, met (by decide +kernel) live,
    met (by decide +kernel) ⟨live, by decide +kernel⟩, met (by decide +kernel) rfl, met (by decide +kernel) runs⟩
theorem test_meets_ratom :
    (∃ c ps, Met (fun h : Obligations.RemoteAtomics => h.1 (withC (wordF3 (.special .zero) (.s 8) (.s 10) 1 0) (.v 0)) c ps) mapped) ∧
    (∃ c ps, Met (fun h : Obligations.RemoteAtomics => h.1 (wordF3 (.v 2) (.s 8) (.v 4) 16 0) c ps) mapped) :=
  ⟨⟨_, _, met (by decide +kernel) ⟨live, by decide +kernel, by decide +kernel, passed⟩⟩, ⟨_, _, met (by decide +kernel) ⟨live, by decide +kernel, by decide +kernel, passed⟩⟩⟩
def privQueued : State := (queued 1).modWeave 16 fun w => { w with lanes := w.lanes.map fun e => (e.1, { e.2 with priv := true }) }
theorem test_meets_queueInit :
    Met (fun h : Obligations.QueueInitAndCounters => h.1.1 (wq (.s 1) (.s 2))) privQueued ∧
    Met (fun h : Obligations.QueueInitAndCounters => h.1.2 { wq (.s 1) (.v 0) with mods := 1 }) privQueued ∧
    Met (fun h : Obligations.QueueInitAndCounters => h.2.1 (wordF3 (.s 1) (.s 8) (.v 0) 0 0)) base ∧
    Met (fun h : Obligations.QueueInitAndCounters => h.2.2.1 (wordF3 (.v 0) (.int 31) (.v 0) 0 0)) base ∧
    (∃ c, Met (fun h : Obligations.QueueInitAndCounters => h.2.2.2.1 (wordF3 (.v 0) (.s 8) (.s 10) 1 0) c) (mapped.modWeave 16 fun w => { w with sregs := [(8, 0x20020#32), (10, 40)] })) :=
  ⟨met (by decide +kernel) ⟨live, by decide +kernel⟩, met (by decide +kernel) ⟨live, by decide +kernel⟩, met (by decide +kernel) live, met (by decide +kernel) live,
    ⟨_, met (by decide +kernel) ⟨live, flushedTo⟩⟩⟩

/-! ### Ranked lists, the exchange, Huapol -/

theorem test_meets_lists :
    Met (fun h : Obligations.RankedListWords => h.1 (wordF3 (.s 13) (.int 31) (.v 0) 0 0)) base ∧
    Met (fun h : Obligations.RankedListWords => h.2.1 w0) base ∧
    Met (fun h : Obligations.RankedListWords => h.2.2.1 (wordF3 (.v 0) (.v 6) (.v 7) 0 0)) base ∧
    Met (fun h : Obligations.RankedListWords => h.2.2.2.1 (wordF3 (.v 1) (.v 6) (.v 0) 0 0)) base ∧
    Met (fun h : Obligations.RankedListWords => h.2.2.2.2.1 (wordF3 (.s 1) (.int 0) (.v 0) 0 0)) base ∧
    (FVal.ofBits .f32 0x7FC00000).isNan = true ∧ ({ k := 1, ents := [(0, 0)] } : RankList).ents.length ≤ 1 :=
  ⟨met (by decide +kernel) live, met (by decide +kernel) ⟨live, by decide +kernel⟩, met (by decide +kernel) (by decide +kernel),
    met (by decide +kernel) (by decide +kernel), met (by decide +kernel) live, by decide +kernel⟩
/-- A gang bound to region 0. -/
def stitched : State := { withGang fun g => { g with region := some 0 } with
  launches := [(1, { packet := [(2, 0x0000040000200001#64), (4, 1)], state := 5, nextg := 1, region := some 0 })]
  parts := [(0, { regions := [(0, { cls := [0], launch := some 1 })] })] }
def wxst : F3 := wordF3 (.v 1) (.int 0) (.v 2) 4 0
theorem test_meets_exchangeWords :
    Met (fun h : Obligations.ExchangeWords => h.1 wxst) stitched ∧ Met (fun h : Obligations.ExchangeWords => h.2.1 wxst) base ∧
    Met (fun h : Obligations.ExchangeWords => h.2.2.1 (fx 0 0 0)) stitched ∧
    Met (fun h : Obligations.ExchangeWords => h.2.2.2.1 (wordF3 (.s 1) (.int 3) (.v 0) 1 0)) base ∧
    Met (fun h : Obligations.ExchangeWords => h.2.2.2.2 (wordF3 (.s 1) (.int 3) (.v 0) 0 0)) base :=
  ⟨met (by decide +kernel) ⟨by show _ ∧ _ ≠ _ ∧ _; decide +kernel, by decide +kernel, by decide +kernel⟩, met (by decide +kernel) ⟨by show _ ∧ _ ≠ _ ∧ _; decide +kernel, by decide +kernel⟩,
    met (by decide +kernel) ⟨can, by decide +kernel⟩, met (by decide +kernel) ⟨live, by decide +kernel⟩, met (by decide +kernel) live⟩
theorem test_meets_huapol :
    Met (fun h : Obligations.HuapolWords => h.1 (wordF3 (.s 1) (.int 0) (.s 8) 0 0)) mapped ∧
    Met (fun h : Obligations.HuapolWords => h.2.1 (wordF3 (.s 1) (.int 0) (.v 0) 1 0)) base ∧
    Met (fun h : Obligations.HuapolWords => h.2.2.1 (wordF3 (.s 1) (.int 0) (.v 0) 2 0)) base ∧
    Met (fun h : Obligations.HuapolWords => h.2.2.2.1 (wordF3 (.s 2) (.int 0) (.v 0) 1 0)) base ∧
    Met (fun h : Obligations.HuapolWords => h.2.2.2.2 (wordF3 (.s 1) (.int 0) (.v 0) 0 0)) base :=
  ⟨met (by decide +kernel) live, met (by decide +kernel) live, met (by decide +kernel) live, met (by decide +kernel) live, met (by decide +kernel) live⟩

/-! ### The prologue -/

def pro0 : Prologue := { launch := 1, pc := 0x10008, hdr := false, clause := 0x10000, len := 1, sregs := [(3, 7)] }
def inPro : State := { base with cur := some (.prologue 0), parts := [(0, { prologue := some pro0 })] }
def launch0 : Launch := { packet := [(2, 0x0000040000200001#64)], state := 5, nextg := 1 }
theorem proRuns : inPro.prologueRuns 0 pro0 0 false := ⟨⟨rfl, rfl⟩, by decide⟩
theorem test_meets_prologue :
    Hyp3 (fun h : Obligations.PrologueWords => h.1 (wordFI (.v 0) (.s 3) 0x5004 0 0) inPro 0 pro0 launch0) ∧
    Hyp4 (fun h : Obligations.PrologueWords => h.2.1 (wordFI (.v 0) (.s 2) 1 0 0) inPro 0 pro0 launch0) ∧
    Hyp2 (fun h : Obligations.PrologueWords => h.2.2.1 (wordF3 (.s 4) (.int 4) (.v 0) 0 0) inPro 0 pro0) ∧
    Hyp4 (fun h : Obligations.PrologueWords => h.2.2.2.1 w0 inPro 0 pro0 launch0) ∧ (launch0.field 0 3 0 = 0 ∨ launch0.field 0 3 0 = 2) ∧
    Hyp3 (fun h : Obligations.PrologueWords => h.2.2.2.2.1 { w0 with neg := true } inPro 0 pro0) ∧
    Hyp (fun h : Obligations.PrologueWords => h.2.2.2.2.2.1 w0 base (ctx base)) ∧
    Hyp8 (fun h : Obligations.PrologueWords => h.2.2.2.2.2.2 (wordF3 (.s 4) (.s 3) (.int 9) 0 0) inPro 0 pro0) :=
  ⟨⟨proRuns, rfl, by decide +kernel⟩, ⟨proRuns, rfl, by decide +kernel, by decide +kernel⟩, ⟨proRuns, by decide +kernel⟩, ⟨proRuns, rfl, by decide +kernel, rfl⟩,
    .inl (by decide +kernel), ⟨⟨rfl, rfl⟩, by decide +kernel, by decide +kernel⟩, ⟨slot0, rfl, rfl, rfl⟩, ⟨proRuns, rfl, rfl, rfl, rfl, rfl, rfl, rfl⟩⟩

/-! ### Events: store queues and cores -/

def queueOf (e : SqEntry) : State := event (withWeave fun w => { w with sq := [e] }) { a := 16 }
def item0 : SqItem := { lane := 31, addr := 0x20000, bytes := [1, 2, 3, 4], x := 5, y := 6 }
theorem calm (e : SqEntry) : (queueOf e).event { a := 16 } ∧ (queueOf e).calmWeave 16 ∧ ((queueOf e).weave 16).sq = [e] := ⟨⟨rfl, rfl⟩, ⟨rfl, rfl⟩, rfl⟩
def sqKind (k : SqKind) : SqEntry := { kind := k, items := [item0] }
theorem test_meets_stores_leave :
    Hyp3 (fun h : Obligations.StoresLeaveTheQueue => h (queueOf { items := [item0] }) { a := 16 } { items := [item0] } []) ∧
    Hyp4 (fun h : Obligations.StoresLeaveTheQueue => (h (queueOf (sqKind .global)) { a := 16 } (sqKind .global) [] ⟨rfl, rfl⟩ ⟨rfl, rfl⟩ rfl).1) ∧
    Hyp2 (fun h : Obligations.StoresLeaveTheQueue => (h (queueOf { kind := .scratch, items := [{ item0 with addr := 4092 }] }) { a := 16 } _ [] ⟨rfl, rfl⟩ ⟨rfl, rfl⟩ rfl).2.1) ∧
    Hyp4 (fun h : Obligations.StoresLeaveTheQueue =>
      (h (queueOf (sqKind (.ratom 10 true (.v 2) 1 false))) { a := 16 } (sqKind (.ratom 10 true (.v 2) 1 false)) [] ⟨rfl, rfl⟩ ⟨rfl, rfl⟩ rfl).2.2.1 10 true (.v 2) 1 false item0) ∧
    Hyp3 (fun h : Obligations.StoresLeaveTheQueue => (h (queueOf (sqKind .dset)) { a := 16 } (sqKind .dset) [] ⟨rfl, rfl⟩ ⟨rfl, rfl⟩ rfl).2.2.2.1 item0) ∧
    Hyp3 (fun h : Obligations.StoresLeaveTheQueue => (h (queueOf (sqKind (.dadd false))) { a := 16 } (sqKind (.dadd false)) [] ⟨rfl, rfl⟩ ⟨rfl, rfl⟩ rfl).2.2.2.2.1 item0) ∧
    Hyp2 (fun h : Obligations.StoresLeaveTheQueue => (h { queueOf (sqKind .global) with slices := [(base.homeSlice 0x20000, { waking := 1 })] } { a := 16 } (sqKind .global) [] ⟨rfl, rfl⟩ ⟨rfl, rfl⟩ rfl).2.2.2.2.2) :=
  ⟨calm _, ⟨rfl, by decide +kernel, rfl, by decide +kernel⟩, ⟨rfl, rfl⟩, ⟨rfl, by decide +kernel, rfl, by decide⟩, ⟨rfl, by decide +kernel, rfl⟩,
    ⟨rfl, by decide +kernel, rfl⟩, ⟨rfl, by decide +kernel⟩⟩

/-! ### Events of the cores -/

def late0 : LLPend := { id := 1, writes := [{ dst := .v 1, lane := 31, val := 7 }] }
def lateWeave : State := withWeave fun w => { w with ll := [late0] }
def win0 : WinFault := { lane := 5, addr := 8, detail := 1 }
def winWeave : State := withWeave fun w => { w with win := [win0], lanes := w.lanes.map fun e => (e.1, { e.2 with hdr := true }) }
def gone : Weave := { weave0 with lanes := (List.range 32).map fun l => (l, { lane0 with status := .exited }) }
theorem test_meets_coreEvents :
    Hyp4 (fun h : Obligations.CoreEvents => (h (event lateWeave { a := 16 }) { a := 16 } ⟨rfl, rfl⟩).1 late0 { dst := .v 1, lane := 31, val := 7 }) ∧
    Hyp (fun h : Obligations.CoreEvents => (h (event base { a := 16 }) { a := 16 } ⟨rfl, rfl⟩).2.1) ∧
    Hyp6 (fun h : Obligations.CoreEvents => (h (event (withOp { engine := .ce, instr := .tcopy (fx 8 0 0), fx := some (fx 8 0 0) }) { a := 9 }) { a := 9 } ⟨rfl, rfl⟩).2.2.1 { engine := .ce, instr := .tcopy (fx 8 0 0), fx := some (fx 8 0 0), gang := 1, launch := 1, wk := 16 } (fx 8 0 0)) ∧
    Hyp (fun h : Obligations.CoreEvents => (h (event (withOp { stopped := true }) { a := 9 }) { a := 9 } ⟨rfl, rfl⟩).2.2.2.1) ∧
    Hyp7 (fun h : Obligations.CoreEvents => (h (event winWeave { a := 16 }) { a := 16 } ⟨rfl, rfl⟩).2.2.2.2.1 win0 { lane0 with hdr := true }) ∧
    Hyp (fun h : Obligations.CoreEvents => (h (event base { a := 16 }) { a := 16 } ⟨rfl, rfl⟩).2.2.2.2.2.1) ∧
    Hyp (fun h : Obligations.CoreEvents => (h (event base {}) {} ⟨rfl, rfl⟩).2.2.2.2.2.2.1) ∧
    (∃ t, Hyp3 (fun h : Obligations.CoreEvents => (h (event base {}) {} ⟨rfl, rfl⟩).2.2.2.2.2.2.2.1 t)) ∧
    Hyp (fun h : Obligations.CoreEvents => (h (event base { a := 16 }) { a := 16 } ⟨rfl, rfl⟩).2.2.2.2.2.2.2.2.1) ∧
    Hyp3 (fun h : Obligations.CoreEvents => (h (event (withWeave fun w => { w with lease := { state := .neighbour, n := 8 } }) { a := 16 }) { a := 16 } ⟨rfl, rfl⟩).2.2.2.2.2.2.2.2.2.1) ∧
    Hyp6 (fun h : Obligations.CoreEvents => (h (event (withWeave fun _ => gone) { a := 16 }) { a := 16 } ⟨rfl, rfl⟩).2.2.2.2.2.2.2.2.2.2.2.1 gone) ∧
    Hyp2 (fun h : Obligations.CoreEvents => (h (event base { a := 16 }) { a := 16 } ⟨rfl, rfl⟩).2.2.2.2.2.2.2.2.2.2.2.2.1 weave0) ∧
    Hyp2 (fun h : Obligations.CoreEvents => (h (event base { a := 1 }) { a := 1 } ⟨rfl, rfl⟩).2.2.2.2.2.2.2.2.2.2.2.2.2.1 gang0) ∧
    Hyp (fun h : Obligations.CoreEvents => (h (event base { a := 5 }) { a := 5 } ⟨rfl, rfl⟩).2.2.2.2.2.2.2.2.2.2.2.2.2.2) :=
  ⟨⟨rfl, rfl, ⟨rfl, rfl⟩, rfl⟩,
    rfl,
    ⟨by decide +kernel, rfl, rfl, rfl, .inl rfl, ⟨rfl, rfl⟩⟩,
    by decide +kernel,
    ⟨rfl, rfl, rfl, by decide, by decide +kernel, by decide +kernel, rfl⟩,
    rfl,
    by decide +kernel,
    ⟨_, rfl, rfl, rfl⟩,
    .inl (by decide),
    ⟨rfl, rfl, rfl⟩,
    ⟨rfl, rfl, by decide +kernel, rfl, by decide +kernel, by decide +kernel⟩,
    ⟨rfl, .inr (.inl (by decide +kernel))⟩,
    ⟨rfl, 16, by decide +kernel, rfl⟩,
    rfl⟩


/-! ### Events of the slices, the translation and the slot tables -/

def ticket0 : Ticket := { vpage := 0x20, va := 0x20000 }
/-- A ticket of region 0, whose upcalls go to queue 0 of entries of 32 bytes. -/
def paged : State := { queued 1 with
  mem := (0x3000A, 6) :: (queued 1).mem, tickets := [(5, ticket0)]
  parts := [(0, { ctl := { act := true, qtbase := 0x30000 }, trans := { en := true, ptroot := 1, rtbase := 0x32 } })] }
def prov0 : ProvEntry := { part := 0, tag := 1, sector := 0x1000, data := [7], mask := 1 }
theorem test_meets_sliceEvents :
    (({} : TransBlock).tinvva < 2 ^ 57) ∧
    Hyp (fun h : Obligations.SliceAndTranslationEvents => (h (event base {}) {} ⟨rfl, rfl⟩).2.2.2.2.2.1) ∧
    Hyp (fun h : Obligations.SliceAndTranslationEvents => (h (event (withWeave fun w => { w with sq := [{ stale := true }] }) {}) {} ⟨rfl, rfl⟩).2.2.2.2.2.2.1) ∧
    Hyp3 (fun h : Obligations.SliceAndTranslationEvents => (h (event base { a := 0, b := mmioBase, c := 8 }) { a := 0, b := mmioBase, c := 8 } ⟨rfl, rfl⟩).2.2.2.2.2.2.2.2.1) ∧
    Hyp2 (fun h : Obligations.SliceAndTranslationEvents => (h (event base { a := 64, b := 0, c := 8 }) { a := 64, b := 0, c := 8 } ⟨rfl, rfl⟩).2.2.2.2.2.2.2.2.2.1) ∧
    Hyp5 (fun h : Obligations.SliceAndTranslationEvents => (h (event base { b := 0x1008, c := 8, on := true, value := 0x20000 }) { b := 0x1008, c := 8, on := true, value := 0x20000 } ⟨rfl, rfl⟩).2.2.2.2.2.2.2.2.2.2.1) ∧
    Hyp5 (fun h : Obligations.SliceAndTranslationEvents => (h (event base { on := true, a := 8, b := 0, c := 1, d := 4 }) { on := true, a := 8, b := 0, c := 1, d := 4 } ⟨rfl, rfl⟩).2.2.2.2.2.2.2.2.2.2.2.2.1) ∧
    Hyp5 (fun h : Obligations.SliceAndTranslationEvents => (h (event mapped { on := true, a := 1, b := 0x20000, d := 8 }) { on := true, a := 1, b := 0x20000, d := 8 } ⟨rfl, rfl⟩).2.2.2.2.2.2.2.2.2.2.2.2.2.1) ∧
    Hyp (fun h : Obligations.SliceAndTranslationEvents => (h (event base {}) {} ⟨rfl, rfl⟩).2.2.2.2.2.2.2.2.2.2.2.2.2.2.2.2.1) ∧
    Hyp (fun h : Obligations.SliceAndTranslationEvents => (h (event { base with slices := [(0, { prov := [prov0] })] } { c := 1 }) { c := 1 } ⟨rfl, rfl⟩).2.2.2.2.2.2.2.2.2.2.2.2.2.2.2.2.2.2.1 prov0) ∧
    Hyp (fun h : Obligations.SliceAndTranslationEvents => (h (event base { a := 5 }) { a := 5 } ⟨rfl, rfl⟩).2.2.2.2.2.2.2.2.2.2.2.2.2.2.2.2.2.2.2.2.1) ∧
    Hyp2 (fun h : Obligations.SliceAndTranslationEvents => (h (event { base with tickets := [(5, { ticket0 with sent := true })] } { a := 5 }) { a := 5 } ⟨rfl, rfl⟩).2.2.2.2.2.2.2.2.2.2.2.2.2.2.2.2.2.2.2.2.2.1 { ticket0 with sent := true }) ∧
    (∃ q r, Hyp10 (fun h : Obligations.SliceAndTranslationEvents => (h (event paged { a := 5 }) { a := 5 } ⟨rfl, rfl⟩).2.2.2.2.2.2.2.2.2.2.2.2.2.2.2.2.2.2.2.2.2.2 ticket0 q r)) :=
  ⟨by decide,
    by decide +kernel,
    by decide +kernel,
    ⟨rfl, by decide +kernel, by decide +kernel⟩,
    ⟨rfl, by decide +kernel⟩,
    ⟨rfl, rfl, by decide, rfl, rfl⟩,
    ⟨rfl, rfl, rfl, rfl, rfl⟩,
    ⟨rfl, by decide, by decide, by decide +kernel, by decide +kernel⟩,
    rfl,
    by decide +kernel,
    rfl,
    ⟨rfl, rfl⟩,
    ⟨_, _, rfl, rfl, rfl, rfl, by decide +kernel, by decide +kernel, by decide +kernel, by decide +kernel, by decide +kernel, _, 0x31000, passedOne⟩⟩
/-- A slice without ways, whose write-back buffer is full. -/
def brimming : Slice := { gate := 0, lines := [{ line := 1, dirty := 1 }], wb := List.replicate 16 1, miss := [{ line := 9, need := 3 }] }
/-- Requests at a slice: read misses, requests that wait, host writes that a slice accepts, holds or a table refuses, and fills. -/
theorem test_meets_sliceRequests :
    Hyp (fun h : Obligations.SliceAndTranslationEvents => (h (event base { a := 3, b := 9 }) { a := 3, b := 9 } ⟨rfl, rfl⟩).2.2.2.2.2.2.2.2.2.2.2.1.1) ∧
    Hyp6 (fun h : Obligations.SliceAndTranslationEvents => (h (event base { a := 3, b := 9 }) { a := 3, b := 9 } ⟨rfl, rfl⟩).2.2.2.2.2.2.2.2.2.2.2.1.2.1) ∧
    Hyp2 (fun h : Obligations.SliceAndTranslationEvents => (h (event { base with slices := [(3, { input := [{ line := 9 }] })] } { a := 3, b := 9 }) { a := 3, b := 9 } ⟨rfl, rfl⟩).2.2.2.2.2.2.2.2.2.2.2.1.2.2) ∧
    Hyp3 (fun h : Obligations.SliceAndTranslationEvents => ((h (event mapped { b := 0x20000, bytes := [1, 2] }) { b := 0x20000, bytes := [1, 2] } ⟨rfl, rfl⟩).2.2.2.2.2.2.2.2.2.2.2.2.2.2.1
      (by decide +kernel) nofun (by decide +kernel) (by decide +kernel)).1) ∧
    Hyp3 (fun h : Obligations.SliceAndTranslationEvents =>
      ((h (event { mapped with slices := [(mapped.homeSlice 0x20000, { waking := 1 })] } { b := 0x20000, bytes := [1, 2] }) { b := 0x20000, bytes := [1, 2] } ⟨rfl, rfl⟩).2.2.2.2.2.2.2.2.2.2.2.2.2.2.1
      (by decide +kernel) nofun (by decide +kernel) (by decide +kernel)).2.1) ∧
    Hyp (fun h : Obligations.SliceAndTranslationEvents => ((h (event mapped { b := 0x20000, c := 1, bytes := [1, 2] }) { b := 0x20000, c := 1, bytes := [1, 2] } ⟨rfl, rfl⟩).2.2.2.2.2.2.2.2.2.2.2.2.2.2.1
      (by decide +kernel) nofun (by decide +kernel) (by decide +kernel)).2.2) ∧
    Hyp (fun h : Obligations.SliceAndTranslationEvents => (h (event base { a := 3, b := 9 }) { a := 3, b := 9 } ⟨rfl, rfl⟩).2.2.2.2.2.2.2.2.2.2.2.2.2.2.2.1.1) ∧
    Hyp2 (fun h : Obligations.SliceAndTranslationEvents => (h (event { base with slices := [(3, brimming)] } { a := 3, b := 9 }) { a := 3, b := 9 } ⟨rfl, rfl⟩).2.2.2.2.2.2.2.2.2.2.2.2.2.2.2.1.2.1 { line := 9, need := 3 }) ∧
    Hyp3 (fun h : Obligations.SliceAndTranslationEvents => (h (event { base with slices := [(3, { miss := [{ line := 9, need := 3 }] })] } { a := 3, b := 9 }) { a := 3, b := 9 } ⟨rfl, rfl⟩).2.2.2.2.2.2.2.2.2.2.2.2.2.2.2.1.2.2 { line := 9, need := 3 }) :=
  ⟨rfl, ⟨rfl, rfl, nofun, nofun, by decide, by decide +kernel⟩, ⟨rfl, .inr ⟨_, .head _, rfl⟩⟩, ⟨by decide +kernel, by decide, by decide +kernel⟩,
    ⟨by decide +kernel, by decide, by decide +kernel⟩, by decide +kernel, by decide +kernel, ⟨by decide +kernel, by decide +kernel⟩,
    ⟨by decide +kernel, by decide +kernel, by decide +kernel⟩⟩
theorem test_meets_slots :
    Met (fun h : Obligations.SlotTables => h.1.1 (wordF3 (.v 0) (.s 8) (.s 9) 3 0)) privileged ∧
    Met (fun h : Obligations.SlotTables => h.1.2 (wordF3 (.s 2) (.v 0) (.v 0) 3 0)) privileged :=
  ⟨met (by decide +kernel) live, met (by decide +kernel) live⟩


/-! ### Events of the matrix engine and the bonds -/

def opOf (i : Instr) (aux : List Word) (desc : List Word := []) (unit phase : Nat := 0) : AsyncOp :=
  { engine := .mx, instr := i, aux := aux, desc := desc, unit := unit, phase := phase, accepted := true, begun := true, gang := 1, launch := 1, wk := 16 }
/-- Core 0 with a slot of every unit's table for the launch's context, and plane 3. -/
def served (o : AsyncOp) (p : Plane := {}) : State :=
  { mapped with ops := [(9, o)], cores := [(0, { planes := [(3, p)], ctxs := [(0, some 1)], tabs := (List.range 4).map fun u => (u, { ents := [(true, 0)] }) })] }
def lat : Plane := { owner := some 1, latched := true, wfmt := 1 }
def mmaOp : AsyncOp := opOf (.mma w0) [5, 0, 0, 0, 0, 3, 0, 1]
def drainOp (unit phase : Nat) : AsyncOp := opOf (.drain (fx 8 0 0)) [0, 0, 0, 0, 0, 1] [0x20000] unit phase
def share0 : Share := { op := 9, row := 5 }
def round0 : Round := { shares := [(0, share0)] }
def round1 : Round := { shares := [(0, share0)], granted := [(0, [])] }
def bondM (b : Bond) (p : Plane) : State := { served { mmaOp with aux := [5, 0, 0, 0, 0, 3, 0, 1, 0, 0, 0, 0, 1] } p with bonds := [(7, b)] }
def bondA (x : Round) : Bond := { cohort := 1, members := [1], state := .formed, armed := some x }
def bondF : Bond := { cohort := 1, members := [1], state := .formed, flight := [round1] }
theorem test_meets_matrixEvents :
    Hyp8 (fun h : Obligations.MatrixEvents => (h (event (served mmaOp lat) { a := 9 }) { a := 9 } ⟨rfl, rfl⟩).1 mmaOp gang0 w0 lat) ∧
    Hyp5 (fun h : Obligations.MatrixEvents => (h (event (served mmaOp {}) { a := 9 }) { a := 9 } ⟨rfl, rfl⟩).2.1 mmaOp gang0 w0 {}) ∧
    Hyp2 (fun h : Obligations.MatrixEvents => (h (event (served (opOf (.tcfgTile (fx 0 0 0)) [])) { a := 9 }) { a := 9 } ⟨rfl, rfl⟩).2.2.1 (opOf (.tcfgTile (fx 0 0 0)) []) gang0 (fx 0 0 0)) ∧
    Hyp2 (fun h : Obligations.MatrixEvents => (h (event (served (opOf (.tcfgCfg (fx 0 0 0)) [])) { a := 9 }) { a := 9 } ⟨rfl, rfl⟩).2.2.2.1 (opOf (.tcfgCfg (fx 0 0 0)) []) gang0 (fx 0 0 0)) ∧
    Hyp4 (fun h : Obligations.MatrixEvents => (h (event (served (drainOp 0 0)) { a := 9 }) { a := 9 } ⟨rfl, rfl⟩).2.2.2.2.1 (drainOp 0 0) gang0 (fx 8 0 0)) ∧
    (∃ s1 s2 b, Hyp8 (fun h : Obligations.MatrixEvents => (h (event (served (drainOp 1 1)) { a := 9 }) { a := 9 } ⟨rfl, rfl⟩).2.2.2.2.2.1 (drainOp 1 1) gang0 (fx 8 0 0) s1 s2 0x20000 b)) ∧
    Hyp5 (fun h : Obligations.MatrixEvents => (h (event (served (drainOp 2 2)) { a := 9 }) { a := 9 } ⟨rfl, rfl⟩).2.2.2.2.2.2.1 (drainOp 2 2) gang0 (fx 8 0 0)) ∧
    Hyp2 (fun h : Obligations.MatrixEvents => (h (event (served (opOf (.cbkld (fx 0 0 0)) [])) { a := 9 }) { a := 9 } ⟨rfl, rfl⟩).2.2.2.2.2.2.2.1 (opOf (.cbkld (fx 0 0 0)) []) gang0 (fx 0 0 0)) ∧
    Hyp2 (fun h : Obligations.MatrixEvents => (h (event (served (opOf (.accz (fx 0 0 0)) [0, 512])) { a := 9 }) { a := 9 } ⟨rfl, rfl⟩).2.2.2.2.2.2.2.2.1 (opOf (.accz (fx 0 0 0)) [0, 512]) gang0 (fx 0 0 0)) ∧
    Hyp (fun h : Obligations.MatrixEvents => (h (event base { a := 9 }) { a := 9 } ⟨rfl, rfl⟩).2.2.2.2.2.2.2.2.2.1) ∧
    Hyp7 (fun h : Obligations.MatrixEvents => (h (event { served {} with bonds := [(7, { bond0 with h := 1, members := [1], state := .forming, op := 9 })] } { a := 7 }) { a := 7 } ⟨rfl, rfl⟩).2.2.2.2.2.2.2.2.2.2.1 { bond0 with h := 1, members := [1], state := .forming, op := 9 } {}) ∧
    Hyp (fun h : Obligations.MatrixEvents => (h (event base { a := 7 }) { a := 7 } ⟨rfl, rfl⟩).2.2.2.2.2.2.2.2.2.2.2.1) ∧
    Hyp (fun h : Obligations.MatrixEvents => ((h (event (bondM (bondA round0) lat) { a := 7 }) { a := 7 } ⟨rfl, rfl⟩).2.2.2.2.2.2.2.2.2.2.2.2.1 (bondA round0) round0 share0 rfl rfl rfl rfl rfl).1) ∧
    Hyp (fun h : Obligations.MatrixEvents => ((h (event { bondM (bondA round0) lat with cores := [] } { a := 7 }) { a := 7 } ⟨rfl, rfl⟩).2.2.2.2.2.2.2.2.2.2.2.2.1 (bondA round0) round0 share0 rfl rfl rfl rfl rfl).2) ∧
    Hyp3 (fun h : Obligations.MatrixEvents => (h (event (bondM (bondA round0) lat) { a := 7 }) { a := 7 } ⟨rfl, rfl⟩).2.2.2.2.2.2.2.2.2.2.2.2.2.1 (bondA round0) round0) ∧
    Hyp5 (fun h : Obligations.MatrixEvents => (h (event (bondM (bondA round1) lat) { a := 7 }) { a := 7 } ⟨rfl, rfl⟩).2.2.2.2.2.2.2.2.2.2.2.2.2.2.1 (bondA round1) round1) ∧
    Hyp3 (fun h : Obligations.MatrixEvents => (h (event (bondM bondF {}) { a := 7 }) { a := 7 } ⟨rfl, rfl⟩).2.2.2.2.2.2.2.2.2.2.2.2.2.2.2.1 bondF round1 [] 0) ∧
    Hyp6 (fun h : Obligations.MatrixEvents => (h (event (bondM bondF lat) { a := 7 }) { a := 7 } ⟨rfl, rfl⟩).2.2.2.2.2.2.2.2.2.2.2.2.2.2.2.2.1 bondF round1 []) ∧
    Hyp3 (fun h : Obligations.MatrixEvents => (h (event (bondM bondF lat) { a := 7, b := 0 }) { a := 7, b := 0 } ⟨rfl, rfl⟩).2.2.2.2.2.2.2.2.2.2.2.2.2.2.2.2.2.1 bondF) ∧
    Hyp3 (fun h : Obligations.MatrixEvents => (h (event (bondM { bondF with state := .dissolving } lat) { a := 7, b := 0 }) { a := 7, b := 0 } ⟨rfl, rfl⟩).2.2.2.2.2.2.2.2.2.2.2.2.2.2.2.2.2.2 { bondF with state := .dissolving }) :=
  ⟨⟨⟨rfl, rfl, by decide +kernel, rfl⟩, .inl rfl, by decide +kernel, by decide +kernel, rfl, rfl, rfl, rfl⟩,
    ⟨⟨rfl, rfl, by decide +kernel, rfl⟩, rfl, by decide +kernel, by decide +kernel, rfl⟩,
    ⟨⟨rfl, rfl, by decide +kernel, rfl⟩, rfl⟩,
    ⟨⟨rfl, rfl, by decide +kernel, rfl⟩, rfl⟩,
    ⟨⟨rfl, rfl, by decide +kernel, rfl⟩, rfl, rfl, by decide +kernel⟩,
    ⟨_, _, _, ⟨rfl, rfl, by decide +kernel, rfl⟩, rfl, rfl, rfl, by decide, by decide +kernel, placed, got⟩,
    ⟨⟨rfl, rfl, by decide +kernel, rfl⟩, rfl, rfl, rfl, by decide +kernel⟩,
    ⟨⟨rfl, rfl, by decide +kernel, rfl⟩, rfl⟩,
    ⟨⟨rfl, rfl, by decide +kernel, rfl⟩, rfl⟩,
    by decide +kernel,
    ⟨rfl, rfl, rfl, rfl, rfl, by decide +kernel, by decide +kernel⟩,
    rfl,
    by decide +kernel, by decide +kernel,
    ⟨rfl, rfl, by decide⟩,
    ⟨rfl, rfl, by decide, by decide +kernel, rfl⟩,
    ⟨rfl, rfl, by decide +kernel⟩,
    ⟨rfl, rfl, by decide +kernel, show ∀ i, i < 1 → _ by decide +kernel, rfl, fun c d (hc : c < 1) (hd : d < 1) _ => by omega⟩,
    ⟨rfl, by decide, by decide⟩, ⟨rfl, by decide, by decide⟩⟩


/-! ### Events of copies, searches and stamps -/

def opFx (i : Instr) (e : Engine) (w : FX) (desc : List Word := []) : AsyncOp :=
  { engine := e, instr := i, fx := some w, desc := desc, accepted := true, begun := true, gang := 1, launch := 1, wk := 16 }
def gopOp (ident : Word) : AsyncOp := opFx (.gdist (fx 8 0 0)) .nne (fx 8 0 0) [0, ident, 0x20000, 0, 16, 4, 1, 0]
def nvmeOp (since : Dbl) : AsyncOp := { opFx (.sstore (fx 8 0 0)) .ce (fx 8 0 0) with cmds := [{ since := since }] }
def swept : State := { mapped with parts := [(0, { ctl := { act := true }, trans := { en := true, ptroot := 1 }, stamp := { regs := [(2, { vbase := 0x20000, sw := true })] } })] }
def ones : State := { mapped with gangs := [(1, { gang0 with scratch := [(0, 0xFF), (1, 0xFF), (2, 0xFF), (3, 0xFF)] })] }
theorem test_meets_copyEvents :
    Hyp2 (fun h : Obligations.CopySearchStampEvents => (h (event (served (opFx (.sgpatInv (fx 0 1 3)) .ce (fx 0 1 3))) { a := 9 }) { a := 9 } ⟨rfl, rfl⟩).1 (opFx (.sgpatInv (fx 0 1 3)) .ce (fx 0 1 3)) (fx 0 1 3)) ∧
    Hyp7 (fun h : Obligations.CopySearchStampEvents => (h (event (served (opFx (.sgpat (fx 8 0 3)) .ce (fx 8 0 3) [7, 65536, 0, 1])) { a := 9 }) { a := 9 } ⟨rfl, rfl⟩).2.1 (opFx (.sgpat (fx 8 0 3)) .ce (fx 8 0 3) [7, 65536, 0, 1]) (fx 8 0 3)) ∧
    Hyp (fun h : Obligations.CopySearchStampEvents => (h (event (withOp {}) { a := 9 }) { a := 9 } ⟨rfl, rfl⟩).2.2.1) ∧
    Hyp (fun h : Obligations.CopySearchStampEvents => ((h (event (served (nvmeOp 0)) { a := 9 }) { a := 9 } ⟨rfl, rfl⟩).2.2.2.1 (nvmeOp 0) 0 { since := 0 } rfl rfl rfl rfl).1) ∧
    Hyp (fun h : Obligations.CopySearchStampEvents => ((h (event (served (nvmeOp 0)) { a := 9, on := true }) { a := 9, on := true } ⟨rfl, rfl⟩).2.2.2.1 (nvmeOp 0) 0 { since := 0 } rfl rfl rfl rfl).2) ∧
    Hyp5 (fun h : Obligations.CopySearchStampEvents => (h (event { served (nvmeOp 0) with us := 4000000 } { a := 9 }) { a := 9 } ⟨rfl, rfl⟩).2.2.2.2.1 (nvmeOp 0) 0 true { since := 0 }) ∧
    Hyp3 (fun h : Obligations.CopySearchStampEvents => (h (event (served (nvmeOp 0)) { a := 9 }) { a := 9 } ⟨rfl, rfl⟩).2.2.2.2.2.1 (nvmeOp 0) { since := 0 }) ∧
    Hyp5 (fun h : Obligations.CopySearchStampEvents => (h (event { served (gopOp 0) with gangs := ones.gangs } { a := 9 }) { a := 9 } ⟨rfl, rfl⟩).2.2.2.2.2.2.1 (gopOp 0) { gang0 with scratch := [(0, 0xFF), (1, 0xFF), (2, 0xFF), (3, 0xFF)] } (fx 8 0 0)) ∧
    (∃ s1 row t f i d, Hyp2 (fun h : Obligations.CopySearchStampEvents => (h (event (served (gopOp 0)) { a := 9 }) { a := 9 } ⟨rfl, rfl⟩).2.2.2.2.2.2.2.1 (gopOp 0) gang0 (fx 8 0 0) s1 row t f i d)) ∧
    Hyp3 (fun h : Obligations.CopySearchStampEvents => (h (event (served (opFx (.tkmrgWv (fx 0 0 2)) .nne (fx 0 0 2))) { a := 9 }) { a := 9 } ⟨rfl, rfl⟩).2.2.2.2.2.2.2.2.1 (opFx (.tkmrgWv (fx 0 0 2)) .nne (fx 0 0 2)) (fx 0 0 2)) ∧
    Hyp (fun h : Obligations.CopySearchStampEvents => (h (event (withOp {}) { a := 9 }) { a := 9 } ⟨rfl, rfl⟩).2.2.2.2.2.2.2.2.2.1) ∧
    Hyp2 (fun h : Obligations.CopySearchStampEvents => (h (event { base with watches := [(9, { fired := true })] } { a := 9 }) { a := 9 } ⟨rfl, rfl⟩).2.2.2.2.2.2.2.2.2.2.1 { fired := true }) ∧
    Hyp2 (fun h : Obligations.CopySearchStampEvents => (h (event { base with watches := [(9, {})] } { a := 9 }) { a := 9 } ⟨rfl, rfl⟩).2.2.2.2.2.2.2.2.2.2.2.1 {}) ∧
    Hyp3 (fun h : Obligations.CopySearchStampEvents => ((h (event { base with clk := 64, parts := [(0, { solo := true })] } {}) {} ⟨rfl, rfl⟩).2.2.2.2.2.2.2.2.2.2.2.2.1).1) ∧
    Hyp (fun h : Obligations.CopySearchStampEvents => ((h (event base {}) {} ⟨rfl, rfl⟩).2.2.2.2.2.2.2.2.2.2.2.2.1).2) ∧
    (∃ s1 s2, Hyp7 (fun h : Obligations.CopySearchStampEvents => (h (event swept { b := 2 }) { b := 2 } ⟨rfl, rfl⟩).2.2.2.2.2.2.2.2.2.2.2.2.2.1 s1 s2 (s1.part 0).stamp { vbase := 0x20000, sw := true } 0x20000)) ∧
    Hyp (fun h : Obligations.CopySearchStampEvents => (h (event base { b := 2 }) { b := 2 } ⟨rfl, rfl⟩).2.2.2.2.2.2.2.2.2.2.2.2.2.2) :=
  ⟨⟨⟨rfl, rfl, by decide +kernel, by decide +kernel⟩, rfl⟩,
    ⟨⟨rfl, rfl, by decide +kernel, by decide +kernel⟩, rfl, by decide, by decide, by decide, by decide, by decide⟩,
    by decide +kernel,
    rfl,
    rfl,
    ⟨rfl, rfl, rfl, rfl, by decide⟩,
    ⟨rfl, rfl, .inr (by decide)⟩,
    ⟨⟨rfl, rfl, by decide +kernel⟩, rfl, rfl, rfl, by decide +kernel⟩,
    ⟨_, _, ⟨rfl, rfl, by decide +kernel⟩, rfl, rfl, rfl, by decide +kernel, got⟩,
    ⟨⟨rfl, rfl, by decide +kernel⟩, rfl, rfl⟩,
    by decide +kernel,
    ⟨rfl, rfl⟩,
    ⟨rfl, rfl⟩,
    ⟨rfl, rfl, by decide +kernel⟩,
    .inl rfl,
    ⟨_, _, rfl, rfl, by decide +kernel, rfl, by decide +kernel, passedOne, by decide +kernel⟩,
    by decide +kernel⟩

/-! ### Events of the exchange and Huapol -/

def datum0 : XDatum := { gang := 1, off := 4088, bytes := [1, 2, 3, 4], due := 10, wk := 16 }
def region0 : Region := { cls := [0], launch := some 1 }
def landing (r : Region) (clk : Dbl) (h : Option Hold := none) : State :=
  { withWeave fun w => { w with lanes := w.lanes.map fun e => (e.1, { e.2 with hold := h }) } with clk := clk, gangs := [(1, { gang0 with weaves := 1 })], parts := [(0, { regions := [(0, r)] })] }
def sendOp (unit : Nat) (sub : BitVec 8) : AsyncOp :=
  { opFx (.lsend (fx 8 sub 0)) .xe (fx 8 sub 0) with unit := unit, aux := [3] }
def portOf (p : Port) : State := { base with ports := [(0, p)] }
def payload : List Byte := 1 :: List.replicate 247 0
def flit0 : List Byte := payload ++ bytesOf 8 (crc64 payload).toNat
theorem payload_length : payload.length = 248 := by rw [payload, List.length_cons, List.length_replicate]
theorem flit_length : flit0.length = 256 := by rw [flit0, List.length_append, payload_length, bytesOf_length]
theorem flit_crc : (crc64 (flit0.take 248)).toNat = leNat (flit0.drop 248) := by
  rw [flit0, List.take_left' payload_length, List.drop_left' payload_length, leNat_bytesOf]
  exact (Nat.mod_eq_of_lt (by simpa using (crc64 payload).isLt)).symm
theorem test_meets_exchangeEvents :
    Hyp6 (fun h : Obligations.ExchangeEvents => (h (event (landing { region0 with flight := [datum0] } 10) {}) {} ⟨rfl, rfl⟩).1 { region0 with flight := [datum0] } datum0 { gang0 with weaves := 1 }) ∧
    Hyp3 (fun h : Obligations.ExchangeEvents => (h (event (landing { region0 with flight := [datum0] } 9) {}) {} ⟨rfl, rfl⟩).2.1 { region0 with flight := [datum0] } datum0) ∧
    Hyp2 (fun h : Obligations.ExchangeEvents => (h (event (landing region0 9) {}) {} ⟨rfl, rfl⟩).2.2.1 region0) ∧
    Hyp3 (fun h : Obligations.ExchangeEvents => (h (event (landing region0 9 (some (.xstep none))) {}) {} ⟨rfl, rfl⟩).2.2.2.1 region0) ∧
    Hyp4 (fun h : Obligations.ExchangeEvents => (h (event (landing { region0 with t := some 9 } 9 (some (.xstep none))) {}) {} ⟨rfl, rfl⟩).2.2.2.2.1 { region0 with t := some 9 } 9) ∧
    Hyp6 (fun h : Obligations.ExchangeEvents => (h (event (landing { region0 with t := some 9 } 1000 (some (.xstep none))) {}) {} ⟨rfl, rfl⟩).2.2.2.2.2.1 { region0 with t := some 9 } 9 1) ∧
    Hyp5 (fun h : Obligations.ExchangeEvents => (h (event { base with ops := [(9, sendOp 1 0)] } { a := 9 }) { a := 9 } ⟨rfl, rfl⟩).2.2.2.2.2.2.1 (sendOp 1 0) (fx 8 0 0) (fx 8 0 0)) ∧
    Hyp3 (fun h : Obligations.ExchangeEvents => ((h (event { base with ops := [(9, sendOp 1 0)] } { a := 9 }) { a := 9 } ⟨rfl, rfl⟩).2.2.2.2.2.2.1 (sendOp 1 0) (fx 8 0 0) (fx 8 0 0) rfl rfl rfl rfl rfl).1) ∧
    Hyp3 (fun h : Obligations.ExchangeEvents => ((h (event { base with ops := [(9, sendOp 1 1)] } { a := 9 }) { a := 9 } ⟨rfl, rfl⟩).2.2.2.2.2.2.1 (sendOp 1 1) (fx 8 1 0) (fx 8 1 0) rfl rfl rfl rfl rfl).2.1) ∧
    Hyp5 (fun h : Obligations.ExchangeEvents => ((h (event { portOf { owner := some 0, tx := [(0, { v := true, failed := true })] } with ops := [(9, sendOp 0 0)] } { a := 9 }) { a := 9 } ⟨rfl, rfl⟩).2.2.2.2.2.2.1 (sendOp 0 0) (fx 8 0 0) (fx 8 0 0) rfl rfl rfl rfl rfl).2.2) ∧
    Hyp (fun h : Obligations.ExchangeEvents => (h (event base {}) {} ⟨rfl, rfl⟩).2.2.2.2.2.2.2.1) ∧
    Hyp2 (fun h : Obligations.ExchangeEvents => (h (event (portOf { up := true }) { bytes := [1] }) { bytes := [1] } ⟨rfl, rfl⟩).2.2.2.2.2.2.2.2.1) ∧
    Hyp5 (fun h : Obligations.ExchangeEvents => (h (event (portOf { up := true }) { bytes := flit0 }) { bytes := flit0 } ⟨rfl, rfl⟩).2.2.2.2.2.2.2.2.2.1) ∧
    Hyp4 (fun h : Obligations.ExchangeEvents => ((h (event (portOf { rx := [(15, { v := true, slots := 16, lastSeen := 0x8000 })] }) { b := 15, c := 15 }) { b := 15, c := 15 } ⟨rfl, rfl⟩).2.2.2.2.2.2.2.2.2.2.2.1).1) ∧
    Hyp (fun h : Obligations.ExchangeEvents => ((h (event base { b := 15 }) { b := 15 } ⟨rfl, rfl⟩).2.2.2.2.2.2.2.2.2.2.2.1).2) ∧
    Hyp3 (fun h : Obligations.ExchangeEvents => ((h (event (portOf { tx := [(15, { v := true, slots := 16, credits := 3 })] }) { b := 15 }) { b := 15 } ⟨rfl, rfl⟩).2.2.2.2.2.2.2.2.2.2.2.2.1).1) ∧
    Hyp (fun h : Obligations.ExchangeEvents => ((h (event base { b := 15 }) { b := 15 } ⟨rfl, rfl⟩).2.2.2.2.2.2.2.2.2.2.2.2.1).2) ∧
    Hyp4 (fun h : Obligations.ExchangeEvents => (h (event { base with ops := [(9, sendOp 1 1)] } { c := 3 }) { c := 3 } ⟨rfl, rfl⟩).2.2.2.2.2.2.2.2.2.2.2.2.2 9 (sendOp 1 1)) :=
  ⟨⟨rfl, rfl, by decide, rfl, rfl, 16, by decide +kernel, by decide +kernel⟩,
    ⟨rfl, rfl, by decide⟩,
    ⟨rfl, by decide +kernel⟩,
    ⟨rfl, by decide +kernel, rfl⟩,
    ⟨rfl, by decide +kernel, rfl, by decide +kernel⟩,
    ⟨rfl, by decide +kernel, rfl, by decide +kernel, rfl, by decide +kernel⟩,
    ⟨rfl, rfl, rfl, rfl, rfl⟩,
    ⟨by decide, by decide, rfl⟩,
    ⟨by decide, by decide, rfl⟩,
    ⟨rfl, by decide +kernel, by decide +kernel, by decide +kernel, by decide +kernel⟩,
    by decide +kernel,
    ⟨rfl, .inl (by decide)⟩,
    ⟨rfl, flit_length, flit_crc, by decide +kernel, by decide +kernel⟩,
    ⟨by decide, by decide +kernel, by decide, by decide +kernel⟩,
    .inl (by decide +kernel),
    ⟨by decide, by decide +kernel, by decide +kernel⟩,
    by decide +kernel,
    ⟨rfl, rfl, rfl, by decide +kernel⟩⟩


/-! ### Events of the firmware -/

/-- A mailbox command with its argument buffer at 1 MiB. -/
def mailing (cmd : Nat) (act : Bool) (m : List (Nat × Byte) := []) : State :=
  { base with mailbox := { cmd := cmd, go := true, arg := 0x100000 }, mem := m, status := { dies := 0xF, svc := 2 }
              parts := if act then [(0, { ctl := { act := true } })] else [] }
def descriptor : List (Nat × Byte) := [(0x10000A, 1), (0x10000B, 1), (0x100010, 1), (0x100012, 1), (0x100048, 1)]
def req (n : Half) : SyscReq := { service := n, mask := 0xF, args := [1, 2, 3, 4] }
def servicing (n : Half) (ecause : Word) (p : Partition := {}) : State :=
  { withWeave fun w => { w with ecause := ecause, syscs := [req n], lanes := w.lanes.map fun e => (e.1, { e.2 with hold := some (.sysc n), priv := true }) } with parts := [(0, p)] }
def ordered : State := { withGang fun g => { g with weaves := 1, savedWeaves := 1 } with launches := [(1, { state := 5, escalated := [1] })] }
def linked : State := { base with links := [(0, { permitsUp := 8, permitsDown := 8 })] }
theorem test_meets_firmwareEvents :
    Hyp2 (fun h : Obligations.FirmwareEvents => ((h (event linked { bytes := List.replicate 64 0, on := true }) { bytes := List.replicate 64 0, on := true } ⟨rfl, rfl⟩).1).1) ∧
    Hyp2 (fun h : Obligations.FirmwareEvents => ((h (event linked { bytes := List.replicate 64 0, on := false }) { bytes := List.replicate 64 0, on := false } ⟨rfl, rfl⟩).1).2.1) ∧
    Hyp (fun h : Obligations.FirmwareEvents => ((h (event base { a := 16 }) { a := 16 } ⟨rfl, rfl⟩).2.1).1) ∧
    Hyp (fun h : Obligations.FirmwareEvents => ((h (event (servicing 0 0 {}) { a := 16 }) { a := 16 } ⟨rfl, rfl⟩).2.1.1 rfl).1 (req 0)) ∧
    Hyp (fun h : Obligations.FirmwareEvents => ((h (event (servicing 0x10 0 {}) { a := 16 }) { a := 16 } ⟨rfl, rfl⟩).2.1.1 rfl).2.1 (req 0x10)) ∧
    Hyp (fun h : Obligations.FirmwareEvents => ((h (event (servicing 0x11 0 {}) { a := 16 }) { a := 16 } ⟨rfl, rfl⟩).2.1.1 rfl).2.2.1 (req 0x11)) ∧
    Hyp2 (fun h : Obligations.FirmwareEvents => ((h (event (servicing 0x20 0 {}) { a := 16 }) { a := 16 } ⟨rfl, rfl⟩).2.1.1 rfl).2.2.2.1 (req 0x20)) ∧
    Hyp2 (fun h : Obligations.FirmwareEvents => ((h (event (servicing 0x20 0 { flog := List.replicate 256 [] }) { a := 16 }) { a := 16 } ⟨rfl, rfl⟩).2.1.1 rfl).2.2.2.2.1 (req 0x20)) ∧
    Hyp2 (fun h : Obligations.FirmwareEvents => ((h (event (servicing 1 0 {}) { a := 16 }) { a := 16 } ⟨rfl, rfl⟩).2.1.1 rfl).2.2.2.2.2.1 (req 1)) ∧
    Hyp4 (fun h : Obligations.FirmwareEvents => ((h (event (servicing 1 2 {}) { a := 16 }) { a := 16 } ⟨rfl, rfl⟩).2.1.1 rfl).2.2.2.2.2.2 (req 1)) ∧
    Hyp (fun h : Obligations.FirmwareEvents => ((h (event base { a := 16 }) { a := 16 } ⟨rfl, rfl⟩).2.1).2.1) ∧
    Hyp4 (fun h : Obligations.FirmwareEvents => ((h (event ordered { a := 16 }) { a := 16 } ⟨rfl, rfl⟩).2.1).2.2) ∧
    Hyp2 (fun h : Obligations.FirmwareEvents => (h (event (mailing 1 false descriptor) {}) {} ⟨rfl, rfl⟩).2.2.1) ∧
    Hyp2 (fun h : Obligations.FirmwareEvents => (h (event (mailing 1 false) {}) {} ⟨rfl, rfl⟩).2.2.2.1) ∧
    Hyp (fun h : Obligations.FirmwareEvents => (h (event (mailing 2 true) {}) {} ⟨rfl, rfl⟩).2.2.2.2.1) ∧
    Hyp3 (fun h : Obligations.FirmwareEvents => ((h (event { mailing 3 true with launches := [], gangs := [] } {}) {} ⟨rfl, rfl⟩).2.2.2.2.2.1).1) ∧
    Hyp3 (fun h : Obligations.FirmwareEvents => ((h (event { mailing 3 true with launches := [] } {}) {} ⟨rfl, rfl⟩).2.2.2.2.2.1).2.1) ∧
    Hyp (fun h : Obligations.FirmwareEvents => ((h (event (mailing 4 true) {}) {} ⟨rfl, rfl⟩).2.2.2.2.2.1).2.2.1) ∧
    Hyp3 (fun h : Obligations.FirmwareEvents => ((h (event (mailing 5 true [(0x100000, 15)]) {}) {} ⟨rfl, rfl⟩).2.2.2.2.2.1).2.2.2.1) ∧
    Hyp2 (fun h : Obligations.FirmwareEvents => ((h (event (mailing 5 true [(0x100000, 16)]) {}) {} ⟨rfl, rfl⟩).2.2.2.2.2.1).2.2.2.2) ∧
    Hyp3 (fun h : Obligations.FirmwareEvents => (h (event (mailing 6 true) {}) {} ⟨rfl, rfl⟩).2.2.2.2.2.2.1) ∧
    Hyp (fun h : Obligations.FirmwareEvents => ((h (event (mailing 6 true) {}) {} ⟨rfl, rfl⟩).2.2.2.2.2.2.1 rfl rfl rfl).2) ∧
    Hyp4 (fun h : Obligations.FirmwareEvents => (h (event (mailing 7 true) {}) {} ⟨rfl, rfl⟩).2.2.2.2.2.2.2.1) ∧
    Hyp3 (fun h : Obligations.FirmwareEvents => (h (event (mailing 8 true) {}) {} ⟨rfl, rfl⟩).2.2.2.2.2.2.2.2.1) ∧
    Hyp3 (fun h : Obligations.FirmwareEvents => (h (event { mailing 1 true with alarm := { refuse := true } } {}) {} ⟨rfl, rfl⟩).2.2.2.2.2.2.2.2.2.1) ∧
    Hyp (fun h : Obligations.FirmwareEvents => (h (event base {}) {} ⟨rfl, rfl⟩).2.2.2.2.2.2.2.2.2.2) :=
  ⟨⟨rfl, rfl⟩,
    ⟨rfl, rfl⟩,
    rfl,
    by decide +kernel,
    by decide +kernel,
    by decide +kernel,
    by decide +kernel,
    ⟨by decide +kernel, by decide +kernel⟩,
    by decide +kernel,
    by decide +kernel,
    by decide +kernel,
    by decide +kernel,
    ⟨⟨rfl, rfl, rfl, by decide +kernel, rfl⟩, by decide +kernel⟩,
    ⟨⟨rfl, rfl, rfl, by decide +kernel, rfl⟩, by decide +kernel⟩,
    ⟨rfl, rfl, rfl, by decide +kernel, rfl⟩,
    ⟨⟨rfl, rfl, rfl, by decide +kernel, rfl⟩, by decide +kernel, by decide +kernel⟩,
    ⟨⟨rfl, rfl, rfl, by decide +kernel, rfl⟩, by decide +kernel, by decide +kernel⟩,
    ⟨rfl, rfl, rfl, by decide +kernel, rfl⟩,
    ⟨⟨rfl, rfl, rfl, by decide +kernel, rfl⟩, by decide +kernel, by decide +kernel⟩,
    ⟨⟨rfl, rfl, rfl, by decide +kernel, rfl⟩, by decide +kernel⟩,
    ⟨rfl, rfl, rfl⟩,
    by decide +kernel,
    ⟨rfl, rfl, rfl, by decide +kernel⟩,
    ⟨rfl, rfl, by decide +kernel⟩,
    ⟨rfl, rfl, rfl⟩,
    rfl⟩
/-- An image of 256 bytes whose first word is the magic number. -/
def image : List Byte := (List.range 256).map fun i => BitVec.ofNat 8 (0x43424D52 / 2 ^ (8 * i))
/-- The clauses about a valid image: where the free verification accepts, the hypotheses can be met; PROVISION's two
clauses are the two values of its free verification. -/
theorem test_meets_validImage (h : Config.verifies ((image.drop 0x20).take 64) (imageDigest image) ((image.drop 0x80).take 64) = true) :
    ({ keyHash := Config.sha256 ((image.drop 0x20).take 64) } : Firmware).imageValid image = true := by
  rw [Firmware.imageValid, h, Bool.and_true, Bool.and_eq_true, Bool.and_eq_true]
  exact ⟨⟨by decide +kernel, beq_self_eq_true _⟩, by decide +kernel⟩

/-! ### Events of the package -/

def packaged : State := { base with status := { dies := 0xF, svc := 1 } }
def packeted : State := { base with launches := [(1, { state := 1 })], parts := [(0, {})] }
theorem test_meets_packageEvents :
    Hyp (fun h : Obligations.PackageEvents => (h (event base {}) {} ⟨rfl, rfl⟩).2.1) ∧
    Hyp5 (fun h : Obligations.PackageEvents => (h (event { packaged with launches := [], gangs := [] } {}) {} ⟨rfl, rfl⟩).2.2.1) ∧
    Hyp3 (fun h : Obligations.PackageEvents => (h (event packaged {}) {} ⟨rfl, rfl⟩).2.2.2.1) ∧
    Hyp (fun h : Obligations.PackageEvents => (h (event base {}) {} ⟨rfl, rfl⟩).2.2.2.2.1) ∧
    Hyp (fun h : Obligations.PackageEvents => (h (event base { b := 100 }) { b := 100 } ⟨rfl, rfl⟩).2.2.2.2.2.1) ∧
    Hyp2 (fun h : Obligations.PackageEvents => (h (event { base with status := { therm := 1 }, sensors := [(0, 100)] } { b := 95 }) { b := 95 } ⟨rfl, rfl⟩).2.2.2.2.2.2.1) ∧
    Hyp (fun h : Obligations.PackageEvents => (h (event base { b := 95 }) { b := 95 } ⟨rfl, rfl⟩).2.2.2.2.2.2.2.1) ∧
    Hyp (fun h : Obligations.PackageEvents => (h (event base { b := 115 }) { b := 115 } ⟨rfl, rfl⟩).2.2.2.2.2.2.2.2.1) ∧
    Hyp (fun h : Obligations.PackageEvents => (h (event base { b := 99 }) { b := 99 } ⟨rfl, rfl⟩).2.2.2.2.2.2.2.2.2.1) ∧
    Hyp (fun h : Obligations.PackageEvents => (h (event base { a := 2 }) { a := 2 } ⟨rfl, rfl⟩).2.2.2.2.2.2.2.2.2.2.2.1) ∧
    Hyp2 (fun h : Obligations.PackageEvents => (h (event base { a := 3 }) { a := 3 } ⟨rfl, rfl⟩).2.2.2.2.2.2.2.2.2.2.2.2.1) ∧
    Hyp (fun h : Obligations.PackageEvents => (h (event base { victim := .nobody }) { victim := .nobody } ⟨rfl, rfl⟩).2.2.2.2.2.2.2.2.2.2.2.2.2.1) ∧
    Hyp2 (fun h : Obligations.PackageEvents => ((h (event (served mmaOp) { victim := .command 9 }) { victim := .command 9 } ⟨rfl, rfl⟩).2.2.2.2.2.2.2.2.2.2.2.2.2.2.1 9 mmaOp rfl rfl rfl).1) ∧
    Hyp2 (fun h : Obligations.PackageEvents => ((h (event (served (gopOp 0)) { victim := .command 9 }) { victim := .command 9 } ⟨rfl, rfl⟩).2.2.2.2.2.2.2.2.2.2.2.2.2.2.1 9 (gopOp 0) rfl rfl rfl).2.1 (fx 8 0 0)) ∧
    Hyp3 (fun h : Obligations.PackageEvents => ((h (event (served (nvmeOp 0)) { victim := .command 9 }) { victim := .command 9 } ⟨rfl, rfl⟩).2.2.2.2.2.2.2.2.2.2.2.2.2.2.1 9 (nvmeOp 0) rfl rfl rfl).2.2 (0, true)) ∧
    Hyp (fun h : Obligations.PackageEvents => (h (event base { victim := .memory 0x20000 }) { victim := .memory 0x20000 } ⟨rfl, rfl⟩).2.2.2.2.2.2.2.2.2.2.2.2.2.2.2.1 0x20000) ∧
    Hyp2 (fun h : Obligations.PackageEvents => (h (event base { victim := .scratch 1 8 }) { victim := .scratch 1 8 } ⟨rfl, rfl⟩).2.2.2.2.2.2.2.2.2.2.2.2.2.2.2.2.1 1 gang0 8) ∧
    Hyp (fun h : Obligations.PackageEvents => ((h (event packeted { victim := .packet 1 }) { victim := .packet 1 } ⟨rfl, rfl⟩).2.2.2.2.2.2.2.2.2.2.2.2.2.2.2.2.2.1 1 { state := 1 } rfl rfl rfl).1) ∧
    Hyp2 (fun h : Obligations.PackageEvents => ((h (event { packeted with parts := [(0, { prologue := some pro0 })] } { victim := .packet 1 }) { victim := .packet 1 } ⟨rfl, rfl⟩).2.2.2.2.2.2.2.2.2.2.2.2.2.2.2.2.2.1 1 { state := 1 } rfl rfl rfl).2 pro0) ∧
    Hyp2 (fun h : Obligations.PackageEvents => (h (event base { victim := .lease 16 }) { victim := .lease 16 } ⟨rfl, rfl⟩).2.2.2.2.2.2.2.2.2.2.2.2.2.2.2.2.2.2.1 16) ∧
    Hyp3 (fun h : Obligations.PackageEvents => (h (event trapped { victim := .lanes 16 1 }) { victim := .lanes 16 1 } ⟨rfl, rfl⟩).2.2.2.2.2.2.2.2.2.2.2.2.2.2.2.2.2.2.2.1 16 1) ∧
    Hyp3 (fun h : Obligations.PackageEvents => ((h (event { base with cores := [(0, { spgate := 0x7F })] } { b := 7, on := true }) { b := 7, on := true } ⟨rfl, rfl⟩).2.2.2.2.2.2.2.2.2.2.2.2.2.2.2.2.2.2.2.2.1).1) ∧
    Hyp3 (fun h : Obligations.PackageEvents => ((h (event { base with gangs := [] } { b := 7 }) { b := 7 } ⟨rfl, rfl⟩).2.2.2.2.2.2.2.2.2.2.2.2.2.2.2.2.2.2.2.2.1).2.1) ∧
    Hyp3 (fun h : Obligations.PackageEvents => (h (event base { b := 7 }) { b := 7 } ⟨rfl, rfl⟩).2.2.2.2.2.2.2.2.2.2.2.2.2.2.2.2.2.2.2.2.1.2.2.1 (1, gang0)) ∧
    Hyp (fun h : Obligations.PackageEvents => ((h (event base { b := 7 }) { b := 7 } ⟨rfl, rfl⟩).2.2.2.2.2.2.2.2.2.2.2.2.2.2.2.2.2.2.2.2.1).2.2.2) ∧
    Hyp3 (fun h : Obligations.PackageEvents => ((h (event { base with slices := [(0, { gate := 0x7FFF })] } { b := 15, on := true }) { b := 15, on := true } ⟨rfl, rfl⟩).2.2.2.2.2.2.2.2.2.2.2.2.2.2.2.2.2.2.2.2.2).1) ∧
    Hyp4 (fun h : Obligations.PackageEvents => ((h (event base { b := 15 }) { b := 15 } ⟨rfl, rfl⟩).2.2.2.2.2.2.2.2.2.2.2.2.2.2.2.2.2.2.2.2.2).2.1) ∧
    Hyp2 (fun h : Obligations.PackageEvents => ((h (event { base with slices := [(0, { gate := 0xF })] } { b := 3 }) { b := 3 } ⟨rfl, rfl⟩).2.2.2.2.2.2.2.2.2.2.2.2.2.2.2.2.2.2.2.2.2).2.2.1) ∧
    Hyp2 (fun h : Obligations.PackageEvents => ((h (event { base with slices := [(0, { waking := 3, input := [{ line := 9 }] })] } { b := 1 }) { b := 1 } ⟨rfl, rfl⟩).2.2.2.2.2.2.2.2.2.2.2.2.2.2.2.2.2.2.2.2.2).2.2.2.1) ∧
    Hyp2 (fun h : Obligations.PackageEvents => ((h (event { base with slices := [(0, { waking := 2, input := [{ line := 9 }] })] } { b := 1 }) { b := 1 } ⟨rfl, rfl⟩).2.2.2.2.2.2.2.2.2.2.2.2.2.2.2.2.2.2.2.2.2).2.2.2.2 { line := 9 }) :=
  ⟨by decide +kernel,
    ⟨rfl, rfl, rfl, rfl, by decide⟩,
    ⟨rfl, rfl, by decide⟩,
    by decide +kernel,
    by decide +kernel,
    ⟨rfl, by decide +kernel⟩,
    by decide +kernel,
    by decide +kernel,
    by decide +kernel,
    by decide +kernel,
    by decide +kernel,
    rfl,
    ⟨.inl rfl, nofun⟩,
    ⟨rfl, nofun⟩,
    ⟨rfl, nofun, rfl⟩,
    rfl,
    ⟨rfl, rfl⟩,
    nofun,
    ⟨rfl, rfl⟩,
    ⟨rfl, rfl⟩,
    ⟨rfl, enters, rfl⟩,
    ⟨by decide, rfl, by decide +kernel⟩,
    ⟨by decide, rfl, by decide⟩,
    ⟨.head _, rfl, rfl⟩,
    by decide +kernel,
    ⟨by decide, rfl, by decide +kernel⟩,
    ⟨by decide, rfl, by decide +kernel, by decide +kernel⟩,
    ⟨rfl, by decide +kernel⟩,
    ⟨by decide, .inl (by decide +kernel)⟩,
    ⟨by decide +kernel, rfl⟩⟩


/-! ### Events of the front end -/

def qslot0 : QSlot := { w := 1, log2n := 4, rbase := 0x35000 }
/-- Queue 0 of partition 0 in slot 5. -/
def slotted (x : QSlot) : State :=
  { mapped with slots := [(5, some x)], launches := [], parts := [(0, { ctl := { act := true }, front := { qcount := 1 }, trans := { en := true, ptroot := 1 } })] }
/-- Queue 0 pending, its descriptor at 0x34000. -/
def pendingQueue : State := { mapped with
  mem := mapped.mem ++ [(0x34001, 0x50), (0x34002, 3), (0x34008, 0x84), (0x34010, 1)], pendingOrder := [{}]
  parts := [(0, { ctl := { act := true }, front := { qcount := 1, qdbase := 0x34000, quota := 1 }, trans := { en := true, ptroot := 1 } })] }
def taken (ty : Dbl) (rest : Table Dbl := []) (state : Nat := 1) : Launch := { packet := (0, ty) :: rest, state := state, checked := true }
def due (x : Launch) : State := { queued 1 with launches := [(1, x)], gangs := [], weaves := [], cohorts := [] }
theorem due_packet {x : Launch} {ty : Nat} (t : x.typ = ty := by rfl) (e : x.ended = false := by rfl) (d : x.depTickets = [] := by rfl)
    (c : x.checked = true := by rfl) (s : x.state = 1 := by rfl)
    (p : (event (due x) { a := 1 }).inPrologue 1 = false := by rfl) : (event (due x) { a := 1 }).packetDue 1 ty x :=
  ⟨rfl, t, e, p, d, c, s⟩
def proAt (n : Nat) : State := { base with parts := [(0, { prologue := some { launch := 1, count := n } })] }
def regionDesc (m : List (Nat × Byte)) : State := { due (taken 6 [(1, 0x36000)]) with
  mem := mapped.mem ++ m, parts := [(0, { ctl := { act := true, clmask := 1 }, trans := { en := true, ptroot := 1 } })] }
theorem test_meets_frontEvents :
    Hyp4 (fun h : Obligations.FrontEndEvents => (h (event (slotted qslot0) { c := 8, value := 16 }) { c := 8, value := 16 } ⟨rfl, rfl⟩).1 5 qslot0) ∧
    Hyp (fun h : Obligations.FrontEndEvents => ((h (event (slotted qslot0) { c := 8, value := 16 }) { c := 8, value := 16 } ⟨rfl, rfl⟩).1 5 qslot0 rfl (by decide +kernel) rfl rfl).1) ∧
    Hyp (fun h : Obligations.FrontEndEvents => ((h (event (slotted qslot0) { c := 8, value := 17 }) { c := 8, value := 17 } ⟨rfl, rfl⟩).1 5 qslot0 rfl (by decide +kernel) rfl rfl).2) ∧
    Hyp (fun h : Obligations.FrontEndEvents => (h (event (slotted qslot0) { b := 1, c := 8 }) { b := 1, c := 8 } ⟨rfl, rfl⟩).2.1) ∧
    (∃ s1 b n s2, Hyp7 (fun h : Obligations.FrontEndEvents => (h (event pendingQueue {}) {} ⟨rfl, rfl⟩).2.2.1 {} s1 b n s2)) ∧
    Hyp (fun h : Obligations.FrontEndEvents => (h (event base {}) {} ⟨rfl, rfl⟩).2.2.2.1) ∧
    Hyp (fun h : Obligations.FrontEndEvents => (h (event (slotted qslot0) { a := 5 }) { a := 5 } ⟨rfl, rfl⟩).2.2.2.2.1 qslot0) ∧
    Hyp3 (fun h : Obligations.FrontEndEvents => ((h (event { slotted { qslot0 with w := 0 } with us := 200 } { a := 5 }) { a := 5 } ⟨rfl, rfl⟩).2.2.2.2.1 { qslot0 with w := 0 } rfl).1) ∧
    Hyp (fun h : Obligations.FrontEndEvents => ((h (event { slotted { qslot0 with w := 0 } with us := 199 } { a := 5 }) { a := 5 } ⟨rfl, rfl⟩).2.2.2.2.1 { qslot0 with w := 0 } rfl).2) ∧
    Hyp4 (fun h : Obligations.FrontEndEvents => (h (event (due (taken 0 [] 2)) {}) {} ⟨rfl, rfl⟩).2.2.2.2.2.2.1 1) ∧
    Hyp (fun h : Obligations.FrontEndEvents => (h (event (due (taken 0 [] 1)) {}) {} ⟨rfl, rfl⟩).2.2.2.2.2.2.2.1) ∧
    (∃ s1 b, Hyp4 (fun h : Obligations.FrontEndEvents => (h (event (slotted qslot0) { a := 5 }) { a := 5 } ⟨rfl, rfl⟩).2.2.2.2.2.2.2.2.1 qslot0 s1 b)) ∧
    Hyp2 (fun h : Obligations.FrontEndEvents => (h (event (slotted { qslot0 with w := 0 }) { a := 5 }) { a := 5 } ⟨rfl, rfl⟩).2.2.2.2.2.2.2.2.2.1 { qslot0 with w := 0 }) ∧
    Hyp2 (fun h : Obligations.FrontEndEvents => (h (event (due (taken 0)) { a := 1 }) { a := 1 } ⟨rfl, rfl⟩).2.2.2.2.2.2.2.2.2.2.1 (taken 0)) ∧
    Hyp2 (fun h : Obligations.FrontEndEvents => ((h (event (due (taken 0)) { a := 1 }) { a := 1 } ⟨rfl, rfl⟩).2.2.2.2.2.2.2.2.2.2.1 (taken 0) rfl (by decide +kernel)).1) ∧
    Hyp (fun h : Obligations.FrontEndEvents => ((h (event (due (taken 1)) { a := 1 }) { a := 1 } ⟨rfl, rfl⟩).2.2.2.2.2.2.2.2.2.2.1 (taken 1) rfl (by decide +kernel)).2.1) ∧
    Hyp2 (fun h : Obligations.FrontEndEvents => ((h (event (due (taken 2)) { a := 1 }) { a := 1 } ⟨rfl, rfl⟩).2.2.2.2.2.2.2.2.2.2.1 (taken 2) rfl (by decide +kernel)).2.2) ∧
    Hyp2 (fun h : Obligations.FrontEndEvents => (h (event (due (taken 3)) { a := 1 }) { a := 1 } ⟨rfl, rfl⟩).2.2.2.2.2.2.2.2.2.2.2.1 (taken 3)) ∧
    Hyp2 (fun h : Obligations.FrontEndEvents => (h (event (due (taken 0x100003)) { a := 1 }) { a := 1 } ⟨rfl, rfl⟩).2.2.2.2.2.2.2.2.2.2.2.2.1 (taken 0x100003)) ∧
    Hyp3 (fun h : Obligations.FrontEndEvents => (h (event (due (taken 5)) { a := 1 }) { a := 1 } ⟨rfl, rfl⟩).2.2.2.2.2.2.2.2.2.2.2.2.2.1 (taken 5)) ∧
    Hyp2 (fun h : Obligations.FrontEndEvents => (h (event (due (taken 0x400005)) { a := 1 }) { a := 1 } ⟨rfl, rfl⟩).2.2.2.2.2.2.2.2.2.2.2.2.2.2.1 (taken 0x400005)) ∧
    (∃ s1, Hyp5 (fun h : Obligations.FrontEndEvents => (h (event (due (taken 4 [(1, 0x20000)])) { a := 1 }) { a := 1 } ⟨rfl, rfl⟩).2.2.2.2.2.2.2.2.2.2.2.2.2.2.2.1 (taken 4 [(1, 0x20000)]) s1 0x20000 0)) ∧
    (∃ s1 b, Hyp2 (fun h : Obligations.FrontEndEvents => (h (event (regionDesc [(0x36000, 0x78)]) { a := 1 }) { a := 1 } ⟨rfl, rfl⟩).2.2.2.2.2.2.2.2.2.2.2.2.2.2.2.2.1 (taken 6 [(1, 0x36000)]) s1 b)) ∧
    Hyp2 (fun h : Obligations.FrontEndEvents => (h (event { base with deps := [{ launch := 1, dep := 3, met := true }] } { a := 1, b := 3 }) { a := 1, b := 3 } ⟨rfl, rfl⟩).2.2.2.2.2.2.2.2.2.2.2.2.2.2.2.2.2.1 launch0) ∧
    Hyp (fun h : Obligations.FrontEndEvents => (h (event base { a := 1 }) { a := 1 } ⟨rfl, rfl⟩).2.2.2.2.2.2.2.2.2.2.2.2.2.2.2.2.2.2.1) ∧
    (∃ s1, Hyp8 (fun h : Obligations.FrontEndEvents => (h (event (due (taken 0x400000 [(9, 0x20001)])) { a := 1, b := 3 }) { a := 1, b := 3 } ⟨rfl, rfl⟩).2.2.2.2.2.2.2.2.2.2.2.2.2.2.2.2.2.2.2.1 (taken 0x400000 [(9, 0x20001)]) s1 0x20000)) ∧
    Hyp (fun h : Obligations.FrontEndEvents => (h (event (proAt 256) {}) {} ⟨rfl, rfl⟩).2.2.2.2.2.2.2.2.2.2.2.2.2.2.2.2.2.2.2.2 { launch := 1, count := 256 }) ∧
    Hyp2 (fun h : Obligations.FrontEndEvents => ((h (event (proAt 256) {}) {} ⟨rfl, rfl⟩).2.2.2.2.2.2.2.2.2.2.2.2.2.2.2.2.2.2.2.2 { launch := 1, count := 256 } rfl).1) ∧
    Hyp (fun h : Obligations.FrontEndEvents => ((h (event (proAt 255) {}) {} ⟨rfl, rfl⟩).2.2.2.2.2.2.2.2.2.2.2.2.2.2.2.2.2.2.2.2 { launch := 1, count := 255 } rfl).2) :=
  ⟨⟨rfl, by decide +kernel, rfl, rfl⟩,
    by decide +kernel,
    by decide +kernel,
    by decide +kernel,
    ⟨_, _, _, _, rfl, rfl, rfl, got, by decide +kernel, by decide +kernel, isSomePair⟩,
    rfl,
    rfl,
    ⟨rfl, rfl, by decide +kernel⟩,
    .inr (.inr (by decide +kernel)),
    ⟨rfl, rfl, by decide +kernel, .inl (by decide)⟩,
    .inr (.inr (by decide +kernel)),
    ⟨_, _, rfl, by decide +kernel, rfl, got⟩,
    ⟨rfl, by decide +kernel⟩,
    ⟨rfl, by decide +kernel⟩,
    ⟨due_packet, by decide +kernel⟩,
    due_packet,
    ⟨due_packet, rfl⟩,
    ⟨due_packet, rfl⟩,
    ⟨due_packet, rfl⟩,
    ⟨due_packet, rfl, by decide +kernel⟩,
    ⟨due_packet, .inl rfl⟩,
    ⟨_, due_packet, rfl, passedOne, by decide +kernel, by decide +kernel⟩,
    ⟨_, _, due_packet, got⟩,
    ⟨rfl, by decide +kernel⟩,
    by decide +kernel,
    ⟨_, rfl, rfl, rfl, by decide +kernel, rfl, by decide +kernel, by decide +kernel, passedOne⟩,
    rfl,
    ⟨by decide, rfl⟩,
    show (255 : Nat) < 256 by decide⟩
/-- The clauses of STITCH: a descriptor that unstitches, one of one cluster that is in order, and one that is not. -/
theorem test_meets_stitches :
    (bit (qwordAt [0x78] 0) 3 = true ∧ (regionDesc []).regionIdle 0 7 = true) ∧
    (let b : List Byte := [0, 1] ++ List.replicate 126 0;
      bit (qwordAt b 0) 3 = false ∧ (regionDesc []).regionOk 0 0 b = true ∧ (regionDesc []).regionIdle 0 0 = true ∧
      ∀ e ∈ (regionDesc []).gangs, e.2.region.isSome = true → e.2.core / 16 ∉ descClusters b) ∧
    (bit (qwordAt [5] 0) 3 = false ∧ (regionDesc []).regionOk 0 0 [5] = false) := by decide +kernel


/-! ### Events of launches -/

def launchAt (state : Nat) : Launch := { packet := [(2, 0x0000040000200001#64)], state := state }
/-- A launch and its partition's control block, with nothing resident. -/
def launched (x : Launch) (c : Control := { act := true, clmask := 1 }) (us : Dbl := 0) : State :=
  { mapped with launches := [(1, x)], gangs := [], weaves := [], cohorts := [], us := us, parts := [(0, { ctl := c })] }
def resident (x : Launch) (f : Weave → Weave := id) (tvec : Dbl := 0x40000) : State :=
  { base with launches := [(1, x)], gangs := [(1, { gang0 with weaves := 1 })], weaves := [(16, f weave0)], parts := [(0, { ctl := { tvec := tvec } })] }
def ended (x : Launch) : Launch := { x with state := 5, nextg := 1 }
def guarded (t : Tile) : Launch := { packet := [(0, 2), (2, 0x0000040000200001#64), (14, 1)], state := 5, nextg := 1, tiles := [(0, t)] }
/-- A launch that has waited 100 µs while another queue's runs on the one cluster of the partition. -/
def crowded (us : Dbl) : State :=
  { mapped with
    launches := [(1, { launchAt 2 with queue := 1, prio := 3, packet := [(2, 0x0000040000200001#64), (3, 0x7FF00000000#64)] }), (2, { launchAt 5 with nextg := 1 })]
    gangs := (List.range 16).map (fun i => (10 + i, { gang0 with launch := 2, core := i, spb := 1024, vreg := 320, weaves := 16 })), weaves := [], us := us
    parts := [(0, { ctl := { act := true, clmask := 1 } })] }
def deadline (os : List PreemptOrder) : State := { resident (launchAt 5) with parts := [(0, { ctl := {}, preempts := os })], us := 50 }
def trapDue : State := { resident { launchAt 5 with escalated := [1] } with gangs := [(1, { gang0 with weaves := 1, blocksDue := true })] }
theorem test_meets_launchEvents :
    Hyp4 (fun h : Obligations.LaunchEvents => (h (event (launched (launchAt 4)) { a := 1, c := 15 }) { a := 1, c := 15 } ⟨rfl, rfl⟩).1 (launchAt 4)) ∧
    Hyp (fun h : Obligations.LaunchEvents => (h (event (launched (launchAt 2)) { a := 1 }) { a := 1 } ⟨rfl, rfl⟩).2.1) ∧
    Hyp4 (fun h : Obligations.LaunchEvents => (h (event (resident (launchAt 5) fun w => { w with ended := true }) { a := 1 }) { a := 1 } ⟨rfl, rfl⟩).2.2.1 { gang0 with weaves := 1 }) ∧
    Hyp3 (fun h : Obligations.LaunchEvents => (h (event (launched (ended (launchAt 5))) { a := 1 }) { a := 1 } ⟨rfl, rfl⟩).2.2.2.1 (ended (launchAt 5))) ∧
    Hyp (fun h : Obligations.LaunchEvents => (h (event base { a := 1 }) { a := 1 } ⟨rfl, rfl⟩).2.2.2.2.1) ∧
    Hyp4 (fun h : Obligations.LaunchEvents => (h (event (launched { ended (launchAt 5) with repeat_ := true }) { a := 1 }) { a := 1 } ⟨rfl, rfl⟩).2.2.2.2.2.1 { ended (launchAt 5) with repeat_ := true }) ∧
    Hyp3 (fun h : Obligations.LaunchEvents => (h (event (launched (guarded { tag := 1, live := true })) { a := 1 }) { a := 1 } ⟨rfl, rfl⟩).2.2.2.2.2.2.1 (guarded { tag := 1, live := true }) { tag := 1, live := true }) ∧
    Hyp (fun h : Obligations.LaunchEvents => ((h (event (launched (guarded { tag := 1, live := true })) { a := 1 }) { a := 1 } ⟨rfl, rfl⟩).2.2.2.2.2.2.1 (guarded { tag := 1, live := true }) { tag := 1, live := true } rfl rfl (by decide +kernel)).1) ∧
    Hyp (fun h : Obligations.LaunchEvents => ((h (event (launched (guarded { tag := 1, live := true, deciding := 1 })) { a := 1 }) { a := 1 } ⟨rfl, rfl⟩).2.2.2.2.2.2.1 (guarded { tag := 1, live := true, deciding := 1 }) { tag := 1, live := true, deciding := 1 } rfl rfl (by decide +kernel)).2.1) ∧
    Hyp (fun h : Obligations.LaunchEvents => ((h (event (launched (guarded { tag := 1, live := true, deciding := 2 })) { a := 1 }) { a := 1 } ⟨rfl, rfl⟩).2.2.2.2.2.2.1 (guarded { tag := 1, live := true, deciding := 2 }) { tag := 1, live := true, deciding := 2 } rfl rfl (by decide +kernel)).2.2) ∧
    Hyp (fun h : Obligations.LaunchEvents => (h (event base { a := 1 }) { a := 1 } ⟨rfl, rfl⟩).2.2.2.2.2.2.2.1) ∧
    Hyp5 (fun h : Obligations.LaunchEvents => (h (event (launched (launchAt 5) { runlim := 1 } 1000) { a := 1 }) { a := 1 } ⟨rfl, rfl⟩).2.2.2.2.2.2.2.2.1 (launchAt 5)) ∧
    Hyp (fun h : Obligations.LaunchEvents => (h (event base { a := 1 }) { a := 1 } ⟨rfl, rfl⟩).2.2.2.2.2.2.2.2.2.1) ∧
    Hyp2 (fun h : Obligations.LaunchEvents => (h (event (crowded 100) { a := 1 }) { a := 1 } ⟨rfl, rfl⟩).2.2.2.2.2.2.2.2.2.2.1 2) ∧
    Hyp (fun h : Obligations.LaunchEvents => (h (event (crowded 99) { a := 1 }) { a := 1 } ⟨rfl, rfl⟩).2.2.2.2.2.2.2.2.2.2.2.1) ∧
    Hyp (fun h : Obligations.LaunchEvents => ((h (event (deadline [{}]) {}) {} ⟨rfl, rfl⟩).2.2.2.2.2.2.2.2.2.2.2.2.1).1) ∧
    Hyp8 (fun h : Obligations.LaunchEvents => (h (event { deadline [{}] with launches := [(1, launchAt 5)] } {}) {} ⟨rfl, rfl⟩).2.2.2.2.2.2.2.2.2.2.2.2.1.2.1 1 (launchAt 5)) ∧
    Hyp (fun h : Obligations.LaunchEvents => ((h (event (deadline [{ expired := true }]) {}) {} ⟨rfl, rfl⟩).2.2.2.2.2.2.2.2.2.2.2.2.1).2.2) ∧
    Hyp4 (fun h : Obligations.LaunchEvents => (h (event trapDue { a := 1 }) { a := 1 } ⟨rfl, rfl⟩).2.2.2.2.2.2.2.2.2.2.2.2.2.1 { gang0 with weaves := 1, blocksDue := true }) ∧
    Hyp7 (fun h : Obligations.LaunchEvents => (h (event (resident { launchAt 5 with escalated := [1] }) { a := 1 }) { a := 1 } ⟨rfl, rfl⟩).2.2.2.2.2.2.2.2.2.2.2.2.2.2.1 { gang0 with weaves := 1 }) ∧
    Hyp (fun h : Obligations.LaunchEvents => (h (event base { a := 1 }) { a := 1 } ⟨rfl, rfl⟩).2.2.2.2.2.2.2.2.2.2.2.2.2.2.2.1) ∧
    Hyp7 (fun h : Obligations.LaunchEvents => (h (event (launched (launchAt 6)) { a := 1 }) { a := 1 } ⟨rfl, rfl⟩).2.2.2.2.2.2.2.2.2.2.2.2.2.2.2.2.1 (launchAt 6) (event (launched (launchAt 6)) { a := 1 })) ∧
    Hyp2 (fun h : Obligations.LaunchEvents => (h (event (launched (launchAt 5)) { a := 1 }) { a := 1 } ⟨rfl, rfl⟩).2.2.2.2.2.2.2.2.2.2.2.2.2.2.2.2.2 (launchAt 5)) :=
  ⟨⟨rfl, by decide +kernel, rfl, by decide +kernel⟩,
    by decide +kernel,
    ⟨rfl, by decide +kernel, by decide +kernel, by decide +kernel⟩,
    ⟨rfl, by decide +kernel, .inl rfl⟩,
    by decide +kernel,
    ⟨rfl, by decide +kernel, rfl, rfl⟩,
    ⟨rfl, rfl, by decide +kernel⟩,
    rfl,
    rfl,
    rfl,
    by decide +kernel,
    ⟨rfl, rfl, rfl, by decide, by decide +kernel⟩,
    by decide +kernel,
    ⟨by decide +kernel, by decide +kernel⟩,
    by decide +kernel,
    ⟨{}, .head _, rfl, rfl, by decide +kernel⟩,
    ⟨⟨{}, .head _, rfl, rfl, by decide +kernel⟩, by decide +kernel, rfl, rfl, rfl, by decide +kernel, rfl, by decide +kernel⟩,
    (fun o ho hd => by cases ho with | head => cases hd.2.1 | tail _ h => cases h),
    ⟨rfl, by decide +kernel, rfl, by decide +kernel⟩,
    ⟨rfl, by decide +kernel, rfl, rfl, rfl, by decide +kernel, by decide +kernel⟩,
    by decide +kernel,
    ⟨rfl, rfl, by decide +kernel, by decide +kernel, by decide, rfl, rfl⟩,
    ⟨rfl, by decide +kernel⟩⟩


/-! ### The whole machine -/

def placedWord : State := State.reset.withFetchWord 64 0x0000502C18B18640
def placedPro : State := State.reset.withFetchWord 64 0x3810000000000000
def proWord0 : Prologue := { launch := 1, pc := 0x10008, hdr := false, clause := 0x10000, len := 1 }
theorem fetched {r : State × Fetch} {v : Dbl} (h : r.2 = .word v := by decide +kernel) : r = (r.1, .word v) := Prod.ext rfl h
theorem test_meets_step :
    (∃ s1 pa, Hyp4 (fun h : Obligations.StepRunsTheDecodedWord => (h placedWord).1 { slot0 with lanes := 0xFFFFFFFF } [] s1 pa)) ∧
    (∃ j, decode (BitVec.ofNat 64 (memQword placedWord.mem 0x10008)) = .ok j) ∧
    (∃ s1, Hyp6 (fun h : Obligations.StepRunsTheDecodedWord => (h placedPro).2.1 0 proWord0 [] s1 0x3810000000000000 (.plgo w0))) ∧
    Hyp2 (fun h : Obligations.StepRunsTheDecodedWord => (h { base with agenda := [{ what := .ageTick }] }).2.2.1 { what := .ageTick } []) ∧
    Hyp2 (fun h : Obligations.StepRunsTheDecodedWord => (h base).2.2.2) :=
  ⟨⟨_, 0x10008, rfl, passedOne, by decide +kernel, by decide +kernel⟩, ⟨_, rfl⟩, ⟨_, rfl, rfl, rfl, by decide, fetched, by decide +kernel⟩, ⟨rfl, rfl⟩, ⟨rfl, rfl⟩⟩
theorem test_meets_roundTrip :
    Hyp2 (fun h : Obligations.EncodeDecodeRoundTrip => h (.tcfgTile (wordFX 0 0 true 1 9)) 0xE000020200001200) := ⟨by decide +kernel, by decide +kernel⟩
theorem test_meets_canonical : Hyp2 (fun h : Obligations.MemoryCanonicalKeptByEveryStep => h base base.plan) := ⟨⟨rfl, rfl⟩, rfl⟩

end Sys2Proof.Tests
end

section
/-! Rules of tables and memory that the firmware's events need, and O52, first part: the command links. -/

namespace Sys2Proof.Table

variable {α : Type}

/-- A value that a change of every entry maps the default to is read through that change. -/
theorem get_mapVals {d : α} {f : Nat → α → α} {k : Nat} (hd : f k d = d) (t : Table α) :
    get d (mapVals t f) k = f k (get d t k) := by
  induction t with
  | nil => exact hd.symm
  | cons e r ih =>
    simp only [mapVals, List.map_cons, get] at ih ⊢
    split
    · next h => rw [h]
    · exact ih

/-- What a change of a value keeps of it, the changed table keeps at every key. -/
theorem get_modify_keeps {β : Type} (g : α → β) {f : α → α} (hf : ∀ x, g (f x) = g x) (d : α) (t : Table α) (k j : Nat) :
    g (get d (modify t k f) j) = g (get d t j) := by
  rw [find_eq_get, find_eq_get, find_modify]
  split
  · cases find t j with
    | none => rfl
    | some x => exact hf x
  · rfl

/-- What a fold of writes to distinct keys leaves at one of them. -/
theorem get_foldl_set [DecidableEq α] (d : α) {key : Nat → Nat} (hkey : Function.Injective key) (val : Nat → α) (is : List Nat)
    (t : Table α) (j : Nat) :
    get d (is.foldl (fun t i => set d t (key i) (val i)) t) (key j) = if j ∈ is then val j else get d t (key j) := by
  induction is generalizing t with
  | nil => rfl
  | cons i is ih =>
    rw [List.foldl_cons, ih, get_set]
    by_cases hj : j ∈ is
    · simp [hj]
    · by_cases h : j = i
      · simp [h]
      · simp [h, hj, hkey.ne h]

end Sys2Proof.Table

namespace Sys2Proof.Machine

open Sys2Proof

/-! ### Memory -/

/-- The first bytes of a write read back. -/
theorem memRead_memWrite_append (m : List Host.Cell) (a : Nat) (bs cs : List Byte) :
    memRead (memWrite m a (bs ++ cs)) a bs.length = bs := by
  rw [memRead_eq]
  apply List.ext_getElem
  · simp
  · intro i h1 h2
    rw [List.getElem_map, List.getElem_range, get_memWrite, if_pos (by simp; omega)]
    simp [List.getElem?_append_left h2, h2]

theorem memoryKept_of_mems {s t : State} (h : t.mems = s.mems) : s.memoryKept t := by
  have hm : t.mem = s.mem := congrArg Prod.fst h
  have hh : t.hostMem = s.hostMem := congrArg Prod.snd h
  exact ⟨fun _ => by rw [hm], fun _ => by rw [hh]⟩

/-- Where memory is as before but for one write, no byte outside the bytes written changes, and these read back. -/
theorem reads_of_memWrite {s t : State} {a n : Nat} {bs : List Byte} (h : t.mem = memWrite s.mem a bs) (hn : bs.length = n) :
    memRead t.mem a n = bs ∧ keptOutside s t a n := by
  subst hn
  rw [keptOutside, h]
  exact ⟨memRead_memWrite .., fun i hi => get_memWrite_outside (by omega)⟩

/-! ### What the end of a launch leaves -/

/-- Launches, command links and the status block: what killing a gang leaves as it is. -/
def State.standing (s : State) : Table Launch × Table Link × Status := (s.launches, s.links, s.status)

theorem standing_resolveShares (s : State) (t : Table Share) (st : Word) : (s.resolveShares t st).standing = s.standing :=
  foldl_keeps State.standing _ (fun _ _ => by rfl) _ _

theorem standing_passHeldAll (f : Hold → Bool) (wks : List Nat) (s : State) :
    (wks.foldl (fun s wk => s.modWeave wk (·.passHeld f)) s).standing = s.standing :=
  foldl_keeps State.standing _ (fun _ _ => by rfl) _ _

theorem standing_releaseSigners (s : State) (home c : Nat) (r : Half) : (s.releaseSigners home c r).standing = s.standing :=
  foldl_keeps State.standing _ (fun _ _ => foldl_keeps State.standing _ (fun _ _ => standing_passHeldAll ..) _ _) _ _

theorem standing_convCheck (s : State) (home c : Nat) : (s.convCheck home c).standing = s.standing := by
  have hset : ∀ (s : State) (v : Conv), (s.setConv home c v).standing = s.standing := fun _ _ => rfl
  have hbonds : ∀ (s : State) (b : Table Bond), ({ s with bonds := b } : State).standing = s.standing := fun _ _ => rfl
  have hshares : ∀ (s0 s : State) (t : Table Bond), (t.foldl (fun s e =>
      if s0.bondHome e.2 = home ∧ e.2.c = c then s.resolveShares e.2.shares 0#32 else s) s).standing = s.standing := fun s0 s t =>
    foldl_keeps State.standing _ (fun s x => by split <;> simp [standing_resolveShares]) _ _
  unfold State.convCheck
  dsimp only
  split
  · split <;> split <;> simp [hset, hbonds, hshares, standing_releaseSigners]
  · split
    · split
      · split <;> split <;> simp [hset, hbonds]
      · split <;> simp [hset, standing_releaseSigners]
    · split <;> simp [hset]

theorem standing_convCheckAll (s : State) (g : Nat) : (s.convCheckAll g).standing = s.standing :=
  foldl_keeps State.standing _ (fun _ _ => standing_convCheck ..) _ _

theorem standing_cbarCheck (s : State) (g : Nat) : (s.cbarCheck g).standing = s.standing := by
  unfold State.cbarCheck
  dsimp only
  split
  · exact (foldl_keeps State.standing _ (fun _ _ => by rfl) _ _).trans (standing_passHeldAll ..)
  · exact foldl_keeps State.standing _ (fun _ _ => by rfl) _ _

theorem standing_killGang (s : State) (g : Nat) : (s.killGang g).standing = s.standing := by
  unfold State.killGang
  rw [standing_cbarCheck, standing_convCheckAll]
  refine (foldl_keeps State.standing _ (fun _ _ => by rfl) _ _).trans (foldl_keeps State.standing _ (fun s x => ?_) _ _)
  split <;> rfl

/-- A launch that has been ended with a status, unless it had ended already. -/
def Launch.endedWith (st : Word) (x : Launch) : Launch :=
  if x.ended then x else { x with ended := true, status := st, saved := [] }

theorem Launch.endedWith_endedWith (st : Word) (x : Launch) : (x.endedWith st).endedWith st = x.endedWith st := by
  unfold Launch.endedWith
  split <;> simp_all

/-- Ending a launch changes, of what stands, that launch only. -/
theorem standing_endLaunch (s : State) (l : Nat) (st : Word) :
    (s.endLaunch l st).standing = (s.launches.modify l (Launch.endedWith st), s.links, s.status) :=
  foldl_keeps State.standing _ (fun _ _ => standing_killGang ..) _ _

theorem launches_endLaunch (s : State) (l : Nat) (st : Word) :
    (s.endLaunch l st).launches = s.launches.modify l (Launch.endedWith st) := congrArg (·.1) (standing_endLaunch s l st)

/-- Ending a list of launches ends each launch of it that stands. -/
theorem find_foldl_endLaunch (st : Word) (ls : List Nat) (s : State) (j : Nat) :
    (ls.foldl (fun s l => s.endLaunch l st) s).launches.find j =
      if j ∈ ls then (s.launches.find j).map (Launch.endedWith st) else s.launches.find j := by
  induction ls generalizing s with
  | nil => simp
  | cons l ls ih =>
    rw [List.foldl_cons, ih, launches_endLaunch, Table.find_modify]
    by_cases hl : j = l
    · by_cases hj : j ∈ ls <;> cases s.launches.find j <;> simp [← hl, hj, Launch.endedWith_endedWith]
    · simp [hl]

/-- Ending a list of launches leaves the command links and the status block. -/
theorem links_status_foldl_endLaunch (st : Word) (ls : List Nat) (s : State) :
    ((ls.foldl (fun s l => s.endLaunch l st) s).links, (ls.foldl (fun s l => s.endLaunch l st) s).status) = (s.links, s.status) :=
  foldl_keeps (fun s : State => (s.links, s.status)) _ (fun s l => congrArg (·.2) (standing_endLaunch s l st)) _ _

/-! ### Command links -/

/-- A message of 64 bytes is sent as it is. -/
theorem message_unpadded {bs : List Byte} (h : bs.length = 64) : bs.take 64 ++ List.replicate (64 - bs.length) 0 = bs := by
  simp [h, List.take_of_length_le]

theorem commandLinkMessage_up {s : State} (hon : s.ev.on = true) (hlen : s.ev.bytes.length = 64) :
    let k := Table.get {} s.links s.ev.a
    let up := min 8 (k.permitsUp + s.ev.b)
    let q := k.waitUp ++ [s.ev.bytes]
    s.gives .commandLinkMessage fun t => ({ t with links := s.links } : State) = s ∧
      Table.get {} t.links s.ev.a = { k with permitsUp := up - q.length, up := k.up ++ q.take up, waitUp := q.drop up } := by
  refine ⟨_, rfl, rfl, ?_⟩
  rw [message_unpadded hlen]
  simp only [hon, if_true, Table.get_set_same]
  rfl

theorem commandLinkMessage_down {s : State} (hon : s.ev.on = false) (hlen : s.ev.bytes.length = 64) :
    let k := Table.get {} s.links s.ev.a
    let down := min 8 (k.permitsDown + s.ev.b)
    let q := k.waitDown ++ [s.ev.bytes]
    s.gives .commandLinkMessage fun t => ({ t with links := s.links } : State) = s ∧
      Table.get {} t.links s.ev.a = { k with permitsDown := down - q.length, down := k.down ++ q.take down, waitDown := q.drop down } := by
  refine ⟨_, rfl, rfl, ?_⟩
  rw [message_unpadded hlen]
  simp only [hon, Bool.false_eq_true, if_false, Table.get_set_same]
  rfl

/-- The launches with a gang on a cluster. -/
def State.launchesOn (s : State) (c : Nat) : List Nat := ((s.gangs.filter fun e => e.2.core / 16 == c).map (·.2.launch)).dedup

/-- The state in which the leaf controller of a cluster has been reset and nothing has ended yet. -/
def State.resetLink (s : State) (c : Nat) : State :=
  { s with links := Table.set {} s.links c { resets := (Table.get {} s.links c).resets + 1 } }

theorem link_resetLink (s : State) (c : Nat) :
    Table.get {} (s.resetLink c).links c = { resets := (Table.get {} s.links c).resets + 1 } := by
  rw [State.resetLink, Table.get_set_same]

theorem exec_commandLinkError (s : State) : exec .commandLinkError s =
    .next (((s.launchesOn s.ev.a).foldl (fun s l => s.endLaunch l 0x60#32) (s.resetLink s.ev.a)).logError 3 true 0x60 s.ev.a 0 64) := rfl

theorem mem_launchesOn {s : State} {e : Nat × Gang} (he : e ∈ s.gangs) : e.2.launch ∈ s.launchesOn (e.2.core / 16) := by
  rw [State.launchesOn, List.mem_dedup, List.mem_map]
  exact ⟨e, List.mem_filter.2 ⟨he, by simp⟩, rfl⟩

theorem commandLinkError_ends (s : State) : s.gives .commandLinkError fun t =>
    s.memoryKept t ∧ Table.get {} t.links s.ev.a = { resets := (Table.get {} s.links s.ev.a).resets + 1 } ∧
    t.status.ehead = (s.status.ehead + 1) % 64 ∧
    ∀ e ∈ s.gangs, e.2.core / 16 = s.ev.a → ∀ l, s.launches.find e.2.launch = some l → l.ended = false →
      (t.launch e.2.launch).ended = true ∧ (t.launch e.2.launch).status = 0x60 := by
  have hkept := links_status_foldl_endLaunch 0x60#32 (s.launchesOn s.ev.a) (s.resetLink s.ev.a)
  refine ⟨_, exec_commandLinkError s, memoryKept_of_mems ?_, ?_, ?_, ?_⟩
  · rw [mems_logError]
    exact foldl_mems _ (fun _ _ => mems_endLaunch ..) _ _
  · exact (congrArg (fun x => Table.get {} x.1 s.ev.a) hkept).trans (link_resetLink s s.ev.a)
  · exact congrArg (fun x => (x.2.ehead + 1) % 64) hkept
  · intro e he hc l hl hend
    have hon : e.2.launch ∈ s.launchesOn s.ev.a := hc ▸ mem_launchesOn he
    have hfind := find_foldl_endLaunch 0x60#32 (s.launchesOn s.ev.a) (s.resetLink s.ev.a) e.2.launch
    rw [if_pos hon, show (s.resetLink s.ev.a).launches.find e.2.launch = some l from hl] at hfind
    have hlaunch := Table.get_of_find (d := {}) hfind
    have hst : Launch.endedWith 0x60#32 l = { l with ended := true, status := 0x60, saved := [] } := by simp [Launch.endedWith, hend]
    exact ⟨(congrArg Launch.ended hlaunch).trans (by rw [hst]), (congrArg Launch.status hlaunch).trans (by rw [hst])⟩

end Sys2Proof.Machine
end

section
/-! O52, second part: the system calls, and what saving a gang leaves. -/

namespace Sys2Proof.Machine

open Sys2Proof

/-! ### What a service's reply leaves -/

theorem sregs_cancelPending (w : Weave) (o : Operand) (l : Nat) : (w.cancelPending o l).sregs = w.sregs := by
  unfold Weave.cancelPending Weave.cancelWrites
  split <;> rfl

/-- A write of a uniform register. -/
theorem sget_wr_s (w : Weave) (i : Fin 64) (l : Nat) (v : Word) (j : Nat) :
    (w.wr (.s i) l v).sget j = if j = i.val then v else w.sget j := by
  show Table.get 0 (Table.set 0 (w.cancelPending _ _).sregs i.val v) j = _
  rw [Table.get_set, sregs_cancelPending]
  rfl

/-- Values written one by one from a register on. -/
theorem sget_foldl_wr_s (vs : List Word) (k : Nat) (w : Weave) (hk : k + vs.length ≤ 64) (j : Nat) :
    ((vs.zipIdx k).foldl (fun w e => w.wr (.s (Fin.ofNat 64 e.2)) 0 e.1) w).sget j =
      if k ≤ j ∧ j < k + vs.length then vs.getD (j - k) 0 else w.sget j := by
  induction vs generalizing k w with
  | nil => simp
  | cons v vs ih =>
    simp only [List.length_cons] at hk
    have hval : (Fin.ofNat 64 k).val = k := Nat.mod_eq_of_lt (by omega)
    rw [List.zipIdx_cons, List.foldl_cons, ih (k + 1) _ (by omega), sget_wr_s, hval, List.length_cons]
    rcases Nat.lt_trichotomy j k with h | rfl | h
    · rw [if_neg (by omega), if_neg (by omega), if_neg (by omega)]
    · rw [if_neg (by omega), if_pos rfl, if_pos (by omega)]
      simp
    · obtain ⟨d, rfl⟩ := Nat.exists_eq_add_of_lt h
      have hd : k + d + 1 - (k + 1) = d := by omega
      have hd' : k + d + 1 - k = d + 1 := by omega
      rw [hd, hd', List.getD_cons_succ]
      by_cases hl : d < vs.length
      · rw [if_pos (by omega), if_pos (by omega)]
      · rw [if_neg (by omega), if_neg (by omega), if_neg (by omega)]

/-- Register writes move no lane. -/
theorem hold_foldl_wr_s (xs : List (Word × Nat)) (w : Weave) (l : Nat) :
    ((xs.foldl (fun w e => w.wr (.s (Fin.ofNat 64 e.2)) 0 e.1) w).lane l).hold = (w.lane l).hold :=
  foldl_keeps (fun w : Weave => (w.lane l).hold) _ (fun _ _ => congrArg (·.2.2) (stand_wr ..)) _ _

/-- A lane that is released at a hold waits no more. -/
theorem hold_passHeldIn (w : Weave) (m : BitVec 32) (h : Hold) (l : Nat) (hm : m.getLsbD l = true) (hl : (w.lane l).hold = some h) :
    ((w.passHeldIn m h).lane l).hold = none := by
  have hlane : (w.passHeldIn m h).lane l = w.passLane (w.lane l) := by
    have hrest : (if m.getLsbD l && ({} : Lane).hold == some h then w.passLane {} else {}) = ({} : Lane) := by simp
    refine (Table.get_mapVals (f := fun i x => if m.getLsbD i && x.hold == some h then w.passLane x else x) hrest w.lanes).trans ?_
    rw [show Table.get {} w.lanes l = w.lane l from rfl, hm, hl]
    simp
  rw [hlane]
  unfold Weave.passLane
  dsimp only
  split <;> rfl

/-- The request that a service answers asks for that service. -/
theorem service_of_asked {w : Weave} {n : Half} {q : SyscReq} (h : w.asked n = some q) : q.service = n := by
  have := List.find?_some h
  simp only [Bool.and_eq_true, beq_iff_eq] at this
  exact this.1

/-- The lanes that wait for a request are of its mask and held at its service. -/
theorem waiting_iff {w : Weave} {q : SyscReq} {l : Nat} (hl : l < 32) :
    (w.waiting q).getLsbD l = true ↔ q.mask.getLsbD l = true ∧ (w.lane l).hold = some (.sysc q.service) := by
  rw [Weave.waiting, getLsbD_maskOf _ _ hl]
  simp

theorem mems_reply (s : State) (wk : Nat) (n : Half) (vs : SyscReq → List Word) : (s.reply wk n vs).mems = s.mems := by
  unfold State.reply
  split <;> rfl

theorem part_reply (s : State) (wk : Nat) (n : Half) (vs : SyscReq → List Word) (p : Nat) : (s.reply wk n vs).part p = s.part p := by
  unfold State.reply
  split <;> rfl

/-- Where no lane waits for a service its reply is nothing. -/
theorem reply_unasked {s : State} {wk : Nat} {n : Half} (h : (s.weave wk).asked n = none) (vs : SyscReq → List Word) :
    s.reply wk n vs = s := by
  unfold State.reply
  rw [h]

/-- A reply puts its values in s0 and on and releases the lanes that wait. -/
theorem replied_reply {s : State} {wk : Nat} {n : Half} {q : SyscReq} {vs : SyscReq → List Word} (hw : (s.weaves.find wk).isSome = true)
    (hq : (s.weave wk).asked n = some q) (hlen : (vs q).length ≤ 64) : s.replied (s.reply wk n vs) wk q (vs q) := by
  refine ⟨memoryKept_of_mems (mems_reply ..), ?_⟩
  unfold State.reply
  rw [hq]
  dsimp only
  rw [weave_modWeave hw]
  constructor
  · intro i hi
    refine (sget_foldl_wr_s (vs q) 0 (s.weave wk) (by omega) i).trans ?_
    rw [if_pos (by omega), Nat.sub_zero]
  · intro l hl hwait
    obtain ⟨hm, hh⟩ := (waiting_iff hl).1 hwait
    rw [service_of_asked hq] at hh
    exact hold_passHeldIn _ _ _ l hm ((hold_foldl_wr_s ..).trans hh)

/-! ### Services -/

/-- The service of one request in hand: its weave stands and lanes of it wait. -/
theorem gives_reply {s : State} {i : Instr} {n : Half} {q : SyscReq} {vs : SyscReq → List Word}
    (hi : exec i s = .next (s.reply s.ev.a n vs)) (hw : (s.weaves.find s.ev.a).isSome = true)
    (hq : (s.weave s.ev.a).asked n = some q) (hlen : (vs q).length ≤ 64) : s.gives i fun t => s.replied t s.ev.a q (vs q) :=
  ⟨_, hi, replied_reply hw hq hlen⟩

theorem syscNull_unasked {s : State} (h : (s.weave s.ev.a).asked 0 = none) : s.gives .syscNull fun t => t = s :=
  ⟨_, rfl, reply_unasked h _⟩

/-- A firmware log with room gains the entry at its end. -/
theorem flog_logFirmware {s : State} {p : Nat} {ws : List Word} (h : (s.part p).flog.length < 256) :
    ((s.logFirmware p ws).part p).flog = (s.part p).flog ++ [ws] := by
  rw [State.logFirmware, part_modPart]
  dsimp only
  rw [show (s.part p).flog.length + 1 - 256 = 0 by omega, List.drop_zero]

theorem syscLog_room {s : State} {q : SyscReq} (hw : (s.weaves.find s.ev.a).isSome = true) (hq : (s.weave s.ev.a).asked 0x20 = some q)
    (hroom : (s.part (s.gang (s.weave s.ev.a).gang).part).flog.length < 256) : s.gives .syscLog fun t =>
      s.replied t s.ev.a q [0] ∧ (t.part (s.gang (s.weave s.ev.a).gang).part).flog =
        (s.part (s.gang (s.weave s.ev.a).gang).part).flog ++ [q.args] := by
  refine ⟨_, rfl, ?_⟩
  rw [hq]
  dsimp only
  rw [if_pos hroom]
  refine ⟨?_, by rw [part_reply, flog_logFirmware hroom]⟩
  exact replied_reply (s := s.logFirmware _ q.args) (vs := fun _ => [0]) hw hq (by simp)

theorem syscLog_full {s : State} {q : SyscReq} (hw : (s.weaves.find s.ev.a).isSome = true) (hq : (s.weave s.ev.a).asked 0x20 = some q)
    (hfull : 256 ≤ (s.part (s.gang (s.weave s.ev.a).gang).part).flog.length) : s.gives .syscLog fun t =>
      s.replied t s.ev.a q [1] ∧ (t.part (s.gang (s.weave s.ev.a).gang).part).flog =
        (s.part (s.gang (s.weave s.ev.a).gang).part).flog := by
  refine ⟨_, rfl, ?_⟩
  rw [hq]
  dsimp only
  rw [if_neg (by omega)]
  exact ⟨replied_reply (vs := fun _ => [1]) hw hq (by simp), by rw [part_reply]⟩

/-! ### SYSC_SAVE_DONE -/

theorem syscSaveDone_refused {s : State} {q : SyscReq} (hw : (s.weaves.find s.ev.a).isSome = true) (hq : (s.weave s.ev.a).asked 1 = some q)
    (hcause : (s.weave s.ev.a).ecause ≠ 2) : s.gives .syscSaveDone fun t => s.replied t s.ev.a q [0xFFFFFFFE] := by
  refine ⟨_, rfl, ?_⟩
  rw [hq]
  simp only [beq_eq_false_iff_ne.2 hcause, Bool.false_and, Bool.false_eq_true, if_false]
  exact replied_reply (vs := fun _ => [0xFFFFFFFE#32]) hw hq (by simp)

/-- The state in which the lanes of a request have saved: they are held, and their weave counts as saved. -/
def State.lanesSaved (s : State) (wk : Nat) (q : SyscReq) : State :=
  let w := s.weave wk
  (s.modWeave wk fun w => { w.modLanes (w.waiting q) fun l => { l with hold := some .saved } with syscs := w.syscs.erase q }).modGang
    w.gang fun g => { g with savedWeaves := setBit g.savedWeaves w.num true }

/-- Whether a gang's trap order stands does not change as its weaves save. -/
theorem ordered_lanesSaved (s : State) (wk : Nat) (q : SyscReq) (g : Nat) : (s.lanesSaved wk q).ordered g = s.ordered g := by
  have hl : ((s.lanesSaved wk q).gang g).launch = (s.gang g).launch :=
    Table.get_modify_keeps Gang.launch (fun _ => by rfl) {} s.gangs (s.weave wk).gang g
  unfold State.ordered
  rw [hl]
  rfl

theorem getLsbD_setBit_true {n : Nat} (m : BitVec n) (i : Nat) : (setBit m i true).getLsbD i = decide (i < n) := by
  by_cases h : i < n
  · rw [getLsbD_setBit _ _ _ _ h h]
    simp [h]
  · rw [BitVec.getLsbD_of_ge _ _ (by omega)]
    simp [h]

theorem hold_lanesSaved {s : State} {wk : Nat} {q : SyscReq} (hw : (s.weaves.find wk).isSome = true) {l : Nat} (hl : l < 32)
    (hwait : ((s.weave wk).waiting q).getLsbD l = true) : (((s.lanesSaved wk q).weave wk).lane l).hold = some .saved := by
  have h : (s.lanesSaved wk q).weave wk = _ := weave_modWeave hw _
  rw [h]
  show (((s.weave wk).modLanes _ _).lane l).hold = _
  rw [lane_modLanes, if_pos ⟨hl, hwait⟩]

theorem syscSaveDone_waits {s : State} {q : SyscReq} (hw : (s.weaves.find s.ev.a).isSome = true) (hq : (s.weave s.ev.a).asked 1 = some q)
    (hcause : (s.weave s.ev.a).ecause = 2)
    (hpriv : ∀ l, l < 32 → ((s.weave s.ev.a).waiting q).getLsbD l = true → ((s.weave s.ev.a).lane l).priv = true)
    (hord : s.ordered (s.weave s.ev.a).gang = false) : s.gives .syscSaveDone fun t =>
      s.memoryKept t ∧
      (s.gangs.find (s.weave s.ev.a).gang = some (s.gang (s.weave s.ev.a).gang) →
        (t.gang (s.weave s.ev.a).gang).savedWeaves.getLsbD (s.weave s.ev.a).num = decide ((s.weave s.ev.a).num < 16)) ∧
      ∀ l, l < 32 → ((s.weave s.ev.a).waiting q).getLsbD l = true → ((t.weave s.ev.a).lane l).hold = some .saved := by
  have hall : ((lanesOf ((s.weave s.ev.a).waiting q)).all fun l => ((s.weave s.ev.a).lane l).priv) = true :=
    List.all_eq_true.2 fun l hl => hpriv l (mem_lanesOf.1 hl).1 (mem_lanesOf.1 hl).2
  have hstep : exec .syscSaveDone s = .next (s.lanesSaved s.ev.a q) := by
    show execSyscSaveDone s = _
    unfold execSyscSaveDone
    dsimp only
    rw [hq]
    dsimp only
    rw [hcause, hall]
    show Host.Outcome.next (if ((s.lanesSaved s.ev.a q).ordered _ && _) = true then _ else s.lanesSaved s.ev.a q) = _
    rw [ordered_lanesSaved, hord]
    rfl
  refine ⟨_, hstep, memoryKept_of_mems rfl, fun hg => ?_, fun l hl hwait => hold_lanesSaved hw hl hwait⟩
  have h : (s.lanesSaved s.ev.a q).gang (s.weave s.ev.a).gang = _ := Table.get_modify_same hg
  rw [h]
  exact getLsbD_setBit_true _ _

/-! ### A saved gang leaves its core -/

/-- Gangs and launches: what the accesses of the front end and the tables of a core leave as they are. -/
def State.residents (s : State) : Table Gang × Table Launch := (s.gangs, s.launches)

theorem residents_modHome (s : State) (pa : Nat) (f : Slice → Slice) : (s.modHome pa f).residents = s.residents := by
  unfold State.modHome
  split <;> rfl

theorem residents_count (s : State) (p pa kind d : Nat) : (s.count p pa kind d).residents = s.residents :=
  (residents_modHome ..).trans (residents_modHome ..)

theorem residents_countWrite (s : State) (p : Nat) (t : Option Nat) (pa n d : Nat) : (s.countWrite p t pa n d).residents = s.residents := by
  unfold State.countWrite
  dsimp only
  split
  · exact residents_modHome ..
  · exact (residents_modHome ..).trans (residents_modHome ..)

theorem residents_countWalk (s : State) (p va : Nat) : (s.countWalk p va).residents = s.residents := by
  unfold State.countWalk
  dsimp only
  split
  · exact foldl_keeps State.residents _ (fun _ _ => residents_count ..) _ _
  · rfl

theorem residents_tlbPut (s : State) (c : Nat) (t : Tlb) : (s.tlbPut c t).residents = s.residents := by
  unfold State.tlbPut
  dsimp only
  split <;> rfl

theorem residents_pteOr (s : State) (p pte m : Nat) : (s.pteOr p pte m).residents = s.residents := by
  unfold State.pteOr
  dsimp only
  split
  · rfl
  · exact (residents_modHome ..).trans (residents_count ..)

theorem residents_useLeaf (s : State) (c p va : Nat) (k : AccessKind) (w : Walk) : (s.useLeaf c p va k w).1.residents = s.residents := by
  have hw := residents_countWalk s p va
  unfold State.useLeaf
  dsimp only
  split
  · exact hw
  · exact hw
  · dsimp only
    split
    · split <;> exact hw
    · exact hw
  · split
    · exact hw
    · split
      · exact hw
      · exact (residents_tlbPut ..).trans ((residents_pteOr ..).trans hw)

theorem residents_translate (s : State) (c p va : Nat) (k : AccessKind) : (s.translate c p va k).1.residents = s.residents := by
  have hc : (s.choose.2.useLeaf c p va k (s.walk p va)).1.residents = s.residents := residents_useLeaf ..
  unfold State.translate
  dsimp only
  split
  · exact residents_useLeaf ..
  · split
    all_goals
      split
      · split
        · exact residents_useLeaf ..
        · split <;> rfl
      · split
        · rfl
        · exact hc

theorem residents_pageFault (s : State) (p va : Nat) (k : AccessKind) (st : Word) (w : Asker) :
    (s.pageFault p va k st w).1.residents = s.residents := by
  unfold State.pageFault
  split
  · rfl
  · split <;> rfl

theorem residents_checkPhysical (s : State) (p m pa n : Nat) (k : AccessKind) (h : Bool) :
    (s.checkPhysical p m pa n k h).1.residents = s.residents := by
  unfold State.checkPhysical
  repeat' split
  all_goals rfl

theorem residents_check (s : State) (p m : Nat) (w : Asker) (va n al : Nat) (k : AccessKind) (ho q : Bool) :
    (s.check p m w va n al k ho q).1.residents = s.residents := by
  have ht := residents_translate s w.cluster p va k
  unfold State.check
  split
  · rfl
  · split
    · rfl
    · split
      next e => rw [e] at ht; exact ht
      next s1 st e =>
        rw [e] at ht
        have hf := residents_pageFault s1 p va k st w
        split
        · exact ht
        · split
          next e2 => rw [e2] at hf; exact hf.trans ht
          next e2 => rw [e2] at hf; exact hf.trans ht
      next e =>
        rw [e] at ht
        exact (residents_checkPhysical ..).trans ht

theorem residents_agentWrite (s : State) (p m pa : Nat) (b : List Byte) : (s.agentWrite p m none pa b).residents = s.residents := by
  unfold State.agentWrite
  split <;> rfl

theorem residents_fePut (s : State) (p va : Nat) (b : List Byte) : (s.fePut p va b).residents = s.residents := by
  unfold State.fePut
  refine foldl_keeps (fun r : State × List Byte => r.1.residents) _ (fun r e => ?_) _ (s, b)
  obtain ⟨s, bs⟩ := r
  have hk := residents_check s p (8 * p + 6) frontAsker (e.1 % 2 ^ 64) e.2 1 .write false true
  dsimp only
  split
  next e1 => rw [e1] at hk; exact (residents_countWrite ..).trans ((residents_agentWrite ..).trans hk)
  next e1 => rw [e1] at hk; exact hk

theorem residents_dealNext (s : State) (c : Nat) : (s.dealNext c).residents = s.residents :=
  foldl_keeps State.residents _ (fun _ _ => by rfl) _ _

theorem residents_leaveCore (s : State) (c l : Nat) : (s.leaveCore c l).residents = s.residents := by
  unfold State.leaveCore
  split
  · rfl
  · split
    · exact residents_dealNext ..
    · rfl

theorem residents_leaveGang (s : State) (g : Nat) : (s.leaveGang g).residents = (s.gangs.erase g, s.launches) :=
  residents_leaveCore ..

/-- A launch that enters a STATE keeps its saved gangs, and every gang stays. -/
theorem setStage_keeps_saved (s : State) (l st j : Nat) :
    (s.setStage l st).gangs = s.gangs ∧ ((s.setStage l st).launch j).saved = (s.launch j).saved := by
  unfold State.setStage
  dsimp only
  generalize hu : (s.modLaunch l _) = u
  have hg : u.gangs = s.gangs := by rw [← hu]; rfl
  have hl : (u.launch j).saved = (s.launch j).saved := by
    rw [← hu]
    exact Table.get_modify_keeps Launch.saved (fun _ => by rfl) {} s.launches l j
  have hput : ∀ x : State, x.residents = u.residents →
      (x.putRecord l).gangs = s.gangs ∧ ((x.putRecord l).launch j).saved = (s.launch j).saved := by
    intro x hx
    have hr : (x.putRecord l).residents = u.residents := (residents_fePut ..).trans hx
    exact ⟨(congrArg (·.1) hr).trans hg,
      (congrArg (fun r : Table Gang × Table Launch => (Table.get ({} : Launch) r.2 j).saved) hr).trans hl⟩
  split
  · exact hput _ rfl
  · exact hput _ rfl

theorem settle_keeps_saved (s : State) (l j : Nat) :
    (s.settle l).gangs = s.gangs ∧ ((s.settle l).launch j).saved = (s.launch j).saved := by
  unfold State.settle
  dsimp only
  split
  · exact setStage_keeps_saved (s.freeStream l) l 6 j
  · exact ⟨rfl, rfl⟩

/-- A gang that leaves its core with a record of it kept is not resident any more, and the record is its launch's last. -/
theorem leaves_with_record {s : State} {gk l : Nat} (hl : (s.launches.find l).isSome = true) (v : SavedGang) :
    let t := ((s.modLaunch l fun x => { x with saved := x.saved ++ [v] }).leaveGang gk).settle l
    t.gangs.find gk = none ∧ ((t.launch l).saved.getLast?.map (·.key)) = some v.key := by
  generalize hu : (s.modLaunch l fun x => { x with saved := x.saved ++ [v] }) = u
  have hlast : (u.launch l).saved = (s.launch l).saved ++ [v] := by
    rw [← hu, launch_modLaunch hl]
  have hr := residents_leaveGang u gk
  obtain ⟨hg, hs⟩ := settle_keeps_saved (u.leaveGang gk) l l
  have hkept : ((u.leaveGang gk).launch l).saved = (u.launch l).saved :=
    congrArg (fun r : Table Gang × Table Launch => (Table.get ({} : Launch) r.2 l).saved) hr
  constructor
  · rw [hg, show (u.leaveGang gk).gangs = u.gangs.erase gk from congrArg (·.1) hr, Table.find_erase_same]
  · rw [hs, hkept, hlast]
    simp

/-- A saved gang is not resident any more, and its launch keeps it as the last saved one. -/
theorem saveGang_saves {s : State} {gk : Nat} (hl : (s.launches.find (s.gang gk).launch).isSome = true) :
    (s.saveGang gk).gangs.find gk = none ∧
    (((s.saveGang gk).launch (s.gang gk).launch).saved.getLast?.map (·.key)) = some gk := leaves_with_record hl _

/-- A gang whose trap order stands belongs to a launch that stands. -/
theorem launch_isSome_of_ordered {s : State} {gk : Nat} (h : s.ordered gk = true) : (s.launches.find (s.gang gk).launch).isSome = true := by
  by_contra hn
  have hd : s.launch (s.gang gk).launch = {} := by
    rw [State.launch, Table.find_eq_get, Option.not_isSome_iff_eq_none.1 hn]
    rfl
  rw [State.ordered, hd] at h
  simp at h

theorem syscSaveDone_saves {s : State} (hq : (s.weave s.ev.a).asked 1 = none) (hord : s.ordered (s.weave s.ev.a).gang = true)
    (hany : (s.gang (s.weave s.ev.a).gang).savedWeaves ≠ 0) (hover : s.saveOver (s.weave s.ev.a).gang = true) :
    s.gives .syscSaveDone fun t => t.gangs.find (s.weave s.ev.a).gang = none ∧
      ((t.launch (s.gang (s.weave s.ev.a).gang).launch).saved.getLast?.map (·.key)) = some (s.weave s.ev.a).gang := by
  refine ⟨s.saveGang (s.weave s.ev.a).gang, ?_, saveGang_saves (launch_isSome_of_ordered hord)⟩
  show execSyscSaveDone s = _
  unfold execSyscSaveDone
  dsimp only
  rw [hq]
  rw [hord, bne_iff_ne.2 hany, hover]
  rfl

end Sys2Proof.Machine
end

section
/-! O52, third part: the mailbox commands, and the obligation itself. -/

namespace Sys2Proof.Machine

open Sys2Proof

/-! ### The mailbox -/

/-- A command that has not been started does nothing. -/
theorem mail_idle {s : State} (hgo : s.mailbox.go = false) (cmd bad : Nat) (f : State → State) : s.mail cmd bad f = .next s := by
  simp [State.mail, hgo]

/-- In alarm every command but PROVISION ends with MST 5. -/
theorem mail_alarm {s : State} {cmd : Nat} (hgo : s.mailbox.go = true) (hcmd : s.mailbox.cmd = cmd) (halarm : s.alarm.refuse = true)
    (h8 : cmd ≠ 8) (bad : Nat) (f : State → State) : s.mail cmd bad f = .next (s.mailDone 5) := by
  simp [State.mail, hgo, hcmd, halarm, h8]

/-- A command that nothing refuses does its work. -/
theorem mail_runs {s : State} {cmd : Nat} (hgo : s.mailbox.go = true) (hcmd : s.mailbox.cmd = cmd)
    (halarm : s.alarm.refuse = false ∨ cmd = 8) (harg : s.argOk = true ∨ cmd = 6) (bad : Nat) (f : State → State) :
    s.mail cmd bad f = .next (f s) := by
  have h1 : (s.alarm.refuse && cmd != 8) = false := by rcases halarm with h | h <;> simp [h]
  have h2 : (cmd != 2 && cmd != 6 && !s.argOk) = false := by rcases harg with h | h <;> simp [h]
  simp [State.mail, hgo, hcmd, h1, h2]

/-- A command on a partition that nothing refuses does its work. -/
theorem mailPart_runs {s : State} {cmd : Nat} {act : Bool} (h : s.mails cmd act) (bad : Nat) (f : State → Nat → State) :
    s.mailPart cmd bad act f = .next (f s s.mailbox.part) := by
  obtain ⟨hgo, hcmd, halarm, harg, hact⟩ := h
  unfold State.mailPart
  rw [mail_runs hgo hcmd (.inl halarm) (.inl harg)]
  simp [hact]

/-- A command that ends without its work leaves all but the mailbox, and its MST. -/
theorem gives_mailDone {s : State} {i : Instr} {mst : Nat} (h : exec i s = .next (s.mailDone mst)) :
    s.gives i fun t => ({ t with mailbox := s.mailbox } : State) = s ∧ s.mailed t mst := ⟨_, h, rfl, rfl⟩

theorem gives_idle {s : State} {i : Instr} (h : exec i s = .next s) : s.gives i fun t => t = s := ⟨s, h, rfl⟩

theorem mailed_mailDone {s u : State} (h : u.mailbox = s.mailbox) (mst : Nat) : s.mailed (u.mailDone mst) mst := by
  rw [State.mailed, State.mailDone, h]

theorem accTable_mailDone (s : State) (mst j : Nat) : (s.mailDone mst).accTable j = s.accTable j := rfl
theorem mem_mailDone (s : State) (mst : Nat) : (s.mailDone mst).mem = s.mem := rfl
theorem mailbox_commitWrite (s : State) (a : Nat) (bs : List Byte) : (s.commitWrite a bs).mailbox = s.mailbox := rfl
theorem port_mailDone (s : State) (mst n : Nat) : (s.mailDone mst).port n = s.port n := rfl
theorem part_commitWrite (s : State) (a : Nat) (bs : List Byte) (p : Nat) : (s.commitWrite a bs).part p = s.part p := rfl
theorem part_mailDone (s : State) (mst p : Nat) : (s.mailDone mst).part p = s.part p := rfl

/-! ### The rows of the access tables -/

/-- What a partition holds, and memory and the mailbox beside it: what rewriting rows and dealing slot tables leave as it is. -/
def State.holdings (s : State) :
    (List Host.Cell × List Host.Cell) × Mailbox × Table Partition × Table Launch × Table Gang × Table AsyncOp × Table Watch :=
  (s.mems, s.mailbox, s.parts, s.launches, s.gangs, s.ops, s.watches)

theorem holdings_setRows (s : State) (p : Nat) (f : Nat → AccRow) : (s.setRows p f).holdings = s.holdings :=
  foldl_keeps State.holdings _ (fun _ _ => by rfl) _ _
theorem mems_setRows (s : State) (p : Nat) (f : Nat → AccRow) : (s.setRows p f).mems = s.mems := congrArg (·.1) (holdings_setRows s p f)
theorem mailbox_setRows (s : State) (p : Nat) (f : Nat → AccRow) : (s.setRows p f).mailbox = s.mailbox :=
  congrArg (·.2.1) (holdings_setRows s p f)
theorem part_setRows (s : State) (p : Nat) (f : Nat → AccRow) (q : Nat) : (s.setRows p f).part q = s.part q :=
  foldl_keeps (fun s : State => s.part q) _ (fun _ _ => by rfl) _ _
theorem port_setRows (s : State) (p : Nat) (f : Nat → AccRow) (n : Nat) : (s.setRows p f).port n = s.port n :=
  foldl_keeps (fun s : State => s.port n) _ (fun _ _ => by rfl) _ _

/-- A table after its rows of a partition have been rewritten. -/
def AccTable.withRows (a : AccTable) (p : Nat) (f : Nat → AccRow) : AccTable :=
  { a with rows := (List.range 8).foldl (fun r k => Table.set {} r (8 * p + k) (f k)) a.rows }

theorem row_withRows (a : AccTable) (p : Nat) (f : Nat → AccRow) {k : Nat} (hk : k < 8) :
    Table.get {} (a.withRows p f).rows (8 * p + k) = f k := by
  have hinj : Function.Injective (8 * p + ·) := fun _ _ h => Nat.add_left_cancel h
  refine (Table.get_foldl_set {} hinj f (List.range 8) a.rows k).trans ?_
  rw [if_pos (List.mem_range.2 hk)]

/-- The row of a master of a partition, in a table that some target has, after its rows have been rewritten. -/
theorem row_setRows (s : State) (p : Nat) (f : Nat → AccRow) {j k : Nat} (hj : j < 172) (hk : k < 8) :
    Table.get {} ((s.setRows p f).accTable j).rows (8 * p + k) = f k := by
  have hall : ∀ (ts : List Nat) (s : State), Table.get {} ((ts.foldl (fun s t =>
      { s with acc := Table.set {} s.acc t ((s.accTable t).withRows p f) }) s).accTable j).rows (8 * p + k) =
        if j ∈ ts then f k else Table.get {} (s.accTable j).rows (8 * p + k) := by
    intro ts
    induction ts with
    | nil => exact fun _ => rfl
    | cons t ts ih =>
      intro s
      have hset : ({ s with acc := Table.set {} s.acc t ((s.accTable t).withRows p f) } : State).accTable j =
          if j = t then (s.accTable t).withRows p f else s.accTable j := Table.get_set ..
      rw [List.foldl_cons, ih, hset]
      by_cases hjt : j = t
      · rw [if_pos hjt, row_withRows _ _ _ hk, if_pos (show j ∈ t :: ts from hjt ▸ List.mem_cons_self), ite_self]
      · simp only [hjt, if_false, List.mem_cons, false_or]
  exact (hall (List.range 172) s).trans (if_pos (List.mem_range.2 hj))

/-! ### PCREATE and PDESTROY -/

/-- The ports of a mask are given to a partition. -/
def State.grantPorts (s : State) (p mask : Nat) : State :=
  { s with ports := (List.range 12).foldl (fun (t : Table Port) n =>
      if bit mask n then Table.set {} t n { (Table.get {} t n : Port) with owner := some p } else t) s.ports }

theorem owner_foldl_grant (mask p : Nat) (ns : List Nat) (t : Table Port) (n : Nat) :
    (Table.get {} (ns.foldl (fun (t : Table Port) n =>
      if bit mask n then Table.set {} t n { (Table.get {} t n : Port) with owner := some p } else t) t) n).owner =
      if n ∈ ns ∧ bit mask n = true then some p else (Table.get {} t n).owner := by
  induction ns generalizing t with
  | nil => simp
  | cons m ns ih =>
    rw [List.foldl_cons, ih]
    by_cases hb : bit mask m = true
    · rw [if_pos hb, Table.get_set]
      by_cases hn : n = m
      · simp [hn, hb]
      · simp [hn]
    · rw [if_neg hb]
      by_cases hn : n = m
      · simp [hn, hb]
      · simp [hn]

/-- A port of the mask belongs to the partition that it is given to. -/
theorem owner_grantPorts (s : State) (p mask : Nat) {n : Nat} (hn : n < 12) (hb : bit mask n = true) :
    ((s.grantPorts p mask).port n).owner = some p :=
  (owner_foldl_grant mask p (List.range 12) s.ports n).trans (if_pos ⟨List.mem_range.2 hn, hb⟩)

/-- A partition whose control block and front end PCREATE has set. -/
def Partition.created (x : Partition) (c : Control) : Partition :=
  { x with
    ctl := c
    front := { x.front with qdbase := c.qdbase &&& 0x1FFFFFFFFFFF000#64, qcount := c.qcount, tout := c.tout, quota := c.quota } }

theorem exec_pcreate {s : State} (h : s.mails 1 false) : exec .pcreate s = .next (
    if s.descriptorOk s.argBytes then
      let p := s.mailbox.part
      let c := controlOf s.argBytes
      (((s.modPart p (·.created c)).grantPorts p c.hpmask).setRows p (c.row p)).mailDone 0
    else s.mailDone 2) := by
  show execPcreate s = _
  rw [execPcreate, mailPart_runs h]
  cases hok : s.descriptorOk s.argBytes
  · dsimp only
    rw [hok]
    rfl
  · dsimp only
    rw [hok]
    rfl

theorem pcreate_creates {s : State} (h : s.mails 1 false) (hok : s.descriptorOk s.argBytes = true) : s.gives .pcreate fun t =>
    let c := controlOf s.argBytes
    s.memoryKept t ∧ s.mailed t 0 ∧ (t.part s.mailbox.part).ctl = c ∧ (t.part s.mailbox.part).front.qdbase = c.qdbase &&& 0x1FFFFFFFFFFF000 ∧
    (∀ n, n < 12 → bit c.hpmask n = true → (t.port n).owner = some s.mailbox.part) ∧
    ∀ j k, j < 172 → k < 8 → Table.get {} (t.accTable j).rows (8 * s.mailbox.part + k) = c.row s.mailbox.part k := by
  have hstep := exec_pcreate h
  rw [if_pos hok] at hstep
  dsimp only at hstep
  generalize s.mailbox.part = p at hstep ⊢
  generalize controlOf s.argBytes = c at hstep ⊢
  have hpart : ((((s.modPart p (·.created c)).grantPorts p c.hpmask).setRows p (c.row p)).mailDone 0).part p = (s.part p).created c := by
    rw [part_mailDone, part_setRows]
    exact part_modPart s p (·.created c)
  refine ⟨_, hstep, memoryKept_of_mems ?_, mailed_mailDone ?_ 0, congrArg Partition.ctl hpart, congrArg (·.front.qdbase) hpart,
    fun n hn hb => ?_, fun j k hj hk => ?_⟩
  · rw [mems_mailDone, mems_setRows]
    rfl
  · rw [mailbox_setRows]
    rfl
  · rw [port_mailDone, port_setRows, owner_grantPorts _ _ _ hn hb]
  · rw [accTable_mailDone, row_setRows _ _ _ hj hk]

theorem pcreate_refused {s : State} (h : s.mails 1 false) (hok : s.descriptorOk s.argBytes = false) :
    s.gives .pcreate fun t => ({ t with mailbox := s.mailbox } : State) = s ∧ s.mailed t 2 := by
  have hstep := exec_pcreate h
  rw [hok, if_neg Bool.false_ne_true] at hstep
  exact gives_mailDone hstep

theorem pcreate_alarm {s : State} (hgo : s.mailbox.go = true) (halarm : s.alarm.refuse = true) (hcmd : s.mailbox.cmd = 1) :
    s.gives .pcreate fun t => ({ t with mailbox := s.mailbox } : State) = s ∧ s.mailed t 5 := by
  refine gives_mailDone ?_
  show execPcreate s = _
  rw [execPcreate, State.mailPart, mail_alarm hgo hcmd halarm (by decide)]

theorem holdings_foldl_dealNext (cs : List Nat) (s : State) : (cs.foldl State.dealNext s).holdings = s.holdings :=
  foldl_keeps State.holdings _ (fun _ _ => foldl_keeps State.holdings _ (fun _ _ => by rfl) _ _) _ _

theorem accTable_foldl_dealNext (cs : List Nat) (s : State) (j : Nat) : (cs.foldl State.dealNext s).accTable j = s.accTable j :=
  foldl_keeps (fun s : State => s.accTable j) _ (fun _ _ => foldl_keeps (fun s : State => s.accTable j) _ (fun _ _ => by rfl) _ _) _ _

/-- A removal takes the partition's launches, gangs, operations and watches, puts its registers at reset, and leaves memory
and the mailbox. -/
theorem holdings_removePartition (s : State) (p : Nat) : (s.removePartition p).holdings =
    (s.mems, s.mailbox, Table.set {} s.parts p {}, s.launches.filter (fun e => e.2.part != p), s.gangs.filter (fun e => e.2.part != p),
      s.ops.filter (fun e => e.2.part != p), s.watches.filter (fun e => e.2.part != p)) := by
  unfold State.removePartition
  dsimp only
  rw [holdings_foldl_dealNext, holdings_setRows]
  rfl

/-- A removal empties the rows of the partition's masters. -/
theorem row_removePartition (s : State) (p : Nat) {j k : Nat} (hj : j < 172) (hk : k < 8) :
    Table.get {} ((s.removePartition p).accTable j).rows (8 * p + k) = {} := by
  unfold State.removePartition
  dsimp only
  rw [accTable_foldl_dealNext, row_setRows _ _ _ hj hk]

/-- Nothing that a removal keeps of a table belongs to the partition. -/
theorem ne_of_mem_kept {α : Type} {part : α → Nat} {p : Nat} {t u : Table α} (h : u = t.filter fun e => part e.2 != p) :
    ∀ e ∈ u, part e.2 ≠ p := by
  subst h
  exact fun e he => by simpa using (List.mem_filter.1 he).2

theorem pdestroy_removes {s : State} (h : s.mails 2 true) : s.gives .pdestroy fun t =>
    s.memoryKept t ∧ s.mailed t 0 ∧ t.part s.mailbox.part = {} ∧ (∀ e ∈ t.launches, e.2.part ≠ s.mailbox.part) ∧
    (∀ e ∈ t.gangs, e.2.part ≠ s.mailbox.part) ∧ (∀ e ∈ t.ops, e.2.part ≠ s.mailbox.part) ∧ (∀ e ∈ t.watches, e.2.part ≠ s.mailbox.part) ∧
    ∀ j k, j < 172 → k < 8 → Table.get {} (t.accTable j).rows (8 * s.mailbox.part + k) = {} := by
  have hheld := holdings_removePartition s s.mailbox.part
  have hreset : (s.removePartition s.mailbox.part).part s.mailbox.part = {} := by
    rw [State.part, show (s.removePartition s.mailbox.part).parts = _ from congrArg (·.2.2.1) hheld, Table.get_set_same]
  show ∃ t, execPdestroy s = .next t ∧ _
  rw [execPdestroy, mailPart_runs h]
  refine ⟨_, rfl, memoryKept_of_mems (congrArg (·.1) hheld), mailed_mailDone (congrArg (·.2.1) hheld) 0, hreset,
    ne_of_mem_kept (congrArg (·.2.2.2.1) hheld), ne_of_mem_kept (congrArg (·.2.2.2.2.1) hheld),
    ne_of_mem_kept (congrArg (·.2.2.2.2.2.1) hheld), ne_of_mem_kept (congrArg (·.2.2.2.2.2.2) hheld), fun j k hj hk => ?_⟩
  rw [accTable_mailDone, row_removePartition _ _ hj hk]

/-! ### PSUSPEND, PRESUME and STORSET -/

theorem length_stampBytes (x : Stamp) : x.bytes.length = 4096 := by
  simp only [Stamp.bytes, List.length_flatMap, bytesOf_length, List.map_const', List.length_range, List.sum_replicate_nat]

/-- With no launch to stop there is no order to give. -/
theorem orderAll_of_idle {s : State} {p : Nat} (h : s.busyQueues p = []) : s.orderAll p = s := by
  rw [State.orderAll, h]
  rfl

/-- A partition that has been suspended. -/
def State.suspend (s : State) (p : Nat) : State := s.modPart p fun x => { x with suspended := true }

theorem quiet_suspend (s : State) (p : Nat) : (s.suspend p).quiet p = s.quiet p := by
  unfold State.quiet State.suspend
  rw [part_modPart]
  rfl

/-- A suspended partition whose orders have ended and whose stamp block stands in the argument buffer. -/
def State.storeStamp (s : State) (p : Nat) : State :=
  ((s.suspend p).dropOrders p).commitWrite s.mailbox.arg.toNat (s.part p).stamp.bytes

theorem part_storeStamp (s : State) (p : Nat) : (s.storeStamp p).part p =
    { s.part p with suspended := true, preempts := (s.part p).preempts.filter fun o => o.cause.isSome } := by
  rw [State.storeStamp, part_commitWrite, State.dropOrders, part_modPart, State.suspend, part_modPart]

theorem mailbox_storeStamp (s : State) (p : Nat) : (s.storeStamp p).mailbox = s.mailbox := by
  rw [State.storeStamp, mailbox_commitWrite, State.dropOrders, mailbox_modPart, State.suspend, mailbox_modPart]

theorem mem_storeStamp (s : State) (p : Nat) : (s.storeStamp p).mem = memWrite s.mem s.mailbox.arg.toNat (s.part p).stamp.bytes :=
  mem_commitWrite ..

/-- PSUSPEND of a partition with no launch to stop. -/
theorem exec_psuspend_idle {s : State} (h : s.mails 3 true) (hidle : s.busyQueues s.mailbox.part = []) :
    exec .psuspend s = .next (
      if s.quiet s.mailbox.part then (s.storeStamp s.mailbox.part).mailDone 0 else s.suspend s.mailbox.part) := by
  have ho : (s.modPart s.mailbox.part fun x => { x with suspended := true }).orderAll s.mailbox.part = s.suspend s.mailbox.part :=
    orderAll_of_idle hidle
  have hstamp : ((s.suspend s.mailbox.part).part s.mailbox.part).stamp = (s.part s.mailbox.part).stamp := by
    rw [State.suspend, part_modPart]
  show execPsuspend s = _
  rw [execPsuspend, mailPart_runs h]
  dsimp only
  rw [ho, quiet_suspend, hstamp]
  rfl

theorem psuspend_stores {s : State} (h : s.mails 3 true) (hidle : s.busyQueues s.mailbox.part = [])
    (hquiet : s.quiet s.mailbox.part = true) :
    s.gives .psuspend fun t =>
      let p := s.mailbox.part
      s.mailed t 0 ∧ (t.part p).suspended = true ∧ (t.part p).stamp = (s.part p).stamp ∧ (t.part p).ctl = (s.part p).ctl ∧
      memRead t.mem s.mailbox.arg.toNat 4096 = (s.part p).stamp.bytes ∧ keptOutside s t s.mailbox.arg.toNat 4096 := by
  have hstep := exec_psuspend_idle h hidle
  rw [if_pos hquiet] at hstep
  have hpart := (part_mailDone (s.storeStamp s.mailbox.part) 0 s.mailbox.part).trans (part_storeStamp ..)
  have hmem := (mem_mailDone (s.storeStamp s.mailbox.part) 0).trans (mem_storeStamp ..)
  exact ⟨_, hstep, mailed_mailDone (mailbox_storeStamp ..) 0, by rw [hpart], by rw [hpart], by rw [hpart],
    reads_of_memWrite hmem (length_stampBytes _)⟩

theorem psuspend_orders {s : State} (h : s.mails 3 true) (hidle : s.busyQueues s.mailbox.part = [])
    (hquiet : s.quiet s.mailbox.part = false) :
    s.gives .psuspend fun t => s.memoryKept t ∧ t.mailbox = s.mailbox ∧ (t.part s.mailbox.part).suspended = true := by
  have hstep := exec_psuspend_idle h hidle
  rw [hquiet] at hstep
  refine ⟨s.suspend s.mailbox.part, hstep, memoryKept_of_mems rfl, rfl, ?_⟩
  rw [State.suspend, part_modPart]

theorem presume_loads {s : State} (h : s.mails 4 true) : s.gives .presume fun t =>
    s.memoryKept t ∧ s.mailed t 0 ∧ (t.part s.mailbox.part).suspended = false ∧
    (t.part s.mailbox.part).stamp = (s.part s.mailbox.part).stamp.load s.argBytes := by
  show ∃ t, execPresume s = .next t ∧ _
  rw [execPresume, mailPart_runs h]
  refine ⟨_, rfl, memoryKept_of_mems rfl, rfl, ?_, ?_⟩
  all_goals rw [part_mailDone, part_modPart]

theorem storset_loads {s : State} (h : s.mails 5 true) (hi : (s.argBytes.getD 0 0).toNat < 16)
    (hok : storOk ((s.argBytes.drop 64).take 64) = true) : s.gives .storset fun t =>
      s.memoryKept t ∧ s.mailed t 0 ∧ t.stor s.mailbox.part (s.argBytes.getD 0 0).toNat =
        { storOf ((s.argBytes.drop 64).take 64) with waiting := (s.stor s.mailbox.part (s.argBytes.getD 0 0).toNat).waiting } := by
  show ∃ t, execStorset s = .next t ∧ _
  rw [execStorset, mailPart_runs h]
  dsimp only
  rw [hok, if_neg (by simpa using hi)]
  refine ⟨_, rfl, memoryKept_of_mems rfl, rfl, ?_⟩
  rw [State.stor, part_mailDone, part_modPart, Table.get_set_same]
  rfl

theorem storset_refused {s : State} (h : s.mails 5 true) (hi : 16 ≤ (s.argBytes.getD 0 0).toNat) :
    s.gives .storset fun t => ({ t with mailbox := s.mailbox } : State) = s ∧ s.mailed t 2 := by
  refine gives_mailDone ?_
  show execStorset s = _
  rw [execStorset, mailPart_runs h]
  dsimp only
  rw [if_pos (by rw [decide_eq_true hi, Bool.true_or])]

/-! ### IMGWRITE, ATTEST and PROVISION -/

theorem imgwrite_writes {s : State} (hgo : s.mailbox.go = true) (hcmd : s.mailbox.cmd = 6) (halarm : s.alarm.refuse = false) :
    let hdr := memRead s.hostMem s.mailbox.arg.toNat 256
    let img := hdr ++ memRead s.hostMem (s.mailbox.arg.toNat + 256) (imageWord hdr 0xC)
    (s.fw.imageValid img = true → s.gives .imgwrite fun t => s.memoryKept t ∧ s.mailed t 0 ∧ t.fw = { s.fw with flash := img }) ∧
    (s.fw.imageValid img = false → s.gives .imgwrite fun t => ({ t with mailbox := s.mailbox } : State) = s ∧ s.mailed t 4) := by
  intro hdr img
  have hrun : exec .imgwrite s = .next (
      if s.fw.imageValid img then { s with fw := { s.fw with flash := img } }.mailDone 0 else s.mailDone 4) := by
    show execImgwrite s = _
    rw [execImgwrite, mail_runs hgo hcmd (.inl halarm) (.inr rfl)]
  constructor
  · intro hv
    rw [hv] at hrun
    exact ⟨_, hrun, memoryKept_of_mems rfl, rfl, rfl⟩
  · intro hv
    rw [hv] at hrun
    exact gives_mailDone hrun

/-- ATTEST writes a report that begins with the nonce of the argument buffer. -/
theorem exec_attest {s : State} (hgo : s.mailbox.go = true) (hcmd : s.mailbox.cmd = 7) (halarm : s.alarm.refuse = false)
    (harg : s.argOk = true) : ∃ rest, exec .attest s = .next (
      (({ s with fw := { s.fw with session := true } } : State).commitWrite (s.mailbox.arg.toNat + 0x100)
        (memRead s.mem s.mailbox.arg.toNat 32 ++ rest)).mailDone 0) := by
  show ∃ rest, execAttest s = _
  rw [execAttest, mail_runs hgo hcmd (.inl halarm) (.inl harg)]
  simp only [State.reportBody, List.append_assoc]
  exact ⟨_, rfl⟩

theorem attest_reports {s : State} (hgo : s.mailbox.go = true) (hcmd : s.mailbox.cmd = 7) (halarm : s.alarm.refuse = false)
    (harg : s.argOk = true) : s.gives .attest fun t =>
      let at_ := s.mailbox.arg.toNat
      s.mailed t 0 ∧ t.fw = { s.fw with session := true } ∧ memRead t.mem (at_ + 0x100) 32 = memRead s.mem at_ 32 ∧
      ∀ i, i < at_ + 0x100 → Table.get 0 t.mem i = Table.get 0 s.mem i := by
  obtain ⟨rest, hstep⟩ := exec_attest hgo hcmd halarm harg
  generalize s.mailbox.arg.toNat = a at hstep ⊢
  have hread := memRead_memWrite_append s.mem (a + 0x100) (memRead s.mem a 32) rest
  rw [memRead_length] at hread
  refine ⟨_, hstep, rfl, rfl, ?_, fun i hi => ?_⟩
  all_goals rw [mem_mailDone, mem_commitWrite]
  · exact hread
  · exact get_memWrite_outside (by omega)

theorem length_fit (n : Nat) (bs : List Byte) : (fit n bs).length = n := by
  simp only [fit, List.length_append, List.length_take, List.length_replicate]
  omega

theorem provision_provisions {s : State} (hgo : s.mailbox.go = true) (hcmd : s.mailbox.cmd = 8) (harg : s.argOk = true)
    (hblob : Config.blobVerifies s.fw.keyHash s.argBytes = true) : s.gives .provision fun t =>
      s.mailed t 0 ∧ t.fw.identity = some (Config.newKey s.fw.identities) ∧ t.alarm = { s.alarm with src := 0, erased := false, refuse := false } ∧
      memRead t.mem (s.mailbox.arg.toNat + 0x100) 64 = fit 64 (Config.publicKey (Config.newKey s.fw.identities)) ∧
      keptOutside s t (s.mailbox.arg.toNat + 0x100) 64 := by
  have hlen := length_fit 64 (Config.publicKey (Config.newKey s.fw.identities))
  show ∃ t, execProvision s = .next t ∧ _
  rw [execProvision, mail_runs hgo hcmd (.inr rfl) (.inl harg)]
  dsimp only
  rw [hblob]
  refine ⟨_, rfl, rfl, rfl, rfl, reads_of_memWrite rfl hlen⟩

theorem provision_refused {s : State} (hgo : s.mailbox.go = true) (hcmd : s.mailbox.cmd = 8) (harg : s.argOk = true)
    (hblob : Config.blobVerifies s.fw.keyHash s.argBytes = false) :
    s.gives .provision fun t => ({ t with mailbox := s.mailbox } : State) = s ∧ s.mailed t 4 := by
  refine gives_mailDone ?_
  show execProvision s = _
  rw [execProvision, mail_runs hgo hcmd (.inr rfl) (.inl harg)]
  dsimp only
  rw [hblob]
  rfl

/-- No mailbox command does anything before it is started. -/
theorem commands_idle {s : State} (hgo : s.mailbox.go = false) :
    s.gives .pcreate (fun t => t = s) ∧ s.gives .pdestroy (fun t => t = s) ∧ s.gives .psuspend (fun t => t = s) ∧
    s.gives .presume (fun t => t = s) ∧ s.gives .storset (fun t => t = s) ∧ s.gives .imgwrite (fun t => t = s) ∧
    s.gives .attest (fun t => t = s) ∧ s.gives .provision fun t => t = s := by
  have hpart (cmd bad : Nat) (act : Bool) (f : State → Nat → State) : s.mailPart cmd bad act f = .next s := mail_idle hgo ..
  have hmail (cmd bad : Nat) (f : State → State) : s.mail cmd bad f = .next s := mail_idle hgo ..
  exact ⟨gives_idle (show execPcreate s = _ from hpart ..), gives_idle (show execPdestroy s = _ from hpart ..),
    gives_idle (show execPsuspend s = _ from hpart ..), gives_idle (show execPresume s = _ from hpart ..),
    gives_idle (show execStorset s = _ from hpart ..), gives_idle (show execImgwrite s = _ from hmail ..),
    gives_idle (show execAttest s = _ from hmail ..), gives_idle (show execProvision s = _ from hmail ..)⟩

/-- Settles O52: every clause is the rule of its event above. -/
theorem firmwareEvents : Obligations.FirmwareEvents := by
  rintro s _ ⟨-, rfl⟩
  refine ⟨⟨commandLinkMessage_up, commandLinkMessage_down, commandLinkError_ends s⟩,
    ⟨fun hw => ⟨fun q hq => gives_reply (vs := fun _ => _) rfl hw hq (by simp),
      fun q hq => gives_reply (vs := fun _ => _) rfl hw hq (by simp),
      fun q hq => gives_reply (vs := fun _ => _) rfl hw hq (by simp), fun q hq => syscLog_room hw hq, fun q hq => syscLog_full hw hq,
      fun q hq => syscSaveDone_refused hw hq, fun q hq => syscSaveDone_waits hw hq⟩, syscNull_unasked, syscSaveDone_saves⟩,
    pcreate_creates, pcreate_refused, pdestroy_removes,
    ⟨psuspend_stores, psuspend_orders, presume_loads, storset_loads, storset_refused⟩,
    imgwrite_writes, attest_reports,
    fun hgo hcmd harg => ⟨provision_provisions hgo hcmd harg, provision_refused hgo hcmd harg⟩,
    pcreate_alarm, commands_idle⟩

end Sys2Proof.Machine
end

section
/-! O30, first part: what a word in hand finds as its effect begins, and what issuing a command leaves. -/

namespace Sys2Proof.Table

variable {α : Type}

/-- Changing an entry that has just been put is putting the changed one. -/
theorem modify_insert_same (t : Table α) (k : Nat) (a : α) (f : α → α) : modify (insert t k a) k f = insert t k (f a) := by
  induction t with
  | nil => simp [insert, modify]
  | cons e r ih =>
    obtain ⟨i, b⟩ := e
    simp only [insert]
    split
    · simp [modify]
    · split
      · simp [modify]
      · next h => simp [modify, Ne.symm h, ih]

end Sys2Proof.Table

namespace Sys2Proof.Machine

open Sys2Proof

/-! ### Where a word's effect begins -/

theorem startRun_eq (w : Weave) (id : Nat) :
    w.startRun id = { w with flags := (w.startRun id).flags, clauses := (w.startRun id).clauses } := by
  have hflags (fs : List Nat) (w : Weave) : fs.foldl (fun w f => w.setFlag f (w.flag f + 1)) w =
      { w with flags := (fs.foldl (fun w f => w.setFlag f (w.flag f + 1)) w).flags } := by
    induction fs generalizing w with
    | nil => rfl
    | cons f fs ih => rw [List.foldl_cons, ih]; rfl
  unfold Weave.startRun
  split
  · rfl
  · split
    · rfl
    · rw [hflags]

/-- A clause that starts changes flags and clauses of its weave only. -/
theorem weave_starts {s : State} {k : Ctx} (hw : (s.weaves.find k.wk).isSome = true) :
    ∃ fs cs, (s.starts k).weave k.wk = { s.weave k.wk with flags := fs, clauses := cs } := by
  unfold State.starts
  split
  · rw [weave_modWeave hw]
    exact ⟨_, _, startRun_eq _ _⟩
  · exact ⟨_, _, rfl⟩

/-- What a handle register refers to depends on the operations and the weave's handles only. -/
theorem handle_congr {s t : State} {w x : Weave} (ho : t.ops = s.ops) (hh : x.handles = w.handles) (hs : x.hsaved = w.hsaved) (h : Nat) :
    t.handle x h = s.handle w h := by
  unfold State.handle State.op
  rw [ho, hh, hs]

section
variable {s : State} {k : Ctx} (h : s.inHand k) (g : Gate)
include h

theorem frame_b : s.frame (s.issueOf k g).b k [] := frame_of_starts (stays_begun (weave_isSome h) ..)

theorem isSome_b : ((s.issueOf k g).b.weaves.find k.wk).isSome = true := isSome_begun (weave_isSome h) ..

/-- Beside the weaves, the counter of free values and the cores, nothing has changed. -/
theorem b_eq : (s.issueOf k g).b =
    { s with weaves := (s.issueOf k g).b.weaves, free := (s.issueOf k g).b.free, cores := (s.issueOf k g).b.cores } := by
  have hb := congrArg (fun x : State => ({ x with
    weaves := (s.issueOf k g).b.weaves, free := (s.issueOf k g).b.free, cores := (s.issueOf k g).b.cores } : State)) (frame_b h g).1
  exact hb

theorem ops_b : (s.issueOf k g).b.ops = s.ops := by rw [b_eq h g]
theorem nextKey_b : (s.issueOf k g).b.nextKey = s.nextKey := by rw [b_eq h g]
theorem gang_b : (s.issueOf k g).b.gang k.gk = (s.issueOf k g).g := by rw [b_eq h g]; rfl
theorem mems_b : (s.issueOf k g).b.mems = s.mems := by rw [b_eq h g]; rfl

theorem flag_b (f : Nat) : ((s.issueOf k g).b.weave k.wk).flag f = (s.issueOf k g).started.flag f := by
  have hrest := (frame_b h g).2.2.2.1
  have hflags := congrArg Weave.flags hrest
  exact congrArg (Table.get 0 · f) hflags

theorem handle_b (i : Nat) : (s.issueOf k g).b.handle ((s.issueOf k g).b.weave k.wk) i = s.handle (s.weave k.wk) i := by
  have hrest := (frame_b h g).2.2.2.1
  obtain ⟨fs, cs, hst⟩ := weave_starts (weave_isSome h)
  rw [hst] at hrest
  exact handle_congr (ops_b h g) (congrArg Weave.handles hrest) (congrArg Weave.hsaved hrest) i

theorem kept_b (o : Operand) {l : Nat} (hl : l < 32) : ((s.issueOf k g).b.weave k.wk).kept o l = (s.weave k.wk).kept o l := by
  obtain ⟨fs, cs, hst⟩ := weave_starts (weave_isSome h)
  refine ((frame_b h g).2.2.2.2.1 o l hl (by simp)).trans ?_
  rw [hst]
  exact kept_congr o (fun _ => rfl) (fun _ => rfl) rfl rfl rfl rfl rfl

/-- A lane that executes the word stands as it stood. -/
theorem lane_b {l : Nat} (hl : l < 32) (ha : (s.issueOf k g).act.getLsbD l = true) : ((s.issueOf k g).b.weave k.wk).lane l = (s.weave k.wk).lane l := by
  have hw := weave_isSome h
  obtain ⟨fs, cs, hst⟩ := weave_starts hw
  have hout : (k.lanes &&& ~~~(s.issueOf k g).act).getLsbD l = false := by simp [hl, ha]
  have hlanes := lanes_begun hw g (s.issueOf k g).e (s.issueOf k g).act
  calc ((s.issueOf k g).b.weave k.wk).lane l
      = (((s.starts k).advance k (k.lanes &&& ~~~(s.issueOf k g).act)).weave k.wk).lane l := congrArg (Table.get ({} : Lane) · l) hlanes
    _ = ((s.starts k).weave k.wk).lane l := by
      rw [State.advance, weave_modWeave (isSome_starts hw), lane_modLanes, if_neg (by simp [hout])]
    _ = (s.weave k.wk).lane l := by rw [hst]; rfl

/-- A lane of the set whose predicate fails has gone on. -/
theorem stand_b {l : Nat} (hl : l < 32) (hc : k.lanes.getLsbD l = true) (ha : (s.issueOf k g).act.getLsbD l = false) :
    (((s.issueOf k g).b.weave k.wk).lane l).stand = (if k.last then (k.next, true, none) else (k.pc + 8, false, none)) :=
  stand_begun (weave_isSome h) g _ _ l hl hc ha

/-! ### A word that is held at issue -/

/-- A word that is held leaves its lanes where they stood and changes no register, no memory and no operation. -/
theorem holdIssue_waits (hd : Hold) :
    let x := s.issueOf k g
    let t := x.b.holdIssue k x.e hd
    s.waitsAt t k k.lanes hd ∧ x.keepsRegs t [] ∧ t.ops = s.ops := by
  intro x t
  have hweave : t.weave k.wk = (s.weave k.wk).modLanes k.lanes fun l => { l with hold := some hd } := weave_modWeave (isSome_b h g) _
  have hmems : t.mems = s.mems := mems_b h g
  refine ⟨fun l hl hm => ?_, ⟨(memoryKept_of_mems hmems).1, (memoryKept_of_mems hmems).2, fun o l _ _ => ?_⟩, ops_b h g⟩
  · rw [hweave, lane_modLanes, if_pos ⟨hl, hm⟩]
    exact ⟨rfl, rfl⟩
  · show (t.weave k.wk).kept o l = _
    rw [hweave]
    apply modLanes_kept <;> exact fun _ => rfl

end

/-! ### A command that issues -/

/-- A handle register and an AFLAG stand for a new operation. -/
def Weave.bindCommand (x : Weave) (w : FX) (r : Nat) : Weave :=
  let x := if w.noh then x else x.setHandle w.hdst.toNat (some r)
  if w.afen then x.setFlag w.aflag.toNat (x.flag w.aflag.toNat + 1) else x

/-- The weave takes note of a new operation; the lanes go on, or wait for a place in the engine's queue. -/
def State.bindCommand (s : State) (c : Ctx) (e : Env) (w : FX) (r : Nat) (full : Bool) : State :=
  let s := s.modWeave c.wk (·.bindCommand w r)
  if full then s.holdLanes c e.act (.cmdQueue r) else s.advance c c.lanes

/-- The record of a command as it issues. -/
def State.record (s : State) (c : Ctx) (e : Env) (w : FX) (i : Instr) (eng : Engine) (full : Bool) : AsyncOp :=
  { part := c.part, launch := c.launch, gang := c.gk, wk := c.wk, core := c.core, engine := eng, instr := i
    named := !w.noh, fx := some w, tag := (s.gang c.gk).tag, ahead := (s.weave c.wk).sq.length, port := s.nextKey + 1
    full := full
    desc := if eng == .mx then (List.range 12).map (e.dreg w) else []
    aflag := if w.afen then some w.aflag.toNat else none }

/-- A record without what its engine notes of it at issue. -/
def AsyncOp.plain (o : AsyncOp) : AsyncOp := { o with aux := [], amat := [] }

theorem command_pending {s : State} {c : Ctx} {e : Env} {w : FX} {i : Instr} {eng : Engine} {more : AsyncOp → AsyncOp} {r : Nat}
    (hn : w.noh = false) (hp : s.handle (s.weave c.wk) w.hdst.toNat = .pending r) :
    s.command c e w i eng more = s.holdIssue c e (.destPending w.hdst.toNat r) := by
  unfold State.command
  simp only [hp, hn, Bool.false_eq_true, if_false]

/-- No operation that the word's handle register refers to is Pending. -/
abbrev State.handleFree (s : State) (x : Weave) (w : FX) : Prop := w.noh = true ∨ ∀ r, s.handle x w.hdst.toNat ≠ .pending r

theorem command_flagFull {s : State} {c : Ctx} {e : Env} {w : FX} {i : Instr} {eng : Engine} {more : AsyncOp → AsyncOp}
    (hh : s.handleFree (s.weave c.wk) w) (ha : w.afen = true) (hf : 15 ≤ (s.weave c.wk).flag w.aflag.toNat) :
    s.command c e w i eng more = s.holdIssue c e (.flagFull w.aflag.toNat) := by
  have hflag : (w.afen && decide (15 ≤ (s.weave c.wk).flag w.aflag.toNat)) = true := by simp [ha, hf]
  unfold State.command
  cases hs : s.handle (s.weave c.wk) w.hdst.toNat with
  | pending r => simp only [hs, hh.resolve_right fun h => h r hs, hflag, if_true]
  | _ => simp only [hs, hflag, if_true]

theorem command_issues {s : State} {c : Ctx} {e : Env} {w : FX} {i : Instr} {eng : Engine} {more : AsyncOp → AsyncOp}
    (hh : s.handleFree (s.weave c.wk) w) (hf : w.afen = true → (s.weave c.wk).flag w.aflag.toNat < 15) :
    let full := s.queueFull c.core eng || s.heldFull c.wk eng
    s.command c e w i eng more =
      ({ s with nextKey := s.nextKey + 1, ops := s.ops.insert s.nextKey (more (s.record c e w i eng full)) } : State).bindCommand c e w
        s.nextKey full := by
  intro full
  have hflag : (w.afen && decide (15 ≤ (s.weave c.wk).flag w.aflag.toNat)) = false := by
    cases ha : w.afen with
    | false => rfl
    | true => simpa using hf ha
  unfold State.command
  cases hs : s.handle (s.weave c.wk) w.hdst.toNat with
  | pending r =>
    dsimp only
    rw [hs, hflag]
    dsimp only
    rw [if_pos (hh.resolve_right fun h => h r hs)]
    rfl
  | _ =>
    simp only [hs, hflag]
    rfl

/-! ### What the weave takes note of -/

theorem bindCommand_eq (x : Weave) (w : FX) (r : Nat) : x.bindCommand w r =
    { x with handles := (x.bindCommand w r).handles, hsaved := (x.bindCommand w r).hsaved, flags := (x.bindCommand w r).flags } := by
  unfold Weave.bindCommand
  cases w.noh <;> cases w.afen <;> rfl

theorem kept_bindCommand (x : Weave) (w : FX) (r : Nat) (q : Operand) (l : Nat) : (x.bindCommand w r).kept q l = x.kept q l := by
  rw [bindCommand_eq]
  exact kept_congr q (fun _ => rfl) (fun _ => rfl) rfl rfl rfl rfl rfl

theorem lane_bindCommand (x : Weave) (w : FX) (r l : Nat) : (x.bindCommand w r).lane l = x.lane l := by
  rw [bindCommand_eq]
  rfl

theorem flag_bindCommand (x : Weave) (w : FX) (r f : Nat) :
    (x.bindCommand w r).flag f = x.flag f + if w.afen = true ∧ f = w.aflag.toNat then 1 else 0 := by
  have hset (y : Weave) (hy : y.flags = x.flags) :
      (y.setFlag w.aflag.toNat (y.flag w.aflag.toNat + 1)).flag f = x.flag f + if f = w.aflag.toNat then 1 else 0 := by
    show Table.get 0 (Table.set 0 y.flags _ (Table.get 0 y.flags _ + 1)) f = _
    rw [hy, Table.get_set]
    split
    · next hf => rw [hf]; rfl
    · rfl
  unfold Weave.bindCommand
  cases w.afen with
  | false =>
    simp only [Bool.false_eq_true, if_false, false_and, Nat.add_zero]
    cases w.noh <;> rfl
  | true =>
    simp only [if_true, true_and]
    exact hset _ (by cases w.noh <;> rfl)

theorem handles_bindCommand {x : Weave} {w : FX} {r : Nat} (hn : w.noh = false) :
    (x.bindCommand w r).handles = Table.set none x.handles w.hdst.toNat (some r) := by
  unfold Weave.bindCommand
  rw [hn]
  cases w.afen <;> rfl

theorem flag_modLanes (w : Weave) (m : BitVec 32) (f : Lane → Lane) (n : Nat) : (w.modLanes m f).flag n = w.flag n := by
  rw [modLanes_eq]
  rfl

theorem handles_modLanes (w : Weave) (m : BitVec 32) (f : Lane → Lane) : (w.modLanes m f).handles = w.handles := by
  rw [modLanes_eq]

theorem weave_congr {s t : State} (h : t.weaves = s.weaves) (wk : Nat) : t.weave wk = s.weave wk := by
  rw [State.weave, h]
  rfl

/-- What the lanes of a command do as it issues: they wait for a place, or go on. -/
def Lane.afterCommand (c : Ctx) (r : Nat) (full : Bool) (l : Lane) : Lane :=
  if full then { l with hold := some (.cmdQueue r) } else if c.last then l.goto c.next true else l.goto (c.pc + 8) false

theorem weave_bindCommand {s : State} {c : Ctx} (hw : (s.weaves.find c.wk).isSome = true) (e : Env) (w : FX) (r : Nat) (full : Bool) :
    (s.bindCommand c e w r full).weave c.wk =
      ((s.weave c.wk).bindCommand w r).modLanes (if full then e.act else c.lanes) (Lane.afterCommand c r full) := by
  have hm := isSome_modWeave hw (·.bindCommand w r) c.wk
  cases full
  · refine (weave_modWeave hm _).trans ?_
    rw [weave_modWeave hw]
    rfl
  · refine (weave_modWeave hm _).trans ?_
    rw [weave_modWeave hw]
    rfl

/-- What a command that issues leaves beside its weave. -/
theorem bindCommand_keeps (s : State) (c : Ctx) (e : Env) (w : FX) (r : Nat) (full : Bool) :
    s.bindCommand c e w r full = { s with weaves := (s.bindCommand c e w r full).weaves } := by
  cases full <;> rfl

theorem weaves_bindCommand_congr {s t : State} (ht : t.weaves = s.weaves) (c : Ctx) (e : Env) (w : FX) (r : Nat) (full : Bool) :
    (t.bindCommand c e w r full).weaves = (s.bindCommand c e w r full).weaves := by
  unfold State.bindCommand State.holdLanes State.advance State.modWeave
  rw [ht]
  cases full <;> rfl

/-! ### The outcomes of a command -/

/-- The engine's queue has no place for the command of a word, or an earlier one of its weave is held for it. -/
def Issue.noRoom (x : Issue) (eng : Engine) : Bool := x.s.queueFull x.k.core eng || x.s.heldFull x.k.wk eng

/-- A command word has run: held while its handle register is Pending or its AFLAG is full, else its record is made and its
weave takes note of it. -/
def Issue.ranCommand (x : Issue) (t : State) (w : FX) (i : Instr) (eng : Engine) : Prop :=
  (∀ r, w.noh = false → x.s.handle x.w w.hdst.toNat = .pending r → t = x.b.holdIssue x.k x.e (.destPending w.hdst.toNat r)) ∧
  (x.s.handleFree x.w w → w.afen = true → 15 ≤ x.started.flag w.aflag.toNat → t = x.b.holdIssue x.k x.e (.flagFull w.aflag.toNat)) ∧
  (x.canCommand w → ∃ o, o.plain = (x.b.record x.k x.e w i eng (x.noRoom eng)).plain ∧ t.ops = x.s.ops.insert x.s.nextKey o ∧
    t.mems = x.s.mems ∧ t.weaves = (x.b.bindCommand x.k x.e w x.s.nextKey (x.noRoom eng)).weaves)

section
variable {s : State} {k : Ctx} (h : s.inHand k) (g : Gate)
include h

theorem noRoom_b (eng : Engine) :
    ((s.issueOf k g).b.queueFull k.core eng || (s.issueOf k g).b.heldFull k.wk eng) = (s.issueOf k g).noRoom eng := by
  unfold State.queueFull State.heldFull Issue.noRoom
  rw [ops_b h g]
  rfl

/-- A word runs its command by `State.command`, whatever the engine notes of it, and, where that has issued, goes on
without a change to weaves or memory. -/
theorem ranCommand_of_command {w : FX} {i : Instr} {eng : Engine} {more : AsyncOp → AsyncOp} (hmore : ∀ o, (more o).plain = o.plain)
    {u t : State} (hu : (s.issueOf k g).b.command k (s.issueOf k g).e w i eng more = u)
    (hheld : u.nextKey = (s.issueOf k g).b.nextKey → t = u)
    (hmade : u.nextKey = (s.issueOf k g).b.nextKey + 1 → t.weaves = u.weaves ∧ t.mems = u.mems ∧
      ∀ o, u.ops = (s.issueOf k g).b.ops.insert (s.issueOf k g).b.nextKey o →
        ∃ p : AsyncOp, p.plain = o.plain ∧ t.ops = (s.issueOf k g).b.ops.insert (s.issueOf k g).b.nextKey p) :
    (s.issueOf k g).ranCommand t w i eng := by
  have hfree : (s.issueOf k g).b.handleFree ((s.issueOf k g).b.weave k.wk) w ↔ s.handleFree (s.weave k.wk) w := by
    rw [State.handleFree, handle_b h g]
  have hflag := flag_b h g w.aflag.toNat
  have hroom := noRoom_b h g eng
  refine ⟨fun r hn hp => ?_, fun hh ha hf => ?_, fun hc => ?_⟩
  · have hu' := hu.symm.trans (command_pending hn ((handle_b h g _).trans hp))
    exact (hheld (by rw [hu']; rfl)).trans hu'
  · have hu' := hu.symm.trans (command_flagFull (hfree.2 hh) ha (hflag ▸ hf))
    exact (hheld (by rw [hu']; rfl)).trans hu'
  · obtain ⟨hh, hf⟩ := hc
    have hu' := hu.symm.trans (command_issues (hfree.2 hh) (hflag ▸ hf))
    rw [hroom] at hu'
    obtain ⟨hweaves, hmems, hrec⟩ := hmade (by rw [hu', bindCommand_keeps])
    obtain ⟨p, hp, hops⟩ := hrec _ (by rw [hu', bindCommand_keeps])
    refine ⟨p, hp.trans (hmore _), ?_, ?_, ?_⟩
    · rw [hops, ops_b h g, nextKey_b h g]; rfl
    · rw [hmems, hu', bindCommand_keeps]; exact mems_b h g
    · rw [hweaves, hu', nextKey_b h g]
      apply weaves_bindCommand_congr
      rfl

theorem ranCommand_command (w : FX) (i : Instr) (eng : Engine) {more : AsyncOp → AsyncOp} (hmore : ∀ o, (more o).plain = o.plain) :
    (s.issueOf k g).ranCommand ((s.issueOf k g).b.command k (s.issueOf k g).e w i eng more) w i eng :=
  ranCommand_of_command h g hmore rfl (fun _ => rfl) fun _ => ⟨rfl, rfl, fun o ho => ⟨o, rfl, ho⟩⟩

/-! ### What the outcomes say -/

theorem weave_of_ran {t : State} {w : FX} {i : Instr} {eng : Engine} (hr : (s.issueOf k g).ranCommand t w i eng)
    (hc : (s.issueOf k g).canCommand w) :
    t.weave k.wk = (((s.issueOf k g).b.weave k.wk).bindCommand w s.nextKey).modLanes
      (if (s.issueOf k g).noRoom eng then (s.issueOf k g).act else k.lanes) (Lane.afterCommand k s.nextKey ((s.issueOf k g).noRoom eng)) := by
  obtain ⟨_, _, _, _, hweaves⟩ := hr.2.2 hc
  exact (weave_congr hweaves k.wk).trans (weave_bindCommand (isSome_b h g) ..)

/-- A command that issues has made its operation. -/
theorem makes_of_ran {t : State} {w : FX} {i : Instr} {eng : Engine} (hr : (s.issueOf k g).ranCommand t w i eng)
    (hc : (s.issueOf k g).canCommand w) : (s.issueOf k g).makes t w i eng ((s.issueOf k g).noRoom eng) := by
  have hweave := weave_of_ran h g hr hc
  obtain ⟨o, hplain, hops, hmems, -⟩ := hr.2.2 hc
  have hfind : t.ops.find s.nextKey = some o := by rw [hops]; exact Table.find_insert_same ..
  have hstate : o.state = .pending := congrArg AsyncOp.state hplain
  have hkept := memoryKept_of_mems hmems
  refine ⟨⟨hkept.1, hkept.2, fun q l hl _ => ?_⟩, ⟨o, hfind, ?_⟩, fun r hne => ?_, fun hn => ?_, fun f => ?_⟩
  · show (t.weave k.wk).kept q l = _
    rw [hweave]
    refine ((modLanes_kept _ _ _ ?_ ?_ ?_ ?_ q l).trans (kept_bindCommand ..)).trans (kept_b h g q hl)
    all_goals
      intro y
      unfold Lane.afterCommand
      cases (s.issueOf k g).noRoom eng <;> cases k.last <;> rfl
  · exact ⟨congrArg AsyncOp.instr hplain, congrArg AsyncOp.engine hplain, congrArg AsyncOp.fx hplain, congrArg AsyncOp.wk hplain,
      congrArg AsyncOp.gang hplain, congrArg AsyncOp.part hplain, hstate, congrArg AsyncOp.accepted hplain, congrArg AsyncOp.full hplain,
      congrArg AsyncOp.aflag hplain⟩
  · rw [hops]
    exact Table.find_insert_ne _ _ hne
  · show t.handle (t.weave k.wk) _ = _
    have hget : Table.get none (t.weave k.wk).handles w.hdst.toNat = some s.nextKey := by
      rw [hweave, handles_modLanes, handles_bindCommand hn, Table.get_set_same]
    have hst : (t.op s.nextKey).state = .pending := by rw [State.op, Table.get_of_find hfind, hstate]
    simp only [State.handle, hget, hst]
    rfl
  · show (t.weave k.wk).flag f = _
    rw [hweave, flag_modLanes, flag_bindCommand, flag_b h g]

/-- A command with a place in its engine's queue lets the lanes go on. -/
theorem past_of_ran {t : State} {w : FX} {i : Instr} {eng : Engine} (hr : (s.issueOf k g).ranCommand t w i eng)
    (hc : (s.issueOf k g).canCommand w) (hroom : (s.issueOf k g).noRoom eng = false) : t.past k k.lanes := by
  have hweave := weave_of_ran h g hr hc
  rw [hroom] at hweave
  intro l hl hm
  have hlane : (t.weave k.wk).lane l = Lane.afterCommand k s.nextKey false (((s.issueOf k g).b.weave k.wk).lane l) := by
    rw [hweave, lane_modLanes, if_pos ⟨hl, hm⟩, lane_bindCommand]
  rw [hlane, Lane.afterCommand]
  cases k.last <;> exact ⟨rfl, rfl, rfl⟩

/-- A command without a place holds the lanes that execute it; the others have gone on. -/
theorem waits_of_ran {t : State} {w : FX} {i : Instr} {eng : Engine} (hr : (s.issueOf k g).ranCommand t w i eng)
    (hc : (s.issueOf k g).canCommand w) (hfull : (s.issueOf k g).noRoom eng = true) :
    s.waitsAt t k (s.issueOf k g).act (.cmdQueue s.nextKey) ∧ t.past k (k.lanes &&& ~~~(s.issueOf k g).act) := by
  have hweave := weave_of_ran h g hr hc
  rw [hfull] at hweave
  constructor
  · intro l hl hm
    have hlane : (t.weave k.wk).lane l = Lane.afterCommand k s.nextKey true ((s.weave k.wk).lane l) := by
      rw [hweave, lane_modLanes, if_pos ⟨hl, hm⟩, lane_bindCommand, lane_b h g hl hm]
    rw [hlane]
    exact ⟨rfl, rfl⟩
  · intro l hl hm
    have hmask : k.lanes.getLsbD l = true ∧ (s.issueOf k g).act.getLsbD l = false := by simpa [hl] using hm
    have hlane : (t.weave k.wk).lane l = ((s.issueOf k g).b.weave k.wk).lane l := by
      rw [hweave, lane_modLanes, if_neg (by simp [hmask.2]), lane_bindCommand]
    have hstand := stand_b h g hl hmask.1 hmask.2
    rw [hlane]
    unfold Lane.stand at hstand
    cases hk : k.last <;> simpa [hk] using hstand

end

/-! ### Words that run a command -/

/-- A word of a form runs a command once its own checks pass. -/
def FxForm.runsCommand (f : FxForm) (w : FX) : Prop := Runs f.i f.gate f.ready fun x t => x.ranCommand t w f.i f.eng

/-- A word of the weave whose effect, where it is ready, runs a command. -/
theorem runsCommand_of_effect {f : FxForm} {w : FX} {eff : State → Ctx → Env → BitVec 32 → State → State}
    (hexec : ∀ s, exec f.i s = weaveOnly s fun k => s.runWord k (f.gate s k) (eff s k))
    (heff : ∀ (s : State) (k : Ctx) (g : Gate), s.inHand k → f.ready (s.issueOf k g) →
      (s.issueOf k g).ranCommand (eff s k (s.issueOf k g).e (s.issueOf k g).act (s.issueOf k g).b) w f.i f.eng) :
    f.runsCommand w := fun s k h hp hr =>
  ⟨_, (hexec s).trans (weaveOnly_runWord (g := f.gate s) h hp (eff s)), heff s k _ h hr⟩

/-- What a command word answers follows from what running its command leaves. -/
theorem clauses_of_runsCommand {f : FxForm} {w : FX} (hf : f.runsCommand w) :
    Runs f.i f.gate (fun x => x.canCommand w ∧ x.hasRoom f.eng ∧ f.ready x) (fun x t => x.commands t w f.i f.eng) ∧
    Runs f.i f.gate (fun x => x.canCommand w ∧ ¬x.hasRoom f.eng ∧ f.ready x) (fun x t =>
      x.makes t w f.i f.eng true ∧ x.s.waitsAt t x.k x.act (.cmdQueue x.s.nextKey) ∧ t.past x.k (x.k.lanes &&& ~~~x.act)) ∧
    (∀ r, Runs f.i f.gate (fun x => f.ready x ∧ w.noh = false ∧ x.s.handle x.w w.hdst.toNat = .pending r) fun x t =>
      x.s.waitsAt t x.k x.k.lanes (.destPending w.hdst.toNat r) ∧ x.keepsRegs t [] ∧ t.ops = x.s.ops) ∧
    Runs f.i f.gate (fun x => f.ready x ∧ (w.noh = true ∨ ∀ r, x.s.handle x.w w.hdst.toNat ≠ .pending r) ∧ w.afen = true ∧
      15 ≤ x.started.flag w.aflag.toNat)
      fun x t => x.s.waitsAt t x.k x.k.lanes (.flagFull w.aflag.toNat) ∧ x.keepsRegs t [] ∧ t.ops = x.s.ops := by
  refine ⟨?_, ?_, ?_, ?_⟩
  · rintro s k h hp ⟨hc, ⟨hq, hheld⟩, hr⟩
    obtain ⟨t, ht, hran⟩ := hf s k h hp hr
    have hroom : (s.issueOf k (f.gate s k)).noRoom f.eng = false := by rw [Issue.noRoom, hq, hheld]; rfl
    exact ⟨t, ht, past_of_ran h _ hran hc hroom, hroom ▸ makes_of_ran h _ hran hc⟩
  · rintro s k h hp ⟨hc, hno, hr⟩
    obtain ⟨t, ht, hran⟩ := hf s k h hp hr
    have hfull : (s.issueOf k (f.gate s k)).noRoom f.eng = true := by
      by_contra hroom
      rw [Bool.not_eq_true, Issue.noRoom, Bool.or_eq_false_iff] at hroom
      exact hno hroom
    exact ⟨t, ht, hfull ▸ makes_of_ran h _ hran hc, waits_of_ran h _ hran hc hfull⟩
  · rintro r s k h hp ⟨hr, hn, hpend⟩
    obtain ⟨t, ht, hheld, -, -⟩ := hf s k h hp hr
    exact ⟨t, ht, hheld r hn hpend ▸ holdIssue_waits h _ _⟩
  · rintro s k h hp ⟨hr, hh, ha, hfl⟩
    obtain ⟨t, ht, -, hfull, -⟩ := hf s k h hp hr
    exact ⟨t, ht, hfull hh ha hfl ▸ holdIssue_waits h _ _⟩

end Sys2Proof.Machine
end

section
/-! O30, second part: the copy, stamp, search and exchange engines. -/

namespace Sys2Proof.Machine

open Sys2Proof

theorem toNat_pair (a b : Word) : (pair a b).toNat = a.toNat + 2 ^ 32 * b.toNat := by
  unfold pair
  rw [BitVec.toNat_append, Nat.shiftLeft_eq, Nat.mul_comm, ← Nat.two_pow_add_eq_or_of_lt a.isLt, Nat.add_comm]

/-- A pair of descriptor registers as a word's effect reads it. -/
theorem toNat_desc2 (x : Issue) (w : FX) (j : Nat) : (pair (x.e.dreg w j) (x.e.dreg w (j + 1))).toNat = x.desc2 w j := toNat_pair ..

/-- A word without checks of its own beyond its gate. -/
theorem runsCommand_plain {i : Instr} {eng : Engine} {gate : State → Ctx → Gate} {w : FX} {more : AsyncOp → AsyncOp}
    (hexec : ∀ s, exec i s = weaveOnly s fun k => s.runWord k (gate s k) fun e _ s => s.command k e w i eng more)
    (hmore : ∀ o, (more o).plain = o.plain) :
    FxForm.runsCommand { i := i, eng := eng, gate := gate } w :=
  runsCommand_of_effect (eff := fun _ k e _ s => s.command k e w i eng more) hexec fun _ _ _ h _ => ranCommand_command h _ w i eng hmore

/-! ### The copy engine -/

/-- A command of the copy engine, its addresses aligned. -/
theorem runsCommand_ce {i : Instr} {gate : State → Ctx → Gate} {w : FX} (al : List (Nat × Nat))
    (hexec : ∀ s, exec i s = weaveOnly s fun k => s.runWord k (gate s k) fun e act s => s.issueCe k e act w i al) :
    FxForm.runsCommand { i := i, eng := .ce, gate := gate, ready := fun x => ∀ a ∈ al, x.desc2 w a.1 % a.2 = 0 } w := by
  refine runsCommand_of_effect (eff := fun _ k e act s => s.issueCe k e act w i al) hexec fun s k g h hr => ?_
  have hal : (al.find? fun a => (pair ((s.issueOf k g).e.dreg w a.1) ((s.issueOf k g).e.dreg w (a.1 + 1))).toNat % a.2 != 0) = none :=
    List.find?_eq_none.2 fun a ha => by
      rw [toNat_desc2, hr a ha]
      decide
  dsimp only
  unfold State.issueCe
  dsimp only
  rw [hal]
  exact ranCommand_command h _ w i .ce fun _ => rfl

theorem copyForms_runCommand (w : FX) : ∀ f ∈ copyForms w, f.runsCommand w := by
  iterate 11 refine List.forall_mem_cons.2 ⟨runsCommand_ce _ fun _ => rfl, ?_⟩
  exact List.forall_mem_nil _

/-! ### The stamp, search and exchange engines -/

/-- A TKMRG issues where no other of its weave is Pending. -/
theorem ranCommand_issueMerge {s : State} {k : Ctx} (h : s.inHand k) (g : Gate) (w : FX) (i : Instr) (hm : s.merging k.wk = false) :
    (s.issueOf k g).ranCommand ((s.issueOf k g).b.issueMerge k (s.issueOf k g).e w i) w i .nne := by
  have hmerging : (s.issueOf k g).b.merging k.wk = false := by rw [State.merging, ops_b h g]; exact hm
  unfold State.issueMerge State.unlessMerging
  rw [if_neg (by rw [hmerging]; decide)]
  exact ranCommand_command h g w i .nne fun _ => rfl

/-- What TKMRG.st and TKMRG.ld do where they execute: the checks of the image's address, then the command. -/
def State.imageEffect (w : FX) (i : Instr) (k : Ctx) (e : Env) (act : BitVec 32) (s : State) : State :=
  let a := imageAt w fun j => (e.dreg w j).toNat
  if a % 8 ≠ 0 then s.fault k act 0x12#32 (BitVec.ofNat 64 a)
  else if w.imm.getLsbD 16 && decide ((s.gang k.gk).spSize < a + 520) then s.fault k act 0x13#32 (BitVec.ofNat 64 a)
  else s.issueMerge k e w i

theorem ranCommand_image {s : State} {k : Ctx} (h : s.inHand k) (g : Gate) (w : FX) (i : Instr) (hm : s.merging k.wk = false) :
    let x := s.issueOf k g
    let a := if w.imm.getLsbD 16 then x.desc w 0 else x.desc2 w 0
    a % 8 = 0 → (w.imm.getLsbD 16 = true → a + 520 ≤ 256 * x.g.spb) →
    x.ranCommand (State.imageEffect w i k x.e x.act x.b) w i .nne := by
  intro x a ha hsp
  have hfits : (w.imm.getLsbD 16 && decide ((x.b.gang k.gk).spSize < a + 520)) = false := by
    rw [gang_b h g, Gang.spSize]
    cases hs : w.imm.getLsbD 16 with
    | false => rfl
    | true => simpa using hsp hs
  have hrun : State.imageEffect w i k x.e x.act x.b = x.b.issueMerge k x.e w i :=
    (if_neg (not_not.2 ha)).trans (if_neg (Bool.not_eq_true _ ▸ hfits))
  exact hrun ▸ ranCommand_issueMerge h g w i hm

theorem engineForms_runCommand (w : FX) : ∀ f ∈ engineForms w, f.runsCommand w := by
  -- SWPREG
  refine List.forall_mem_cons.2 ⟨runsCommand_of_effect (fun _ => rfl) fun s k g h hr => ?_, ?_⟩
  · dsimp only at hr ⊢
    rw [toNat_desc2, hr.1, if_neg (by decide), hr.2]
    exact ranCommand_command h _ w _ .ste fun _ => rfl
  -- SWPREG.inv, .thr, .now
  iterate 3 refine List.forall_mem_cons.2 ⟨runsCommand_plain (fun _ => rfl) fun _ => rfl, ?_⟩
  -- GDIST
  refine List.forall_mem_cons.2 ⟨runsCommand_of_effect (fun _ => rfl) fun s k g h hr => ?_, ?_⟩
  · dsimp only
    have hnone : gdistBad (s.gang k.gk) w (fun j => ((s.issueOf k g).e.dreg w j).toNat) = none := hr
    rw [hnone]
    exact ranCommand_command h _ w _ .nne fun _ => rfl
  -- TKMRG
  refine List.forall_mem_cons.2 ⟨runsCommand_of_effect (fun _ => rfl) fun s k g h hr => ranCommand_issueMerge h _ w _ hr, ?_⟩
  iterate 2
    refine List.forall_mem_cons.2 ⟨runsCommand_of_effect (eff := fun _ => State.imageEffect w _) (fun _ => rfl) fun s k g h hr => ?_, ?_⟩
    · obtain ⟨hm, ha, hsp⟩ := hr
      exact ranCommand_image h g w _ hm ha hsp
  -- XBCAST
  refine List.forall_mem_cons.2 ⟨runsCommand_of_effect (fun _ => rfl) fun s k g h hr => ?_, ?_⟩
  · obtain ⟨h0, h1, h2, hne, hf0, hf1⟩ := hr
    have hfits : ¬((s.issueOf k g).desc w 2 = 0 ∨ ((s.issueOf k g).b.gang k.gk).spSize < (s.issueOf k g).desc w 0 + (s.issueOf k g).desc w 2 ∨
        ((s.issueOf k g).b.gang k.gk).spSize < (s.issueOf k g).desc w 1 + (s.issueOf k g).desc w 2) := by
      rw [gang_b h g, Gang.spSize]
      exact not_or.2 ⟨hne, not_or.2 ⟨not_lt.2 hf0, not_lt.2 hf1⟩⟩
    have hal : ¬((s.issueOf k g).desc w 0 % 8 ≠ 0 ∨ (s.issueOf k g).desc w 1 % 8 ≠ 0 ∨ (s.issueOf k g).desc w 2 % 8 ≠ 0) := by
      simp [h0, h1, h2]
    have hrun : (s.issueOf k g).b.issueXbcast k (s.issueOf k g).e (s.issueOf k g).act w (.xbcast w) =
        (s.issueOf k g).b.command k (s.issueOf k g).e w (.xbcast w) .xe id := (if_neg hal).trans (if_neg hfits)
    exact hrun ▸ ranCommand_command h g w _ .xe fun _ => rfl
  -- LSEND
  refine List.forall_mem_cons.2 ⟨runsCommand_of_effect (fun _ => rfl) fun s k g h hr => ?_, List.forall_mem_nil _⟩
  · dsimp only at hr ⊢
    rw [toNat_desc2, hr, if_neg (by decide)]
    exact ranCommand_command h _ w _ .xe fun _ => rfl

end Sys2Proof.Machine
end

section
/-! O30, third part: the matrix engine and the bond controller, and the obligation. -/

namespace Sys2Proof.Machine

open Sys2Proof

/-! ### What the words of the matrix engine note -/

theorem weaves_claimPlanes (s : State) (gk n : Nat) : (s.claimPlanes gk n).1.weaves = s.weaves := by
  rw [State.claimPlanes, weaves_modGang, weaves_modCore]

theorem mems_claimPlanes (s : State) (gk n : Nat) : (s.claimPlanes gk n).1.mems = s.mems := by
  rw [State.claimPlanes, mems_modGang, mems_modCore]

theorem ops_claimPlanes (s : State) (gk n : Nat) : (s.claimPlanes gk n).1.ops = s.ops := by
  rw [State.claimPlanes, ops_modGang, ops_modCore]

section
variable {s : State} {k : Ctx} (h : s.inHand k) (g : Gate)
include h

theorem bondShape_b (gk : Nat) : (s.issueOf k g).b.bondShape gk = s.bondShape gk := by rw [b_eq h g]; rfl
theorem shareWaits_b (gk : Nat) : (s.issueOf k g).b.shareWaits gk = s.shareWaits gk := by rw [b_eq h g]; rfl

/-- A word that, once its command has issued, changes its gang or core and what its engine notes only. -/
theorem ranCommand_noting {w : FX} {i : Instr} {eng : Engine} {more : AsyncOp → AsyncOp} {u t : State} {r : Nat}
    (hu : (s.issueOf k g).b.command k (s.issueOf k g).e w i eng more = u) (hr : (s.issueOf k g).b.issuedOp u = some r)
    (hmore : ∀ o, (more o).plain = o.plain) (hweaves : t.weaves = u.weaves) (hmems : t.mems = u.mems)
    (hops : t.ops = u.ops ∨ ∃ f : AsyncOp → AsyncOp, t.ops = u.ops.modify r f ∧ ∀ o, (f o).plain = o.plain) :
    (s.issueOf k g).ranCommand t w i eng := by
  unfold State.issuedOp at hr
  split at hr
  · exact absurd hr (by simp)
  next hkey =>
    obtain rfl := Option.some.inj hr
    refine ranCommand_of_command h g hmore hu (fun he => absurd he hkey) fun _ => ⟨hweaves, hmems, fun o ho => ?_⟩
    rcases hops with hops | ⟨f, hops, hf⟩
    · exact ⟨o, rfl, hops.trans ho⟩
    · exact ⟨f o, hf o, by rw [hops, ho, Table.modify_insert_same]⟩

end

theorem bits_eq (x hi lo : Nat) : bits x hi lo = x / 2 ^ lo % 2 ^ (hi + 1 - lo) := by rw [bits, Nat.shiftRight_eq_div_pow]

/-- A descriptor word of rows whose other bits are zero. -/
theorem rowsField_dreg {x : Issue} {w : FX} {j : Nat} (hlt : x.desc w j < 2 ^ 22) :
    rowsField (x.e.dreg w j) = ((x.rows w j).1, (x.rows w j).2, true) := by
  have hrsvd : bits (x.e.dreg w j).toNat 31 22 = 0 := by
    rw [bits_eq, Nat.div_eq_of_lt (by exact hlt)]
    rfl
  rw [rowsField, hrsvd, bits_eq, bits_eq, Nat.pow_zero, Nat.div_one]
  rfl

/-- ACCLD and ACCST issue where their descriptor passes its checks (log entry 52). -/
theorem ranCommand_issueAcc {s : State} {k : Ctx} (h : s.inHand k) (g : Gate) {w : FX} (i : Instr)
    (hrows : (s.issueOf k g).desc w 3 < 2 ^ 22) (hal : (s.issueOf k g).desc2 w 0 % accFmtBytes w.subop.toNat = 0)
    (hin : w.subop ≠ 3 → (s.issueOf k g).desc w 2 % 8 = 0 ∧
      ((s.issueOf k g).rows w 3).1 + ((s.issueOf k g).rows w 3).2 ≤ (s.issueOf k g).g.accr) :
    (s.issueOf k g).ranCommand ((s.issueOf k g).b.issueAcc k (s.issueOf k g).e (s.issueOf k g).act w i) w i .mx := by
  have hpitch : (!(w.subop == 3) && ((s.issueOf k g).e.dreg w 2).toNat % 8 != 0) = false := by
    simpa using fun hc : w.subop ≠ 3 => (show ((s.issueOf k g).e.dreg w 2).toNat % 8 = 0 from (hin hc).1)
  have hfits : (!(w.subop == 3) && decide ((s.issueOf k g).g.accr < ((s.issueOf k g).rows w 3).1 + ((s.issueOf k g).rows w 3).2)) = false := by
    simpa using fun hc => (hin hc).2
  have hf := rowsField_dreg hrows
  unfold State.issueAcc
  simp only [hf, toNat_desc2, hal, hpitch, gang_b h g, hfits, Bool.not_true, Bool.false_eq_true, if_false, ne_eq, not_true]
  exact ranCommand_command h g w i .mx fun _ => rfl

/-- A register is not all ones. -/
theorem bne_ones_eq (v : Word) : (v != 0xFFFFFFFF#32) = decide (v.toNat ≠ 0xFFFFFFFF) := by
  rw [Bool.eq_iff_iff, bne_iff_ne, decide_eq_true_eq, not_iff_not, ← BitVec.toNat_inj]
  rfl

/-- The commands that configure the gang and its planes. -/
theorem planeForms_runCommand (w : FX) : ∀ f ∈ (matrixForms w).take 3, f.runsCommand w := by
  -- TCFG.cfg
  refine List.forall_mem_cons.2 ⟨runsCommand_of_effect (fun _ => rfl) fun s k g h hr => ?_, ?_⟩
  · obtain ⟨hfmt, htcw, hplanes, hshare⟩ := hr
    have hfew : decide ((s.issueOf k g).g.planes.length + ((s.issueOf k g).b.core k.core).freePlanes.length < (w.imm.extractLsb' 0 3).toNat) =
        false := decide_eq_false (not_lt.2 hplanes)
    have hfmt' : (s.issueOf k g).b.fmtBad ((s.issueOf k g).e.dreg w 0).toNat = false := hfmt
    have htcw' : tcwBad (s.bondShape k.gk).1 (s.bondShape k.gk).2 ((s.issueOf k g).e.dreg w 0).toNat (w.imm.extractLsb' 3 3).toNat
        ((s.issueOf k g).e.dreg w 1 != 0xFFFFFFFF#32) ((s.issueOf k g).e.dreg w 3 != 0xFFFFFFFF#32) = false := by
      rw [bne_ones_eq, bne_ones_eq]
      exact htcw
    have hshare' : s.shareWaits k.gk = false := hshare
    dsimp only
    rw [bondShape_b h g, hfmt', htcw', gang_b h g, hfew, shareWaits_b h g, hshare']
    rw [if_neg (by decide)]
    generalize hu : (s.issueOf k g).b.command k _ w _ _ _ = u
    split
    · exact hu ▸ ranCommand_command h g w _ .mx fun _ => rfl
    next hs =>
      refine ranCommand_noting h g hu hs (fun _ => rfl) ?_ ?_
        (.inr ⟨_, congrArg (Table.modify · _ _) ((ops_modGang ..).trans (ops_claimPlanes ..)), fun _ => rfl⟩)
      · rw [weaves_modOp, weaves_modGang, weaves_claimPlanes]
      · rw [mems_modOp, mems_modGang, mems_claimPlanes]
  -- TCFG.tile
  refine List.forall_mem_cons.2 ⟨runsCommand_of_effect (fun _ => rfl) fun s k g h _ => ?_, ?_⟩
  · dsimp only
    split
    · exact ranCommand_command h g w _ .mx fun _ => rfl
    next hs => exact ranCommand_noting h g rfl hs (fun _ => rfl) (weaves_modGang ..) (mems_modGang ..) (.inl (ops_modGang ..))
  -- WLATCH
  refine List.forall_mem_cons.2 ⟨runsCommand_of_effect (fun _ => rfl) fun s k g h hr => ?_, List.forall_mem_nil _⟩
  · obtain ⟨hp, hcfg, hfits⟩ := hr
    have hplane : (s.issueOf k g).g.planes[(w.imm.extractLsb' 0 2).toNat]? = some _ := List.getElem?_eq_getElem hp
    have hcfg' : (s.issueOf k g).b.cfgBad k.gk = false := hcfg
    dsimp only
    rw [gang_b h g, hplane]
    dsimp only
    rw [hcfg', if_neg (by decide), Gang.spSize, if_neg (not_lt.2 hfits)]
    split
    · exact ranCommand_command h g w _ .mx fun _ => rfl
    next hs => exact ranCommand_noting h g rfl hs (fun _ => rfl) (weaves_modCore ..) (mems_modCore ..) (.inl (ops_modCore ..))

/-- The commands that load the codebook and move accumulator rows. -/
theorem rowForms_runCommand (w : FX) : ∀ f ∈ ((matrixForms w).drop 3).take 5, f.runsCommand w := by
  -- CBKLD
  refine List.forall_mem_cons.2 ⟨runsCommand_of_effect (fun _ => rfl) fun s k g h hr => ?_, ?_⟩
  · obtain ⟨hal, hfits⟩ := hr
    dsimp only
    rw [if_neg (not_not.2 hal), gang_b h g, Gang.spSize, if_neg (not_lt.2 hfits)]
    exact ranCommand_command h g w _ .mx fun _ => rfl
  -- ACCZ
  refine List.forall_mem_cons.2 ⟨runsCommand_of_effect (fun _ => rfl) fun s k g h hr => ?_, ?_⟩
  · dsimp only
    rw [gang_b h g, if_neg (not_lt.2 (by exact hr))]
    exact ranCommand_command h g w _ .mx fun _ => rfl
  -- ACCLD and ACCST
  iterate 2
    refine List.forall_mem_cons.2 ⟨runsCommand_of_effect (fun _ => rfl) fun s k g h hr => ?_, ?_⟩
    · obtain ⟨hrows, hrest⟩ := hr
      by_cases hc : w.subop = 3
      · rw [if_pos hc] at hrest
        exact ranCommand_issueAcc h g _ hrows (by rw [hc]; exact hrest) fun hne => absurd hc hne
      · rw [if_neg hc] at hrest
        exact ranCommand_issueAcc h g _ hrows hrest.1 fun _ => hrest.2
  -- ACCPROM
  refine List.forall_mem_cons.2 ⟨runsCommand_of_effect (fun _ => rfl) fun s k g h hr => ?_, List.forall_mem_nil _⟩
  · obtain ⟨hrows, hal, hfits, hin⟩ := hr
    dsimp only
    rw [rowsField_dreg hrows, gang_b h g, Gang.spSize]
    dsimp only
    rw [if_neg (by decide), if_neg (not_not.2 hal), if_neg (not_lt.2 hfits), if_neg (not_lt.2 hin)]
    exact ranCommand_command h g w _ .mx fun _ => rfl

/-- The drains and the commands of the bond controller. -/
theorem drainForms_runCommand (w : FX) : ∀ f ∈ (matrixForms w).drop 8, f.runsCommand w := by
  -- DRAIN
  refine List.forall_mem_cons.2 ⟨runsCommand_of_effect (fun _ => rfl) fun s k g h hr => ?_, ?_⟩
  · obtain ⟨hd2, hd6, hrow, hal, hfits, heager, hreg, hsome⟩ := hr
    have hzero2 : bits ((s.issueOf k g).e.dreg w 2).toNat 31 17 = 0 := by rw [bits_eq, Nat.div_eq_of_lt (by exact hd2)]; rfl
    have hzero6 : bits ((s.issueOf k g).e.dreg w 6).toNat 31 4 = 0 := by rw [bits_eq, Nat.div_eq_of_lt (by exact hd6)]; rfl
    have hr0 : bits ((s.issueOf k g).e.dreg w 2).toNat 10 0 = (s.issueOf k g).desc w 2 % 2 ^ 11 := by rw [bits_eq, Nat.pow_zero, Nat.div_one]; rfl
    have hu0 : bits ((s.issueOf k g).e.dreg w 3).toNat 10 0 = (s.issueOf k g).desc w 3 % 2 ^ 11 := by rw [bits_eq, Nat.pow_zero, Nat.div_one]; rfl
    have hn : bits ((s.issueOf k g).e.dreg w 2).toNat 16 11 = (s.issueOf k g).desc w 2 / 2 ^ 11 % 2 ^ 6 := bits_eq ..
    have hh : bits ((s.issueOf k g).e.dreg w 6).toNat 3 0 = (s.issueOf k g).desc w 6 := by
      rw [bits_eq, Nat.pow_zero, Nat.div_one]
      exact Nat.mod_eq_of_lt hd6
    have hfields : ¬((0 : Nat) ≠ 0 ∨ (0 : Nat) ≠ 0 ∨ (s.issueOf k g).desc w 2 % 2 ^ 11 % 32 ≠ 0 ∨
        (w.subop.getLsbD 0 = true ∧ (s.issueOf k g).desc w 3 % 2 ^ 11 % 32 ≠ 0)) := by
      have hu : w.subop.getLsbD 0 = true → (s.issueOf k g).desc w 3 % 32 = 0 := fun he => (heager he).1
      rintro (hc | hc | hc | ⟨he, hc⟩)
      · exact hc rfl
      · exact hc rfl
      · exact hc hrow
      · have := hu he
        omega
    have hrows : ¬((s.issueOf k g).g.accr < (s.issueOf k g).desc w 2 % 2 ^ 11 + 32 * ((s.issueOf k g).desc w 2 / 2 ^ 11 % 2 ^ 6 + 1) ∨
        (w.subop.getLsbD 0 = true ∧
          (s.issueOf k g).g.accr < (s.issueOf k g).desc w 3 % 2 ^ 11 + 32 * ((s.issueOf k g).desc w 2 / 2 ^ 11 % 2 ^ 6 + 1))) := by
      rintro (hc | ⟨he, hc⟩)
      · exact absurd hfits (not_le.2 hc)
      · exact absurd (heager he).2 (not_le.2 hc)
    dsimp only
    rw [hzero2, hzero6, hr0, hu0, hn, hh, toNat_desc2, gang_b h g, if_neg hfields, if_neg (not_not.2 hal), if_neg hrows, if_neg (not_le.2 hreg),
      handle_b h g]
    split
    next he => exact absurd he hsome
    all_goals exact ranCommand_command h g w _ .mx fun _ => rfl
  -- DRAINUNDO, BFORM, BSAVE and BRESUME
  iterate 4 refine List.forall_mem_cons.2 ⟨runsCommand_plain (fun _ => rfl) fun _ => rfl, ?_⟩
  exact List.forall_mem_nil _

theorem matrixForms_runCommand (w : FX) : ∀ f ∈ matrixForms w, f.runsCommand w :=
  (List.forall_mem_append (l₁ := (matrixForms w).take 3)).2 ⟨planeForms_runCommand w,
    (List.forall_mem_append (l₁ := ((matrixForms w).drop 3).take 5)).2 ⟨rowForms_runCommand w, drainForms_runCommand w⟩⟩

/-- Settles O30: every command word runs its command once its own checks pass. -/
theorem commandsIssue : Obligations.CommandsIssue := fun w _ hf =>
  clauses_of_runsCommand ((List.forall_mem_append.2 ⟨List.forall_mem_append.2 ⟨copyForms_runCommand w, engineForms_runCommand w⟩,
    matrixForms_runCommand w⟩) _ hf)

end Sys2Proof.Machine
end

section
/-! Events of the core (O46): a lease that is revoked. -/

namespace Sys2Proof.Machine
open Sys2Proof

/-! ### Memory accesses leave the weaves -/

theorem weaves_modHome (s : State) (pa : Nat) (f : Slice → Slice) : (s.modHome pa f).weaves = s.weaves := by
  unfold State.modHome
  split
  · exact weaves_modSlice ..
  · rfl

theorem weaves_count (s : State) (p pa kind d : Nat) : (s.count p pa kind d).weaves = s.weaves :=
  (weaves_modHome ..).trans (weaves_modHome ..)

theorem weaves_countWrite (s : State) (p : Nat) (t : Option Nat) (pa n d : Nat) : (s.countWrite p t pa n d).weaves = s.weaves := by
  unfold State.countWrite
  dsimp only
  split
  · exact weaves_modHome ..
  · exact (weaves_modHome ..).trans (weaves_modHome ..)

theorem weaves_countWalk (s : State) (p va : Nat) : (s.countWalk p va).weaves = s.weaves := by
  unfold State.countWalk
  dsimp only
  split
  · exact foldl_keeps State.weaves _ (fun _ _ => weaves_count ..) _ _
  · rfl

theorem weaves_tlbPut (s : State) (c : Nat) (t : Tlb) : (s.tlbPut c t).weaves = s.weaves := by
  unfold State.tlbPut
  dsimp only
  split <;> rfl

theorem weaves_commitWrite (s : State) (pa : Nat) (b : List Byte) : (s.commitWrite pa b).weaves = s.weaves := by
  unfold State.commitWrite State.evalWatches
  rfl

theorem weaves_pteOr (s : State) (p pte m : Nat) : (s.pteOr p pte m).weaves = s.weaves := by
  unfold State.pteOr
  dsimp only
  split
  · rfl
  · exact (weaves_modHome ..).trans (weaves_count ..)

theorem weaves_useLeaf (s : State) (c p va : Nat) (k : AccessKind) (w : Walk) : (s.useLeaf c p va k w).1.weaves = s.weaves := by
  have hw := weaves_countWalk s p va
  unfold State.useLeaf
  dsimp only
  split
  · exact hw
  · exact hw
  · dsimp only
    split
    · split <;> exact hw
    · exact hw
  · split
    · exact hw
    · split
      · exact hw
      · exact (weaves_tlbPut ..).trans ((weaves_pteOr ..).trans hw)

theorem weaves_translate (s : State) (c p va : Nat) (k : AccessKind) : (s.translate c p va k).1.weaves = s.weaves := by
  have hc : (s.choose.2.useLeaf c p va k (s.walk p va)).1.weaves = s.weaves := weaves_useLeaf ..
  unfold State.translate
  dsimp only
  split
  · exact weaves_useLeaf ..
  · split
    all_goals
      split
      · split
        · exact weaves_useLeaf ..
        · split <;> rfl
      · split
        · rfl
        · exact hc

theorem weaves_pageFault (s : State) (p va : Nat) (k : AccessKind) (st : Word) (w : Asker) :
    (s.pageFault p va k st w).1.weaves = s.weaves := by
  unfold State.pageFault
  split
  · rfl
  · split <;> rfl

theorem weaves_checkPhysical (s : State) (p m pa n : Nat) (k : AccessKind) (h : Bool) :
    (s.checkPhysical p m pa n k h).1.weaves = s.weaves := by
  unfold State.checkPhysical
  repeat' split
  all_goals rfl

theorem weaves_check (s : State) (p m : Nat) (w : Asker) (va n al : Nat) (k : AccessKind) (ho q : Bool) :
    (s.check p m w va n al k ho q).1.weaves = s.weaves := by
  have ht := weaves_translate s w.cluster p va k
  unfold State.check
  split
  · rfl
  · split
    · rfl
    · split
      next e => rw [e] at ht; exact ht
      next s1 st e =>
        rw [e] at ht
        have hf := weaves_pageFault s1 p va k st w
        split
        · exact ht
        · split
          next e2 => rw [e2] at hf; exact hf.trans ht
          next e2 => rw [e2] at hf; exact hf.trans ht
      next e =>
        rw [e] at ht
        exact (weaves_checkPhysical ..).trans ht

theorem weaves_markTileFailed (s : State) (l t : Nat) : (s.markTileFailed l t).weaves = s.weaves := rfl

theorem weaves_provSector (s : State) (p tag pa : Nat) (b : List Byte) : (s.provSector p tag pa b).weaves = s.weaves := by
  have hfull : ((List.range 128).foldl (fun s k => s.modSlice k fun x => { x with overfull := x.overfull ++ [(p, tag)] }) s).weaves =
      s.weaves := foldl_keeps State.weaves _ (fun _ _ => weaves_modSlice ..) _ _
  unfold State.provSector
  dsimp only
  split
  · rfl
  · split
    · exact weaves_modSlice ..
    · split
      · exact weaves_modSlice ..
      · split
        · exact (weaves_markTileFailed ..).trans hfull
        · exact hfull

theorem weaves_provWrite (s : State) (p tag pa n : Nat) (b : List Byte) : (s.provWrite p tag pa b n).weaves = s.weaves := by
  induction n generalizing s pa b with
  | zero => rfl
  | succ n ih =>
    unfold State.provWrite
    split
    · rfl
    · exact (ih ..).trans (weaves_provSector ..)

theorem weaves_agentWrite (s : State) (p m : Nat) (t : Option Nat) (pa : Nat) (b : List Byte) :
    (s.agentWrite p m t pa b).weaves = s.weaves := by
  unfold State.agentWrite
  split
  · rfl
  · split
    · exact weaves_provWrite ..
    · exact weaves_commitWrite ..

/-! ### A revoked lease -/

/-- How far a revocation has come: the state, the push that was refused with its address, and the ticket that a push waits
on. -/
abbrev RevokeRun := State × Option (Word × Nat) × Option Nat

/-- One slot of one lane goes to memory (R233). -/
def State.pushSlot (g : Gang) (num : Nat) (x : Lease) : RevokeRun → Nat × Nat → RevokeRun := fun (t, bad, wait) (i, l) =>
  if (bad : Option (Word × Nat)).isSome || (wait : Option Nat).isSome then (t, bad, wait)
  else match t.check g.part (8 * g.part) { cluster := g.core / 16, core := g.core, weave := num, source := 1 } (x.addr i l) 4 4 .write false false with
    | (t, .pass pa) =>
      let t := (t.agentWrite g.part (8 * g.part) g.tag pa (bytesOf 4 (Table.get 0 x.slots (32 * i + l)).toNat)).l1Fresh g.core g.part g.tag pa 4
      (if l % 16 = 0 then t.countWrite g.part g.tag pa 64 (g.core / 256) else t, bad, wait)
    | (t, .fault st) => (t, some (st, x.addr i l), wait)
    | (t, .park tk) => (t, bad, some tk)

/-- Every slot of all 32 lanes of a lease, in the order in which a revocation pushes them (R233). -/
def Lease.cells (x : Lease) : List (Nat × Nat) := (List.range x.n).flatMap fun i => (List.range 32).map fun l => (i, l)

theorem weaves_pushSlot (g : Gang) (num : Nat) (x : Lease) (r : RevokeRun) (c : Nat × Nat) :
    (State.pushSlot g num x r c).1.weaves = r.1.weaves := by
  obtain ⟨t, bad, wait⟩ := r
  obtain ⟨i, l⟩ := c
  have hc := weaves_check t g.part (8 * g.part) { cluster := g.core / 16, core := g.core, weave := num, source := 1 } (x.addr i l) 4 4 .write false false
  unfold State.pushSlot
  dsimp only
  split
  · rfl
  · split
    next t1 pa e =>
      rw [e] at hc
      have hp : ((t1.agentWrite g.part (8 * g.part) g.tag pa (bytesOf 4 (Table.get 0 x.slots (32 * i + l)).toNat)).l1Fresh g.core g.part g.tag pa 4).weaves =
          t.weaves := (weaves_modCore ..).trans ((weaves_agentWrite ..).trans hc)
      dsimp only
      split
      · exact (weaves_countWrite ..).trans hp
      · exact hp
    next e => rw [e] at hc; exact hc
    next e => rw [e] at hc; exact hc

/-- The pushes of a revocation, one after another. -/
def State.pushLease (s : State) (wk : Nat) : RevokeRun :=
  let w := s.weave wk
  w.lease.cells.foldl (State.pushSlot (s.gang w.gang) w.num w.lease) (s, none, none)

theorem weaves_pushLease (s : State) (wk : Nat) : (s.pushLease wk).1.weaves = s.weaves :=
  foldl_keeps (fun r : RevokeRun => r.1.weaves) _ (fun _ _ => weaves_pushSlot ..) _ _

theorem revokeLease_idle {s : State} {wk : Nat} (h : (s.weave wk).lease.state ≠ .neighbour ∨ (s.weave wk).lease.tickets ≠ []) :
    s.revokeLease wk = s := by
  unfold State.revokeLease
  exact if_pos (by simpa using h)

/-- How a revocation ends: refused, held by the pager, or done (R233). -/
def State.endRevoke (wk : Nat) : RevokeRun → State := fun (t, bad, wait) =>
  match bad, wait with
  | some (st, a), _ => t.loseLease wk st (BitVec.ofNat 64 a)
  | none, some tk => t.modWeave wk fun y => { y with lease := { y.lease with pushing := true, tickets := [tk] } }
  | none, none => t.modWeave wk fun y => { y with lease := { y.lease with state := .memory, slots := [], pushed := true, pushing := false, tickets := [] } }

theorem revokeLease_eq {s : State} {wk : Nat} (hn : (s.weave wk).lease.state = .neighbour) (ht : (s.weave wk).lease.tickets = []) :
    s.revokeLease wk = State.endRevoke wk (s.pushLease wk) := by
  unfold State.revokeLease
  exact if_neg (by simp [hn, ht])

/-- R233: a revoked lease keeps no slot, unless a push waits for the pager. -/
theorem leaseRevoke_leaves {s : State} (hw : (s.weaves.find s.ev.a).isSome = true) (hn : (s.weave s.ev.a).lease.state = .neighbour)
    (ht : (s.weave s.ev.a).lease.tickets = []) : s.gives .leaseRevoke fun t =>
      let x := (s.weave s.ev.a).lease
      let y := (t.weave s.ev.a).lease
      (y.state = .neighbour ∧ y.slots = x.slots ∧ y.pushing = true ∧ y.tickets ≠ []) ∨
      ((y.state = .memory ∨ y.state = .lost) ∧ y.slots = [] ∧ y.pushing = false ∧ y.tickets = []) := by
  have hk := weaves_pushLease s s.ev.a
  refine ⟨_, rfl, ?_⟩
  rw [revokeLease_eq hn ht]
  generalize s.pushLease s.ev.a = r at hk ⊢
  obtain ⟨t, bad, wait⟩ := r
  replace hk : t.weaves = s.weaves := hk
  have hx : (t.weaves.find s.ev.a).isSome = true := by rw [hk]; exact hw
  match bad, wait with
  | some (st, a), _ =>
    refine .inr ?_
    dsimp only [State.endRevoke, State.loseLease]
    rw [weave_modWeave hx]
    exact ⟨.inr rfl, rfl, rfl, rfl⟩
  | none, some tk =>
    refine .inl ?_
    dsimp only [State.endRevoke]
    rw [weave_modWeave hx, weave_congr hk]
    exact ⟨hn, rfl, rfl, by simp⟩
  | none, none =>
    refine .inr ?_
    dsimp only [State.endRevoke]
    rw [weave_modWeave hx]
    exact ⟨.inl rfl, rfl, rfl, rfl⟩

end Sys2Proof.Machine
end

section
/-! Events of the core (O46): write-back, acceptance and window faults. -/

namespace Sys2Proof.Machine
open Sys2Proof

theorem deliverPend_of_calm {s : State} {wk : Nat} (h : (s.weave wk).pend = []) : s.deliverPend wk = s := by
  unfold State.deliverPend
  dsimp only
  rw [h]

/-! ### A ready result is written back (R25, R65) -/

/-- The registers, the outstanding results and the held faults of a weave: what the end of a binding leaves as it is. -/
def Weave.bank (w : Weave) : Table Word × Table Word × List LLPend × List PendFault := (w.vregs, w.sregs, w.ll, w.pend)

theorem bank_settleClause (w : Weave) (id : Nat) : (w.settleClause id).bank = w.bank := by
  unfold Weave.settleClause
  split
  · rfl
  · dsimp only
    generalize hv : List.foldl _ w _ = v
    have hk : v.bank = w.bank := by
      rw [← hv]
      exact foldl_keeps Weave.bank _ (fun _ _ => by rfl) _ _
    split
    · exact hk
    · exact hk

theorem bank_settle (w : Weave) : w.settle.bank = w.bank := foldl_keeps Weave.bank _ bank_settleClause _ _

theorem kept_of_bank {w x : Weave} {o : Operand} (ho : isVS o = true) (h : x.bank = w.bank) (l : Nat) : x.kept o l = w.kept o l := by
  simp only [Weave.bank, Prod.mk.injEq] at h
  obtain ⟨hv, hs, -, -⟩ := h
  cases o with
  | v i => exact congrArg (Table.get 0 · _) hv
  | s i => exact congrArg (Table.get 0 · _) hs
  | _ => cases ho

theorem pend_put_of_isVS {w : Weave} {o : Operand} (ho : isVS o = true) (l : Nat) (v : Word) : (w.put o l v).pend = w.pend := by
  cases o with
  | v i => rfl
  | s i => rfl
  | _ => cases ho

theorem keptForm_of_isVS {o : Operand} (ho : isVS o = true) (v : Word) : keptForm o v = v := by
  cases o with
  | v i => rfl
  | s i => rfl
  | _ => cases ho

theorem pend_cancelWrites (w : Weave) (f : LLPend → Bool) (o : Operand) (l : Nat) : (w.cancelWrites f o l).pend = w.pend := by
  unfold Weave.cancelWrites
  split <;> rfl

theorem pend_dropDst (w : Weave) (o : Operand) : (w.dropDst o).pend = w.pend := by
  cases o <;> rfl

/-- The write-back of one register: its value, no further fault, and the result is outstanding no more. -/
theorem writeBack_leaves {w : Weave} {p : LLPend} {x : LLWrite} (hp : p.writes = [x]) (hx : isVS x.dst = true) :
    (w.writeBack p).kept x.dst x.lane = x.val ∧ (w.writeBack p).pend = w.pend ∧ ∀ q ∈ (w.writeBack p).ll, q.id ≠ p.id := by
  have hne : x.dst ≠ .p 0 := fun h => by rw [h] at hx; cases hx
  unfold Weave.writeBack
  rw [hp, List.foldl_cons, List.foldl_nil]
  generalize hv : Weave.put _ x.dst x.lane x.val = v
  have hval : v.kept x.dst x.lane = x.val := by rw [← hv, kept_put_same _ _ _ _ hne, keptForm_of_isVS hx]
  have hpend : v.pend = w.pend := by rw [← hv, pend_put_of_isVS hx, pend_cancelWrites]
  dsimp only
  generalize hu : ({ v.dropDst x.dst with fpsw := _, ll := _ } : Weave) = u
  have hbank := bank_settle u
  have hsets : u.settle.ll = u.ll ∧ u.settle.pend = u.pend := by
    simp only [Weave.bank, Prod.mk.injEq] at hbank
    exact hbank.2.2
  refine ⟨?_, ?_, fun q hq => ?_⟩
  · rw [kept_of_bank hx hbank, ← hval, ← kept_dropDst v x.dst, ← hu]
    cases hd : x.dst with
    | v i => rfl
    | s i => rfl
    | _ => rw [hd] at hx; cases hx
  · rw [hsets.2, ← hu, ← hpend]
    exact pend_dropDst v x.dst
  · rw [hsets.1, ← hu] at hq
    simpa using (List.mem_filter.1 hq).2

theorem llWriteback_leaves {s : State} {p : LLPend} {x : LLWrite} (hp : ((s.weave s.ev.a).ll.filter (·.ready))[s.ev.b]? = some p)
    (hx : p.writes = [x]) (hcalm : s.calmWeave s.ev.a) (ho : isVS x.dst = true) : s.gives .llWriteback fun t =>
      s.memoryKept t ∧ (t.weave s.ev.a).kept x.dst x.lane = x.val ∧ ∀ q ∈ (t.weave s.ev.a).ll, q.id ≠ p.id := by
  obtain ⟨hfound, hpend⟩ := hcalm
  obtain ⟨hval, hheld, hll⟩ := writeBack_leaves (w := s.weave s.ev.a) hx ho
  have hw := weave_modWeave hfound (·.writeBack p)
  have hcalm : ((s.modWeave s.ev.a (·.writeBack p)).weave s.ev.a).pend = [] := by rw [hw, hheld, hpend]
  have hstep : exec .llWriteback s = .next (s.modWeave s.ev.a (·.writeBack p)) := by
    show execLlWriteback s = _
    unfold execLlWriteback
    rw [hp]
    exact congrArg _ (deliverPend_of_calm hcalm)
  refine ⟨_, hstep, memoryKept_of_mems (mems_modWeave ..), ?_⟩
  rw [hw]
  exact ⟨hval, hll⟩

theorem llWriteback_idle {s : State} (h : ((s.weave s.ev.a).ll.filter (·.ready))[s.ev.b]? = none) :
    s.gives .llWriteback fun t => t = s := by
  refine gives_idle ?_
  show execLlWriteback s = _
  unfold execLlWriteback
  rw [h]

/-! ### An engine accepts a command (R72) -/

/-- The registers of a descriptor as the acceptance of a command reads them. -/
def State.readDesc (s : State) (o : AsyncOp) : List Word :=
  match o.fx with
  | some x => if o.engine == .mx then o.desc else (s.weave o.wk).descriptor s.free x.dbase.toNat
  | none => o.desc

/-- The record of an accepted command, with the descriptor that was read. -/
def AsyncOp.taken (desc : List Word) (o : AsyncOp) : AsyncOp := { o with
  accepted := true, aflag := none, desc := desc, full := false, stopped := o.stopped || (o.state == .cancelled && !runsOn o.instr) }

/-- The lanes that were held because a command's queue was full go on (R294). -/
def State.passQueue (s : State) (r : Nat) (o : AsyncOp) : State :=
  if o.full then s.modWeave o.wk (·.passHeld fun h => h == .cmdQueue r) else s

/-- The AFLAG binding of a command ends (R72). -/
def State.unbind (s : State) (o : AsyncOp) : State :=
  match o.aflag with
  | some f => s.modWeave o.wk fun w => w.setFlag f (w.flag f - 1)
  | none => s

theorem accept_eq {s : State} {r : Nat} (h : (s.op r).accepted = false) :
    s.accept r = (({ s.modOp r (AsyncOp.taken (s.readDesc (s.op r))) with free := s.free + 12 } : State).passQueue r (s.op r)).unbind (s.op r) := by
  unfold State.accept
  exact if_neg (by simp [h])

theorem ops_passQueue (s : State) (r : Nat) (o : AsyncOp) : (s.passQueue r o).ops = s.ops := by
  unfold State.passQueue
  split
  · exact ops_modWeave ..
  · rfl

theorem ops_unbind (s : State) (o : AsyncOp) : (s.unbind o).ops = s.ops := by
  unfold State.unbind
  split
  · exact ops_modWeave ..
  · rfl

theorem ops_accept {s : State} {r : Nat} (h : (s.op r).accepted = false) :
    (s.accept r).ops = s.ops.modify r (AsyncOp.taken (s.readDesc (s.op r))) := by
  rw [accept_eq h, ops_unbind, ops_passQueue]
  rfl

/-- Flags and held faults of a weave. -/
def Weave.bindings (w : Weave) : Table Nat × List PendFault := (w.flags, w.pend)

theorem bindings_passQueue (s : State) (r : Nat) (o : AsyncOp) (j : Nat) : ((s.passQueue r o).weave j).bindings = (s.weave j).bindings := by
  unfold State.passQueue
  split
  · exact Table.get_modify_keeps Weave.bindings (fun _ => by rfl) ..
  · rfl

theorem pend_unbind (s : State) (o : AsyncOp) (j : Nat) : ((s.unbind o).weave j).pend = (s.weave j).pend := by
  unfold State.unbind
  split
  · exact Table.get_modify_keeps Weave.pend (fun _ => by rfl) ..
  · rfl

theorem isSome_passQueue {s : State} {wk : Nat} (h : (s.weaves.find wk).isSome = true) (r : Nat) (o : AsyncOp) :
    ((s.passQueue r o).weaves.find wk).isSome = true := by
  unfold State.passQueue
  split
  · exact isSome_modWeave h ..
  · exact h

theorem pend_accept {s : State} {r : Nat} (h : (s.op r).accepted = false) (j : Nat) : ((s.accept r).weave j).pend = (s.weave j).pend := by
  rw [accept_eq h, pend_unbind]
  exact congrArg Prod.snd (bindings_passQueue ..)

theorem flag_accept {s : State} {r f : Nat} (h : (s.op r).accepted = false) (hf : (s.op r).aflag = some f)
    (hw : (s.weaves.find (s.op r).wk).isSome = true) :
    ((s.accept r).weave (s.op r).wk).flag f = (s.weave (s.op r).wk).flag f - 1 := by
  rw [accept_eq h]
  generalize hu : ({ s.modOp r _ with free := _ } : State) = u
  have hkeep : u.weaves = s.weaves := by rw [← hu]; rfl
  have hflags : ((u.passQueue r (s.op r)).weave (s.op r).wk).flags = (s.weave (s.op r).wk).flags :=
    (congrArg Prod.fst (bindings_passQueue ..)).trans (congrArg Weave.flags (weave_congr hkeep _))
  unfold State.unbind
  rw [hf]
  dsimp only
  rw [weave_modWeave (isSome_passQueue (by rw [hkeep]; exact hw) ..)]
  unfold Weave.setFlag Weave.flag
  dsimp only
  rw [Table.get_set_same, hflags]

/-- Without an outstanding result, a descriptor is the registers as they stand (R72). -/
theorem getD_descriptor {w : Weave} (h : w.ll = []) (free : Nat) {base j : Nat} (hj : j < 12) (hb : base + j < 64) :
    (w.descriptor free base).getD j 0 = w.sget (base + j) := by
  have hlt : j < min 12 (64 - base) := by omega
  have hnone : ∀ o, w.pendingWrite o 0 = none := fun o => by unfold Weave.pendingWrite; rw [h]; rfl
  simp [Weave.descriptor, List.getD_eq_getElem?_getD, List.getElem?_range hlt, hnone, choiceOf]

/-- Commands of which an engine reads the descriptor and does no more as it accepts them. -/
def readsOnly (w : FX) (i : Instr) : Prop := i = .tcopy w ∨ i = .tfill w ∨ i = .gdist w ∨ i = .drain w

theorem acceptTurn_of_readsOnly {s : State} {r : Nat} {w : FX} (h : readsOnly w (s.op r).instr) : s.acceptTurn r = s := by
  unfold State.acceptTurn
  obtain h | h | h | h := h <;> simp only [h]

theorem onAccept_of_readsOnly {s : State} {r : Nat} {w : FX} (h : readsOnly w (s.op r).instr) : s.onAccept r = s := by
  unfold State.onAccept
  obtain h | h | h | h := h <;> simp only [h]

theorem takeUp_of_readsOnly {s : State} {r : Nat} {o : AsyncOp} {w : FX} (ho : s.ops.find r = some o) (ha : o.accepted = false)
    (h : readsOnly w o.instr) : s.takeUp r = (s.accept r).modOp r fun o => { o with begun := true } := by
  have hop : s.op r = o := Table.get_of_find ho
  have hinstr : (((s.accept r).modOp r fun o => { o with begun := true }).op r).instr = o.instr := by
    rw [← hop]
    refine (Table.get_modify_keeps AsyncOp.instr (fun _ => by rfl) ..).trans ?_
    rw [ops_accept (by rw [hop]; exact ha)]
    exact Table.get_modify_keeps AsyncOp.instr (fun _ => by rfl) ..
  unfold State.takeUp
  dsimp only
  rw [onAccept_of_readsOnly (by rw [hinstr]; exact h), ite_self]

theorem op_takeUp_of_readsOnly {s : State} {r : Nat} {o : AsyncOp} {w : FX} (ho : s.ops.find r = some o) (ha : o.accepted = false)
    (h : readsOnly w o.instr) : (s.takeUp r).op r = { o.taken (s.readDesc o) with begun := true } := by
  have hop : s.op r = o := Table.get_of_find ho
  have hfind : (s.accept r).ops.find r = some (o.taken (s.readDesc o)) := by
    rw [ops_accept (by rw [hop]; exact ha), Table.find_modify, if_pos rfl, ho, hop]
    rfl
  rw [takeUp_of_readsOnly ho ha h, op_modOp (by rw [hfind]; rfl)]
  exact congrArg (fun o : AsyncOp => { o with begun := true }) (Table.get_of_find hfind)

/-- R72: an accepted command has read its descriptor's registers, and its AFLAG falls. -/
theorem commandAccept_reads {s : State} {o : AsyncOp} {w : FX} (hc : s.canAccept s.ev.a = true) (ho : s.ops.find s.ev.a = some o)
    (ha : o.accepted = false) (hfx : o.fx = some w) (hi : readsOnly w o.instr) (hcalm : s.calmWeave o.wk) :
    s.gives .commandAccept fun t =>
      s.memoryKept t ∧ (t.op s.ev.a).accepted = true ∧ (t.op s.ev.a).begun = true ∧ (t.op s.ev.a).full = false ∧
      (o.engine = .mx → (t.op s.ev.a).desc = o.desc) ∧
      (o.engine ≠ .mx → (s.weave o.wk).ll = [] →
        ∀ j, j < 12 → w.dbase.toNat + j < 64 → (t.op s.ev.a).desc.getD j 0 = (s.weave o.wk).sget (w.dbase.toNat + j)) ∧
      ∀ f, o.aflag = some f → (t.weave o.wk).flag f = (s.weave o.wk).flag f - 1 := by
  obtain ⟨hfound, hpend⟩ := hcalm
  have hop : s.op s.ev.a = o := Table.get_of_find ho
  have hacc : (s.op s.ev.a).accepted = false := by rw [hop]; exact ha
  have htake := takeUp_of_readsOnly ho ha hi
  have hweaves : (s.takeUp s.ev.a).weaves = (s.accept s.ev.a).weaves := by rw [htake, weaves_modOp]
  have hstep : exec .commandAccept s = .next (s.takeUp s.ev.a) := by
    show execCommandAccept s = _
    unfold execCommandAccept
    dsimp only
    rw [if_pos hc, acceptTurn_of_readsOnly (by rw [hop]; exact hi), deliverPend_of_calm]
    rw [weave_congr hweaves, pend_accept hacc, hop]
    exact hpend
  refine ⟨_, hstep, memoryKept_of_mems (by rw [htake, mems_modOp, mems_accept]), ?_⟩
  rw [op_takeUp_of_readsOnly ho ha hi, weave_congr hweaves]
  refine ⟨rfl, rfl, rfl, fun hmx => ?_, fun hmx hll j hj hb => ?_, fun f hf => ?_⟩
  · simp [AsyncOp.taken, State.readDesc, hfx, hmx]
  · have hdesc : s.readDesc o = (s.weave o.wk).descriptor s.free w.dbase.toNat := by simp [State.readDesc, hfx, hmx]
    show (s.readDesc o).getD j 0 = _
    rw [hdesc, getD_descriptor hll _ hj hb]
  · rw [← hop] at hf hfound ⊢
    exact flag_accept hacc hf hfound

theorem commandAccept_idle {s : State} (h : s.canAccept s.ev.a = false) : s.gives .commandAccept fun t => t = s := by
  refine gives_idle ?_
  show execCommandAccept s = _
  unfold execCommandAccept
  dsimp only
  rw [if_neg (by simp [h])]

/-! ### A window fault that is due (R347) -/

theorem Table.modify_congr {α : Type} (d : α) {t : Table α} {k : Nat} {f g : α → α} (h : f (Table.get d t k) = g (Table.get d t k)) :
    t.modify k f = t.modify k g := by
  induction t with
  | nil => rfl
  | cons e rest ih =>
    obtain ⟨i, a⟩ := e
    unfold Table.modify
    unfold Table.get at h
    split
    next hik => rw [if_pos hik] at h; rw [h]
    next hik => rw [if_neg hik] at h; rw [ih h]

theorem modWeave_congr {s : State} {wk : Nat} {f g : Weave → Weave} (h : f (s.weave wk) = g (s.weave wk)) :
    s.modWeave wk f = s.modWeave wk g := by
  unfold State.modWeave
  rw [Table.modify_congr {} h]

/-- A fault that waits for no result is due to a set in which its lane is. -/
theorem dueWindow_single {w : Weave} {f : WinFault} (hwin : w.win = [f]) (hll : f.ll = none) {m : BitVec 32} (hm : m.getLsbD f.lane = true) :
    w.dueWindow m = [f] := by
  unfold Weave.dueWindow
  rw [hwin]
  simp [hm, hll]

theorem deliverWindow_single {s : State} {wk : Nat} {f : WinFault} (hwin : (s.weave wk).win = [f]) (pc : Dbl) :
    s.deliverWindow wk [f] pc = (s.modWeave wk fun w => { w with win := [] }).raise wk
      { status := 0x38#32 ||| (f.detail <<< 8), mask := maskOf fun i => i == f.lane, addr := f.addr, resume_ := pc ||| 1 } := by
  have hclear : (s.modWeave wk fun w => { w with win := w.win.filter fun y => !([f] : List WinFault).contains y }) = s.modWeave wk fun w => { w with win := [] } :=
    modWeave_congr (by simp [hwin])
  have hmask : (maskOf fun l => [f].any fun y => y.lane == l) = maskOf fun i => i == f.lane := by
    congr 1
    funext l
    rw [List.any_cons, List.any_nil, Bool.or_false, Bool.beq_comm]
  unfold State.deliverWindow
  dsimp only [List.foldl_cons, List.foldl_nil]
  rw [hclear, hmask]

theorem windowFaultDelivery_raises {s : State} {f : WinFault} {l : Lane} (hwin : (s.weave s.ev.a).win = [f]) (hll : f.ll = none)
    (hl : l = (s.weave s.ev.a).lane f.lane) (hlane : f.lane < 32) (hhdr : l.hdr = true) (hlive : l.status = .live) :
    s.gives .windowFaultDelivery fun t =>
      t = (s.modWeave s.ev.a fun w => { w with win := [] }).raise s.ev.a
        { status := 0x38#32 ||| (f.detail <<< 8), mask := maskOf fun i => i == f.lane, addr := f.addr, resume_ := l.pc ||| 1 } := by
  subst hl
  have hown : (s.weave s.ev.a).dueWindow (maskOf fun i => i == f.lane) = [f] :=
    dueWindow_single hwin hll (by rw [getLsbD_maskOf _ _ hlane]; simp)
  have hset : (s.weave s.ev.a).dueWindow (maskOf fun i => ((s.weave s.ev.a).lane i).hdr && ((s.weave s.ev.a).lane i).pc == ((s.weave s.ev.a).lane f.lane).pc) = [f] :=
    dueWindow_single hwin hll (by rw [getLsbD_maskOf _ _ hlane]; simp [hhdr])
  have hfind : ((s.weave s.ev.a).win.find? fun f => ((s.weave s.ev.a).lane f.lane).hdr && ((s.weave s.ev.a).lane f.lane).status == .live &&
      !((s.weave s.ev.a).dueWindow (maskOf fun i => i == f.lane)).isEmpty) = some f := by
    rw [hwin, List.find?_cons_of_pos]
    simp [hhdr, hlive, hown]
  refine ⟨_, ?_, rfl⟩
  show execWindowFaultDelivery s = _
  unfold execWindowFaultDelivery
  dsimp only
  rw [hfind]
  dsimp only
  rw [hset, deliverWindow_single hwin]

theorem windowFaultDelivery_idle {s : State} (h : (s.weave s.ev.a).win = []) : s.gives .windowFaultDelivery fun t => t = s := by
  refine gives_idle ?_
  show execWindowFaultDelivery s = _
  unfold execWindowFaultDelivery
  dsimp only
  rw [h]
  rfl

end Sys2Proof.Machine
end

section
/-! Events of the core (O46): the end of a weave, the table that is dealt, and the obligation. -/

namespace Sys2Proof.Machine
open Sys2Proof

/-! ### The end of a lease of a bond leaves the weaves' own leases and the slices (R280, R285) -/

/-- The end and the lease of a weave, the slices and the bytes of memory: what the end of a bond's leases leaves as it is. -/
def State.resting (wk : Nat) (s : State) : (Bool × Lease) × Table Slice × (Table Byte × Table Byte) :=
  (((s.weave wk).ended, (s.weave wk).lease), s.slices, s.mems)

theorem resting_modBond (wk : Nat) (s : State) (bk : Nat) (f : Bond → Bond) : (s.modBond bk f).resting wk = s.resting wk := rfl

theorem resting_setConv (wk : Nat) (s : State) (home c : Nat) (v : Conv) : (s.setConv home c v).resting wk = s.resting wk := rfl

theorem resting_mxReport (wk : Nat) (s : State) (r : Nat) (st : Word) : (s.mxReport r st).resting wk = s.resting wk := by
  unfold State.mxReport
  dsimp only
  split <;> rfl

theorem resting_passHeld (wk : Nat) (s : State) (j : Nat) (f : Hold → Bool) :
    (s.modWeave j (·.passHeld f)).resting wk = s.resting wk := by
  have h : (((s.modWeave j (·.passHeld f)).weave wk).ended, ((s.modWeave j (·.passHeld f)).weave wk).lease) =
      ((s.weave wk).ended, (s.weave wk).lease) := Table.get_modify_keeps (fun w : Weave => (w.ended, w.lease)) (fun _ => by rfl) ..
  exact Prod.ext h rfl

theorem resting_releaseSigners (wk : Nat) (s : State) (home c : Nat) (r : Half) : (s.releaseSigners home c r).resting wk = s.resting wk :=
  foldl_keeps (State.resting wk) _ (fun _ _ => foldl_keeps (State.resting wk) _ (fun _ _ =>
    foldl_keeps (State.resting wk) _ (fun _ _ => resting_passHeld ..) _ _) _ _) _ _

theorem resting_failShares (wk : Nat) (s : State) (t : Table Share) :
    (t.foldl (fun s e => s.mxReport e.2.op 0x29#32) s).resting wk = s.resting wk :=
  foldl_keeps (State.resting wk) _ (fun _ _ => resting_mxReport ..) _ _

theorem resting_dropUnissued (wk : Nat) (s : State) (bk : Nat) : (s.dropUnissued bk).resting wk = s.resting wk := by
  unfold State.dropUnissued
  split
  · rfl
  · dsimp only
    rw [resting_modBond]
    split
    case' isFalse => rw [resting_releaseSigners, resting_setConv, resting_failShares]
    all_goals
      split
      · rw [resting_releaseSigners, resting_failShares]
      · rfl

theorem resting_bondTidy (wk : Nat) (s : State) (bk : Nat) : (s.bondTidy bk).resting wk = s.resting wk := by
  unfold State.bondTidy
  split
  · split <;> rfl
  · rfl

theorem resting_endLeases (wk : Nat) (s : State) (gk : Nat) (m : BitVec 16) : (s.endLeases gk m).resting wk = s.resting wk := by
  unfold State.endLeases
  split
  · rfl
  · dsimp only
    rw [resting_bondTidy]
    split
    · rw [resting_modBond, resting_dropUnissued, resting_modBond]
    · exact resting_modBond ..

/-! ### A weave leaves the queues where it waits (R322, R324) -/

/-- A weave waits at no queue of any slice. -/
def State.waitsNowhere (wk : Nat) (s : State) : Prop := ∀ n, ∀ y ∈ (s.slice n).waiters, y.wk ≠ wk

theorem weaves_dropWaiter (s : State) (p q : Nat) (r : QRec) (x : Waiter) : (s.dropWaiter p q r x).weaves = s.weaves :=
  (weaves_commitWrite ..).trans (weaves_modSlice ..)

theorem slices_commitWrite (s : State) (pa : Nat) (b : List Byte) : (s.commitWrite pa b).slices = s.slices := by
  unfold State.commitWrite State.evalWatches
  rfl

theorem slices_dropWaiter (s : State) (p q : Nat) (r : QRec) (x : Waiter) : (s.dropWaiter p q r x).slices =
    (s.modSlice (s.homeSlice r.at_) fun y => { y with waiters := y.waiters.filter (· != x) }).slices := slices_commitWrite ..

theorem slice_congr {s t : State} (h : t.slices = s.slices) (n : Nat) : t.slice n = s.slice n := by
  rw [State.slice, h]
  rfl

theorem waitsNowhere_dropWaiter {wk : Nat} {s : State} (h : s.waitsNowhere wk) (p q : Nat) (r : QRec) (x : Waiter) :
    (s.dropWaiter p q r x).waitsNowhere wk := by
  intro n y hy
  rw [slice_congr (slices_dropWaiter ..)] at hy
  by_cases hn : n = s.homeSlice r.at_
  · subst hn
    rw [slice_modSlice] at hy
    exact h _ y (List.mem_filter.1 hy).1
  · rw [slice_modSlice_ne _ _ hn] at hy
    exact h n y hy

/-- A slice without a weave's place in its queues. -/
def Slice.unqueue (wk : Nat) (y : Slice) : Slice := { y with
  parkq := y.parkq.filter (· != wk), waiters := y.waiters.filter fun x => x.wk != wk }

/-- A weave's place in the lists of waiters and of parked weaves goes. -/
def State.unqueue (s : State) (wk : Nat) : State :=
  let s := { s with slices := s.slices.mapVals fun _ => Slice.unqueue wk }
  { s with ports := s.ports.mapVals fun _ y => { y with rx := y.rx.mapVals fun _ b => { b with pollq := b.pollq.filter (· != wk) } } }

/-- The waiters of a weave in all slices. -/
def State.waitersOfWeave (s : State) (wk : Nat) : List Waiter := s.slices.flatMap fun e => e.2.waiters.filter fun x => x.wk == wk

theorem withdraw_eq (s : State) (wk : Nat) : s.withdraw wk =
    (s.waitersOfWeave wk).foldl (fun s x => s.dropWaiter x.part x.queue (s.qrec x.part x.queue) x) (s.unqueue wk) := rfl

theorem waitsNowhere_unqueue (s : State) (wk : Nat) : (s.unqueue wk).waitsNowhere wk := by
  intro n y hy
  have hslice : (s.unqueue wk).slice n = (s.slice n).unqueue wk := Table.get_mapVals (f := fun _ => Slice.unqueue wk) rfl _
  rw [hslice] at hy
  simpa using (List.mem_filter.1 hy).2

theorem waitsNowhere_withdraw (s : State) (wk : Nat) : (s.withdraw wk).waitsNowhere wk := by
  rw [withdraw_eq]
  exact foldl_inv (State.waitsNowhere wk) _ (fun _ _ h => waitsNowhere_dropWaiter h _ _ _ _) _ _ (waitsNowhere_unqueue s wk)

theorem weaves_withdraw (s : State) (wk : Nat) : (s.withdraw wk).weaves = s.weaves := by
  rw [withdraw_eq]
  exact foldl_keeps State.weaves _ (fun _ _ => weaves_dropWaiter ..) _ (s.unqueue wk)

theorem mems_withdraw {s : State} {wk : Nat} (h : ∀ e ∈ s.slices, ∀ y ∈ e.2.waiters, y.wk ≠ wk) : (s.withdraw wk).mems = s.mems := by
  have hnone : s.waitersOfWeave wk = [] := by
    unfold State.waitersOfWeave
    simpa using h
  rw [withdraw_eq, hnone]
  rfl

/-! ### The end of a weave -/

theorem weaveEnd_leaves {s : State} {w : Weave} (hw : s.weaves.find s.ev.a = some w) (he : w.ended = false) (hm : w.liveMask = 0)
    (hq : w.sq = []) (ho : s.ordered w.gang = false) (hc : s.cutShort w.gang = false) : s.gives .weaveEnd fun t =>
      (t.weave s.ev.a).ended = true ∧ (t.weave s.ev.a).lease = {} ∧ (∀ n, ∀ y ∈ (t.slice n).waiters, y.wk ≠ s.ev.a) ∧
      ((∀ e ∈ s.slices, ∀ y ∈ e.2.waiters, y.wk ≠ s.ev.a) → s.memoryKept t) := by
  have hstep : exec .weaveEnd s = .next (((s.modWeave s.ev.a fun w => { w with ended := true, lease := {} }).withdraw s.ev.a).endLeases
      w.gang (BitVec.ofNat 16 (2 ^ w.num))) := by
    show execWeaveEnd s = _
    unfold execWeaveEnd
    dsimp only
    rw [hw]
    dsimp only
    rw [if_neg (by simp [he, hm, hq, ho]), if_neg (by simp [hc])]
  refine ⟨_, hstep, ?_⟩
  have hfound : (s.weaves.find s.ev.a).isSome = true := by rw [hw]; rfl
  have hweave := weave_modWeave hfound fun w => { w with ended := true, lease := {} }
  generalize hu : s.modWeave s.ev.a _ = u at hweave ⊢
  have hrest := resting_endLeases s.ev.a (u.withdraw s.ev.a) w.gang (BitVec.ofNat 16 (2 ^ w.num))
  generalize (u.withdraw s.ev.a).endLeases _ _ = t at hrest ⊢
  simp only [State.resting, Prod.mk.injEq] at hrest
  obtain ⟨⟨hended, hlease⟩, hslices, hmems⟩ := hrest
  rw [weave_congr (weaves_withdraw ..), hweave] at hended hlease
  refine ⟨hended, hlease, fun n y hy => ?_, fun hnone => memoryKept_of_mems ?_⟩
  · rw [slice_congr hslices] at hy
    exact waitsNowhere_withdraw u s.ev.a n y hy
  · have hsame : u.slices = s.slices := by rw [← hu, slices_modWeave]
    rw [hmems, mems_withdraw (by rw [hsame]; exact hnone), ← hu, mems_modWeave]

theorem weaveEnd_idle {s : State} {w : Weave} (hw : s.weaves.find s.ev.a = some w) (h : w.ended = true ∨ w.liveMask ≠ 0 ∨ w.sq ≠ []) :
    s.gives .weaveEnd fun t => t = s := by
  refine gives_idle ?_
  show execWeaveEnd s = _
  unfold execWeaveEnd
  dsimp only
  rw [hw]
  dsimp only
  rw [if_pos]
  replace h : w.ended = true ∨ ¬ w.liveMask = 0#32 ∨ ¬ w.sq = [] := h
  obtain h | h | h := h <;> simp [h]

/-! ### A gang whose weaves have not ended stays -/

theorem gangEnd_idle_of_runs {s : State} {g : Gang} (hg : s.gangs.find s.ev.a = some g)
    (h : ∃ wk ∈ s.weavesOf s.ev.a, (s.weave wk).ended = false) : s.gives .gangEnd fun t => t = s := by
  have hruns : (s.weavesOf s.ev.a).any (fun wk => !(s.weave wk).ended) = true := by simpa using h
  refine gives_idle ?_
  show execGangEnd s = _
  unfold execGangEnd
  dsimp only
  rw [hg]
  dsimp only
  rw [hruns, if_pos (by simp)]

theorem gangEnd_idle_of_none {s : State} (hg : s.gangs.find s.ev.a = none) : s.gives .gangEnd fun t => t = s := by
  refine gives_idle ?_
  show execGangEnd s = _
  unfold execGangEnd
  dsimp only
  rw [hg]

/-! ### Issue, and the table of slots (R31, R289, R425) -/

theorem issueCycle_idle {s : State} (h : s.tripped = true ∨ s.rails = false ∨ s.slotOrder s.ev.a 0 = []) :
    s.gives .issueCycle fun t => t = s := by
  refine gives_idle ?_
  show execIssueCycle s = _
  unfold execIssueCycle
  obtain h | h | h := h
  · rw [if_pos (by simp [h])]
  · rw [if_pos (by simp [h])]
  · rw [h]
    split <;> rfl

theorem issueCycle_issues {s : State} (ht : s.tripped = false) (hr : s.rails = true) :
    s.gives .issueCycle fun u => u = s.issueContexts s.ev.a (s.slotOrder s.ev.a 0) :=
  ⟨_, congrArg Host.Outcome.next (if_neg (by simp [ht, hr])), rfl⟩

theorem slotTableDeal_waits (s : State) : s.gives .slotTableDeal fun t =>
    ({ t with cores := s.cores } : State) = s ∧ (Table.get {} (t.core s.ev.a).tabs s.ev.b).ents = (Table.get {} (s.core s.ev.a).tabs s.ev.b).ents ∧
    (Table.get {} (t.core s.ev.a).tabs s.ev.b).next = some (dealTable ((List.range 4).filterMap fun i =>
      (s.slotPart s.ev.a i).map fun p => (i, (s.part p).ctl.weight))) := by
  refine ⟨_, rfl, rfl, ?_⟩
  unfold State.modTab
  rw [core_modCore]
  dsimp only
  rw [Table.get_set_same]
  exact ⟨rfl, rfl⟩

/-- Settles O46: each clause is the lemma about its event; an event that is not due leaves the state as it is. -/
theorem coreEvents : Obligations.CoreEvents := by
  rintro s _ ⟨-, rfl⟩
  exact ⟨fun p x hp hx hcalm ho => llWriteback_leaves hp hx hcalm ho, llWriteback_idle,
    fun o w hc ho ha hfx hi hcalm => commandAccept_reads hc ho ha hfx hi hcalm, commandAccept_idle,
    fun f l hwin hll hl hlane hhdr hlive _ => windowFaultDelivery_raises hwin hll hl hlane hhdr hlive, windowFaultDelivery_idle,
    issueCycle_idle, fun t ht htrip hrails => ht ▸ issueCycle_issues htrip hrails,
    fun h => gives_idle (congrArg _ (revokeLease_idle h)), leaseRevoke_leaves, slotTableDeal_waits s,
    fun w hw he hm hq ho hc => weaveEnd_leaves hw he hm hq ho hc, fun w hw h => weaveEnd_idle hw h,
    fun g hg h => gangEnd_idle_of_runs hg h, gangEnd_idle_of_none⟩

end Sys2Proof.Machine
end

section
/-! The step (O56): what a fetch leaves, and the word, the event or the plan that follows. -/

namespace Sys2Proof.Machine
open Sys2Proof

/-- A request that is counted at its home slice changes slices only. -/
theorem modHome_slices (s : State) (pa : Nat) (f : Slice → Slice) : s.modHome pa f = { s with slices := (s.modHome pa f).slices } := by
  unfold State.modHome
  split <;> rfl

theorem count_slices (s : State) (p pa kind d : Nat) : s.count p pa kind d = { s with slices := (s.count p pa kind d).slices } := by
  unfold State.count State.lineRequest State.countOnly
  rw [modHome_slices, modHome_slices s]

/-- The state after a core's fetch of a word that it holds no copy of. -/
def State.filled (s : State) (c p va pa : Nat) : State :=
  (s.count p pa 6 (c / 256)).modCore c fun x =>
    x.fillWord { part := p, va := va, pline := pa / 64, word := BitVec.ofNat 64 (memQword s.mem pa) }

theorem filled_eq (s : State) (c p va pa : Nat) : ({ s.filled c p va pa with cores := s.cores, slices := s.slices } : State) = s := by
  unfold State.filled
  rw [count_slices]
  rfl

/-- A word that a core holds no copy of comes from memory, and the core keeps it (R230). -/
theorem fetchWord_miss {s s1 : State} {c p va pa : Nat} {who : Asker} {quiet : Bool}
    (hcheck : s.check p (8 * p) who va 8 1 .fetch false quiet = (s1, .pass pa)) (hwake : s1.sliceWakes pa = false)
    (hmiss : ∀ l ∈ (s1.core c).icache, ¬(l.part = p ∧ l.va = va)) :
    s.fetchWord c p va who quiet = (s1.filled c p va pa, .word (BitVec.ofNat 64 (memQword s1.mem pa))) := by
  have hnone : (s1.core c).icache.find? (fun l => l.part == p && l.va == va) = none :=
    List.find?_eq_none.2 fun l hl => by simpa using hmiss l hl
  unfold State.fetchWord
  rw [hcheck]
  dsimp only
  rw [hnone]
  dsimp only
  rw [hwake]
  rfl

section
variable {s s1 : State} {i : IssueSlot} {pa : Nat}
  (hcheck : s.check (s.gang (s.weave i.wk).gang).part (8 * (s.gang (s.weave i.wk).gang).part)
    { cluster := (s.gang (s.weave i.wk).gang).core / 16, core := (s.gang (s.weave i.wk).gang).core, weave := (s.weave i.wk).num }
    i.pc.toNat 8 1 .fetch false false = (s1, .pass pa))
  (hwake : s1.sliceWakes pa = false)
  (hmiss : ∀ l ∈ (s1.core (s.gang (s.weave i.wk).gang).core).icache, ¬(l.part = (s.gang (s.weave i.wk).gang).part ∧ l.va = i.pc.toNat))
include hcheck hwake hmiss

/-- A weave's fetch gives the instruction that the eight bytes decode to. -/
theorem fetchSlot_decodes {j : Instr} (hj : decode (BitVec.ofNat 64 (memQword s1.mem pa)) = .ok j) :
    s.fetchSlot i = (s1.filled (s.gang (s.weave i.wk).gang).core (s.gang (s.weave i.wk).gang).part i.pc.toNat pa, some j) := by
  unfold State.fetchSlot
  dsimp only
  rw [fetchWord_miss hcheck hwake hmiss]
  dsimp only
  rw [hj]

/-- Bytes that are no instruction raise their fault for the lanes of the slot (R85). -/
theorem fetchSlot_undecoded {e : DecodeError} (he : decode (BitVec.ofNat 64 (memQword s1.mem pa)) = .error e) :
    s.fetchSlot i = ((s1.filled (s.gang (s.weave i.wk).gang).core (s.gang (s.weave i.wk).gang).part i.pc.toNat pa).raise i.wk
      { status := e.status, mask := i.lanes, addr := 0, resume_ := i.pc }, none) := by
  unfold State.fetchSlot
  dsimp only
  rw [fetchWord_miss hcheck hwake hmiss]
  dsimp only
  rw [he]

end

/-- A prologue that stands at a word within its limit runs what the word decodes to (R408). -/
theorem fetchPrologue_decodes {s s1 : State} {p : Nat} {x : Prologue} {v : Dbl} {j : Instr} (hx : (s.part p).prologue = some x)
    (hhdr : x.hdr = false) (hcount : x.count < 256) (hword : s.proWord p x.pc.toNat = (s1, .word v)) (hj : decode v = .ok j) :
    s.fetchPrologue p = (s1, some j) := by
  unfold State.fetchPrologue
  rw [hx]
  dsimp only
  rw [hhdr, if_pos (by decide), if_neg (by omega), hword]
  dsimp only
  rw [hj]

/-- A slot whose fetch gives a word runs it. -/
theorem step_of_fetchSlot {s t : State} {i : IssueSlot} {rest : List Actor} {j : Instr} (h : s.issue = .weave i :: rest)
    (hf : (s.fetching (.weave i) rest).fetchSlot i = (t, some j)) : step s = exec j t := by
  unfold State.fetching at hf
  unfold step
  rw [h]
  dsimp only
  rw [hf]

/-- A slot whose fetch gives no word has had its step. -/
theorem step_of_fetchSlot_none {s t : State} {i : IssueSlot} {rest : List Actor} (h : s.issue = .weave i :: rest)
    (hf : (s.fetching (.weave i) rest).fetchSlot i = (t, none)) : step s = .next t := by
  unfold State.fetching at hf
  unfold step
  rw [h]
  dsimp only
  rw [hf]

theorem step_of_fetchPrologue {s t : State} {p : Nat} {rest : List Actor} {j : Instr} (h : s.issue = .prologue p :: rest)
    (hf : (s.fetching (.prologue p) rest).fetchPrologue p = (t, some j)) : step s = exec j t := by
  unfold State.fetching at hf
  unfold step
  rw [h]
  dsimp only
  rw [hf]

/-- Settles O56: the fetch gives the word, and the step is by definition what follows from it. -/
theorem stepRunsTheDecodedWord : Obligations.StepRunsTheDecodedWord := by
  refine fun s => ⟨?_, ?_, ?_, ?_⟩
  · intro i rest s1 pa hissue w g who hcheck hwake hmiss
    exact ⟨fun j hj => ⟨_, filled_eq .., step_of_fetchSlot hissue (fetchSlot_decodes hcheck hwake hmiss hj)⟩,
      fun e he => ⟨_, filled_eq .., step_of_fetchSlot_none hissue (fetchSlot_undecoded hcheck hwake hmiss he)⟩⟩
  · intro p x rest s1 v j hissue hx hhdr hcount hword hj
    exact step_of_fetchPrologue hissue (fetchPrologue_decodes (s := s.fetching (.prologue p) rest) hx hhdr hcount hword hj)
  · intro x rest hissue hagenda
    unfold step
    rw [hissue, hagenda]
  · intro hissue hagenda
    unfold step
    rw [hissue, hagenda]

end Sys2Proof.Machine
end

section
/-! Entry to the trap handler (O15): what accepting a weave's commands and writing back its results leave of its lanes,
and what the entry then writes. -/

namespace Sys2Proof.Machine
open Sys2Proof

/-! ### Accepting every command of a weave moves lanes only -/

/-- Registers, outstanding results, and each lane but for where it stands. -/
def Weave.unmoved (w : Weave) : (Table Word × Table Word × Word × List LLPend) × (Nat → Lane) :=
  ((w.vregs, w.sregs, w.fpsw, w.ll), fun l => (w.lane l).goto 0 false)

theorem goto_passLane (w : Weave) (l : Lane) : (w.passLane l).goto 0 false = l.goto 0 false := by
  unfold Weave.passLane
  dsimp only
  split <;> rfl

/-- What a lane becomes as its weave lets go of some holds. -/
def Weave.letGo (w : Weave) (f : Hold → Bool) (l : Lane) : Lane :=
  match l.hold with
  | some h => if f h then w.passLane l else l
  | none => l

theorem goto_letGo (w : Weave) (f : Hold → Bool) (l : Lane) : (w.letGo f l).goto 0 false = l.goto 0 false := by
  unfold Weave.letGo
  split
  · split
    · exact goto_passLane ..
    · rfl
  · rfl

theorem lane_passHeld (w : Weave) (f : Hold → Bool) (l : Nat) : (w.passHeld f).lane l = w.letGo f (w.lane l) :=
  Table.get_mapVals (f := fun _ => w.letGo f) rfl w.lanes

theorem unmoved_passHeld (w : Weave) (f : Hold → Bool) : (w.passHeld f).unmoved = w.unmoved :=
  Prod.ext rfl (funext fun _ => (congrArg (·.goto 0 false) (lane_passHeld ..)).trans (goto_letGo ..))

theorem unmoved_accept (s : State) (r j : Nat) : ((s.accept r).weave j).unmoved = (s.weave j).unmoved := by
  by_cases h : (s.op r).accepted = true
  · unfold State.accept
    rw [if_pos h]
  · rw [accept_eq (by simpa using h)]
    have hunbind (t : State) : ((t.unbind (s.op r)).weave j).unmoved = (t.weave j).unmoved := by
      unfold State.unbind
      split
      · exact Table.get_modify_keeps Weave.unmoved (fun _ => by rfl) ..
      · rfl
    have hpass (t : State) : ((t.passQueue r (s.op r)).weave j).unmoved = (t.weave j).unmoved := by
      unfold State.passQueue
      split
      · exact Table.get_modify_keeps Weave.unmoved (fun w => unmoved_passHeld w _) ..
      · rfl
    rw [hunbind, hpass]
    rfl

theorem unmoved_acceptAll (s : State) (wk j : Nat) : ((s.acceptAll wk).weave j).unmoved = (s.weave j).unmoved := by
  refine foldl_keeps (fun t : State => (t.weave j).unmoved) _ (fun t e => ?_) _ _
  split
  · exact unmoved_accept ..
  · rfl

theorem isSome_unbind {s : State} {wk : Nat} (h : (s.weaves.find wk).isSome = true) (o : AsyncOp) :
    ((s.unbind o).weaves.find wk).isSome = true := by
  unfold State.unbind
  split
  · exact isSome_modWeave h ..
  · exact h

theorem isSome_accept {s : State} {wk : Nat} (h : (s.weaves.find wk).isSome = true) (r : Nat) :
    ((s.accept r).weaves.find wk).isSome = true := by
  by_cases ha : (s.op r).accepted = true
  · unfold State.accept
    rw [if_pos ha]
    exact h
  · rw [accept_eq (by simpa using ha)]
    exact isSome_unbind (isSome_passQueue (s := { s.modOp r _ with free := _ }) h ..) _

theorem isSome_acceptAll {s : State} {wk : Nat} (h : (s.weaves.find wk).isSome = true) (k : Nat) :
    ((s.acceptAll k).weaves.find wk).isSome = true := by
  refine foldl_inv (fun t : State => (t.weaves.find wk).isSome = true) _ (fun t e ht => ?_) _ _ h
  split
  · exact isSome_accept ht _
  · exact ht

/-! ### Writing back results leaves every lane in its clause -/

/-- The clause run that each lane is in. -/
def Weave.inRuns (w : Weave) : Nat → Nat := fun l => (w.lane l).clause

theorem inRuns_modLane (w : Weave) (l : Nat) {f : Lane → Lane} (hf : ∀ x, (f x).clause = x.clause) :
    (w.modLane l f).inRuns = w.inRuns := by
  funext j
  unfold Weave.inRuns
  rw [lane_modLane]
  split
  · next h => rw [hf, h]
  · rfl

theorem inRuns_put (w : Weave) (o : Operand) (l : Nat) (v : Word) : (w.put o l v).inRuns = w.inRuns := by
  cases o with
  | p i =>
    unfold Weave.put
    dsimp only
    split
    · rfl
    · exact inRuns_modLane _ _ fun _ => rfl
  | special k =>
    cases k with
    | sdlo => exact inRuns_modLane _ _ fun _ => rfl
    | sdhi => exact inRuns_modLane _ _ fun _ => rfl
    | mr => exact inRuns_modLane _ _ fun _ => rfl
    | faultPcLo => exact inRuns_modLane _ _ fun _ => rfl
    | faultPcHi => exact inRuns_modLane _ _ fun _ => rfl
    | _ => rfl
  | _ => rfl

theorem inRuns_cancelWrites (w : Weave) (f : LLPend → Bool) (o : Operand) (l : Nat) : (w.cancelWrites f o l).inRuns = w.inRuns := by
  unfold Weave.cancelWrites
  split <;> rfl

theorem inRuns_dropDst (w : Weave) (o : Operand) : (w.dropDst o).inRuns = w.inRuns := by
  cases o <;> rfl

theorem inRuns_settleClause (w : Weave) (id : Nat) : (w.settleClause id).inRuns = w.inRuns := by
  unfold Weave.settleClause
  split
  · rfl
  · dsimp only
    generalize hv : List.foldl _ w _ = v
    have hk : v.inRuns = w.inRuns := by
      rw [← hv]
      exact foldl_keeps Weave.inRuns _ (fun _ _ => by rfl) _ _
    split
    · exact hk
    · exact hk

theorem inRuns_writeBack (w : Weave) (p : LLPend) : (w.writeBack p).inRuns = w.inRuns := by
  unfold Weave.writeBack
  refine (foldl_keeps Weave.inRuns _ inRuns_settleClause _ _).trans ?_
  refine foldl_keeps Weave.inRuns _ (fun u x => ?_) _ _
  rw [inRuns_dropDst, inRuns_put, inRuns_cancelWrites]

theorem clause_writeBackAll (w : Weave) (l : Nat) : (w.writeBackAll.lane l).clause = (w.lane l).clause :=
  congrFun (foldl_keeps Weave.inRuns _ inRuns_writeBack _ w) l

theorem writeBackAll_of_nil {w : Weave} (h : w.ll = []) : w.writeBackAll = w := by
  unfold Weave.writeBackAll
  rw [h]
  rfl

/-! ### The entry -/

/-- A lane as it enters the handler (R211). -/
def Lane.trapped (tvec : Dbl) (f : PendFault) (l : Lane) : Lane := { l.goto tvec true with
  faultPc := if f.keepPc then l.faultPc else f.resume_, back := l.clause, priv := true, parked := none }

theorem laneRead_trapped (tvec : Dbl) (f : PendFault) (x : Lane) {o : Operand} (hlo : o ≠ .special .faultPcLo)
    (hhi : o ≠ .special .faultPcHi) : laneRead o (x.trapped tvec f) = laneRead o x := by
  cases o with
  | special k =>
    cases k with
    | faultPcLo => exact absurd rfl hlo
    | faultPcHi => exact absurd rfl hhi
    | _ => rfl
  | _ => rfl

theorem kept_modLanes_trapped (w : Weave) (tvec : Dbl) (f : PendFault) {o : Operand} (hlo : o ≠ .special .faultPcLo)
    (hhi : o ≠ .special .faultPcHi) (l : Nat) : (w.modLanes f.mask (Lane.trapped tvec f)).kept o l = w.kept o l :=
  foldl_keeps (fun u : Weave => u.kept o l) _ (fun u j => kept_modLane u j l _ o fun x => laneRead_trapped tvec f x hlo hhi) _ w

/-- The fault record of a weave (R211). -/
def Weave.recorded (w : Weave) (f : PendFault) : Weave :=
  { w with fcode := f.status, fmask := f.mask, faddr := f.addr, ecause := f.ecause }

theorem weave_enterHandler {s : State} {wk : Nat} (h : (s.weaves.find wk).isSome = true) (f : PendFault) :
    (s.enterHandler wk f).weave wk = ((((s.acceptAll wk).weave wk).writeBackAll.recorded f).modLanes f.mask
      (Lane.trapped (s.part (s.gang (s.weave wk).gang).part).ctl.tvec f)).dropLatches :=
  weave_modWeave (isSome_acceptAll h wk) _

theorem handling_enterHandler {s : State} {wk : Nat} (h : (s.weaves.find wk).isSome = true) {f : PendFault} (hk : f.keepPc = false) :
    s.handling (s.enterHandler wk f) wk f.mask f.status f.addr f.ecause f.resume_ := by
  unfold State.handling
  rw [weave_enterHandler h]
  generalize hx : ((s.acceptAll wk).weave wk).writeBackAll.recorded f = x
  have hclause (l : Nat) : (x.lane l).clause = ((s.weave wk).lane l).clause := by
    rw [← hx]
    exact (clause_writeBackAll _ l).trans (congrArg (fun u => (u.2 l).clause) (unmoved_acceptAll s wk wk))
  rw [modLanes_eq, ← hx]
  refine ⟨rfl, rfl, rfl, rfl, fun l hl hm => ?_⟩
  rw [hx]
  generalize (s.part (s.gang (s.weave wk).gang).part).ctl.tvec = tvec
  have hlane : (x.modLanes f.mask (Lane.trapped tvec f)).lane l = Lane.trapped tvec f (x.lane l) := by
    rw [lane_modLanes, if_pos ⟨hl, hm⟩]
  change Table.get {} (x.modLanes f.mask (Lane.trapped tvec f)).lanes l = _ at hlane
  unfold Weave.dropLatches Weave.lane
  dsimp only
  rw [hlane]
  exact ⟨rfl, rfl, rfl, rfl, by simp [Lane.trapped, hk], hclause l⟩

/-- Where no result is outstanding, the entry to the handler keeps every register but the resume addresses (R211). -/
theorem kept_enterHandler {s : State} {wk : Nat} (h : (s.weaves.find wk).isSome = true) (f : PendFault)
    (hll : (s.weave wk).ll = []) {o : Operand} (hlo : o ≠ .special .faultPcLo) (hhi : o ≠ .special .faultPcHi) (l : Nat) :
    ((s.enterHandler wk f).weave wk).kept o l = (s.weave wk).kept o l := by
  have hu := unmoved_acceptAll s wk wk
  rw [weave_enterHandler h]
  generalize (s.acceptAll wk).weave wk = x at hu
  generalize (s.part (s.gang (s.weave wk).gang).part).ctl.tvec = tvec
  obtain ⟨hfiles, hlanes⟩ := Prod.mk.injEq .. ▸ hu
  simp only [Prod.mk.injEq] at hfiles
  obtain ⟨hv, hs, hpsw, hxll⟩ := hfiles
  rw [writeBackAll_of_nil (hxll.trans hll)]
  have hlane {α : Type} (g : Lane → α) : g ((x.lane l).goto 0 false) = g (((s.weave wk).lane l).goto 0 false) :=
    congrArg g (congrFun hlanes l)
  have hregs : x.kept o l = (s.weave wk).kept o l := kept_congr o (fun i => congrArg (Table.get 0 · _) hv)
    (fun i => congrArg (Table.get 0 · _) hs) (hlane Lane.preds) (hlane Lane.mr) (hlane Lane.gen) (hlane Lane.faultPc) hpsw
  exact (kept_modLanes_trapped (x.recorded f) tvec f hlo hhi l).trans hregs

theorem raise_of_canEnter {s : State} {wk : Nat} {f : PendFault} (h : s.canEnter wk f.mask) :
    s.raise wk f = s.enterHandler wk { f with mask := f.mask &&& (s.weave wk).liveMask } := by
  obtain ⟨⟨-, hlive, htvec, hbusy, hpend⟩, hpriv⟩ := h
  have hnone : ((lanesOf (f.mask &&& (s.weave wk).liveMask)).any fun l => ((s.weave wk).lane l).priv) = false := by
    rw [List.any_eq_false]
    intro l hl
    obtain ⟨hlt, hm⟩ := mem_lanesOf.1 hl
    rw [BitVec.getLsbD_and, Bool.and_eq_true] at hm
    simp [hpriv l hlt hm.1]
  have hhas : (decide ((s.part (s.gang (s.weave wk).gang).part).ctl.tvec = 0)) = false := decide_eq_false htvec
  unfold State.raise
  dsimp only
  rw [if_neg hlive, hhas, if_neg (by simp), hnone, if_neg (by simp), hbusy, hpend]
  rfl

/-- A fault that can be delivered puts its live lanes into the handler (R58). -/
theorem handling_raise {s : State} {wk : Nat} {f : PendFault} (h : s.canEnter wk f.mask) (hk : f.keepPc = false) :
    s.handling (s.raise wk f) wk (f.mask &&& (s.weave wk).liveMask) f.status f.addr f.ecause f.resume_ := by
  rw [raise_of_canEnter h]
  exact handling_enterHandler h.1.1 hk

/-- Settles O15: a fault that can be delivered is an entry to the handler, which accepts commands and writes back
results before it moves lanes. -/
theorem faultsEnterTheHandler : Obligations.FaultsEnterTheHandler := by
  intro s wk f h hk
  refine ⟨handling_raise h hk, fun hll o l _ hlo hhi => ?_, congrArg Prod.fst (mems_raise s wk f)⟩
  rw [raise_of_canEnter h]
  exact kept_enterHandler h.1.1 _ hll hlo hhi l

end Sys2Proof.Machine
end

section
/-! Words refused before they act (O16), and the words that helpers alone execute. -/

namespace Sys2Proof.Machine
open Sys2Proof

/-- A word that acts once for its weave only goes on: its form's gate, and no lane of it but helpers. -/
def goesOn (f : Instr × (State → Ctx → Gate)) : Prop :=
  Runs f.1 f.2 (fun x => ¬someLane x) fun x t => t.past x.k x.k.lanes ∧ x.s.frame t x.k []

theorem modWeave_id (s : State) (wk : Nat) : s.modWeave wk id = s := by
  have h (t : Table Weave) : t.modify wk id = t := by
    induction t with
    | nil => rfl
    | cons e t ih =>
      unfold Table.modify
      split
      · rfl
      · rw [ih]
  unfold State.modWeave
  rw [h]

/-- Where helpers alone execute a word that acts once, it lets its lanes go on. -/
theorem goesOn_of_onceReal {i : Instr} {gate : State → Ctx → Gate} {eff : State → Ctx → Env → BitVec 32 → State → State}
    (hexec : ∀ s, exec i s = weaveOnly s fun k => s.runWord k (gate s k) fun e act t => onceReal k act t (eff s k e act)) :
    goesOn (i, gate) := by
  intro s k h hp hnone
  have hgo := frame_effect h (gate s k) id [] (fun w => keeps_refl w k []) fun _ _ => rfl
  rw [modWeave_id] at hgo
  refine ⟨_, (hexec s).trans (weaveOnly_runWord (g := gate s) h hp fun k e act t => onceReal k act t (eff s k e act)), ?_⟩
  dsimp only
  unfold onceReal
  rw [if_pos (show (s.issueOf k (gate s k)).act &&& ~~~k.helpers = 0 from not_not.1 hnone)]
  exact hgo

/-- The gate of a multiply. -/
def multiplyGate (w : F3) : State → Ctx → Gate := fun s k =>
  mxGate (s.gang k.gk) { w with reuse := false } (fun d => isH d || isZero d) isV isSorInt (w.mods.extractLsb' 3 2 == 0) [w.b]

theorem goesOn_multiply {w : F3} {i : Instr} {kind : MmaKind} (hexec : ∀ s, exec i s = weaveOnly s fun k => s.runMma k kind w i) :
    goesOn (i, multiplyGate w) :=
  goesOn_of_onceReal (eff := fun _ k e act t => t.issueMma k e act kind w i) hexec

theorem goesOn_multiplyForms (w : F3) : ∀ f ∈ multiplyForms w, goesOn (f.1, multiplyGate w) := by
  unfold multiplyForms
  iterate 4 refine List.forall_mem_cons.2 ⟨goesOn_multiply fun _ => rfl, ?_⟩
  exact List.forall_mem_nil _

theorem goesOn_onceForms (w : F3) : ∀ f ∈ onceForms w, goesOn f := by
  unfold onceForms
  dsimp only
  refine List.forall_mem_append.2 ⟨?_, List.forall_mem_map.2 (goesOn_multiplyForms w)⟩
  iterate 40
    refine List.forall_mem_cons.2 ⟨?_, ?_⟩
    · exact goesOn_of_onceReal fun _ => rfl
  exact List.forall_mem_nil _

/-! ### The order of the checks (R86) -/

/-- A word's lanes beside its helpers are not all in the handler. -/
def State.unprivileged (s : State) (k : Ctx) : Bool :=
  (lanesOf (k.lanes &&& ~~~k.helpers)).any fun l => !((s.weave k.wk).lane l).priv

theorem unprivileged_iff (s : State) (k : Ctx) : s.unprivileged k = true ↔
    ∃ l, l < 32 ∧ (k.lanes &&& ~~~k.helpers).getLsbD l = true ∧ ((s.weave k.wk).lane l).priv = false := by
  simp [State.unprivileged, mem_lanesOf, and_assoc]

section
variable {s : State} {k : Ctx} {g : Gate} (eff : Env → BitVec 32 → State → State)

theorem runWord_of_illegal (h : g.legal = false) : s.runWord k g eff = s.fault k k.lanes 0x01#32 0 := by
  unfold State.runWord
  dsimp only
  rw [if_pos (by simp [h])]

theorem runWord_of_unprivileged (hl : g.legal = true) (hp : g.privileged = true) (hn : s.unprivileged k = true) :
    s.runWord k g eff = s.fault k k.lanes 0x04#32 0 := by
  unfold State.runWord
  dsimp only
  rw [if_neg (by simp [hl]), if_pos (by rw [hp]; exact hn)]

theorem runWord_of_role (hl : g.legal = true) (hp : (g.privileged && s.unprivileged k) = false)
    (hr : roleAllows (roleOf (s.gang k.gk) (s.weave k.wk).num) g.engine g.laUni = false) :
    s.runWord k g eff = s.fault k k.lanes 0x102#32 0 := by
  unfold State.runWord
  dsimp only
  rw [if_neg (by simp [hl]), if_neg (by rw [Bool.not_eq_true]; exact hp), if_pos (by simp [hr])]

end

/-- A fault at the word in hand that can be delivered (R58, R86). -/
theorem handling_fault {s : State} {k : Ctx} (h : s.canEnter k.wk k.lanes) (status : Word) :
    s.handling (s.fault k k.lanes status 0) k.wk (k.lanes &&& (s.weave k.wk).liveMask) status 0 0 k.pc :=
  handling_raise (f := { status := status, mask := k.lanes, addr := 0, resume_ := k.pc }) h rfl

/-- Settles O16: the refusals are faults of the whole lane set, in R86's order; a word that acts once goes on where
helpers alone execute it. -/
theorem refusedWordsFault : Obligations.RefusedWordsFault := by
  refine ⟨goesOn_onceForms, fun s k g eff h => ?_⟩
  dsimp only
  rw [← unprivileged_iff]
  refine ⟨fun hl => ?_, fun hl hp hn => ?_, fun hl hp hr => ?_⟩
  · rw [runWord_of_illegal eff hl]
    exact handling_fault h _
  · rw [runWord_of_unprivileged eff hl hp hn]
    exact handling_fault h _
  · rw [runWord_of_role eff hl (by simpa [imp_iff_not_or] using hp) hr]
    exact handling_fault h _

end Sys2Proof.Machine
end

section
/-! What the accesses of the front end leave (O54): a view of the state that every elementary change of an access keeps, the
accesses keep too. -/

namespace Sys2Proof.Machine
open Sys2Proof

/-- A view of the state that no elementary change of an access touches: slices, TLBs, tickets, logs, register writes of the
agenda, and a committed write with the watches and records that it fires. -/
structure AccessFree {β : Type} (g : State → β) : Prop where
  slices : ∀ s x, g { s with slices := x } = g s
  tlb : ∀ s x n, g { s with tlb := x, free := n } = g s
  tickets : ∀ s x n, g { s with tickets := x, nextTicket := n } = g s
  acc : ∀ s x, g { s with acc := x } = g s
  trans : ∀ s p (f : TransBlock → TransBlock), g (s.modPart p fun q => { q with trans := f q.trans }) = g s
  agenda : ∀ s x, g { s with agenda := x } = g s
  commit : ∀ s pa bs, g (s.commitWrite pa bs) = g s

namespace AccessFree
variable {β : Type} {g : State → β} (hg : AccessFree g)
include hg

theorem modHome (s : State) (pa : Nat) (f : Slice → Slice) : g (s.modHome pa f) = g s := by
  unfold State.modHome
  split
  · exact hg.slices ..
  · rfl

theorem count (s : State) (p pa kind d : Nat) : g (s.count p pa kind d) = g s := (hg.modHome ..).trans (hg.modHome ..)

theorem countWrite (s : State) (p : Nat) (t : Option Nat) (pa n d : Nat) : g (s.countWrite p t pa n d) = g s := by
  unfold State.countWrite
  dsimp only
  split
  · exact hg.modHome ..
  · exact (hg.modHome ..).trans (hg.modHome ..)

theorem countWalk (s : State) (p va : Nat) : g (s.countWalk p va) = g s := by
  unfold State.countWalk
  dsimp only
  split
  · exact foldl_keeps g _ (fun _ _ => hg.count ..) _ _
  · rfl

theorem tlbPut (s : State) (c : Nat) (t : Tlb) : g (s.tlbPut c t) = g s := by
  unfold State.tlbPut
  dsimp only
  split
  · exact hg.tlb s _ s.free
  · exact hg.tlb ..

theorem pteOr (s : State) (p pte m : Nat) : g (s.pteOr p pte m) = g s := by
  unfold State.pteOr
  dsimp only
  split
  · rfl
  · exact (hg.modHome ..).trans ((hg.count ..).trans (hg.commit ..))

theorem logUnpopulated (s : State) (p pa : Nat) : g (s.logUnpopulated p pa) = g s :=
  hg.trans s p fun t => { t with ualog := BitVec.ofNat 64 pa, uacount := satInc t.uacount }

theorem useLeaf (s : State) (c p va : Nat) (k : AccessKind) (w : Walk) : g (s.useLeaf c p va k w).1 = g s := by
  have hw := hg.countWalk s p va
  unfold State.useLeaf
  dsimp only
  split
  · exact hw
  · exact hw
  · dsimp only
    split
    · split
      · exact (hg.acc ..).trans hw
      · exact (hg.logUnpopulated ..).trans hw
    · exact (hg.logUnpopulated ..).trans hw
  · split
    · exact hw
    · split
      · exact (hg.acc ..).trans hw
      · exact (hg.tlbPut ..).trans ((hg.pteOr ..).trans hw)

theorem translate (s : State) (c p va : Nat) (k : AccessKind) : g (s.translate c p va k).1 = g s := by
  have hchoose : g s.choose.2 = g s := hg.tlb s s.tlb _
  have hc : g (s.choose.2.useLeaf c p va k (s.walk p va)).1 = g s := (hg.useLeaf ..).trans hchoose
  unfold State.translate
  dsimp only
  split
  · exact hg.useLeaf ..
  · split
    all_goals
      split
      · split
        · exact hg.useLeaf ..
        · split <;> rfl
      · split
        · exact hchoose
        · exact hc

theorem pageFault (s : State) (p va : Nat) (k : AccessKind) (st : Word) (w : Asker) : g (s.pageFault p va k st w).1 = g s := by
  unfold State.pageFault
  split
  · rfl
  · split
    · rfl
    · exact hg.tickets ..

theorem checkPhysical (s : State) (p m pa n : Nat) (k : AccessKind) (h : Bool) : g (s.checkPhysical p m pa n k h).1 = g s := by
  unfold State.checkPhysical
  split
  · rfl
  · split
    · exact hg.logUnpopulated ..
    · split
      · exact hg.acc ..
      · split <;> rfl

theorem check (s : State) (p m : Nat) (w : Asker) (va n al : Nat) (k : AccessKind) (ho q : Bool) :
    g (s.check p m w va n al k ho q).1 = g s := by
  have ht := hg.translate s w.cluster p va k
  unfold State.check
  split
  · rfl
  · split
    · rfl
    · split
      next e => rw [e] at ht; exact ht
      next s1 st e =>
        rw [e] at ht
        have hf := hg.pageFault s1 p va k st w
        split
        · exact ht
        · split
          next e2 => rw [e2] at hf; exact hf.trans ht
          next e2 => rw [e2] at hf; exact hf.trans ht
      next e =>
        rw [e] at ht
        exact (hg.checkPhysical ..).trans ht

theorem check_eq {s t : State} {p m va n al : Nat} {w : Asker} {k : AccessKind} {ho q : Bool} {c : Check}
    (h : s.check p m w va n al k ho q = (t, c)) : g t = g s := by
  rw [← hg.check s p m w va n al k ho q, h]

theorem feRead (s : State) (p va n : Nat) (ho : Bool) : g (s.feRead p va n ho).1 = g s := by
  unfold State.feRead
  dsimp only
  refine foldl_keeps (fun r : State × Got => g r.1) _ (fun r e => ?_) _ (s, _)
  obtain ⟨u, got⟩ := r
  have hk := hg.check u p (8 * p + 6) frontAsker (e.1 % 2 ^ 64) e.2 1 .read ho false
  dsimp only
  split
  · split
    next e1 =>
      rw [e1] at hk
      split
      · exact (hg.slices ..).trans hk
      · exact (hg.count ..).trans hk
    next e1 => rw [e1] at hk; exact hk
    next e1 => rw [e1] at hk; exact (hg.slices ..).trans hk
  · rfl

theorem feRead_eq {s t : State} {p va n : Nat} {ho : Bool} {got : Got} (h : s.feRead p va n ho = (t, got)) : g t = g s := by
  rw [← hg.feRead s p va n ho, h]

theorem agentWrite (s : State) (p m pa : Nat) (b : List Byte) : g (s.agentWrite p m none pa b) = g s := by
  unfold State.agentWrite
  split
  · exact hg.agenda ..
  · exact hg.commit ..

theorem fePut (s : State) (p va : Nat) (b : List Byte) : g (s.fePut p va b) = g s := by
  unfold State.fePut
  refine foldl_keeps (fun r : State × List Byte => g r.1) _ (fun r e => ?_) _ (s, b)
  obtain ⟨s, bs⟩ := r
  have hk := hg.check s p (8 * p + 6) frontAsker (e.1 % 2 ^ 64) e.2 1 .write false true
  dsimp only
  split
  next s1 pa e1 =>
    replace hk : g s1 = g s := by rw [e1] at hk; exact hk
    dsimp only
    exact (hg.countWrite ..).trans ((hg.agentWrite ..).trans hk)
  next e1 => rw [e1] at hk; exact hk

end AccessFree

/-- Queue slots, launches, the key of the next launch, the dependencies under watch, and each partition's dispatch stream. -/
structure Queues where
  slots : Table (Option QSlot)
  launches : Table Launch
  nextKey : Nat
  watched : List (Nat × Nat)
  stream : Nat → Option Nat

def State.queues (s : State) : Queues where
  slots := s.slots
  launches := s.launches
  nextKey := s.nextKey
  watched := s.deps.map fun d => (d.launch, d.dep)
  stream := fun p => (s.part p).stream

theorem stream_trans (s : State) (p : Nat) (f : TransBlock → TransBlock) :
    (fun j => ((s.modPart p fun q => { q with trans := f q.trans }).part j).stream) = fun j => (s.part j).stream := by
  funext j
  by_cases h : j = p
  · rw [h, part_modPart]
  · rw [part_modPart_ne _ _ h]

theorem queues_free : AccessFree State.queues where
  slices _ _ := rfl
  tlb _ _ _ := rfl
  tickets _ _ _ := rfl
  acc _ _ := rfl
  trans s p f := congrArg (Queues.mk s.slots s.launches s.nextKey _) (stream_trans s p f)
  agenda _ _ := rfl
  commit s pa bs := by
    have hwatched : (s.commitWrite pa bs).deps.map (fun d => (d.launch, d.dep)) = s.deps.map fun d => (d.launch, d.dep) := by
      refine List.map_map.trans (List.map_congr_left fun d _ => ?_)
      dsimp only [Function.comp]
      split <;> rfl
    exact congrArg (fun ds => Queues.mk s.slots s.launches s.nextKey ds _) hwatched

end Sys2Proof.Machine
end

section
/-! What the end of a launch leaves outside its gangs (O54). -/

namespace Sys2Proof.Machine
open Sys2Proof

/-- The state without what killing a gang changes: gangs, weaves, cohorts, operations, bonds, cores; and launches. -/
def State.outside (s : State) : State :=
  { s with gangs := [], weaves := [], cohorts := [], ops := [], bonds := [], cores := [], launches := [] }

theorem outside_resolveShares (s : State) (t : Table Share) (st : Word) : (s.resolveShares t st).outside = s.outside :=
  foldl_keeps State.outside _ (fun _ _ => by rfl) _ _

theorem outside_passHeldAll (f : Hold → Bool) (wks : List Nat) (s : State) :
    (wks.foldl (fun s wk => s.modWeave wk (·.passHeld f)) s).outside = s.outside :=
  foldl_keeps State.outside _ (fun _ _ => by rfl) _ _

theorem outside_releaseSigners (s : State) (home c : Nat) (r : Half) : (s.releaseSigners home c r).outside = s.outside :=
  foldl_keeps State.outside _ (fun _ _ => foldl_keeps State.outside _ (fun _ _ => outside_passHeldAll ..) _ _) _ _

theorem outside_convCheck (s : State) (home c : Nat) : (s.convCheck home c).outside = s.outside := by
  have hset : ∀ (s : State) (v : Conv), (s.setConv home c v).outside = s.outside := fun _ _ => rfl
  have hbonds : ∀ (s : State) (b : Table Bond), ({ s with bonds := b } : State).outside = s.outside := fun _ _ => rfl
  have hshares : ∀ (s0 s : State) (t : Table Bond), (t.foldl (fun s e =>
      if s0.bondHome e.2 = home ∧ e.2.c = c then s.resolveShares e.2.shares 0#32 else s) s).outside = s.outside := fun s0 s t =>
    foldl_keeps State.outside _ (fun s x => by split <;> simp [outside_resolveShares]) _ _
  unfold State.convCheck
  dsimp only
  split
  · split <;> split <;> simp [hset, hbonds, hshares, outside_releaseSigners]
  · split
    · split
      · split <;> split <;> simp [hset, hbonds]
      · split <;> simp [hset, outside_releaseSigners]
    · split <;> simp [hset]

theorem outside_convCheckAll (s : State) (g : Nat) : (s.convCheckAll g).outside = s.outside :=
  foldl_keeps State.outside _ (fun _ _ => outside_convCheck ..) _ _

theorem outside_cbarCheck (s : State) (g : Nat) : (s.cbarCheck g).outside = s.outside := by
  unfold State.cbarCheck
  dsimp only
  split
  · exact (foldl_keeps State.outside _ (fun _ _ => by rfl) _ _).trans (outside_passHeldAll ..)
  · exact foldl_keeps State.outside _ (fun _ _ => by rfl) _ _

theorem outside_killGang (s : State) (g : Nat) : (s.killGang g).outside = s.outside := by
  unfold State.killGang
  rw [outside_cbarCheck, outside_convCheckAll]
  refine (foldl_keeps State.outside _ (fun _ _ => by rfl) _ _).trans (foldl_keeps State.outside _ (fun s x => ?_) _ _)
  split <;> rfl

theorem outside_endLaunch (s : State) (l : Nat) (st : Word) : (s.endLaunch l st).outside = s.outside :=
  foldl_keeps State.outside _ (fun _ _ => outside_killGang ..) _ _

theorem watches_endLaunch (s : State) (l : Nat) (st : Word) : (s.endLaunch l st).watches = s.watches :=
  (congrArg State.watches (outside_endLaunch s l st) :)

theorem part_endLaunch (s : State) (l : Nat) (st : Word) (p : Nat) : (s.endLaunch l st).part p = s.part p :=
  (congrArg (State.part · p) (outside_endLaunch s l st) :)

/-- A launch that has not ended is, once it is ended, as it was but for that. -/
theorem launch_endLaunch {s : State} {l : Nat} {x : Launch} (h : s.launches.find l = some x) (hx : x.ended = false) (st : Word) :
    (s.endLaunch l st).launch l = { x with ended := true, status := st, saved := [] } := by
  have hfind : (s.endLaunch l st).launches.find l = some (x.endedWith st) := by
    rw [launches_endLaunch, Table.find_modify, if_pos rfl, h]
    rfl
  refine (Table.get_of_find hfind).trans ?_
  unfold Launch.endedWith
  rw [hx]
  rfl

theorem finished_endLaunch {s : State} {l : Nat} {x : Launch} (h : s.launches.find l = some x) (hx : x.ended = false) (st : Word) :
    (s.endLaunch l st).finished l st := by
  unfold State.finished
  rw [launch_endLaunch h hx]
  exact ⟨rfl, rfl⟩

end Sys2Proof.Machine
end

section
/-! Kicks, mapping, ages, the stream's choice and packet taking (O54). -/

namespace Sys2Proof.Machine
open Sys2Proof

/-! ### Slots -/

theorem slotAt_find {s : State} {n : Nat} {x : QSlot} (h : s.slotAt n = some x) : s.slots.find n = some (some x) := by
  rw [State.slotAt, Table.find_eq_get] at h
  cases hf : s.slots.find n with
  | none => rw [hf] at h; cases h
  | some y => rw [hf] at h; exact congrArg some h

theorem slotAt_modSlot {s : State} {n : Nat} {x : QSlot} (h : s.slotAt n = some x) (f : QSlot → QSlot) :
    (s.modSlot n f).slotAt n = some (f x) :=
  Table.get_modify_same (slotAt_find h)

theorem slotAt_congr {s t : State} (h : t.slots = s.slots) (n : Nat) : t.slotAt n = s.slotAt n := by
  rw [State.slotAt, h, State.slotAt]

/-! ### Doorbells (R397, R400) -/

/-- A refused kick is recorded in its partition's front end only. -/
theorem queueError_records (s : State) (p q : Nat) :
    ({ s.queueError p q with parts := s.parts } : State) = s ∧ ((s.queueError p q).part p).front.qerr = BitVec.ofNat 16 q ∧
    ((s.queueError p q).part p).front.qerrv = true := by
  unfold State.queueError
  rw [part_modPart]
  exact ⟨rfl, rfl, rfl⟩

theorem kick_of_slot {s : State} {p q n w : Nat} {x : QSlot} (hq : q < (s.part p).front.qcount) (h : s.slotOf p q = some (n, x)) :
    s.kick p q 8 w = if !indexOk w x.rptr.toNat x.log2n then s.queueError p q
      else s.modSlot n fun x => { x with w := BitVec.ofNat 64 w, lastKick := s.us.toNat } := by
  unfold State.kick
  rw [if_neg (by omega), h]

theorem doorbellKick_sets {s : State} {n : Nat} {x : QSlot} (hc : s.ev.c = 8) (hq : s.ev.b < (s.part s.ev.a).front.qcount)
    (hslot : s.slotOf s.ev.a s.ev.b = some (n, x)) (hn : s.slotAt n = some x)
    (hi : indexOk s.ev.value.toNat x.rptr.toNat x.log2n = true) : s.gives .doorbellKick fun t =>
      ({ t with slots := s.slots } : State) = s ∧ t.slotAt n = some { x with w := s.ev.value, lastKick := s.us.toNat } := by
  refine ⟨s.modSlot n fun x => { x with w := BitVec.ofNat 64 s.ev.value.toNat, lastKick := s.us.toNat }, ?_, rfl, ?_⟩
  · show Host.Outcome.next (s.kick s.ev.a s.ev.b s.ev.c s.ev.value.toNat) = _
    rw [hc, kick_of_slot hq hslot, hi]
    rfl
  · rw [slotAt_modSlot hn, BitVec.ofNat_toNat, BitVec.setWidth_eq]

theorem doorbellKick_refuses {s : State} (h : s.kick s.ev.a s.ev.b s.ev.c s.ev.value.toNat = s.queueError s.ev.a s.ev.b) :
    s.gives .doorbellKick fun t =>
      ({ t with parts := s.parts } : State) = s ∧ (t.part s.ev.a).front.qerr = BitVec.ofNat 16 s.ev.b ∧ (t.part s.ev.a).front.qerrv = true :=
  ⟨s.queueError s.ev.a s.ev.b, congrArg Host.Outcome.next h, queueError_records ..⟩

/-! ### Mapping (R400) -/

/-- The write index that a mapped queue starts with: that of its kick, or its descriptor's. -/
def PendQueue.index (x : PendQueue) (b : List Byte) : Nat :=
  match x.w with
  | some v => v.toNat
  | none => qwordAt b 2

/-- A queue is pending no more. -/
def State.dropPending (s : State) (p q : Nat) : State :=
  { s with pendingOrder := s.pendingOrder.filter fun y => !(y.part == p && y.queue == q) }

theorem mapQueue_loads {s s1 s2 : State} {p q n : Nat} {x : PendQueue} {b : List Byte}
    (hx : s.pendingOrder.find? (fun y => y.part == p && y.tickets.isEmpty) = some x) (hq : x.queue = q) (hr : x.refused = false)
    (hread : s.feRead p (s.queueDesc p q) 256 false = (s1, .bytes b)) (hd : descOk b = true)
    (hi : indexOk (x.index b) (qwordAt b 3) (bits (qwordAt b 1) 4 0) = true) (hroom : s1.roomForQueue p = some (n, s2)) :
    s.mapQueue p q = (s2.dropPending p q).loadSlot n x (x.index b) b := by
  unfold State.mapQueue
  rw [hx]
  dsimp only
  rw [if_neg (by simp [hq]), hr, if_neg (by decide), hread]
  dsimp only
  refine (if_neg ?_).trans ?_
  · have : (!descOk b || !indexOk (x.index b) (qwordAt b 3) (bits (qwordAt b 1) 4 0)) = false := by rw [hd, hi]; rfl
    exact fun hc => Bool.false_ne_true (this.symm.trans hc)
  · rw [hroom]
    rfl

theorem queueMap_maps {s s1 s2 : State} {n : Nat} {x : PendQueue} {b : List Byte}
    (hx : s.pendingOrder.find? (fun y => y.part == s.ev.a && y.tickets.isEmpty) = some x) (hq : x.queue = s.ev.b) (hr : x.refused = false)
    (hread : s.feRead s.ev.a (s.queueDesc s.ev.a s.ev.b) 256 false = (s1, .bytes b)) (hd : descOk b = true)
    (hi : indexOk (x.index b) (qwordAt b 3) (bits (qwordAt b 1) 4 0) = true) (hroom : s1.roomForQueue s.ev.a = some (n, s2)) :
    s.gives .queueMap fun t =>
      (∀ y ∈ t.pendingOrder, ¬(y.part = s.ev.a ∧ y.queue = s.ev.b)) ∧
      ∃ y, t.slotAt n = some y ∧ y.part = s.ev.a ∧ y.queue = s.ev.b ∧ y.rptr = BitVec.ofNat 64 (qwordAt b 3) ∧
        y.rbase = BitVec.ofNat 64 (qwordAt b 0) ∧ y.lrbase = BitVec.ofNat 64 (qwordAt b 4) ∧ y.log2n = bits (qwordAt b 1) 4 0 ∧
        y.prio = bits (qwordAt b 1) 6 5 := by
  have hpart : x.part = s.ev.a := by
    have := List.find?_some hx
    simp only [Bool.and_eq_true, beq_iff_eq] at this
    exact this.1
  refine ⟨(s2.dropPending s.ev.a s.ev.b).loadSlot n x (x.index b) b,
    congrArg Host.Outcome.next (mapQueue_loads hx hq hr hread hd hi hroom), fun y hy => ?_, _, Table.get_of_find (Table.find_insert_same ..), hpart, hq, rfl, rfl, rfl, rfl, rfl⟩
  have hy := (List.mem_filter.1 hy).2
  simpa [imp_iff_not_or] using hy

theorem queueMap_idle {s : State} (h : s.pendingOrder = []) : s.gives .queueMap fun t => t = s := by
  refine gives_idle ?_
  show Host.Outcome.next (s.mapQueue s.ev.a s.ev.b) = _
  unfold State.mapQueue
  rw [h]
  rfl

/-! ### The idle timeout (R402) -/

/-- A slot has been idle for its partition's timeout. -/
def State.timedOut (s : State) (x : QSlot) : Bool :=
  x.state == .idle && x.rptr == x.w && decide (max x.since.toNat x.lastKick + (s.part x.part).front.tout ≤ s.us.toNat)

theorem exec_slotIdleTimeout {s : State} {x : QSlot} (h : s.slotAt s.ev.a = some x) :
    exec .slotIdleTimeout s = .next (if s.timedOut x then s.unmapSlot s.ev.a else s) := by
  show execSlotIdleTimeout s = _
  unfold execSlotIdleTimeout
  rw [h]
  rfl

theorem slotAt_unmapSlot (s : State) (n : Nat) : (s.unmapSlot n).slotAt n = none := by
  unfold State.unmapSlot
  split
  · assumption
  · rw [State.slotAt, Table.find_eq_get]
    dsimp only
    rw [Table.find_erase_same]
    rfl

theorem slotIdleTimeout_frees {s : State} {x : QSlot} (h : s.slotAt s.ev.a = some x) (hd : s.timedOut x = true) :
    s.gives .slotIdleTimeout fun t => t.slotAt s.ev.a = none := by
  refine ⟨s.unmapSlot s.ev.a, ?_, slotAt_unmapSlot ..⟩
  rw [exec_slotIdleTimeout h, if_pos hd]

theorem slotIdleTimeout_idle {s : State} {x : QSlot} (h : s.slotAt s.ev.a = some x) (hd : s.timedOut x = false) :
    s.gives .slotIdleTimeout fun t => t = s := by
  refine gives_idle ?_
  rw [exec_slotIdleTimeout h, hd]
  rfl

/-! ### Ages (R403) -/

theorem find_mapVals {α : Type} (t : Table α) (f : Nat → α → α) (k : Nat) : (t.mapVals f).find k = (t.find k).map (f k) := by
  induction t with
  | nil => rfl
  | cons e t ih =>
    simp only [Table.mapVals, List.map_cons, Table.find] at ih ⊢
    split
    · next h => rw [← h]; rfl
    · exact ih

/-- A slot's queue after a tick. -/
def QSlot.aged (x : QSlot) : QSlot := if x.state = .ready then { x with age := min 65535 (x.age + 1) } else x

theorem ageTick_ages (s : State) : s.gives .ageTick fun t =>
    ({ t with slots := s.slots, launches := s.launches } : State) = s ∧
    (∀ n, t.slotAt n = (s.slotAt n).map fun x => if x.state = .ready then { x with age := min 65535 (x.age + 1) } else x) ∧
    ∀ l x, s.launches.find l = some x →
      t.launches.find l = some (if x.state = 2 ∧ s.slotOfHead l = none then { x with age := min 65535 (x.age + 1) } else x) := by
  refine ⟨_, rfl, rfl, fun n => Table.get_mapVals (f := fun _ => Option.map QSlot.aged) rfl s.slots, fun l x hx => ?_⟩
  dsimp only
  rw [find_mapVals, hx, Option.map_some]
  simp only [Option.isNone_iff_eq_none]

/-! ### A launch enters a STATE (R401) -/

theorem queues_putRecord (s : State) (l : Nat) : (s.putRecord l).queues = s.queues := queues_free.fePut ..

theorem launch_of_queues {s t : State} (h : t.queues = s.queues) (l : Nat) : t.launch l = s.launch l :=
  (congrArg (fun q : Queues => Table.get ({} : Launch) q.launches l) h :)

theorem stream_of_queues {s t : State} (h : t.queues = s.queues) (p : Nat) : (t.part p).stream = (s.part p).stream :=
  (congrArg (fun q : Queues => q.stream p) h :)

/-- A launch that enters a STATE is in it and ends no sooner; every dispatch stream stays. -/
theorem setStage_sets {s : State} {l : Nat} (h : (s.launches.find l).isSome = true) (st : Nat) :
    ((s.setStage l st).launch l).state = st ∧ ((s.setStage l st).launch l).ended = (s.launch l).ended ∧
    ∀ p, ((s.setStage l st).part p).stream = (s.part p).stream := by
  unfold State.setStage
  dsimp only
  generalize hu : (s.modLaunch l _) = u
  have hl : (u.launch l).state = st ∧ (u.launch l).ended = (s.launch l).ended := by
    rw [← hu, launch_modLaunch h]
    exact ⟨rfl, rfl⟩
  have hp : ∀ p, (u.part p).stream = (s.part p).stream := fun p => by rw [← hu]; rfl
  have hput (w : State) (hlaunch : w.launch l = u.launch l) (hpart : ∀ p, w.part p = u.part p) :
      ((w.putRecord l).launch l).state = st ∧ ((w.putRecord l).launch l).ended = (s.launch l).ended ∧
      ∀ p, ((w.putRecord l).part p).stream = (s.part p).stream := by
    rw [launch_of_queues (queues_putRecord w l), hlaunch]
    refine ⟨hl.1, hl.2, fun p => ?_⟩
    rw [stream_of_queues (queues_putRecord w l), hpart, hp]
  split
  · exact hput _ rfl fun _ => rfl
  · exact hput _ rfl fun _ => rfl

/-! ### The stream's choice (R403) -/

/-- One turn of the choice among Ready launches. -/
def State.better (s : State) (r : Option Nat) (l : Nat) : Option Nat :=
  match r with
  | none => some l
  | some b => if rankBefore (s.readyRank l) (s.readyRank b) then some l else r

theorem chooseReady_eq (s : State) (p : Nat) : s.chooseReady p = (s.readyLaunches p).foldl s.better none := rfl

theorem mem_of_foldl_better (s : State) (ls : List Nat) (r : Option Nat) {l : Nat} (h : ls.foldl s.better r = some l) :
    l ∈ ls ∨ r = some l := by
  induction ls generalizing r with
  | nil => exact .inr h
  | cons k ls ih =>
    rcases ih _ h with hmem | hr
    · exact .inl (List.mem_cons_of_mem _ hmem)
    · unfold State.better at hr
      split at hr
      · exact .inl (Option.some.inj hr ▸ List.mem_cons_self)
      · split at hr
        · exact .inl (Option.some.inj hr ▸ List.mem_cons_self)
        · exact .inr hr

theorem find_isSome_of_mem {α : Type} {t : Table α} {e : Nat × α} (h : e ∈ t) : (t.find e.1).isSome = true := by
  induction t with
  | nil => cases h
  | cons d t ih =>
    rw [Table.find]
    split
    · rfl
    · next hne =>
      rcases List.mem_cons.1 h with rfl | hmem
      · exact absurd rfl hne
      · exact ih hmem

/-- The stream's choice stands in the table of launches. -/
theorem isSome_of_chooseReady {s : State} {p l : Nat} (h : s.chooseReady p = some l) : (s.launches.find l).isSome = true := by
  rw [chooseReady_eq] at h
  obtain hmem | hnone := mem_of_foldl_better s _ none h
  · obtain ⟨e, he, rfl⟩ := List.mem_map.1 hmem
    exact find_isSome_of_mem (List.mem_filter.1 he).1
  · cases hnone

/-- The stream of a partition is a launch's. -/
def State.giveStream (s : State) (p l : Nat) : State := s.modPart p fun q => { q with stream := some l }

theorem dispatchStreamChoice_takes {s : State} {l : Nat} (hs : (s.part s.ev.a).stream = none) (hr : s.alarm.refuse = false)
    (hl : s.chooseReady s.ev.a = some l) (ht : (s.launch l).typ ≠ 1 ∨ (s.launch l).prologued = true) :
    s.gives .dispatchStreamChoice fun t => (t.part s.ev.a).stream = some l ∧ (t.launch l).state = 4 := by
  have hfound : (s.launches.find l).isSome = true := isSome_of_chooseReady hl
  obtain ⟨hstate, -, hstream⟩ := setStage_sets (s := s.giveStream s.ev.a l) hfound 4
  refine ⟨(s.giveStream s.ev.a l).setStage l 4, ?_, (hstream s.ev.a).trans (by rw [State.giveStream, part_modPart]), hstate⟩
  have hkernel : (decide (((s.giveStream s.ev.a l).launch l).typ = 1) && !((s.giveStream s.ev.a l).launch l).prologued) = false := by
    show (decide ((s.launch l).typ = 1) && !(s.launch l).prologued) = false
    rcases ht with ht | ht <;> simp [ht]
  show execDispatchStreamChoice s = _
  unfold execDispatchStreamChoice
  dsimp only
  rw [hs, hr, if_neg (by decide), hl]
  exact congrArg Host.Outcome.next (if_neg (ne_true_of_eq_false hkernel))

theorem dispatchStreamChoice_idle {s : State} (h : (s.part s.ev.a).stream.isSome = true ∨ s.alarm.refuse = true ∨ s.chooseReady s.ev.a = none) :
    s.gives .dispatchStreamChoice fun t => t = s := by
  refine gives_idle ?_
  show execDispatchStreamChoice s = _
  unfold execDispatchStreamChoice
  dsimp only
  by_cases hc : ((s.part s.ev.a).stream.isSome || s.alarm.refuse) = true
  · rw [if_pos hc]
  · rw [if_neg hc, (h.resolve_left fun h => hc (by simp [h])).resolve_left fun h => hc (by simp [h])]

/-! ### Taking a packet (R401, R452) -/

/-- Where the record of a slot's next packet stands. -/
def QSlot.recordAt (x : QSlot) : Nat := (x.lrbase.toNat + 512 * (x.rptr.toNat % 2 ^ x.log2n)) % 2 ^ 64

/-- The launch of a slot's next packet. -/
def QSlot.taken (x : QSlot) (b : List Byte) (now : Dbl) : Launch :=
  { part := x.part, queue := x.queue, idx := x.rptr, recVa := BitVec.ofNat 64 x.recordAt, orig := packetOf b, packet := packetOf b
    prio := x.prio, since := now }

/-- A packet that was read enters the table of launches and its record. -/
def State.enterPacket (s : State) (x : QSlot) (b : List Byte) : State :=
  ({ s with nextKey := s.nextKey + 1, launches := s.launches.insert s.nextKey (x.taken b s.us) } : State).fePut x.part x.recordAt
    (b ++ List.replicate 384 0)

theorem queues_enterPacket (s : State) (x : QSlot) (b : List Byte) :
    (s.enterPacket x b).slots = s.slots ∧ (s.enterPacket x b).launches = s.launches.insert s.nextKey (x.taken b s.us) := by
  have h : (s.enterPacket x b).queues = _ := queues_free.fePut ..
  exact ⟨congrArg Queues.slots h, congrArg Queues.launches h⟩

theorem takePacket_eq {s s1 : State} {n : Nat} {x : QSlot} {b : List Byte} (hx : s.slotAt n = some x) (hc : s.canTake x = true)
    (hr : x.refused = false)
    (hread : s.feRead x.part ((x.rbase.toNat + 128 * (x.rptr.toNat % 2 ^ x.log2n)) % 2 ^ 64) 128 false = (s1, .bytes b)) :
    s.takePacket n = ((s1.enterPacket x b).modSlot n fun x => { x with rptr := x.rptr + 1, head := some s1.nextKey, state := .waiting }).next_
      (packetEvent ((x.taken b s1.us).field 0 3 0)) s1.nextKey 0 0 := by
  unfold State.takePacket
  rw [hx]
  dsimp only
  rw [hc, if_neg (by decide), hr, if_neg (by decide), hread]
  rfl

theorem packetTake_takes {s s1 : State} {x : QSlot} {b : List Byte} (hx : s.slotAt s.ev.a = some x) (hc : s.canTake x = true)
    (hr : x.refused = false)
    (hread : s.feRead x.part ((x.rbase.toNat + 128 * (x.rptr.toNat % 2 ^ x.log2n)) % 2 ^ 64) 128 false = (s1, .bytes b)) :
    s.gives .packetTake fun t =>
      t.slotAt s.ev.a = some { x with rptr := x.rptr + 1, head := some s1.nextKey, state := .waiting } ∧
      (∃ y, t.launches.find s1.nextKey = some y ∧ y.packet = packetOf b ∧ y.orig = packetOf b ∧ y.idx = x.rptr ∧ y.part = x.part ∧
        y.queue = x.queue) ∧
      t.agenda.head? = some { what := packetEvent (bits (Table.get 0 (packetOf b) 0).toNat 3 0), args := { a := s1.nextKey, b := 0, c := 0 } } := by
  obtain ⟨hslots, hlaunches⟩ := queues_enterPacket s1 x b
  have hslot : (s1.enterPacket x b).slotAt s.ev.a = some x := by
    rw [slotAt_congr hslots, slotAt_congr (congrArg Queues.slots (queues_free.feRead_eq hread) : s1.slots = s.slots), hx]
  refine ⟨_, congrArg Host.Outcome.next (takePacket_eq hx hc hr hread), slotAt_modSlot hslot _, ⟨x.taken b s1.us, ?_, rfl, rfl, rfl, rfl, rfl⟩, rfl⟩
  show (s1.enterPacket x b).launches.find s1.nextKey = _
  rw [hlaunches, Table.find_insert_same]

theorem packetTake_idle {s : State} {x : QSlot} (hx : s.slotAt s.ev.a = some x) (hc : s.canTake x = false) :
    s.gives .packetTake fun t => t = s := by
  refine gives_idle (congrArg Host.Outcome.next ?_ : Host.Outcome.next (s.takePacket s.ev.a) = _)
  unfold State.takePacket
  rw [hx]
  dsimp only
  rw [hc]
  rfl

end Sys2Proof.Machine
end


section
/-! Packets whose dependencies are met, those that run no kernel, and dependencies (O54). -/

namespace Sys2Proof.Machine
open Sys2Proof

/-! ### A packet that is due (R405) -/

theorem launch_of_find {s : State} {l : Nat} {x : Launch} (h : s.launches.find l = some x) : s.launch l = x := Table.get_of_find h

section
variable {s : State} {l ty : Nat} {x : Launch} (h : s.packetDue l ty x)
include h

theorem find_of_due : s.launches.find l = some x := h.1

theorem typ_of_due : x.typ = ty := h.2.1

theorem running_of_due : x.ended = false := h.2.2.1

theorem launch_of_due : s.launch l = x := launch_of_find (find_of_due h)

end

theorem packetOfType_of_due {s : State} {l ty : Nat} {x : Launch} (h : s.packetDue l ty x) (go : State → State) :
    s.packetOfType l ty go = .next (go s) := by
  obtain ⟨hfind, hty, hend, hpro, htickets, hchecked, hstate⟩ := h
  unfold State.packetOfType
  rw [hfind]
  dsimp only
  rw [if_pos (by simp [hty])]
  unfold State.processPacket
  dsimp only
  rw [launch_of_find hfind, hend, hpro, htickets, hstate, if_neg (by decide), if_pos hchecked]

theorem awaitStream_of_ready {s : State} {l : Nat} {x : Launch} (hfind : s.launches.find l = some x) (hend : x.ended = false)
    (hmet : x.allMet = true) (hstream : (s.part x.part).stream ≠ some l) {bind : Bool} (hbind : bind = true → s.binding l = .none_) :
    s.awaitStream l bind = s.setStage l 2 := by
  have hready : (if bind then s.bindLaunch l else (s, true)) = (s, true) := by
    split
    · next hb =>
      unfold State.bindLaunch
      dsimp only
      rw [hbind hb]
    · rfl
  unfold State.awaitStream
  rw [launch_of_find hfind]
  dsimp only
  rw [hend, if_neg (by decide), hmet, if_pos rfl, hready]
  dsimp only
  rw [launch_of_find hfind, hend, if_neg (by decide), if_pos rfl, if_neg hstream]

/-- A kernel's packet whose dependencies are met, and which binds to no region, is Ready (R403, R405). -/
theorem becomes_ready {s : State} {l ty : Nat} {x : Launch} {i : Instr} {bind : Bool}
    (hexec : exec i s = s.packetOfType l ty fun t => t.awaitStream l bind) (h : s.packetDue l ty x) (hmet : x.allMet = true)
    (hstream : (s.part x.part).stream ≠ some l) (hbind : bind = true → s.binding l = .none_) :
    s.gives i fun t => (t.launch l).state = 2 ∧ (t.launch l).ended = false := by
  have hfind := find_of_due h
  have hend := running_of_due h
  obtain ⟨hstate, hkept, -⟩ := setStage_sets (s := s) (l := l) (by rw [hfind]; rfl) 2
  refine ⟨s.setStage l 2, ?_, hstate, by rw [hkept, launch_of_find hfind, hend]⟩
  rw [hexec, packetOfType_of_due h, awaitStream_of_ready hfind hend hmet hstream hbind]

theorem binding_of_guarded {s : State} {l : Nat} {x : Launch} (hfind : s.launches.find l = some x) (hty : x.typ = 2)
    (hr : x.region = none) : s.binding l = .none_ := by
  unfold State.binding
  rw [launch_of_find hfind]
  dsimp only
  rw [hr]
  exact if_pos (by simp [Launch.guarded, hty])

/-! ### Packets that complete at once (R55, R414) -/

/-- A packet that is due and ends with a status: nothing is written to memory. -/
theorem finishes_now {s : State} {l ty : Nat} {x : Launch} {i : Instr} {go : State → State} {st : Word}
    (hexec : exec i s = s.packetOfType l ty go) (h : s.packetDue l ty x) (hgo : go s = s.endLaunch l st) :
    s.gives i fun t => s.memoryKept t ∧ t.finished l st := by
  refine ⟨s.endLaunch l st, ?_, memoryKept_of_mems (mems_endLaunch ..), finished_endLaunch (find_of_due h) (running_of_due h) st⟩
  rw [hexec, packetOfType_of_due h, hgo]

theorem waits_still {s : State} {l ty : Nat} {x : Launch} {i : Instr} {go : State → State}
    (hexec : exec i s = s.packetOfType l ty go) (h : s.packetDue l ty x) (hgo : go s = s) : s.gives i fun t => t = s := by
  refine gives_idle ?_
  rw [hexec, packetOfType_of_due h, hgo]

theorem signalPacket_finishes {s : State} {x : Launch} (h : s.packetDue s.ev.a 3 x) (hmet : x.allMet = true) :
    s.gives .signalPacket fun t => s.memoryKept t ∧ t.finished s.ev.a 0 :=
  finishes_now (go := fun t => if (t.launch s.ev.a).allMet then t.endLaunch s.ev.a 0 else t) rfl h
    (if_pos (by rw [launch_of_due h, hmet]))

theorem signalPacket_waits {s : State} {x : Launch} (h : s.packetDue s.ev.a 3 x) (hmet : x.allMet = false) :
    s.gives .signalPacket fun t => t = s :=
  waits_still (go := fun t => if (t.launch s.ev.a).allMet then t.endLaunch s.ev.a 0 else t) rfl h
    (if_neg (by rw [launch_of_due h, hmet]; decide))

theorem barrierPacket_finishes {s : State} {x : Launch} (h : s.packetDue s.ev.a 5 x) (hmet : x.allMet = true)
    (hdone : s.earlierDone s.ev.a = true) : s.gives .barrierPacket fun t => s.memoryKept t ∧ t.finished s.ev.a 0 :=
  finishes_now (go := fun t => if (t.launch s.ev.a).allMet && t.earlierDone s.ev.a then t.endLaunch s.ev.a 0 else t) rfl h
    (if_pos (by rw [launch_of_due h, hmet, hdone]; rfl))

theorem barrierPacket_waits {s : State} {x : Launch} (h : s.packetDue s.ev.a 5 x)
    (hwait : x.allMet = false ∨ s.earlierDone s.ev.a = false) : s.gives .barrierPacket fun t => t = s :=
  waits_still (go := fun t => if (t.launch s.ev.a).allMet && t.earlierDone s.ev.a then t.endLaunch s.ev.a 0 else t) rfl h
    (if_neg (by rw [launch_of_due h]; rcases hwait with hw | hw <;> simp [hw]))

/-! ### A watch (R55) -/

/-- The watch that a WATCH packet arms. -/
def Launch.watch (x : Launch) (pa : Nat) : Watch :=
  { part := x.part, pa := pa, cond := x.field 0x18 1 0, value := BitVec.ofNat 64 (x.qword 0x10)
    hostAddr := BitVec.ofNat 64 (x.qword 0x50), hostVal := BitVec.ofNat 64 (x.qword 0x58), vector := x.field 0x18 12 2 }

/-- A watch evaluated as it is armed. -/
def Watch.armedIn (x : Watch) (s : State) : Watch := { x with fired := watchHolds x.cond (memQword s.mem x.pa) x.value.toNat }

theorem armWatch_of_free {s : State} {x : Watch} {n : Nat} (hn : (List.range 4096).find? (fun n => (s.watches.find n).isNone) = some n)
    (hq : (s.watches.filter fun e => e.2.part == x.part).length < (s.part x.part).ctl.wquota) :
    s.armWatch x = ({ s with watches := s.watches.insert n (x.armedIn s) }, some n) := by
  unfold State.armWatch
  rw [hn]
  dsimp only
  rw [if_neg (by omega)]
  rfl

theorem toNat_qword (x : Launch) (q : Nat) : (BitVec.ofNat 64 (x.qword q)).toNat = x.qword q :=
  Nat.mod_eq_of_lt (BitVec.isLt _)

/-- A WATCH packet's effect once its check has passed. -/
def State.armFor (s : State) (x : Launch) (l pa n : Nat) : State :=
  (({ s with watches := s.watches.insert n ((x.watch pa).armedIn s) } : State).count x.part pa 4 (Config.frontDie x.part % 4)).modLaunch l
    fun x => { x with wnum := n }

theorem armFor_leaves {s : State} {x : Launch} {l : Nat} (hfind : s.launches.find l = some x) (pa n : Nat) :
    (s.armFor x l pa n).mems = s.mems ∧ (s.armFor x l pa n).launches.find l = some { x with wnum := n } ∧
    (s.armFor x l pa n).watches.find n = some ((x.watch pa).armedIn s) := by
  unfold State.armFor
  rw [count_slices]
  refine ⟨rfl, ?_, Table.find_insert_same ..⟩
  show (s.launches.modify l _).find l = _
  rw [Table.find_modify, if_pos rfl, hfind]
  rfl

theorem watchPacket_arms {s s1 : State} {x : Launch} {pa n : Nat} (h : s.packetDue s.ev.a 4 x) (hmet : x.allMet = true)
    (hcheck : s.check x.part (8 * x.part + 6) frontAsker (x.qword 8) 8 8 .read true false = (s1, .pass pa))
    (hn : (List.range 4096).find? (fun n => (s1.watches.find n).isNone) = some n)
    (hq : (s1.watches.filter fun e => e.2.part == x.part).length < (s1.part x.part).ctl.wquota) : s.gives .watchPacket fun t =>
      s1.memoryKept t ∧ t.finished s.ev.a 0 ∧ (t.launch s.ev.a).wnum = n ∧
      ∃ y, t.watches.find n = some y ∧ y.pa = pa ∧ y.cond = x.field 0x18 1 0 ∧ y.value.toNat = x.qword 0x10 ∧ y.hostAddr.toNat = x.qword 0x50 ∧
        y.fired = watchHolds y.cond (memQword s1.mem pa) y.value.toNat := by
  have hfind : s1.launches.find s.ev.a = some x := by
    rw [show s1.launches = s.launches from congrArg Queues.launches (queues_free.check_eq hcheck)]
    exact find_of_due h
  have hend : x.ended = false := running_of_due h
  obtain ⟨hmems, hlaunch, hwatch⟩ := armFor_leaves hfind pa n
  have hexec : exec .watchPacket s = .next ((s1.armFor x s.ev.a pa n).endLaunch s.ev.a 0) := by
    refine (packetOfType_of_due h _).trans (congrArg Host.Outcome.next ?_)
    dsimp only
    rw [launch_of_due h, hmet, if_neg (by decide), hcheck]
    dsimp only
    have harm : s1.armWatch (x.watch pa) = _ := armWatch_of_free hn hq
    unfold Launch.watch at harm
    rw [harm]
    rfl
  refine ⟨_, hexec, memoryKept_of_mems ((mems_endLaunch ..).trans hmems), finished_endLaunch hlaunch hend 0, ?_, (x.watch pa).armedIn s1,
    ?_, rfl, rfl, toNat_qword .., toNat_qword .., rfl⟩
  · rw [launch_endLaunch hlaunch hend]
  · rw [watches_endLaunch, hwatch]

end Sys2Proof.Machine
end

section
/-! Regions stitched, dependencies and the prologue's limit (O54). -/

namespace Sys2Proof.Machine
open Sys2Proof

/-! ### Stitching (R374) -/

/-- What a STITCH packet does with its region's descriptor. -/
def State.stitch (s : State) (x : Launch) (l : Nat) (b : List Byte) : State :=
  let reg := bits (qwordAt b 0) 6 4
  if bit (qwordAt b 0) 3 then
    if s.regionIdle x.part reg then ((s.modPart x.part fun y => { y with regions := y.regions.erase reg }).askFurther x.part).endLaunch l 0
    else s
  else if !s.regionOk x.part reg b then s.endLaunch l 0x30#32
  else if !s.regionIdle x.part reg || s.gangs.any fun e => e.2.region.isSome && (descClusters b).contains (e.2.core / 16) then s
  else
    let r : Region :=
      { topo := bits (qwordAt b 0) 2 0, txm1 := bits (qwordAt b 0) 17 15, cls := descClusters b, queue := x.queue, order := (s.part x.part).stitches }
    (s.modPart x.part fun y => { y with regions := Table.insert y.regions reg r, stitches := y.stitches + 1 }).endLaunch l 0

section
variable {s s1 : State} {x : Launch} {b : List Byte} (h : s.packetDue s.ev.a 6 x)
  (hread : s.feRead x.part (x.qword 8) 128 false = (s1, .bytes b))
include h hread

theorem exec_stitchPacket : exec .stitchPacket s = .next (s1.stitch x s.ev.a b) := by
  refine (packetOfType_of_due h _).trans (congrArg Host.Outcome.next ?_)
  dsimp only
  rw [launch_of_due h, hread]
  rfl

theorem find_of_stitchRead : s1.launches.find s.ev.a = some x := by
  rw [show s1.launches = s.launches from congrArg Queues.launches (queues_free.feRead_eq hread)]
  exact find_of_due h

theorem stitchPacket_erases (hbit : bit (qwordAt b 0) 3 = true) (hidle : s1.regionIdle x.part (bits (qwordAt b 0) 6 4) = true) :
    s.gives .stitchPacket fun t =>
      s1.memoryKept t ∧ t.finished s.ev.a 0 ∧ (t.part x.part).regions.find (bits (qwordAt b 0) 6 4) = none := by
  have hfound := find_of_stitchRead h hread
  refine ⟨_, exec_stitchPacket h hread, ?_⟩
  unfold State.stitch
  dsimp only
  rw [if_pos hbit, if_pos hidle]
  refine ⟨memoryKept_of_mems (mems_endLaunch ..), finished_endLaunch (x := x) (by exact hfound) (running_of_due h) 0, ?_⟩
  rw [part_endLaunch, State.askFurther, part_modPart, part_modPart]
  split
  · exact Table.find_erase_same ..
  · exact Table.find_erase_same ..

theorem stitchPacket_stitches (hbit : bit (qwordAt b 0) 3 = false) (hok : s1.regionOk x.part (bits (qwordAt b 0) 6 4) b = true)
    (hidle : s1.regionIdle x.part (bits (qwordAt b 0) 6 4) = true)
    (hgangs : ∀ e ∈ s1.gangs, e.2.region.isSome = true → e.2.core / 16 ∉ descClusters b) : s.gives .stitchPacket fun t =>
      s1.memoryKept t ∧ t.finished s.ev.a 0 ∧ ∃ r, (t.part x.part).regions.find (bits (qwordAt b 0) 6 4) = some r ∧
        r.cls = descClusters b ∧ r.queue = x.queue ∧ r.topo = bits (qwordAt b 0) 2 0 ∧ r.txm1 = bits (qwordAt b 0) 17 15 ∧
        r.launch = none ∧ r.steps = 0 := by
  have hfound := find_of_stitchRead h hread
  have hnone : (s1.gangs.any fun e => e.2.region.isSome && (descClusters b).contains (e.2.core / 16)) = false := by
    rw [List.any_eq_false]
    intro e he
    simpa using hgangs e he
  refine ⟨_, exec_stitchPacket h hread, ?_⟩
  unfold State.stitch
  dsimp only
  rw [hbit, if_neg (by decide), hok, if_neg (by decide), hidle, hnone, if_neg (by decide)]
  refine ⟨memoryKept_of_mems (mems_endLaunch ..), finished_endLaunch (x := x) (by exact hfound) (running_of_due h) 0, ?_⟩
  rw [part_endLaunch, part_modPart]
  exact ⟨_, Table.find_insert_same .., rfl, rfl, rfl, rfl, rfl, rfl⟩

theorem stitchPacket_refuses (hbit : bit (qwordAt b 0) 3 = false) (hok : s1.regionOk x.part (bits (qwordAt b 0) 6 4) b = false) :
    s.gives .stitchPacket fun t => t.finished s.ev.a 0x30 := by
  refine ⟨_, exec_stitchPacket h hread, ?_⟩
  unfold State.stitch
  dsimp only
  rw [hbit, if_neg (by decide), hok, if_pos (by decide)]
  exact finished_endLaunch (find_of_stitchRead h hread) (running_of_due h) _

end

/-! ### Dependencies (R406) -/

/-- No record stands for a dependency any more. -/
def State.unwatch (s : State) (l i : Nat) : State := { s with deps := s.deps.filter fun d => !(d.launch == l && d.dep == i) }

/-- A dependency has been found met, before the record says so. -/
def State.meets (s : State) (l i : Nat) : State :=
  (s.unwatch l i).modLaunch l fun x =>
    { x with metWords := Table.insert x.metWords i (BitVec.ofNat 64 (x.dep i)), depmet := setBit x.depmet i true }

theorem depMet_leaves {s : State} {l : Nat} (h : (s.launches.find l).isSome = true) (i : Nat) :
    ((s.depMet l i).launch l).metDep i = true ∧ (i < 4 → ((s.depMet l i).launch l).depmet.getLsbD i = true) ∧
    ∀ d ∈ (s.depMet l i).deps, ¬(d.launch = l ∧ d.dep = i) := by
  have hq : (s.depMet l i).queues = (s.meets l i).queues := queues_putRecord ..
  rw [launch_of_queues hq, State.meets, launch_modLaunch (s := s.unwatch l i) h]
  refine ⟨?_, fun hi => ?_, fun d hd hmine => ?_⟩
  · show (Table.find (Table.insert _ i _) i == some _) = true
    rw [Table.find_insert_same]
    exact beq_self_eq_true _
  · exact (getLsbD_setBit_true ..).trans (decide_eq_true hi)
  · have hmem : (l, i) ∈ (s.depMet l i).queues.watched := List.mem_map.2 ⟨d, hd, by rw [hmine.1, hmine.2]⟩
    rw [hq] at hmem
    obtain ⟨e, he, hkey⟩ := List.mem_map.1 hmem
    have := (List.mem_filter.1 he).2
    simp only [Prod.mk.injEq] at hkey
    simp [hkey.1, hkey.2] at this

theorem dependencyEvaluation_meets {s : State} {x : Launch} (hx : s.launches.find s.ev.a = some x)
    (hd : ∃ d ∈ s.deps, d.launch = s.ev.a ∧ d.dep = s.ev.b ∧ d.met = true) : s.gives .dependencyEvaluation fun t =>
      (t.launch s.ev.a).metDep s.ev.b = true ∧ (s.ev.b < 4 → (t.launch s.ev.a).depmet.getLsbD s.ev.b = true) ∧
      ∀ d ∈ t.deps, ¬(d.launch = s.ev.a ∧ d.dep = s.ev.b) := by
  refine ⟨s.depMet s.ev.a s.ev.b, congrArg Host.Outcome.next (if_pos ?_), depMet_leaves (by rw [hx]; rfl) _⟩
  obtain ⟨d, hd, hl, hi, hm⟩ := hd
  exact List.any_eq_true.2 ⟨d, hd, by simp [hl, hi, hm]⟩

theorem dependencyEvaluation_idle {s : State} (h : ∀ d ∈ s.deps, ¬(d.launch = s.ev.a ∧ d.dep = s.ev.b ∧ d.met = true)) :
    s.gives .dependencyEvaluation fun t => t = s := by
  refine gives_idle (congrArg Host.Outcome.next (if_neg ?_))
  rw [List.any_eq_true]
  rintro ⟨d, hd, hm⟩
  exact h d hd (by simpa [and_assoc] using hm)

/-- A dependency of a launch is polled: the launch waits, and no record stands for the dependency. -/
structure State.polled (s s1 : State) (x : Launch) (l i pa : Nat) : Prop where
  found : s.launches.find l = some x
  waiting : x.state = 1
  running : x.ended = false
  named : i < min 4 x.depn
  unstalled : x.depTickets = []
  unwatched : ∀ d ∈ s.deps, ¬(d.launch = l ∧ d.dep = i)
  unmet : x.metDep i = false
  passes : s.check x.part (8 * x.part + 6) frontAsker (x.dep i / 8 * 8) 8 8 .read true false = (s1, .pass pa)

/-- A dependency's evaluation where its word passes its checks. -/
def State.evaluate (s : State) (x : Launch) (l i pa : Nat) : State :=
  let t := s.count x.part pa 0 (Config.frontDie x.part % 4)
  if bit (memQword t.mem pa) 0 == bit (x.dep i) 0 then t.depMet l i
  else if t.deps.length < 1024 ∧ !(t.deps.any fun d => d.launch == l && d.dep == i) then
    { t with deps := t.deps ++ [{ launch := l, dep := i, pa := pa, full := bit (x.dep i) 0 }] }
  else t

section
variable {s s1 : State} {x : Launch} {l i pa : Nat} (h : s.polled s1 x l i pa)
include h

theorem depEval_of_polled : s.depEval l i = s1.evaluate x l i pa := by
  unfold State.depEval
  dsimp only
  rw [launch_of_find h.found, h.running, h.unmet, if_neg (by decide), h.passes]
  rfl

theorem any_of_polled : (s.deps.any fun d => d.launch == l && d.dep == i) = false := by
  rw [List.any_eq_false]
  intro d hd
  simpa using h.unwatched d hd

theorem exec_dependencyPoll (hl : s.ev.a = l) (hi : s.ev.b = i) : exec .dependencyPoll s = .next (s1.evaluate x l i pa) := by
  have hdue : ((s.launch l).state == 1 && decide (i < min 4 (s.launch l).depn) && (s.launch l).depTickets.isEmpty &&
      !(s.deps.any fun d => d.launch == l && d.dep == i)) = true := by
    rw [launch_of_find h.found, any_of_polled h, h.waiting, h.unstalled, decide_eq_true h.named]
    rfl
  subst hl hi
  exact congrArg Host.Outcome.next ((if_pos hdue).trans (depEval_of_polled h))

theorem queues_of_polled : s1.queues = s.queues := queues_free.check_eq h.passes

/-- No record stands for a polled dependency after its check either. -/
theorem any_after_poll : (s1.deps.any fun d => d.launch == l && d.dep == i) = false := by
  have hkey (t : State) : (t.deps.any fun d => d.launch == l && d.dep == i) = t.queues.watched.any fun e => e.1 == l && e.2 == i :=
    (List.any_map (f := fun d : DepRec => (d.launch, d.dep)) (p := fun e : Nat × Nat => e.1 == l && e.2 == i)).symm
  rw [hkey, queues_of_polled h, ← hkey]
  exact any_of_polled h

theorem find_after_poll : s1.launches.find l = some x := by
  rw [show s1.launches = s.launches from congrArg Queues.launches (queues_of_polled h)]
  exact h.found

theorem evaluate_meets (hbit : bit (memQword s1.mem pa) 0 = bit (x.dep i) 0) :
    ((s1.evaluate x l i pa).launch l).metDep i = true := by
  unfold State.evaluate
  rw [count_slices]
  dsimp only
  rw [if_pos (by rw [hbit]; exact beq_self_eq_true _)]
  exact (depMet_leaves (by rw [show State.launches _ = s1.launches from rfl, find_after_poll h]; rfl) i).1

theorem evaluate_watches (hbit : bit (memQword s1.mem pa) 0 ≠ bit (x.dep i) 0) (hroom : s1.deps.length < 1024) :
    { launch := l, dep := i, pa := pa, full := bit (x.dep i) 0 } ∈ (s1.evaluate x l i pa).deps ∧
    ((s1.evaluate x l i pa).launch l).metDep i = false := by
  unfold State.evaluate
  rw [count_slices]
  dsimp only
  rw [if_neg (by simpa using hbit), if_pos ⟨hroom, by rw [any_after_poll h]; rfl⟩]
  refine ⟨List.mem_append_right _ (List.mem_singleton.2 rfl), ?_⟩
  exact (congrArg (Launch.metDep · i) (launch_of_find (find_after_poll h))).trans h.unmet

end

/-! ### The prologue's limit (R408) -/

theorem prologueWordLimit_ends {s : State} {x : Prologue} (hx : (s.part s.ev.a).prologue = some x) (hc : 256 ≤ x.count)
    (hl : (s.launches.find x.launch).isSome = true) : s.gives .prologueWordLimit fun t =>
      s.memoryKept t ∧ (t.part s.ev.a).prologue = none ∧ t.finished x.launch 0x630 := by
  have hend : s.endPrologue s.ev.a 0x630#32 = (s.modLaunch x.launch fun l => { l with status := 0x630#32, ended := true }).modPart s.ev.a
      fun q => { q with prologue := none } := by
    unfold State.endPrologue
    rw [hx]
  refine ⟨s.endPrologue s.ev.a 0x630#32, ?_, ?_⟩
  · show execPrologueWordLimit s = _
    unfold execPrologueWordLimit
    rw [hx]
    exact congrArg Host.Outcome.next (if_pos hc)
  · rw [hend]
    refine ⟨memoryKept_of_mems rfl, by rw [part_modPart], ?_⟩
    have hlaunch := launch_modLaunch hl fun l => { l with status := 0x630#32, ended := true }
    exact ⟨congrArg Launch.ended hlaunch, congrArg Launch.status hlaunch⟩

theorem prologueWordLimit_idle {s : State} {x : Prologue} (hx : (s.part s.ev.a).prologue = some x) (hc : x.count < 256) :
    s.gives .prologueWordLimit fun t => t = s := by
  refine gives_idle ?_
  show execPrologueWordLimit s = _
  unfold execPrologueWordLimit
  rw [hx]
  exact congrArg Host.Outcome.next (if_neg (by omega))

end Sys2Proof.Machine
end

section
/-! The front end's events (O54), clause by clause. -/

namespace Sys2Proof.Machine
open Sys2Proof

/-- Settles O54: every clause is one event's lemma. What the front end's own accesses change is kept apart by `AccessFree`
(queues, launches, dependencies and streams stay), what the end of a launch changes by `State.outside`. -/
theorem frontEndEvents : Obligations.FrontEndEvents := by
  rintro s _ ⟨-, rfl⟩
  refine ⟨?kick, ?badKick, ?map, queueMap_idle, ?idle, ageTick_ages s, ?choice, dispatchStreamChoice_idle, ?take, ?noTake, ?kernel,
    fun x => signalPacket_finishes, fun x => signalPacket_waits, fun x => barrierPacket_finishes, fun x => barrierPacket_waits,
    ?watch, ?stitch, fun x => dependencyEvaluation_meets, dependencyEvaluation_idle, ?poll, ?limit⟩
  case kick =>
    intro n x hc hq hslot hn
    refine ⟨doorbellKick_sets hc hq hslot hn, fun hi => doorbellKick_refuses ?_⟩
    rw [hc, kick_of_slot hq hslot, hi]
    rfl
  case badKick =>
    intro h
    refine doorbellKick_refuses ?_
    unfold State.kick
    exact if_pos h
  case map => exact fun x s1 b n s2 hx hq hr hread hd hi hroom => queueMap_maps hx hq hr hread hd hi hroom
  case idle =>
    intro x hx
    refine ⟨fun hs hp ht => slotIdleTimeout_frees hx ?_, fun h => slotIdleTimeout_idle hx ?_⟩
    · simp [State.timedOut, hs, hp, ht]
    · rcases h with h | h | h <;> simp [State.timedOut, h]
  case choice => exact fun l hs hr hl ht => dispatchStreamChoice_takes hs hr hl ht
  case take => exact fun x s1 b hx hc hr hread => packetTake_takes hx hc hr hread
  case noTake => exact fun x hx hc => packetTake_idle hx hc
  case kernel =>
    intro x hmet hstream
    refine ⟨fun h hb => becomes_ready rfl h hmet hstream fun _ => hb, fun h => becomes_ready rfl h hmet hstream fun hb => absurd hb (by decide),
      fun h hr => becomes_ready rfl h hmet hstream fun _ => binding_of_guarded (find_of_due h) (typ_of_due h) hr⟩
  case watch => exact fun x s1 pa n h hmet hcheck hn hq => watchPacket_arms h hmet hcheck hn hq
  case stitch =>
    exact fun x s1 b h hread => ⟨stitchPacket_erases h hread, stitchPacket_stitches h hread, stitchPacket_refuses h hread⟩
  case poll =>
    intro x s1 pa hx hs he hn ht hu hm hcheck
    have h : s.polled s1 x s.ev.a s.ev.b pa := ⟨hx, hs, he, hn, ht, hu, hm, hcheck⟩
    exact ⟨fun hbit => ⟨_, exec_dependencyPoll h rfl rfl, evaluate_meets h hbit⟩,
      fun hbit hroom => ⟨_, exec_dependencyPoll h rfl rfl, evaluate_watches h hbit hroom⟩⟩
  case limit => exact fun x hx => ⟨prologueWordLimit_ends hx, prologueWordLimit_idle hx⟩

end Sys2Proof.Machine
end

section
/-! The events of launches (O55): the state in which accepting a weave's commands moves another weave's lane. -/

namespace Sys2Proof.Machine
open Sys2Proof

/-- A command of weave 17 that found its queue full. -/
def queuedCommand : AsyncOp := { wk := 17, gang := 1, launch := 1, full := true }

/-- A command of weave 16 that waits for acceptance only. -/
def waitingCommand : AsyncOp := { wk := 16, gang := 1, launch := 1, fx := some (wordFX 0 0 false 0 0) }

/-- A gang of two weaves whose trap is ordered. The table of commands lists key 5 twice, for a command of each weave, and a
lane of weave 17 is held at the one that it names. -/
def twiceListed : State :=
  { launches := [(1, { escalated := [1] })]
    gangs := [(1, { launch := 1, weaves := 2 })]
    weaves := [(16, { gang := 1 }), (17, { gang := 1, num := 1, lanes := [(0, { hold := some (.cmdQueue 5) })] })]
    ops := [(5, queuedCommand), (5, waitingCommand)]
    ev := { a := 1 } }

/-- Where lane 0 of weave 17 resumes after an instruction. -/
def resumeAfter : Out → Dbl
  | .next t => ((t.weave 17).lane 0).faultPc
  | _ => 0

/-- The trap of weave 16 accepts the second entry of key 5, which lets lane 0 of weave 17 go on; weave 17 then saves the
header after its word. -/
theorem resumeAfter_preemptTrap : resumeAfter (exec .preemptTrap twiceListed) = 9 := by decide +kernel

theorem weaves_twiceListed : ∀ wk ∈ twiceListed.weavesOf 1, (twiceListed.weaves.find wk).isSome = true ∧
    (twiceListed.weave wk).gang = 1 ∧ (twiceListed.weave wk).ll = [] := by decide +kernel

/-- Refutes O55, by its clause on PREEMPT_TRAP alone: a lane held at a command's word is to resume there, but the clause
does not ask that the table of commands lists a key once, and in `twiceListed` the lane has gone on when its weave traps. -/
theorem not_launchEvents : ¬ Obligations.LaunchEvents := by
  intro h
  obtain ⟨-, -, -, -, -, -, -, -, -, -, -, -, -, -, htrap, -⟩ := h twiceListed { a := 1 } ⟨rfl, rfl⟩
  obtain ⟨t, ht, hweaves, -⟩ := htrap { launch := 1, weaves := 2 } rfl (by decide +kernel) rfl rfl (by decide +kernel)
    (by decide +kernel) weaves_twiceListed
  obtain ⟨-, hlanes⟩ := hweaves 17 (by decide +kernel) (by decide +kernel)
  obtain ⟨-, -, hresume⟩ := hlanes 0 (by decide) (by decide +kernel)
  have hpc : ((t.weave 17).lane 0).faultPc = 9 := by
    have := resumeAfter_preemptTrap
    rwa [ht] at this
  rw [hpc] at hresume
  exact absurd hresume (by decide +kernel)

end Sys2Proof.Machine
end

section
/-! Encoding and decoding (O58, O57). -/

namespace Sys2Proof.Laws
open Sys2Proof

/-- The round trip of any instruction: the lemma of its constructor, in the order of the constructors. -/
theorem Encoding.all (i : Instr) : Encoding.Statement i :=
  Instr.casesOn (motive := Encoding.Statement) i
    Encoding.iadd Encoding.iaddFi Encoding.isub Encoding.isubFi Encoding.imul Encoding.imulFi Encoding.imulh Encoding.imad
    Encoding.imadw Encoding.iabs Encoding.ineg Encoding.imin Encoding.iminFi Encoding.imax Encoding.imaxFi Encoding.and
    Encoding.andFi Encoding.or Encoding.orFi Encoding.xor Encoding.xorFi Encoding.not Encoding.andn Encoding.andnFi
    Encoding.shl Encoding.shlFi Encoding.shr Encoding.shrFi Encoding.rot Encoding.rotFi Encoding.bfe Encoding.bfeFi
    Encoding.bfi Encoding.popc Encoding.clz Encoding.ctz Encoding.brev Encoding.isel Encoding.icmp Encoding.icmpFi
    Encoding.iaddc Encoding.lea Encoding.leaFi Encoding.mov Encoding.movi Encoding.movhi Encoding.pand Encoding.por
    Encoding.pxor Encoding.idp4 Encoding.fadd Encoding.faddFi Encoding.fsub Encoding.fsubFi Encoding.fmul Encoding.fmulFi
    Encoding.ffma Encoding.fmin Encoding.fmax Encoding.fcmp Encoding.fcmpFi Encoding.frcp Encoding.fsqrt Encoding.frsq
    Encoding.fexp2 Encoding.flog2 Encoding.fsin Encoding.fcos Encoding.ftanh Encoding.hadd2 Encoding.hmul2 Encoding.hfma2
    Encoding.hdot2 Encoding.cvt Encoding.pack Encoding.unpack Encoding.qswap Encoding.qbcast Encoding.shfl Encoding.wred
    Encoding.srnd Encoding.d2Word Encoding.bra Encoding.brau Encoding.jmpi Encoding.call Encoding.calli Encoding.ret
    Encoding.meet Encoding.rejoin Encoding.exit Encoding.nop Encoding.yield Encoding.vote Encoding.actmask Encoding.sign
    Encoding.cvdecl Encoding.hwait Encoding.hwaitAll Encoding.htest Encoding.hcancel Encoding.hmov Encoding.hmovSt
    Encoding.hmovLd Encoding.gbar Encoding.cbar Encoding.rsend Encoding.rtake Encoding.rstat Encoding.trap Encoding.sysc
    Encoding.eret Encoding.rdsr Encoding.wrsr Encoding.stkset Encoding.clrflg Encoding.flgrd Encoding.ld Encoding.ldFi
    Encoding.st Encoding.stFi Encoding.lds Encoding.ldsFi Encoding.sts Encoding.stsFi Encoding.ldc Encoding.ldcFi
    Encoding.atom Encoding.fence Encoding.pfl1 Encoding.pfl1Fi Encoding.cctlIvl Encoding.cctlIvd Encoding.cctlIvi
    Encoding.nlease Encoding.nleaseSt Encoding.nrel Encoding.nspl Encoding.nfil Encoding.pgmap Encoding.pgdone Encoding.dld
    Encoding.dadd Encoding.dset Encoding.draw Encoding.steprd Encoding.steprdGe Encoding.steprdPend Encoding.stepadv
    Encoding.ftset Encoding.swpreg Encoding.swpregInv Encoding.swpregThr Encoding.swpregNow Encoding.swpstat
    Encoding.tcfgCfg Encoding.tcfgTile Encoding.tcfgrd Encoding.wlatch Encoding.cbkld Encoding.mma Encoding.mmas
    Encoding.mmal Encoding.mmac Encoding.opfence Encoding.accz Encoding.accrd Encoding.accwr Encoding.accld Encoding.accst
    Encoding.accprom Encoding.drain Encoding.drainundo Encoding.accstat Encoding.bform Encoding.blease Encoding.brel
    Encoding.bstat Encoding.bsave Encoding.bresume Encoding.wslot Encoding.wslotRd Encoding.bseamQ Encoding.bseamPair
    Encoding.bseamUn Encoding.tcopy Encoding.tcopyG Encoding.tmcast Encoding.tqnt Encoding.tdq Encoding.sload
    Encoding.sstore Encoding.bpref Encoding.sgpat Encoding.sgpatInv Encoding.sgstat Encoding.tfill Encoding.ratom
    Encoding.qenq Encoding.qdeq Encoding.qpark Encoding.qstat Encoding.qinit Encoding.qinitInv Encoding.cntrd
    Encoding.cntclr Encoding.watch Encoding.watchCancel Encoding.sflush Encoding.gres Encoding.gdist Encoding.tkcfg
    Encoding.tkins Encoding.tkmrgWv Encoding.tkmrgSt Encoding.tkmrgLd Encoding.tkrd Encoding.tkclr Encoding.tkstat
    Encoding.xst Encoding.xbcast Encoding.xstep Encoding.xstat Encoding.lsend Encoding.lpoll Encoding.lret
    Encoding.lbufcfgRx Encoding.lbufcfgTx Encoding.lbufcfgOff Encoding.xcnt Encoding.plset Encoding.plgo Encoding.plcancel
    Encoding.plrepeat Encoding.pldep Encoding.plstat Encoding.llWriteback Encoding.commandAccept Encoding.storeQueueLeave
    Encoding.weaveEnd Encoding.gangEnd Encoding.windowFaultDelivery Encoding.tlbWalk Encoding.pagerUpcall
    Encoding.invalidatePage Encoding.invalidateRange Encoding.invalidatePartition Encoding.invalidationDone
    Encoding.refusalLogClear Encoding.registerWrite Encoding.issueCycle Encoding.slotTableDeal Encoding.leaseRevoke
    Encoding.matrixOperationExecute Encoding.tcfgEffect Encoding.drainShard Encoding.bondFormComplete Encoding.roundGrant
    Encoding.roundIssue Encoding.roundComplete Encoding.operandLinkError Encoding.copyUnit Encoding.nvmeCompletion
    Encoding.nvmeTimeout Encoding.gdistCandidate Encoding.sliceReadRequest Encoding.sliceWriteRequest
    Encoding.sectorFillComplete Encoding.writeBackDrain Encoding.provisionalWrite Encoding.tileCommit Encoding.tileDiscard
    Encoding.watchFire Encoding.soloBoundary Encoding.sweepVisit Encoding.xstLand Encoding.escapementRelease
    Encoding.huapolFlitReceive Encoding.linkDown Encoding.slotFull Encoding.creditReceive Encoding.fullAcknowledgement
    Encoding.discardReport Encoding.doorbellKick Encoding.queueMap Encoding.slotIdleTimeout Encoding.ageTick
    Encoding.dispatchStreamChoice Encoding.packetTake Encoding.directPacket Encoding.indirectPacket Encoding.guardedPacket
    Encoding.signalPacket Encoding.watchPacket Encoding.barrierPacket Encoding.stitchPacket Encoding.dependencyEvaluation
    Encoding.dependencyPoll Encoding.prologueWordLimit Encoding.prologueRepeat Encoding.gangDispatch
    Encoding.launchCompletion Encoding.tileDecision Encoding.runLimitExpiry Encoding.priorityWaitExpiry
    Encoding.drainDeadlineExpiry Encoding.preemptTrap Encoding.launchResume Encoding.commandLinkMessage
    Encoding.commandLinkError Encoding.syscNull Encoding.syscSaveDone Encoding.syscPartitionInfo Encoding.syscTime
    Encoding.syscLog Encoding.pcreate Encoding.pdestroy Encoding.psuspend Encoding.presume Encoding.storset
    Encoding.imgwrite Encoding.attest Encoding.provision Encoding.reset Encoding.fullServiceSwitch Encoding.thermalHold
    Encoding.thermalRelease Encoding.thermalTrip Encoding.securityAlarm Encoding.correctedError Encoding.uncorrectableError
    Encoding.scratchpadBankGate Encoding.scratchpadBankWake Encoding.l2WayGate Encoding.l2WayWake Encoding.matrixCommandUnit
    Encoding.tkmrgResolve Encoding.lsendDeparture

/-- Settles O58, constructor by constructor. -/
theorem encodeDecodeRoundTrip : Obligations.EncodeDecodeRoundTrip := fun i w hw he => Encoding.all i hw w he

/-- Settles O57: each worked word is the encoding of its instruction, so the round trip (O58) decodes it; an unassigned
opcode and an FX word of an opcode without that format are refused. -/
theorem decodedWords : Obligations.DecodedWords := by
  dsimp only [Obligations.DecodedWords]
  iterate 26 refine ⟨encodeDecodeRoundTrip _ _ (by decide +kernel) (by decide +kernel), ?_⟩
  exact ⟨by decide +kernel, by decide +kernel⟩

end Sys2Proof.Laws
end

section
/-! What a word's effect leaves (O6, O8, O19): a change of its weave, and lanes that go on. -/

namespace Sys2Proof.Table

/-- Replacing a value by a function of itself is applying the function. -/
theorem modify_get {α : Type} (d : α) (t : Table α) (k : Nat) (f : α → α) : (t.modify k fun _ => f (get d t k)) = t.modify k f := by
  induction t with
  | nil => rfl
  | cons e t ih =>
    unfold modify get
    split
    · rfl
    · rw [ih]

end Sys2Proof.Table

namespace Sys2Proof.Machine
open Sys2Proof

/-! ### Lanes that go on -/

/-- A lane as it goes on past the word (R61). -/
def Lane.goOn (c : Ctx) (l : Lane) : Lane := if c.last then l.goto c.next true else l.goto (c.pc + 8) false

/-- Where a lane stands that has gone on. -/
def Ctx.gone (c : Ctx) : Dbl × Bool × Option Hold := if c.last then (c.next, true, none) else (c.pc + 8, false, none)

theorem stand_goOn (c : Ctx) (l : Lane) : (l.goOn c).stand = c.gone := by
  unfold Lane.goOn Ctx.gone
  cases c.last <;> rfl

theorem past_iff_stand {t : State} {k : Ctx} {m : BitVec 32} :
    t.past k m ↔ ∀ l, l < 32 → m.getLsbD l = true → ((t.weave k.wk).lane l).stand = k.gone := by
  unfold State.past Lane.stand Ctx.gone
  cases k.last <;> simp

theorem kept_modLanes_goOn (w : Weave) (c : Ctx) (m : BitVec 32) (o : Operand) (l : Nat) :
    (w.modLanes m (Lane.goOn c)).kept o l = w.kept o l := by
  apply modLanes_kept
  all_goals
    intro x
    unfold Lane.goOn
    cases c.last <;> rfl

theorem weave_advance {s : State} {k : Ctx} (hw : (s.weaves.find k.wk).isSome = true) (m : BitVec 32) :
    (s.advance k m).weave k.wk = (s.weave k.wk).modLanes m (Lane.goOn k) := weave_modWeave hw _

theorem lowest_lt (m : BitVec 32) : lowest m < 32 := by
  unfold lowest
  cases h : lanesOf m with
  | nil => decide
  | cons l ls => exact (mem_lanesOf.1 (h ▸ List.mem_cons_self)).1

/-- What a destination took depends on what it holds, and on the values of the 32 lanes. -/
theorem took_congr {w x : Weave} {o : Operand} {m : BitVec 32} {f f' : Nat → Word} (hk : ∀ l, l < 32 → x.kept o l = w.kept o l)
    (hf : ∀ l, l < 32 → f l = f' l) (h : w.took o m f) : x.took o m f' := by
  unfold Weave.took at h ⊢
  split
  · next ho =>
    rw [if_pos ho] at h
    exact fun l hl hm => by rw [hk l hl, h l hl hm, hf l hl]
  · next ho =>
    rw [if_neg ho] at h
    exact fun hm => by rw [hk 0 (by decide), h hm, hf _ (lowest_lt m)]

/-! ### Frames of a weave, of results that come at once or later -/

section
variable {r : Weave → Weave} {w x y : Weave} {k : Ctx} {ds es : List Operand}

theorem keepsBy_trans (h1 : Weave.keepsBy r w x k ds) (h2 : Weave.keepsBy r x y k ds) : Weave.keepsBy r w y k ds := by
  obtain ⟨hr1, hk1, hl1, hp1⟩ := h1
  obtain ⟨hr2, hk2, hl2, hp2⟩ := h2
  exact ⟨hr2.trans hr1, fun o l hl ho => (hk2 o l hl ho).trans (hk1 o l hl ho), fun l => (hl2 l).trans (hl1 l),
    fun l hl hm => ⟨(hp2 l hl hm).1.trans (hp1 l hl hm).1, (hp2 l hl hm).2.trans (hp1 l hl hm).2⟩⟩

theorem keepsBy_mono (h : Weave.keepsBy r w x k ds) (hs : ds ⊆ es) : Weave.keepsBy r w x k es :=
  ⟨h.1, fun o l hl ho => h.2.1 o l hl fun hd => ho (hs hd), h.2.2⟩

/-- What keeps the rest of a weave keeps it under every coarser view. -/
theorem keepsBy_of_keeps (hr : ∀ w x : Weave, x.rest = w.rest → r x = r w) (h : Weave.keeps w x k ds) : Weave.keepsBy r w x k ds :=
  ⟨hr _ _ h.1, h.2⟩

end

theorem restLL_of_rest (w x : Weave) (h : x.rest = w.rest) : x.restLL = w.restLL := by
  rw [Weave.restLL, Weave.restLL, h]

theorem keeps_goOn (w : Weave) (k : Ctx) {m : BitVec 32} (hm : ∀ l, l < 32 → m.getLsbD l = true → k.lanes.getLsbD l = true)
    (ds : List Operand) : Weave.keeps w (w.modLanes m (Lane.goOn k)) k ds := by
  unfold Lane.goOn
  cases k.last
  · exact keeps_goto _ k m hm _ _ ds
  · exact keeps_goto _ k m hm _ _ ds

/-! ### From the state in which the effect begins -/

/-- Beside its weave, the counter of free values and the lines cached in cores, a word's effect has changed nothing. -/
def Issue.onlyWeave (x : Issue) (t : State) : Prop :=
  ({ t with weaves := x.b.weaves, free := x.b.free, cores := x.b.cores } : State) = x.b ∧
  ∀ j, j ≠ x.k.wk → t.weaves.find j = x.b.weaves.find j

theorem onlyWeave_refl (x : Issue) : x.onlyWeave x.b := ⟨rfl, fun _ _ => rfl⟩

theorem onlyWeave_modWeave {x : Issue} {t : State} (ht : x.onlyWeave t) (f : Weave → Weave) : x.onlyWeave (t.modWeave x.k.wk f) :=
  ⟨ht.1, fun j hj => by rw [State.modWeave, Table.find_modify, if_neg hj]; exact ht.2 j hj⟩

section
variable {s : State} {k : Ctx} (h : s.inHand k) (g : Gate)
include h

theorem frameBy_of_onlyWeave {r : Weave → Weave} (hr : ∀ w x : Weave, x.rest = w.rest → r x = r w) {t : State} {ds : List Operand}
    (ht : (s.issueOf k g).onlyWeave t) (hk : Weave.keepsBy r ((s.issueOf k g).b.weave k.wk) (t.weave k.wk) k ds) :
    s.frameBy r t k ds := by
  obtain ⟨hout, hother⟩ := ht
  obtain ⟨hbout, hbother, hbmem, hbkeeps⟩ := frame_b h g
  have hmem := congrArg State.mem hout
  dsimp only at hmem
  refine ⟨?_, fun j hj => (hother j hj).trans (hbother j hj), fun a => by rw [hmem, hbmem], ?_⟩
  · have hs := congrArg (fun u : State => ({ u with weaves := s.weaves, free := s.free, cores := s.cores } : State)) hout
    exact hs.trans hbout
  · exact keepsBy_trans (keepsBy_mono (keepsBy_of_keeps hr hbkeeps) (List.nil_subset _)) hk

theorem fpsw_b : ((s.issueOf k g).b.weave k.wk).fpsw = (s.weave k.wk).fpsw := kept_b h g (.special .fpsw) (l := 0) (by decide)

/-- The lanes of the set have gone on: those that execute it as its effect ends, the others as it began. -/
theorem past_of_goOn {t : State} {y : Weave} (ht : t.weave k.wk = y.modLanes (s.issueOf k g).act (Lane.goOn k))
    (hy : ∀ l, (y.lane l).stand = (((s.issueOf k g).b.weave k.wk).lane l).stand) : t.past k k.lanes := by
  refine past_iff_stand.2 fun l hl hc => ?_
  rw [ht, lane_modLanes]
  split
  · exact stand_goOn ..
  · next hn => rw [hy]; exact stand_b h g hl hc (by simpa [hl] using hn)

end

/-- A word that only weaves run, by what its effect leaves. -/
theorem runs_of_effect {i : Instr} {gate : State → Ctx → Gate} {ok : Issue → Prop} {post : Issue → State → Prop}
    {eff : State → Ctx → Env → BitVec 32 → State → State}
    (hexec : ∀ s, exec i s = weaveOnly s fun k => s.runWord k (gate s k) (eff s k))
    (hpost : ∀ s k, s.inHand k → s.passes k (gate s k) = true → ok (s.issueOf k (gate s k)) →
      post (s.issueOf k (gate s k)) (eff s k (s.issueOf k (gate s k)).e (s.issueOf k (gate s k)).act (s.issueOf k (gate s k)).b)) :
    Runs i gate ok post := fun s k h hp hok =>
  ⟨_, (hexec s).trans (weaveOnly_runWord (g := gate s) h hp (eff s)), hpost s k h hp hok⟩

end Sys2Proof.Machine
end

section
/-! The shared effect of LA (O6, O8): lanes that compute, generators that step, values written or outstanding. -/

namespace Sys2Proof.Machine
open Sys2Proof

/-! ### The lanes that compute (R163) -/

theorem lanesOf_single : ∀ i < 32, lanesOf (setBit 0 i true) = [i] := by decide +kernel

theorem lanesOf_computing (o : Operand) (m : BitVec 32) :
    lanesOf (computing o m) = if perLane o then lanesOf m else (lanesOf m).take 1 := by
  unfold computing
  split
  · rfl
  · split
    · next hm => rw [hm]; rfl
    · next hm =>
      cases hl : lanesOf m with
      | nil => exact absurd (lanesOf_eq_nil.1 hl) hm
      | cons i ls =>
        have hi : i < 32 := (mem_lanesOf.1 (hl ▸ List.mem_cons_self)).1
        have hlow : lowest m = i := by rw [lowest, hl]; rfl
        rw [hlow, lanesOf_single i hi]
        rfl

/-- No lane computes only where no lane executes. -/
theorem eq_zero_of_computing {o : Operand} {m : BitVec 32} (h : lanesOf (computing o m) = []) : m = 0 := by
  rw [lanesOf_computing] at h
  split at h
  · exact lanesOf_eq_nil.1 h
  · cases hl : lanesOf m with
    | nil => exact lanesOf_eq_nil.1 hl
    | cons i ls => rw [hl] at h; cases h

/-! ### Generators step (R101) -/

/-- The generator of a lane takes a value. -/
def Weave.stepGen (w : Weave) (l : Nat) (v : Word) : Weave := if v = (w.lane l).gen then w else w.modLane l fun x => { x with gen := v }

/-- The generators of lanes take values. -/
def Weave.stepGens (w : Weave) (ls : List Nat) (f : Nat → Word) : Weave := ls.foldl (fun w l => w.stepGen l (f l)) w

theorem lane_stepGen (w : Weave) (l j : Nat) (v : Word) :
    (w.stepGen l v).lane j = if j = l then { w.lane j with gen := v } else w.lane j := by
  unfold Weave.stepGen
  split
  · next hv =>
    split
    · next hj => rw [hv, hj]
    · rfl
  · rw [lane_modLane]
    split
    · next hj => rw [hj]
    · rfl

theorem lane_stepGens {ls : List Nat} (hn : ls.Nodup) (w : Weave) (f : Nat → Word) (j : Nat) :
    (w.stepGens ls f).lane j = if j ∈ ls then { w.lane j with gen := f j } else w.lane j := by
  induction ls generalizing w with
  | nil => simp [Weave.stepGens]
  | cons l ls ih =>
    obtain ⟨hl, hn'⟩ := List.nodup_cons.1 hn
    refine (ih hn' (w.stepGen l (f l))).trans ?_
    rw [lane_stepGen]
    by_cases hj : j = l
    · simp [hj, hl]
    · simp [hj]

theorem keeps_stepGen (w : Weave) (k : Ctx) (l : Nat) (v : Word) : Weave.keeps w (w.stepGen l v) k [.special .sdlo, .special .sdhi] := by
  unfold Weave.stepGen
  split
  · exact keeps_refl ..
  · refine keeps_modLane _ _ _ _ _ rfl rfl rfl fun o j _ ho => kept_modLane _ _ _ _ _ fun x => ?_
    cases o with
    | special q =>
      cases q with
      | sdlo | sdhi => simp at ho
      | _ => rfl
    | _ => rfl

theorem keeps_stepGens (w : Weave) (k : Ctx) (ls : List Nat) (f : Nat → Word) :
    Weave.keeps w (w.stepGens ls f) k [.special .sdlo, .special .sdhi] := by
  induction ls generalizing w with
  | nil => exact keeps_refl ..
  | cons l ls ih => exact keeps_trans (keeps_stepGen w k l (f l)) (ih _)

theorem stand_stepGens {ls : List Nat} (hn : ls.Nodup) (w : Weave) (f : Nat → Word) (j : Nat) :
    ((w.stepGens ls f).lane j).stand = (w.lane j).stand := by
  rw [lane_stepGens hn]
  split <;> rfl

/-- A generator is its two halves. -/
theorem eq_of_halves {a b : Word} (hlo : a &&& 0xFFFF#32 = b &&& 0xFFFF#32) (hhi : a >>> 16 = b >>> 16) : a = b := by
  apply BitVec.eq_of_getLsbD_eq
  intro i hi
  by_cases h : i < 16
  · have hbit := congrArg (·.getLsbD i) hlo
    simpa [BitVec.getLsbD_and, getLsbD_low, h] using hbit
  · have hbit := congrArg (·.getLsbD (i - 16)) hhi
    simpa [BitVec.getLsbD_ushiftRight, show 16 + (i - 16) = i by omega] using hbit

/-- What keeps the halves of a generator as registers keeps the generator. -/
theorem gen_of_kept {w x : Weave} {l : Nat} (hlo : x.kept (.special .sdlo) l = w.kept (.special .sdlo) l)
    (hhi : x.kept (.special .sdhi) l = w.kept (.special .sdhi) l) : (x.lane l).gen = (w.lane l).gen := eq_of_halves hlo hhi

/-! ### Values written at once -/

/-- A destination takes the values of lanes, one for the weave where it is uniform. -/
def Weave.wrAll (w : Weave) (o : Operand) (ls : List Nat) (f : Nat → Word) : Weave := ls.foldl (fun w l => w.wr o (laneKey o l) (f l)) w

theorem laneKey_lt (o : Operand) {l : Nat} (h : l < 32) : laneKey o l < 32 := by
  unfold laneKey
  split
  · exact h
  · decide

theorem keeps_wrAll (w : Weave) (k : Ctx) (o : Operand) {ls : List Nat} (hl : ∀ l ∈ ls, l < 32) (f : Nat → Word) :
    Weave.keeps w (w.wrAll o ls f) k [o] := by
  induction ls generalizing w with
  | nil => exact keeps_refl ..
  | cons l ls ih =>
    obtain ⟨hlt, hls⟩ := List.forall_mem_cons.1 hl
    exact keeps_trans (keeps_wr w k o _ (f l) (laneKey_lt o hlt)) (ih _ hls)

theorem stand_wrAll (w : Weave) (o : Operand) (ls : List Nat) (f : Nat → Word) (j : Nat) :
    ((w.wrAll o ls f).lane j).stand = (w.lane j).stand :=
  foldl_keeps (fun w : Weave => (w.lane j).stand) _ (fun w l => stand_wr w o _ (f l) j) ls w

theorem took_wrAll (w : Weave) {o : Operand} (h0 : o ≠ .p 0) (m : BitVec 32) (f : Nat → Word) :
    (w.wrAll o (lanesOf (computing o m)) f).took o m f := by
  rw [lanesOf_computing]
  unfold Weave.took Weave.wrAll laneKey
  by_cases ho : perLane o = true
  · simp only [ho, if_true]
    intro l hl hm
    rw [kept_foldl_wr o f ho h0 _ (nodup_lanesOf m) (fun l h => (mem_lanesOf.1 h).1) w l hl, if_pos (mem_lanesOf.2 ⟨hl, hm⟩)]
  · simp only [ho, if_false, Bool.false_eq_true]
    intro hm
    cases hl : lanesOf m with
    | nil => exact absurd (lanesOf_eq_nil.1 hl) hm
    | cons l ls =>
      have hlow : lowest m = l := by rw [lowest, hl]; rfl
      rw [hlow]
      exact kept_wr_same w o 0 (f l) h0

/-! ### Flags are raised (R104) -/

/-- fpsw gains flags. -/
def Weave.raise (w : Weave) (f : Flags) : Weave := { w with fpsw := w.fpsw ||| f.setWidth 32 }

theorem kept_raise (w : Weave) (f : Flags) {o : Operand} (ho : o ≠ .special .fpsw) (l : Nat) : (w.raise f).kept o l = w.kept o l := by
  cases o with
  | special q =>
    cases q with
    | fpsw => exact absurd rfl ho
    | _ => rfl
  | _ => rfl

theorem keeps_raise (w : Weave) (k : Ctx) (f : Flags) : Weave.keeps w (w.raise f) k [.special .fpsw] :=
  ⟨rfl, fun _ l _ ho => kept_raise w f (List.ne_of_not_mem_cons ho) l, fun _ => rfl, fun _ _ _ => ⟨rfl, rfl⟩⟩

/-- The flags that the lanes which compute raise, from the generators of a weave. -/
def Weave.raised (w : Weave) (k : Ctx) (o : Operand) (m : BitVec 32) (val : Nat → Word → Val) : Flags :=
  (lanesOf (computing o m)).foldl (fun f l =>
    if (if perLane o then k.helpers.getLsbD l else decide (m &&& ~~~k.helpers = 0)) then f else f ||| (val l (w.lane l).gen).2.1) 0

/-! ### A long-latency result -/

/-- An element with a ready result outstanding takes its old or that result's value, and the result no longer writes it. -/
def Weave.meet (free : Nat) (w : Weave) (x : LLWrite × Nat) : Weave :=
  match w.pendingWrite x.1.dst x.1.lane with
  | none => w
  | some v => (if Config.freeBit (free + x.2) then w.put x.1.dst x.1.lane v else w).cancelWrites (·.ready) x.1.dst x.1.lane

theorem keeps_cancelWrites (w : Weave) (k : Ctx) (f : LLPend → Bool) (o : Operand) (l : Nat) (ds : List Operand) :
    Weave.keeps w (w.cancelWrites f o l) k ds := by
  unfold Weave.cancelWrites
  split
  · exact keeps_refl ..
  · exact keeps_of_eq k ds rfl rfl rfl rfl rfl

theorem keeps_meet (w : Weave) (k : Ctx) (free : Nat) {x : LLWrite × Nat} (hx : x.1.lane < 32) : Weave.keeps w (w.meet free x) k [x.1.dst] := by
  unfold Weave.meet
  split
  · exact keeps_refl ..
  · refine keeps_trans ?_ (keeps_cancelWrites ..)
    split
    · exact keeps_put _ _ _ _ _ hx
    · exact keeps_refl ..

theorem stand_cancelWrites (w : Weave) (f : LLPend → Bool) (o : Operand) (l j : Nat) :
    ((w.cancelWrites f o l).lane j).stand = (w.lane j).stand := by
  unfold Weave.cancelWrites
  split <;> rfl

theorem stand_meet (free : Nat) (w : Weave) (x : LLWrite × Nat) (j : Nat) : ((w.meet free x).lane j).stand = (w.lane j).stand := by
  unfold Weave.meet
  split
  · rfl
  · rw [stand_cancelWrites]
    split
    · exact stand_put ..
    · rfl

theorem keeps_foldl_meet (k : Ctx) (free : Nat) (o : Operand) {xs : List (LLWrite × Nat)} (hx : ∀ x ∈ xs, x.1.dst = o ∧ x.1.lane < 32)
    (w : Weave) : Weave.keeps w (xs.foldl (Weave.meet free) w) k [o] := by
  induction xs generalizing w with
  | nil => exact keeps_refl ..
  | cons x xs ih =>
    obtain ⟨⟨rfl, hlane⟩, hxs⟩ := List.forall_mem_cons.1 hx
    exact keeps_trans (keeps_meet w k free hlane) (ih hxs _)

/-- A result that will come back is outstanding: its elements have met earlier results, and the clause counts it. -/
theorem issueLL_eq (w : Weave) (free cl : Nat) (writes : List LLWrite) (la : Bool) (flags : Flags) (ready : Bool) :
    ∃ cs p, w.issueLL free cl writes la flags ready =
      { writes.zipIdx.foldl (Weave.meet free) w with clauses := cs, nextId := (writes.zipIdx.foldl (Weave.meet free) w).nextId + 1, ll := p } :=
  ⟨_, _, rfl⟩

theorem keepsBy_issueLL (w : Weave) (k : Ctx) {o : Operand} {writes : List LLWrite} (hw : ∀ x ∈ writes, x.dst = o ∧ x.lane < 32)
    (free cl : Nat) (la : Bool) (flags : Flags) (ready : Bool) :
    Weave.keepsBy Weave.restLL w (w.issueLL free cl writes la flags ready) k [o] := by
  obtain ⟨cs, p, he⟩ := issueLL_eq w free cl writes la flags ready
  have hmeet := keeps_foldl_meet k free o (xs := writes.zipIdx) (fun x hx => hw x.1 (List.fst_mem_of_mem_zipIdx hx)) w
  rw [he]
  exact keepsBy_trans (keepsBy_of_keeps restLL_of_rest hmeet)
    ⟨rfl, fun q _ _ _ => kept_congr q (fun _ => rfl) (fun _ => rfl) rfl rfl rfl rfl rfl, fun _ => rfl, fun _ _ _ => ⟨rfl, rfl⟩⟩

theorem stand_issueLL (w : Weave) (free cl : Nat) (writes : List LLWrite) (la : Bool) (flags : Flags) (ready : Bool) (j : Nat) :
    ((w.issueLL free cl writes la flags ready).lane j).stand = (w.lane j).stand := by
  obtain ⟨cs, p, he⟩ := issueLL_eq w free cl writes la flags ready
  rw [he]
  exact foldl_keeps (fun w : Weave => (w.lane j).stand) _ (fun w x => stand_meet free w x j) _ w

end Sys2Proof.Machine
end

section
/-! Floating-point words (O8): what the shared effect of LA leaves, and the obligation. -/

namespace Sys2Proof.Machine
open Sys2Proof

/-! ### The effect on the weave -/

section
variable (w : Weave) (k : Ctx) (free : Nat) (act : BitVec 32) (o : Operand) (ll : Bool) (val : Nat → Word → Val)

/-- The generators of the lanes that compute have stepped. -/
def Weave.stepped : Weave := w.stepGens (lanesOf (computing o act)) fun l => (val l (w.lane l).gen).2.2

/-- The values are written. -/
def Weave.written : Weave := (w.stepped act o val).wrAll o (lanesOf (computing o act)) fun l => (val l (w.lane l).gen).1

/-- The values are outstanding. -/
def Weave.awaited : Weave :=
  (w.stepped act o val).issueLL free k.run
    ((lanesOf (computing o act)).map fun l => { dst := o, lane := laneKey o l, val := (val l (w.lane l).gen).1 }) true
    (w.raised k o act val) true

/-- What the shared effect of LA does to its weave; where no lane executes, only the destination's latch goes. -/
def Weave.applied : Weave :=
  if (lanesOf (computing o act)).isEmpty then w.dropDst o
  else if ll then w.awaited k free act o val
  else (w.written act o val).raise (w.raised k o act val)

end

theorem modWeave_weave (s : State) (wk : Nat) (f : Weave → Weave) : (s.modWeave wk fun _ => f (s.weave wk)) = s.modWeave wk f := by
  unfold State.modWeave
  rw [← Table.modify_get {} s.weaves wk f]
  rfl

theorem laApply_eq (s : State) (k : Ctx) (act : BitVec 32) (o : Operand) (ll : Bool) (val : Nat → Word → Val) :
    ∃ n, s.laApply k act o ll val = { s.modWeave k.wk (·.applied k s.free act o ll val) with free := n } := by
  unfold State.laApply
  dsimp only
  rw [← lanesOf_computing]
  by_cases hls : (lanesOf (computing o act)).isEmpty = true
  · exact ⟨s.free, by simp only [Weave.applied, hls, if_true]; rfl⟩
  · rw [if_neg hls, ← modWeave_weave s k.wk (·.applied k s.free act o ll val)]
    cases ll
    · refine ⟨s.free, ?_⟩
      simp only [Weave.applied, if_neg hls, List.foldl_map, Bool.false_eq_true, if_false]
      rfl
    · refine ⟨s.free + 32, ?_⟩
      simp only [Weave.applied, if_neg hls, List.foldl_map, List.map_map, if_true]
      rfl

section
variable (w : Weave) (k : Ctx) (free : Nat) (act : BitVec 32) {o : Operand} (ll : Bool) (val : Nat → Word → Val)

theorem stand_applied (j : Nat) : ((w.applied k free act o ll val).lane j).stand = (w.lane j).stand := by
  have hstep := stand_stepGens (nodup_lanesOf (computing o act)) w (fun l => (val l (w.lane l).gen).2.2) j
  unfold Weave.applied
  split
  · rw [lane_dropDst]
  · split
    · exact (stand_issueLL ..).trans hstep
    · exact (stand_wrAll ..).trans hstep

theorem keeps_stepped : Weave.keeps w (w.stepped act o val) k [.special .sdlo, .special .sdhi] := keeps_stepGens ..

theorem keeps_writing (f : Nat → Word) : Weave.keeps w (w.wrAll o (lanesOf (computing o act)) f) k [o] :=
  keeps_wrAll w k o (fun _ hl => (mem_lanesOf.1 hl).1) f

theorem keepsBy_awaiting : Weave.keepsBy Weave.restLL (w.stepped act o val) (w.awaited k free act o val) k [o] := by
  refine keepsBy_issueLL _ k (o := o) (fun x hx => ?_) ..
  obtain ⟨l, hl, rfl⟩ := List.mem_map.1 hx
  exact ⟨rfl, laneKey_lt o (mem_lanesOf.1 hl).1⟩

/-- A result that is written at once changes its destination, fpsw and generators. -/
theorem keeps_applied : Weave.keeps w (w.applied k free act o false val) k [o, .special .fpsw, .special .sdlo, .special .sdhi] := by
  unfold Weave.applied
  split
  · exact keeps_dropDst ..
  · exact keeps_trans (keeps_trans (keepsBy_mono (keeps_stepped w k act val) (by simp)) (keepsBy_mono (keeps_writing ..) (by simp)))
      (keepsBy_mono (keeps_raise ..) (by simp))

/-- The same of any result, but for the clause's bindings and the number of the next result. -/
theorem keepsBy_applied :
    Weave.keepsBy Weave.restLL w (w.applied k free act o ll val) k [o, .special .fpsw, .special .sdlo, .special .sdhi] := by
  cases ll with
  | false => exact keepsBy_of_keeps restLL_of_rest (keeps_applied ..)
  | true =>
    unfold Weave.applied
    split
    · exact keepsBy_of_keeps restLL_of_rest (keeps_dropDst ..)
    · exact keepsBy_trans (keepsBy_mono (keepsBy_of_keeps restLL_of_rest (keeps_stepped w k act val)) (by simp))
        (keepsBy_mono (keepsBy_awaiting ..) (by simp))

theorem gen_stepped {l : Nat} (hl : l < 32) :
    ((w.stepped act o val).lane l).gen = if (computing o act).getLsbD l then (val l (w.lane l).gen).2.2 else (w.lane l).gen := by
  have hmem : l ∈ lanesOf (computing o act) ↔ (computing o act).getLsbD l = true := by rw [mem_lanesOf]; exact and_iff_right hl
  unfold Weave.stepped
  rw [lane_stepGens (nodup_lanesOf _)]
  simp only [hmem, apply_ite Lane.gen]

/-- Unless the word writes a half of a generator, the generators are those that have stepped. -/
theorem gen_applied (hlo : o ≠ .special .sdlo) (hhi : o ≠ .special .sdhi) {l : Nat} (hl : l < 32) :
    ((w.applied k free act o ll val).lane l).gen =
      if (computing o act).getLsbD l then (val l (w.lane l).gen).2.2 else (w.lane l).gen := by
  rw [← gen_stepped w act val hl]
  unfold Weave.applied
  split
  · next hls =>
    unfold Weave.stepped
    rw [lane_dropDst, List.isEmpty_iff.1 hls]
    rfl
  · refine gen_of_kept ?_ ?_
    all_goals
      split
      · exact (keepsBy_awaiting ..).2.1 _ l hl (by simp [Ne.symm hlo, Ne.symm hhi])
      · refine (kept_raise _ _ (by simp) l).trans ?_
        exact (keeps_writing (w.stepped act o val) k act _).2.1 _ l hl (by simp [Ne.symm hlo, Ne.symm hhi])

theorem took_applied (h0 : o ≠ .p 0) (hps : o ≠ .special .fpsw) :
    (w.applied k free act o false val).took o act fun l => (val l (w.lane l).gen).1 := by
  by_cases hact : act = 0
  · rw [hact]
    unfold Weave.took
    split
    · exact fun l _ hm => by simp at hm
    · exact fun hne => absurd rfl hne
  · have hls : ¬(lanesOf (computing o act)).isEmpty = true := fun h => hact (eq_zero_of_computing (List.isEmpty_iff.1 h))
    unfold Weave.applied
    rw [if_neg hls, if_neg (by decide)]
    exact took_congr (fun l _ => kept_raise _ _ hps l) (fun _ _ => rfl) (took_wrAll (w.stepped act o val) h0 act _)

theorem fpsw_applied (hps : o ≠ .special .fpsw) :
    (w.applied k free act o false val).fpsw = w.fpsw ||| (w.raised k o act val).setWidth 32 := by
  have hstep := (keeps_stepped w k act (o := o) val).2.1 (.special .fpsw) 0 (by decide) (by simp)
  have hwr := (keeps_writing (w.stepped act o val) k act (o := o) fun l => (val l (w.lane l).gen).1).2.1 (.special .fpsw) 0 (by decide)
    (by simp [Ne.symm hps])
  unfold Weave.applied
  split
  · next hls =>
    have hdrop : (w.dropDst o).fpsw = w.fpsw := by cases o <;> rfl
    unfold Weave.raised
    rw [List.isEmpty_iff.1 hls, hdrop]
    exact (BitVec.or_zero).symm
  · rw [if_neg (by decide)]
    exact congrArg (· ||| (w.raised k o act val).setWidth 32) (hwr.trans hstep)

end

/-! ### The effect on the state -/

theorem weave_laApply {s : State} {k : Ctx} (hw : (s.weaves.find k.wk).isSome = true) (act : BitVec 32) (o : Operand) (ll : Bool)
    (val : Nat → Word → Val) : (s.laApply k act o ll val).weave k.wk = (s.weave k.wk).applied k s.free act o ll val := by
  obtain ⟨n, he⟩ := laApply_eq s k act o ll val
  rw [he]
  exact weave_modWeave hw _

theorem isSome_laApply {s : State} {k : Ctx} (hw : (s.weaves.find k.wk).isSome = true) (act : BitVec 32) (o : Operand) (ll : Bool)
    (val : Nat → Word → Val) : ((s.laApply k act o ll val).weaves.find k.wk).isSome = true := by
  obtain ⟨n, he⟩ := laApply_eq s k act o ll val
  rw [he]
  exact isSome_modWeave hw _ _

theorem ops_laApply (s : State) (k : Ctx) (act : BitVec 32) (o : Operand) (ll : Bool) (val : Nat → Word → Val) :
    (s.laApply k act o ll val).ops = s.ops := by
  obtain ⟨n, he⟩ := laApply_eq s k act o ll val
  rw [he]
  rfl

theorem onlyWeave_laApply {x : Issue} {t : State} (ht : x.onlyWeave t) (act : BitVec 32) (o : Operand) (ll : Bool)
    (val : Nat → Word → Val) : x.onlyWeave (t.laApply x.k act o ll val) := by
  obtain ⟨n, he⟩ := laApply_eq t x.k act o ll val
  rw [he]
  exact onlyWeave_modWeave ht _

section
variable {s : State} {k : Ctx} (h : s.inHand k) (g : Gate)
include h

theorem gen_b {l : Nat} (hl : l < 32) : (((s.issueOf k g).b.weave k.wk).lane l).gen = ((s.weave k.wk).lane l).gen :=
  gen_of_kept (kept_b h g _ hl) (kept_b h g _ hl)

/-- A value that depends on the generators that the word finds is the same where its effect begins. -/
theorem raised_b (o : Operand) (m : BitVec 32) (val : Nat → Word → Val) :
    ((s.issueOf k g).b.weave k.wk).raised k o m val = (s.issueOf k g).flags o m val := by
  refine List.foldl_ext _ _ _ fun f l hl => ?_
  rw [gen_b h g (mem_lanesOf.1 hl).1]
  rfl

/-- What the shared effect of LA leaves of its weave, with lanes that go on, is what `Issue.floats` says. -/
theorem floats_of_applied {o : Operand} (h0 : o ≠ .p 0) {val : Nat → Word → Val} {t : State} {n : Nat} (ht : (s.issueOf k g).onlyWeave t)
    (hw : t.weave k.wk = (((s.issueOf k g).b.weave k.wk).applied k n (s.issueOf k g).act o false val).modLanes (s.issueOf k g).act
      (Lane.goOn k)) : (s.issueOf k g).floats t o val := by
  have hkept (q : Operand) (l : Nat) : (t.weave k.wk).kept q l =
      (((s.issueOf k g).b.weave k.wk).applied k n (s.issueOf k g).act o false val).kept q l := by
    rw [hw, kept_modLanes_goOn]
  refine ⟨fun hps => ?_, fun hps => ?_, fun hlo hhi l hl => ?_, past_of_goOn h g hw fun l => stand_applied .., ?_⟩
  · exact took_congr (fun l _ => hkept o l) (fun l hl => by rw [gen_b h g hl]; rfl) (took_applied _ k n _ val h0 hps)
  · refine (hkept (.special .fpsw) 0).trans ((fpsw_applied _ k n _ val hps).trans ?_)
    rw [fpsw_b h g, raised_b h g]
    rfl
  · refine (gen_of_kept (hkept ..) (hkept ..)).trans ((gen_applied _ k n _ false val hlo hhi hl).trans ?_)
    rw [gen_b h g hl]
    rfl
  · refine frameBy_of_onlyWeave h g (fun _ _ he => he) ht ?_
    rw [hw]
    exact keeps_trans (keeps_applied ..) (keeps_goOn _ k (fun _ hl hm => acting_lanes hl hm) _)

theorem floats_laApply {o : Operand} (h0 : o ≠ .p 0) (val : Nat → Word → Val) :
    (s.issueOf k g).floats (((s.issueOf k g).b.laApply k (s.issueOf k g).act o false val).advance k (s.issueOf k g).act) o val := by
  have hb := isSome_b h g
  refine floats_of_applied h g h0 (n := (s.issueOf k g).b.free) (onlyWeave_modWeave (onlyWeave_laApply (onlyWeave_refl _) ..) _) ?_
  rw [weave_advance (isSome_laApply hb ..), weave_laApply hb]

end

/-! ### Words -/

theorem ne_p0_of_isDest {o : Operand} (h : isDest o = true) : o ≠ .p 0 := by rintro rfl; cases h
theorem ne_p0_of_isPredDest {o : Operand} (h : isPredDest o = true) : o ≠ .p 0 := by rintro rfl; cases h

/-- The checks of a word with legal fields include its gate's. -/
theorem legal_of_passes {s : State} {k : Ctx} {g : Gate} (h : s.passes k g = true) : g.legal = true := by
  simp only [State.passes, Bool.and_eq_true] at h
  obtain ⟨⟨⟨⟨⟨hlegal, -⟩, -⟩, -⟩, -⟩, -⟩ := h
  exact hlegal

theorem dst_of_laGate {s : State} {k : Ctx} {g : Gang} {w : F3} {dst a b : Operand → Bool} {c : Option (Operand → Bool)}
    {modb mods isInt : Bool} (h : s.passes k (laGate g w dst a b c modb mods isInt) = true) : dst w.dst = true := by
  have hl := legal_of_passes h
  simp only [laGate, f3Legal, Bool.and_eq_true] at hl
  tauto

/-- A form writes what it says, to the destination of a word. -/
def FloatForm.floats (f : FloatForm) (w : F3) : Prop := Runs f.i f.gate always fun x t =>
  x.floats t w.dst fun l g => f.val (x.a3 f.w l) (x.b3 f.w f.c.isSome l) (x.c3 f.w l) g

theorem floats_laFloat {f : FloatForm} {w : F3} {half : Bool} {val : Word → Word → Word → Word → Val} (hw : f.w.dst = w.dst)
    (hexec : ∀ s, exec f.i s = laFloat s f.w f.dst f.a isSource f.c f.c.isNone f.mods false half val)
    (hdst : ∀ o, f.dst o = true → o ≠ .p 0)
    (hval : ∀ a b c g, f.val a b c g =
      val (if half then halfConst f.w.mods f.w.a a else a) (if half then halfConst f.w.mods f.w.b b else b) c g) : f.floats w := by
  refine runs_of_effect hexec fun s k h hp _ => ?_
  dsimp only
  rw [ops_b h, ← hw]
  simp only [hval]
  exact floats_laApply h _ (hdst _ (dst_of_laGate hp)) _

/-- A form that reads its sources as they stand. -/
theorem floats_full {f : FloatForm} {w : F3} (hw : f.w.dst = w.dst)
    (hexec : ∀ s, exec f.i s = laFloat s f.w f.dst f.a isSource f.c f.c.isNone f.mods false false f.val)
    (hdst : ∀ o, f.dst o = true → o ≠ .p 0) : f.floats w :=
  floats_laFloat (half := false) hw hexec hdst fun _ _ _ _ => rfl

/-- A form that reads constants as packed halves (R75). -/
theorem floats_halves {w : F3} {i : Instr} {c : Option (Operand → Bool)} {mods : Bool} {v : Word → Word → Word → Word → Val}
    (val : Word → Word → Word → Word → Val)
    (hexec : ∀ s, exec i s = laFloat s w isDest isSource isSource c c.isNone mods false true val)
    (hval : ∀ a b c g, v a b c g = val (halfConst w.mods w.a a) (halfConst w.mods w.b b) c g) :
    ({ i := i, w := w, c := c, mods := mods, val := v } : FloatForm).floats w :=
  floats_laFloat (half := true) rfl hexec (fun _ => ne_p0_of_isDest) hval

theorem floats_floatForms (w : F3) : ∀ f ∈ floatForms w, f.floats w := by
  unfold floatForms
  dsimp only
  iterate 6 refine List.forall_mem_cons.2 ⟨floats_full rfl (fun _ => rfl) fun _ => ne_p0_of_isDest, ?_⟩
  refine List.forall_mem_cons.2 ⟨floats_full rfl (fun _ => rfl) fun _ => ne_p0_of_isPredDest, ?_⟩
  refine List.forall_mem_cons.2 ⟨floats_halves (fun a b _ => vHadd2 w.mods a b) (fun _ => rfl) fun _ _ _ _ => rfl, ?_⟩
  refine List.forall_mem_cons.2 ⟨floats_halves (fun a b _ => vHmul2 w.mods a b) (fun _ => rfl) fun _ _ _ _ => rfl, ?_⟩
  refine List.forall_mem_cons.2 ⟨floats_halves (fun a b c => vHfma2 w.mods a b (halfConst w.mods w.srcC c)) (fun _ => rfl)
    fun _ _ _ _ => rfl, ?_⟩
  refine List.forall_mem_cons.2 ⟨floats_halves (vHdot2 w.mods) (fun _ => rfl) fun _ _ _ _ => rfl, ?_⟩
  iterate 3 refine List.forall_mem_cons.2 ⟨floats_full rfl (fun _ => rfl) fun _ => ne_p0_of_isDest, ?_⟩
  exact List.forall_mem_nil _

/-- FP32 bits [31:8] of an immediate (R68). -/
theorem append_zero_byte (m : BitVec 24) : (m ++ (0 : BitVec 8) : Word) = BitVec.ofNat 32 (m.toNat * 256) := by
  apply BitVec.eq_of_toNat_eq
  have hm := m.isLt
  rw [BitVec.toNat_append, BitVec.toNat_ofNat, Nat.mod_eq_of_lt (by omega), Nat.shiftLeft_eq]
  simp

/-- The gate of an FI floating-point word. -/
def floatImmGate (w : FI) (dst : Operand → Bool) (mods : Bool) : State → Ctx → Gate := fun s k =>
  { legal := fiLegal (s.gang k.gk) w dst isSource mods && uniformOk w.dst [w.a], engine := .la, privileged := privDst w.dst
    pred := w.pred.toNat, neg := w.neg, srcs := [w.a], regs := vregsOf [w.a] }

/-- An FI form writes what it says. -/
def floatsImm (w : FI) (f : Instr × (Operand → Bool) × Bool × (Word → Word → Word → Val)) : Prop :=
  Runs f.1 (floatImmGate w f.2.1 f.2.2.1) always fun x t =>
    x.floats t w.dst fun l g => f.2.2.2 (x.rd 0 w.a l) (BitVec.ofNat 32 (w.imm.toNat * 256)) g

theorem floatsImm_laFloatImm {i : Instr} {w : FI} {dst : Operand → Bool} {mods : Bool} {val : Word → Word → Word → Val}
    (hexec : ∀ s, exec i s = laFloatImm s w dst mods val) (hdst : ∀ o, dst o = true → o ≠ .p 0) :
    floatsImm w (i, dst, mods, val) := by
  refine runs_of_effect hexec fun s k h hp _ => ?_
  have hlegal := legal_of_passes hp
  simp only [floatImmGate, fiLegal, Bool.and_eq_true] at hlegal
  dsimp only
  rw [ops_b h, append_zero_byte]
  obtain ⟨⟨⟨⟨⟨⟨hd, -⟩, -⟩, -⟩, -⟩, -⟩, -⟩ := hlegal
  exact floats_laApply h _ (hdst _ hd) _

theorem floatsImm_floatImmForms (w : FI) : ∀ f ∈ floatImmForms w, floatsImm w f := by
  unfold floatImmForms
  dsimp only
  iterate 3 refine List.forall_mem_cons.2 ⟨floatsImm_laFloatImm (fun _ => rfl) fun _ => ne_p0_of_isDest, ?_⟩
  exact List.forall_mem_cons.2 ⟨floatsImm_laFloatImm (fun _ => rfl) fun _ => ne_p0_of_isPredDest, List.forall_mem_nil _⟩

theorem floats_srnd (w : F3) : Runs (.srnd w) (fun s k => laGate (s.gang k.gk) w isV isUnused isUnused none false (modsIn w.mods 1) false)
    always fun x t => x.floats t w.dst fun _ g => (if w.mods.getLsbD 0
      then BitVec.ofNat 32 (roundTo .f32 .rn false (.fin false ((genStep g).toNat / 256) 1 (-24))).1 else genStep g, 0, genStep g) := by
  refine runs_of_effect (fun _ => rfl) fun s k h hp _ => ?_
  exact floats_laApply h _ (fun hd => absurd (dst_of_laGate hp) (by rw [hd]; decide)) _

/-- Settles O8: every form runs the shared effect of LA. -/
theorem floatResults : Obligations.FloatResults := ⟨⟨floats_floatForms, floats_srnd⟩, floatsImm_floatImmForms⟩

end Sys2Proof.Machine
end

section
/-! The D2 word (O6): two halves that read before either writes. -/

namespace Sys2Proof.Machine
open Sys2Proof

/-! ### Halves that wait for nothing -/

theorem handleBlock_congr {s t : State} (ho : t.ops = s.ops) (w : Weave) (srcs : List Operand) :
    t.handleBlock w srcs = s.handleBlock w srcs := by
  unfold State.handleBlock
  simp only [handle_congr (s := s) (w := w) ho rfl rfl]

/-- A half none of whose lanes reads an unresolved handle holds no lane and faults none. -/
theorem halfBlock_of_free {s : State} {w : Weave} {h : D2Half} {m : BitVec 32}
    (hfree : halfLanes h w m ≠ 0 → (s.handleBlock w (halfSrcs h)).isNone = true) :
    ∃ wait, s.halfBlock w h m = (wait, 0) ∧ ∀ p ∈ wait, p.2 = 0 := by
  by_cases hm : halfLanes h w m = 0
  · unfold State.halfBlock
    split
    · exact ⟨_, rfl, by simp [hm]⟩
    · exact ⟨none, by rw [hm], nofun⟩
    · exact ⟨none, rfl, nofun⟩
  · have hnone := Option.isNone_iff_eq_none.1 (hfree hm)
    exact ⟨none, by unfold State.halfBlock; rw [hnone], nofun⟩

theorem holdLanes_zero (s : State) (k : Ctx) (hd : Hold) : s.holdLanes k 0 hd = s := modWeave_id ..

/-- The lanes of a half that wait for a handle, if any, are held. -/
def State.holdWaiting (s : State) (k : Ctx) (wait : Option (Nat × BitVec 32)) : State :=
  match wait with
  | some (i, m) => s.holdLanes k m (.handleRead i)
  | none => s

theorem holdWaiting_of_zero (s : State) (k : Ctx) {wait : Option (Nat × BitVec 32)} (h0 : ∀ p ∈ wait, p.2 = 0) :
    s.holdWaiting k wait = s := by
  cases wait with
  | none => rfl
  | some p =>
    obtain ⟨i, m⟩ := p
    obtain rfl : m = 0 := h0 (i, m) rfl
    exact holdLanes_zero ..

/-- One half acts: it reads with its own lanes as actmask. -/
def State.ranHalf (s : State) (k : Ctx) (e : Env) (act : BitVec 32) (slot : Nat) (h : D2Half) : State :=
  s.laApply k (halfLanes h e.w act) h.d (d2LL h.op) fun l g =>
    d2Val h.op ((d2Mods h.op h.mods).getD 0) h.s (Env.rd { e with act := halfLanes h e.w act } s.ops slot h.d l)
      (Env.rd { e with act := halfLanes h e.w act } s.ops (slot + 1) h.s l) g

/-- The high words that the halves read are latched (R74). -/
def Weave.latchHalves (w : Weave) (e : Env) (act : BitVec 32) (hi lo : D2Half) : Weave :=
  (w.latchHigh e (if halfLanes hi e.w act != 0 then halfSrcs hi else [])).latchHigh e (if halfLanes lo e.w act != 0 then halfSrcs lo else [])

/-- A word that has read a handle is an acquire (R132). -/
def State.acquireIf (s : State) (k : Ctx) (c : Bool) : State :=
  if c then (s.modWeave k.wk (·.dropLatches)).acquire k.core k.part else s

/-- The effect of a D2 word that waits for nothing. -/
def State.ranD2 (s : State) (k : Ctx) (e : Env) (act : BitVec 32) (hi lo : D2Half) : State :=
  ((((s.modWeave k.wk (·.latchHalves e act hi lo)).ranHalf k e act 0 hi).ranHalf k e act 2 lo).acquireIf k
    ((halfLanes hi e.w act != 0 && (halfSrcs hi).any isH) || (halfLanes lo e.w act != 0 && (halfSrcs lo).any isH))).advance k act

/-- The gate of a D2 word (R70). -/
def d2Gate (hi lo : D2Half) : State → Ctx → Gate := fun s k =>
  { legal := d2Legal (s.gang k.gk) (s.weave k.wk) hi lo, engine := .la
    laUni := (d2Int hi.op && !perLane hi.d) && (d2Int lo.op && !perLane lo.d)
    regs := vregsOf (halfSrcs hi ++ halfSrcs lo) }

/-- Whether a half's lanes read fpsw. -/
theorem readsFpsw_of_free {s : State} {k : Ctx} {g : Gate} {h : D2Half} (hfree : (s.issueOf k g).halfFree h) :
    ((halfSrcs h).contains (.special .fpsw) && halfLanes h (s.issueOf k g).e.w (s.issueOf k g).act != 0 &&
      (s.issueOf k g).e.w.ll.any (·.lane)) = false := by
  by_cases hm : (s.issueOf k g).halfLanes h = 0
  · have hm' : halfLanes h (s.issueOf k g).e.w (s.issueOf k g).act = 0 := hm
    simp [hm']
  · by_cases hps : Operand.special .fpsw ∈ halfSrcs h
    · have hll : (s.issueOf k g).e.w.ll.any (·.lane) = false := (hfree hm).2 hps
      rw [hll, Bool.and_false]
    · simp [hps]

theorem exec_d2Word {s : State} {k : Ctx} (h : s.inHand k) {hi lo : D2Half} (hp : s.passes k (d2Gate hi lo s k) = true)
    (hhi : (s.issueOf k (d2Gate hi lo s k)).halfFree hi) (hlo : (s.issueOf k (d2Gate hi lo s k)).halfFree lo) :
    exec (.d2Word hi lo) s = .next ((s.issueOf k (d2Gate hi lo s k)).b.ranD2 k (s.issueOf k (d2Gate hi lo s k)).e
      (s.issueOf k (d2Gate hi lo s k)).act hi lo) := by
  have hfpsw := readsFpsw_of_free hhi
  have hfpsw' := readsFpsw_of_free hlo
  have hblock {x : D2Half} (hx : (s.issueOf k (d2Gate hi lo s k)).halfFree x) :
      ∃ wait, (s.issueOf k (d2Gate hi lo s k)).b.halfBlock (s.issueOf k (d2Gate hi lo s k)).e.w x
        (s.issueOf k (d2Gate hi lo s k)).act = (wait, 0) ∧ ∀ p ∈ wait, p.2 = 0 :=
    halfBlock_of_free fun hm => by
      rw [handleBlock_congr (ops_b h _)]
      exact (hx hm).1
  obtain ⟨wh, hwh, hwh0⟩ := hblock hhi
  obtain ⟨wl, hwl, hwl0⟩ := hblock hlo
  refine (weaveOnly_runWord (g := d2Gate hi lo s) h hp _).trans (congrArg Host.Outcome.next ?_)
  dsimp only
  generalize s.issueOf k (d2Gate hi lo s k) = x at *
  have hreads : ¬((((halfSrcs hi).contains (.special .fpsw) && halfLanes hi x.e.w x.act != 0 ||
      (halfSrcs lo).contains (.special .fpsw) && halfLanes lo x.e.w x.act != 0) && x.e.w.ll.any (·.lane)) = true) := by
    rw [Bool.and_or_distrib_right, hfpsw, hfpsw']
    decide
  have hmask {wait : Option (Nat × BitVec 32)} (h0 : ∀ p ∈ wait, p.2 = 0) : (wait.map (·.2)).getD 0 = 0 := by
    cases wait with
    | none => rfl
    | some p => exact h0 p rfl
  have hnot : x.act &&& ~~~(0 : BitVec 32) = x.act := BitVec.and_allOnes
  have hor : (0 : BitVec 32) ||| 0 = 0 := rfl
  have hidle : ¬(0 = x.act ∧ x.act ≠ 0) := fun hc => hc.2 hc.1.symm
  rw [if_neg hreads, hwh]
  simp only [hmask hwh0, hor, hnot, hwl, hmask hwl0, if_neg hidle, if_true]
  exact (holdWaiting_of_zero _ k hwl0).trans (holdWaiting_of_zero (x.b.ranD2 k x.e x.act hi lo) k hwh0)

/-! ### What the halves leave -/

/-- The weave of a word that has read a handle has no latches (R81). -/
def Weave.dropIf (w : Weave) (c : Bool) : Weave := if c then w.dropLatches else w

theorem keeps_dropIf (w : Weave) (k : Ctx) (c : Bool) (ds : List Operand) : Weave.keeps w (w.dropIf c) k ds := by
  unfold Weave.dropIf
  split
  · exact keeps_of_eq k ds rfl rfl rfl rfl rfl
  · exact keeps_refl ..

theorem lane_dropIf (w : Weave) (c : Bool) (l : Nat) : (w.dropIf c).lane l = w.lane l := by
  unfold Weave.dropIf
  split <;> rfl

theorem weave_acquireIf {s : State} {k : Ctx} (hw : (s.weaves.find k.wk).isSome = true) (c : Bool) :
    (s.acquireIf k c).weave k.wk = (s.weave k.wk).dropIf c ∧ ((s.acquireIf k c).weaves.find k.wk).isSome = true := by
  cases c
  · exact ⟨rfl, hw⟩
  · exact ⟨weave_modWeave hw _, isSome_modWeave hw _ _⟩

theorem onlyWeave_acquireIf {x : Issue} {t : State} (ht : x.onlyWeave t) (c : Bool) : x.onlyWeave (t.acquireIf x.k c) := by
  cases c
  · exact ht
  · exact onlyWeave_modWeave ht (·.dropLatches)

theorem keeps_latchHalves (w : Weave) (k : Ctx) (e : Env) (act : BitVec 32) (hi lo : D2Half) (ds : List Operand) :
    Weave.keeps w (w.latchHalves e act hi lo) k ds := keeps_trans (keeps_latchHigh ..) (keeps_latchHigh ..)

theorem lane_latchHalves (w : Weave) (e : Env) (act : BitVec 32) (hi lo : D2Half) (l : Nat) :
    (w.latchHalves e act hi lo).lane l = w.lane l :=
  congrArg (Table.get ({} : Lane) · l) ((lanes_latchHigh ..).trans (lanes_latchHigh ..))

/-- A v or s register is no special, and no predicate. -/
theorem plain_of_isVS {o : Operand} (ho : isVS o = true) :
    o ≠ .p 0 ∧ o ≠ .special .fpsw ∧ o ≠ .special .sdlo ∧ o ≠ .special .sdhi := by
  refine ⟨?_, ?_, ?_, ?_⟩
  all_goals
    rintro rfl
    cases ho

/-- The weave as both halves have acted, the high one first. -/
def Issue.halvesOf (x : Issue) (n m : Nat) (hi lo : D2Half) : Weave × Weave :=
  let first := ((x.b.weave x.k.wk).latchHalves x.e x.act hi lo).applied x.k n (x.halfLanes hi) hi.d (d2LL hi.op) (x.half 0 hi)
  (first, first.applied x.k m (x.halfLanes lo) lo.d (d2LL lo.op) (x.half 2 lo))

section
variable {s : State} {k : Ctx} (h : s.inHand k) (g : Gate) (hi lo : D2Half)
include h

omit h in
/-- A half is the shared effect of LA on the value that the claim says. -/
theorem ranHalf_eq {t : State} (ht : t.ops = s.ops) (slot : Nat) (f : D2Half) :
    t.ranHalf k (s.issueOf k g).e (s.issueOf k g).act slot f =
      t.laApply k ((s.issueOf k g).halfLanes f) f.d (d2LL f.op) ((s.issueOf k g).half slot f) := by
  unfold State.ranHalf
  rw [ht]
  rfl

omit h in
theorem onlyWeave_ranD2 : (s.issueOf k g).onlyWeave ((s.issueOf k g).b.ranD2 k (s.issueOf k g).e (s.issueOf k g).act hi lo) :=
  onlyWeave_modWeave (onlyWeave_acquireIf
    (onlyWeave_laApply (onlyWeave_laApply (onlyWeave_modWeave (onlyWeave_refl (s.issueOf k g)) _) ..) ..) _) _

theorem weave_ranD2 : ∃ n m c, ((s.issueOf k g).b.ranD2 k (s.issueOf k g).e (s.issueOf k g).act hi lo).weave k.wk =
    (((s.issueOf k g).halvesOf n m hi lo).2.dropIf c).modLanes (s.issueOf k g).act (Lane.goOn k) := by
  have hops : ((s.issueOf k g).b.modWeave k.wk (·.latchHalves (s.issueOf k g).e (s.issueOf k g).act hi lo)).ops = s.ops := ops_b h g
  have hw := isSome_modWeave (isSome_b h g) (·.latchHalves (s.issueOf k g).e (s.issueOf k g).act hi lo) k.wk
  have hlatch := weave_modWeave (isSome_b h g) (·.latchHalves (s.issueOf k g).e (s.issueOf k g).act hi lo)
  unfold State.ranD2
  generalize (s.issueOf k g).b.modWeave k.wk _ = t at *
  rw [ranHalf_eq g hops, ranHalf_eq g ((ops_laApply ..).trans hops)]
  have hw' := isSome_laApply hw ((s.issueOf k g).halfLanes hi) hi.d (d2LL hi.op) ((s.issueOf k g).half 0 hi)
  obtain ⟨hdrop, hsome⟩ := weave_acquireIf (isSome_laApply hw' ((s.issueOf k g).halfLanes lo) lo.d (d2LL lo.op) ((s.issueOf k g).half 2 lo))
    ((halfLanes hi (s.issueOf k g).e.w (s.issueOf k g).act != 0 && (halfSrcs hi).any isH) ||
      (halfLanes lo (s.issueOf k g).e.w (s.issueOf k g).act != 0 && (halfSrcs lo).any isH))
  exact ⟨_, _, _, by rw [weave_advance hsome, hdrop, weave_laApply hw', weave_laApply hw, hlatch]; rfl⟩

/-- A half that is not long-latency, and the generators that it leaves. -/
theorem halves_take (n m : Nat) (hhi : isVS hi.d = true) (hlo : isVS lo.d = true) (hne : hi.d ≠ lo.d) :
    let x := s.issueOf k g
    let gen (l : Nat) : Word := if (computing hi.d (x.halfLanes hi)).getLsbD l then (x.half 0 hi l (x.w.lane l).gen).2.2 else (x.w.lane l).gen
    (d2LL hi.op = false → (x.halvesOf n m hi lo).2.took hi.d (x.halfLanes hi) fun l => (x.half 0 hi l (x.w.lane l).gen).1) ∧
    (d2LL lo.op = false → (x.halvesOf n m hi lo).2.took lo.d (x.halfLanes lo) fun l => (x.half 2 lo l (gen l)).1) := by
  intro x gen
  obtain ⟨hp0, hps, hsdlo, hsdhi⟩ := plain_of_isVS hhi
  obtain ⟨hp0', hps', -, -⟩ := plain_of_isVS hlo
  have hgen0 {l : Nat} (hl : l < 32) : ((((x.b.weave k.wk).latchHalves x.e x.act hi lo)).lane l).gen = (x.w.lane l).gen := by
    rw [lane_latchHalves]
    exact gen_b h g hl
  constructor
  · intro hll
    have hkeeps := keepsBy_applied (x.halvesOf n m hi lo).1 k m (x.halfLanes lo) (o := lo.d) (d2LL lo.op) (x.half 2 lo)
    have htook := took_applied ((x.b.weave k.wk).latchHalves x.e x.act hi lo) k n (x.halfLanes hi) (x.half 0 hi) hp0 hps
    rw [← hll] at htook
    exact took_congr (fun l hl => hkeeps.2.1 hi.d l hl (by simp [hne, hps, hsdlo, hsdhi])) (fun l hl => by rw [hgen0 hl]) htook
  · intro hll
    have htook := took_applied (x.halvesOf n m hi lo).1 k m (x.halfLanes lo) (x.half 2 lo) hp0' hps'
    rw [← hll] at htook
    refine took_congr (fun _ _ => rfl) (fun l hl => ?_) htook
    have hgen := gen_applied ((x.b.weave k.wk).latchHalves x.e x.act hi lo) k n (x.halfLanes hi) (d2LL hi.op) (x.half 0 hi) hsdlo hsdhi hl
    rw [hgen0 hl] at hgen
    exact congrArg (fun v => (x.half 2 lo l v).1) hgen

omit h in
theorem stand_halves (n m : Nat) (l : Nat) :
    (((s.issueOf k g).halvesOf n m hi lo).2.lane l).stand = (((s.issueOf k g).b.weave k.wk).lane l).stand := by
  refine ((stand_applied ..).trans (stand_applied ..)).trans ?_
  rw [lane_latchHalves]
  rfl

omit h in
theorem keepsBy_halves (n m : Nat) : Weave.keepsBy Weave.restLL ((s.issueOf k g).b.weave k.wk) ((s.issueOf k g).halvesOf n m hi lo).2 k
    [hi.d, lo.d, .special .fpsw, .special .sdlo, .special .sdhi] :=
  keepsBy_trans (keepsBy_of_keeps restLL_of_rest (keeps_latchHalves ..))
    (keepsBy_trans (keepsBy_mono (keepsBy_applied ..) (by simp)) (keepsBy_mono (keepsBy_applied ..) (by simp)))

end

/-- A legal half writes a v or s register. -/
theorem isVS_of_halfLegal {g : Gang} {f : D2Half} (hf : halfLegal g f = true) : isVS f.d = true := by
  simp only [halfLegal, Bool.and_eq_true] at hf
  obtain ⟨⟨⟨⟨⟨⟨hvs, -⟩, -⟩, -⟩, -⟩, -⟩, -⟩ := hf
  exact hvs

theorem dsts_of_d2Legal {g : Gang} {w : Weave} {hi lo : D2Half} (hl : d2Legal g w hi lo = true) :
    isVS hi.d = true ∧ isVS lo.d = true ∧ hi.d ≠ lo.d := by
  simp only [d2Legal, Bool.and_eq_true, bne_iff_ne] at hl
  obtain ⟨⟨⟨hhi, hlo⟩, hne⟩, -⟩ := hl
  exact ⟨isVS_of_halfLegal hhi, isVS_of_halfLegal hlo, hne⟩

/-- Settles O6: the halves act in turn on values that both have read before, and on the generators as they then stand. -/
theorem pairedWordResults : Obligations.PairedWordResults := by
  rintro hi lo s k h hp ⟨hhi, hlo⟩
  refine ⟨_, exec_d2Word h hp hhi hlo, ?_⟩
  obtain ⟨hvshi, hvslo, hne⟩ := dsts_of_d2Legal (legal_of_passes hp)
  obtain ⟨n, m, c, hweave⟩ := weave_ranD2 h (d2Gate hi lo s k) hi lo
  obtain ⟨hfirst, hsecond⟩ := halves_take h (d2Gate hi lo s k) hi lo n m hvshi hvslo hne
  have honly := onlyWeave_ranD2 (s := s) (k := k) (d2Gate hi lo s k) hi lo
  generalize (s.issueOf k (d2Gate hi lo s k)).b.ranD2 k _ _ hi lo = t at *
  have hkept (o : Operand) (l : Nat) (hl : l < 32) :
      (t.weave k.wk).kept o l = ((s.issueOf k (d2Gate hi lo s k)).halvesOf n m hi lo).2.kept o l := by
    rw [hweave, kept_modLanes_goOn]
    exact (keeps_dropIf _ k c []).2.1 o l hl List.not_mem_nil
  refine ⟨fun hll => took_congr (hkept _) (fun _ _ => rfl) (hfirst hll),
    fun hll => took_congr (hkept _) (fun _ _ => rfl) (hsecond hll),
    past_of_goOn h _ hweave fun l => by rw [lane_dropIf]; exact stand_halves .., ?_⟩
  refine frameBy_of_onlyWeave h _ restLL_of_rest honly ?_
  rw [hweave]
  exact keepsBy_trans (keepsBy_halves ..) (keepsBy_of_keeps restLL_of_rest
    (keeps_trans (keeps_dropIf ..) (keeps_goOn _ k (fun _ hl hm => acting_lanes hl hm) _)))

end Sys2Proof.Machine
end

section
/-! Words on handles (O19), first part: HWAIT writes, waits or faults. -/

namespace Sys2Proof.Machine
open Sys2Proof

/-! ### What holding lanes and going on leave -/

/-- A lane that waits for an event. -/
def Lane.held (hd : Hold) (l : Lane) : Lane := { l with hold := some hd }

theorem kept_modLanes_held (w : Weave) (m : BitVec 32) (hd : Hold) (o : Operand) (l : Nat) :
    (w.modLanes m (Lane.held hd)).kept o l = w.kept o l := by
  apply modLanes_kept
  all_goals exact fun _ => rfl

theorem hsaved_modLanes (w : Weave) (m : BitVec 32) (f : Lane → Lane) : (w.modLanes m f).hsaved = w.hsaved := by
  rw [modLanes_eq]

theorem once_of_ne {act : BitVec 32} (h : act ≠ 0) (s : State) (f : State → State) : once act s f = f s := if_neg h

section
variable {s : State} {k : Ctx} (h : s.inHand k) (g : Gate)
include h

/-- Memory as the effect began, and a weave whose registers are those of the word's. -/
theorem keepsRegs_of_kept {t : State} {ds : List Operand} (hm : t.mems = (s.issueOf k g).b.mems)
    (hk : ∀ o l, l < 32 → o ∉ ds → (t.weave k.wk).kept o l = ((s.issueOf k g).b.weave k.wk).kept o l) :
    (s.issueOf k g).keepsRegs t ds :=
  have hmem := memoryKept_of_mems (hm.trans (mems_b h g))
  ⟨hmem.1, hmem.2, fun o l hl ho => (hk o l hl ho).trans (kept_b h g o hl)⟩

/-- A write from a state whose weave differs in latches only, and going on. -/
theorem writes_of_goOn {o : Operand} (h0 : o ≠ .p 0) {f : Nat → Word} {t : State} {y : Weave} (ht : (s.issueOf k g).onlyWeave t)
    (hy : Weave.keeps ((s.issueOf k g).b.weave k.wk) y k []) (hlane : ∀ l, y.lane l = ((s.issueOf k g).b.weave k.wk).lane l)
    (hw : t.weave k.wk = (y.wrMask o (s.issueOf k g).act f).modLanes (s.issueOf k g).act (Lane.goOn k)) :
    (s.issueOf k g).writes t o f := by
  refine ⟨took_congr (fun l _ => ?_) (fun _ _ => rfl) (took_wrMask y o (s.issueOf k g).act f h0),
    past_of_goOn h g hw fun l => by rw [stand_wrMask, hlane], frameBy_of_onlyWeave h g (fun _ _ he => he) ht ?_⟩
  · show (t.weave k.wk).kept o l = _
    rw [hw, kept_modLanes_goOn]
  · rw [hw]
    exact keeps_trans (keeps_trans (keepsBy_mono hy (List.nil_subset _)) (keeps_wrMask ..))
      (keeps_goOn _ k (fun _ hl hm => acting_lanes hl hm) _)

/-- The lanes that execute the word wait at it; the others have gone on. -/
theorem holdLanes_waits (hd : Hold) :
    let x := s.issueOf k g
    let t := x.b.holdLanes k x.act hd
    s.waitsAt t k x.act hd ∧ t.past k (k.lanes &&& ~~~x.act) ∧ x.keepsRegs t [] := by
  intro x t
  have hweave : t.weave k.wk = (x.b.weave k.wk).modLanes x.act (Lane.held hd) := weave_modWeave (isSome_b h g) _
  refine ⟨fun l hl hm => ?_, past_iff_stand.2 fun l hl hm => ?_, keepsRegs_of_kept h g rfl fun o l _ _ => ?_⟩
  · rw [hweave, lane_modLanes, if_pos ⟨hl, hm⟩, lane_b h g hl hm]
    exact ⟨rfl, rfl⟩
  · have hmask : k.lanes.getLsbD l = true ∧ x.act.getLsbD l = false := by simpa [hl] using hm
    rw [hweave, lane_modLanes, if_neg (by simp [hmask.2])]
    exact stand_b h g hl hmask.1 hmask.2
  · rw [hweave, kept_modLanes_held]

/-! ### Faults of the lanes that execute a word -/

theorem weave_gang_b : ((s.issueOf k g).b.weave k.wk).gang = (s.weave k.wk).gang := by
  obtain ⟨fs, cs, hst⟩ := weave_starts (weave_isSome h)
  have hgang := congrArg Weave.gang (frame_b h g).2.2.2.1
  rw [hst] at hgang
  exact hgang

theorem liveMask_b : ((s.issueOf k g).b.weave k.wk).liveMask = (s.weave k.wk).liveMask := by
  obtain ⟨fs, cs, hst⟩ := weave_starts (weave_isSome h)
  have hrest := (frame_b h g).2.2.2.2.2.1
  rw [hst] at hrest
  have hstatus (l : Nat) : (((s.issueOf k g).b.weave k.wk).lane l).status = ((s.weave k.wk).lane l).status := by
    have hlane := congrArg Lane.status (hrest l)
    exact hlane
  unfold Weave.liveMask
  simp only [hstatus]

/-- A fault that is delivered where the word's effect begins is one of the word's lanes as they stood before it. -/
theorem handling_fault_b {status : Word} (hc : (s.issueOf k g).b.canEnter k.wk (s.issueOf k g).act) :
    s.handling ((s.issueOf k g).b.fault k (s.issueOf k g).act status 0) k.wk ((s.issueOf k g).act &&& (s.issueOf k g).w.liveMask)
      status 0 0 k.pc := by
  obtain ⟨hcode, hmask, haddr, hcause, hlanes⟩ :=
    handling_raise (f := { status := status, mask := (s.issueOf k g).act, addr := 0, resume_ := k.pc }) hc rfl
  rw [liveMask_b h g] at hmask hlanes
  refine ⟨hcode, hmask, haddr, hcause, fun l hl hm => ?_⟩
  have hact : (s.issueOf k g).act.getLsbD l = true := by
    rw [BitVec.getLsbD_and, Bool.and_eq_true] at hm
    exact hm.1
  have hpart : ((s.issueOf k g).b.part ((s.issueOf k g).b.gang (s.weave k.wk).gang).part) = s.part (s.gang (s.weave k.wk).gang).part := by
    rw [b_eq h g]
    rfl
  have hl' := hlanes l hl hm
  rw [lane_b h g hl hact, weave_gang_b h g, hpart] at hl'
  exact hl'

end

/-! ### HWAIT (R204) -/

/-- A handle that HWAIT cannot wait for. -/
def State.badHandle (s : State) (w : Weave) (hreg i : Nat) : Prop := hreg ≤ i ∨ s.handle w i = .empty ∨ s.handle w i = .cancelled

theorem hwait_of_bad {s : State} {k : Ctx} {act : BitVec 32} {hs : List Nat} {dst : Operand}
    (hb : ∃ i ∈ hs, s.badHandle (s.weave k.wk) (s.gang k.gk).hreg i) : s.hwait k act hs dst = s.fault k act 0x18#32 0 := by
  have hany : (hs.any fun i => decide ((s.gang k.gk).hreg ≤ i) || s.handle (s.weave k.wk) i == .empty ||
      s.handle (s.weave k.wk) i == .cancelled) = true := by
    simpa only [State.badHandle, List.any_eq_true, Bool.or_eq_true, decide_eq_true_eq, beq_iff_eq, or_assoc] using hb
  unfold State.hwait
  dsimp only
  rw [if_pos hany]

theorem hwait_of_good {s : State} {k : Ctx} {hs : List Nat}
    (hg : ∀ i ∈ hs, ¬s.badHandle (s.weave k.wk) (s.gang k.gk).hreg i) :
    (hs.any fun i => decide ((s.gang k.gk).hreg ≤ i) || s.handle (s.weave k.wk) i == .empty ||
      s.handle (s.weave k.wk) i == .cancelled) = false := by
  rw [List.any_eq_false]
  intro i hi
  simpa only [State.badHandle, Bool.or_eq_true, decide_eq_true_eq, beq_iff_eq, or_assoc] using hg i hi

/-- HWAIT writes a status as an acquire (R132, R204). -/
theorem hwait_of_resolved {s : State} {k : Ctx} {act : BitVec 32} {hs : List Nat} {dst : Operand} {sts : Nat → Word}
    (hr : ∀ i ∈ hs, i < (s.gang k.gk).hreg ∧ s.handle (s.weave k.wk) i = .resolved (sts i)) (hne : hs ≠ []) :
    s.hwait k act hs dst = ((s.modWeave k.wk fun x => x.dropLatches.wrMask dst act fun _ =>
      ((hs.map sts).find? fun st => st != 0).getD 0).acquire k.core k.part).advance k act := by
  have hgood := hwait_of_good (s := s) (k := k) (hs := hs) fun i hi => by
    obtain ⟨hlt, hst⟩ := hr i hi
    simp [State.badHandle, hst, hlt]
  unfold State.hwait
  dsimp only
  rw [hgood, if_neg (by simp), if_neg (by simpa using hne), List.map_congr_left (l := hs) (g := fun i => ((0, sts i) : Nat × Word))]
  · rw [if_pos (by simp), List.map_map]
    rfl
  · intro i hi
    rw [(hr i hi).2]

theorem hwait_nil (s : State) (k : Ctx) (act : BitVec 32) (dst : Operand) :
    s.hwait k act [] dst = (s.modWeave k.wk fun x => x.wrMask dst act fun _ => 0).advance k act := rfl

/-- HWAIT on a Pending handle waits for its operation. -/
theorem hwait_of_pending {s : State} {k : Ctx} {act : BitVec 32} {i r : Nat} {dst : Operand} (hlt : i < (s.gang k.gk).hreg) (h0 : r ≠ 0)
    (hp : s.handle (s.weave k.wk) i = .pending r) : s.hwait k act [i] dst = s.holdLanes k act (.hwait [(r, 0)] dst) := by
  unfold State.hwait
  simp [hp, hlt, h0]

section
variable {s : State} {k : Ctx} (h : s.inHand k) (g : Gate)
include h

/-- HWAIT on handles that have all resolved writes the first status that is not 0. -/
theorem writes_hwait {hs : List Nat} {dst : Operand} {sts : Nat → Word} (h0 : dst ≠ .p 0)
    (hr : ∀ i ∈ hs, i < (s.gang k.gk).hreg ∧ s.handle (s.weave k.wk) i = .resolved (sts i)) :
    (s.issueOf k g).writes ((s.issueOf k g).b.hwait k (s.issueOf k g).act hs dst) dst
      fun _ => ((hs.map sts).find? fun st => st != 0).getD 0 := by
  have hw := isSome_b h g
  by_cases hne : hs = []
  · rw [hne, hwait_nil]
    refine writes_of_goOn h g h0 (onlyWeave_modWeave (onlyWeave_modWeave (onlyWeave_refl (s.issueOf k g)) _) _)
      (keeps_refl _ k []) (fun _ => rfl) ?_
    rw [weave_advance (isSome_modWeave hw _ _), weave_modWeave hw]
    rfl
  · rw [hwait_of_resolved (sts := sts) (fun i hi => by rw [gang_b h g, handle_b h g]; exact hr i hi) hne]
    generalize (((hs.map sts).find? fun st => st != 0).getD 0) = v
    have honly : (s.issueOf k g).onlyWeave ((s.issueOf k g).b.modWeave k.wk fun x => x.dropLatches.wrMask dst (s.issueOf k g).act fun _ => v) :=
      onlyWeave_modWeave (onlyWeave_refl (s.issueOf k g)) _
    refine writes_of_goOn (y := ((s.issueOf k g).b.weave k.wk).dropIf true) h g h0 (onlyWeave_modWeave honly _) (keeps_dropIf _ k true [])
      (lane_dropIf _ true) ?_
    exact (weave_advance (isSome_modWeave hw _ _) _).trans (congrArg (Weave.modLanes · _ _) (weave_modWeave hw _))

end

theorem ne_p0_of_isVSZ {o : Operand} (h : isVSZ o = true) : o ≠ .p 0 := by rintro rfl; cases h

theorem dst_of_sqGate {s : State} {k : Ctx} {g : Gang} {w : F3} {dst a b : Operand → Bool} {mods : Bool} {vals : List Operand}
    (h : s.passes k (sqGate g w dst a b mods vals) = true) : dst w.dst = true := by
  have hl := legal_of_passes h
  simp only [sqGate, f3Legal, Bool.and_eq_true] at hl
  tauto

/-- The gate of HWAIT, which lets a handle beyond the demand pass (R204). -/
def hwaitGate (w : F3) : State → Ctx → Gate := fun s k => sqGate { s.gang k.gk with hreg := 16 } w isVSZ isH isUnused (w.mods == 0) []

theorem runs_hwait_resolved (w : F3) (st : Word) : Runs (.hwait w) (hwaitGate w)
    (fun x => anyLane x ∧ handleIndex w.a < x.g.hreg ∧ x.s.handle x.w (handleIndex w.a) = .resolved st) fun x t =>
      x.writes t w.dst fun _ => st :=
  runs_of_effect (fun _ => rfl) fun s k h hp ⟨hany, hlt, hst⟩ => by
    rw [once_of_ne hany]
    have hwrites := writes_hwait h (hwaitGate w s k) (hs := [handleIndex w.a]) (sts := fun _ => st)
      (ne_p0_of_isVSZ (dst_of_sqGate hp)) (List.forall_mem_singleton.2 ⟨hlt, hst⟩)
    have hfirst : (([handleIndex w.a].map fun _ => st).find? fun st => st != 0).getD 0 = st := by
      rw [List.map_singleton, List.find?_singleton]
      split
      · rfl
      · next hn => exact (bne_eq_false_iff_eq.1 (Bool.eq_false_iff.2 hn)).symm
    rwa [hfirst] at hwrites

theorem runs_hwait_pending (w : F3) (r : Nat) : Runs (.hwait w) (hwaitGate w)
    (fun x => anyLane x ∧ handleIndex w.a < x.g.hreg ∧ r ≠ 0 ∧ x.s.handle x.w (handleIndex w.a) = .pending r) fun x t =>
      x.s.waitsAt t x.k x.act (.hwait [(r, 0)] w.dst) ∧ t.past x.k (x.k.lanes &&& ~~~x.act) ∧ x.keepsRegs t [] :=
  runs_of_effect (fun _ => rfl) fun s k h _ ⟨hany, hlt, hr, hst⟩ => by
    rw [once_of_ne hany, hwait_of_pending (by rw [gang_b h]; exact hlt) hr (by rw [handle_b h]; exact hst)]
    exact holdLanes_waits h ..

theorem runs_hwait_bad (w : F3) : Runs (.hwait w) (hwaitGate w)
    (fun x => (x.g.hreg ≤ handleIndex w.a ∨ x.s.handle x.w (handleIndex w.a) = .empty ∨
      x.s.handle x.w (handleIndex w.a) = .cancelled) ∧ x.b.canEnter x.k.wk x.act) fun x t =>
      x.s.handling t x.k.wk (x.act &&& x.w.liveMask) 0x18#32 0 0 x.k.pc :=
  runs_of_effect (fun _ => rfl) fun s k h _ ⟨hbad, hc⟩ => by
    have hany : (s.issueOf k (hwaitGate w s k)).act ≠ 0 := fun h0 => hc.1.2.1 (by rw [h0]; exact BitVec.zero_and)
    rw [once_of_ne hany, hwait_of_bad ⟨_, List.mem_singleton_self _, by
      unfold State.badHandle
      rw [gang_b h, handle_b h]
      exact hbad⟩]
    exact handling_fault_b h _ hc

theorem runs_hwaitAll (w : F3) (sts : Nat → Word) :
    Runs (.hwaitAll w) (fun s k => sqGate (s.gang k.gk) w isVSZ isS isUnused (modsIn w.mods 1) [w.a])
    (fun x => anyLane x ∧ ∀ h, h < 16 → (x.rd 0 w.a 0).getLsbD h = true → h < x.g.hreg ∧ x.s.handle x.w h = .resolved (sts h)) fun x t =>
      x.writes t w.dst fun _ => ((((List.range 16).filter fun h => (x.rd 0 w.a 0).getLsbD h).map sts).find? fun st => st != 0).getD 0 :=
  runs_of_effect (fun _ => rfl) fun s k h hp ⟨hany, hr⟩ => by
    rw [once_of_ne hany, ops_b h]
    refine writes_hwait h _ (ne_p0_of_isVSZ (dst_of_sqGate hp)) fun i hi => ?_
    obtain ⟨hi, hbit⟩ := List.mem_filter.1 hi
    exact hr i (List.mem_range.1 hi) hbit

end Sys2Proof.Machine
end

section
/-! Words on handles (O19), second part: HCANCEL cancels the operation of a handle. -/

namespace Sys2Proof.Machine
open Sys2Proof

/-! ### Letting go of lanes -/

/-- Of a weave, at most lanes that were held have moved. -/
def Weave.freed (w x : Weave) : Prop :=
  x.unmoved = w.unmoved ∧ (x.handles, x.hsaved) = (w.handles, w.hsaved) ∧ ∀ l, (w.lane l).hold = none → x.lane l = w.lane l

theorem freed_passHeld {w x : Weave} (h : w.freed x) (f : Hold → Bool) : w.freed (x.passHeld f) := by
  obtain ⟨hmoved, hhandles, hlanes⟩ := h
  refine ⟨(unmoved_passHeld x f).trans hmoved, hhandles, fun l hl => ?_⟩
  rw [lane_passHeld, hlanes l hl]
  unfold Weave.letGo
  rw [hl]

theorem kept_of_unmoved {w x : Weave} (h : x.unmoved = w.unmoved) (o : Operand) (l : Nat) : x.kept o l = w.kept o l := by
  simp only [Weave.unmoved, Prod.mk.injEq] at h
  obtain ⟨⟨hv, hs, hf, -⟩, hlanes⟩ := h
  have hlane := congrFun hlanes l
  refine kept_congr o (fun i => ?_) (fun i => ?_) ?_ ?_ ?_ ?_ hf
  · rw [Weave.vget, hv, Weave.vget]
  · rw [Weave.sget, hs, Weave.sget]
  · have he := congrArg Lane.preds hlane; exact he
  · have he := congrArg Lane.mr hlane; exact he
  · have he := congrArg Lane.gen hlane; exact he
  · have he := congrArg Lane.faultPc hlane; exact he

/-- The same of a weave of a state. -/
def State.freed (s t : State) (wk : Nat) : Prop := (t.weaves.find wk).isSome = true ∧ (s.weave wk).freed (t.weave wk)

theorem freed_modWeave_passHeld {s t : State} {wk : Nat} (h : s.freed t wk) (j : Nat) (f : Hold → Bool) :
    s.freed (t.modWeave j (·.passHeld f)) wk := by
  obtain ⟨hsome, hfreed⟩ := h
  refine ⟨isSome_modWeave hsome _ _, ?_⟩
  by_cases hj : wk = j
  · subst hj
    rw [weave_modWeave hsome]
    exact freed_passHeld hfreed f
  · have he : (t.modWeave j (·.passHeld f)).weave wk = t.weave wk := Table.get_modify_ne _ _ _ hj
    rwa [he]

theorem freed_releaseSigners {s t : State} {wk : Nat} (h : s.freed t wk) (home c : Nat) (r : Half) :
    s.freed (t.releaseSigners home c r) wk :=
  foldl_inv (s.freed · wk) _ (fun _ _ h => foldl_inv (s.freed · wk) _ (fun _ _ h =>
    foldl_inv (s.freed · wk) _ (fun _ _ h => freed_modWeave_passHeld h ..) _ _ h) _ _ h) _ _ h

theorem ops_releaseSigners (s : State) (home c : Nat) (r : Half) : (s.releaseSigners home c r).ops = s.ops :=
  foldl_keeps State.ops _ (fun _ _ => foldl_keeps State.ops _ (fun _ _ => foldl_keeps State.ops _ (fun _ _ => ops_modWeave ..) _ _) _ _) _ _

/-! ### Operations that end -/

/-- A record is listed and has one of two states: Pending, to be cancelled, or Cancelled. -/
def State.cancels (s : State) (r : Nat) : Prop :=
  (s.ops.find r).isSome = true ∧ ((s.op r).state = .pending ∨ (s.op r).state = .cancelled)

/-- A record is listed and Cancelled. -/
def State.isCancelled (s : State) (r : Nat) : Prop := (s.ops.find r).isSome = true ∧ (s.op r).state = .cancelled

/-- A share of a round that is dropped: it is cancelled and stops (R282). -/
def State.dropShare (s : State) (q : Nat) : State := (s.cancelOp q).modOp q fun o => { o with stopped := true }

theorem isSome_modOp {s : State} {r : Nat} (h : (s.ops.find r).isSome = true) (q : Nat) (f : AsyncOp → AsyncOp) :
    ((s.modOp q f).ops.find r).isSome = true := by
  rw [State.modOp, Table.find_modify]
  split
  · rwa [Option.isSome_map]
  · exact h

theorem isCancelled_cancelOp {s : State} {r : Nat} (h : s.cancels r) : (s.cancelOp r).isCancelled r := by
  obtain ⟨hsome, hstate⟩ := h
  refine ⟨isSome_modOp hsome _ _, ?_⟩
  rw [State.cancelOp, op_modOp hsome]
  rcases hstate with hs | hs <;> simp [hs]

theorem isCancelled_dropShare_same {s : State} {r : Nat} (h : s.cancels r) : (s.dropShare r).isCancelled r := by
  obtain ⟨hsome, hstate⟩ := isCancelled_cancelOp h
  refine ⟨isSome_modOp hsome _ _, ?_⟩
  rw [State.dropShare, op_modOp hsome]
  exact hstate

theorem op_dropShare_ne (s : State) {r q : Nat} (h : r ≠ q) : (s.dropShare q).op r = s.op r :=
  (op_modOp_ne _ _ h).trans (op_modOp_ne s _ h)

theorem isSome_dropShare {s : State} {r : Nat} (h : (s.ops.find r).isSome = true) (q : Nat) : ((s.dropShare q).ops.find r).isSome = true :=
  isSome_modOp (isSome_modOp h _ _) _ _

theorem isCancelled_dropShare {s : State} {r : Nat} (h : s.isCancelled r) (q : Nat) : (s.dropShare q).isCancelled r := by
  by_cases hq : r = q
  · subst hq
    exact isCancelled_dropShare_same ⟨h.1, .inr h.2⟩
  · exact ⟨isSome_dropShare h.1 q, by rw [op_dropShare_ne s hq]; exact h.2⟩

theorem cancels_dropShare {s : State} {r : Nat} (h : s.cancels r) (q : Nat) : (s.dropShare q).cancels r := by
  by_cases hq : r = q
  · subst hq
    obtain ⟨hsome, hstate⟩ := isCancelled_dropShare_same h
    exact ⟨hsome, .inr hstate⟩
  · exact ⟨isSome_dropShare h.1 q, by rw [op_dropShare_ne s hq]; exact h.2⟩

/-- Dropping the shares of a round cancels the operation of each. -/
theorem isCancelled_dropShares {s : State} {r : Nat} (h : s.cancels r) {xs : Table Share} (hr : ∃ x ∈ xs, x.2.op = r) :
    (xs.foldl (fun s x => s.dropShare x.2.op) s).isCancelled r := by
  obtain ⟨x, hx, rfl⟩ := hr
  obtain ⟨before, after, rfl⟩ := List.append_of_mem hx
  rw [List.foldl_append, List.foldl_cons]
  have hbefore := foldl_inv (State.cancels · x.2.op) (fun s (x : Nat × Share) => s.dropShare x.2.op)
    (fun _ _ h => cancels_dropShare h _) before s h
  exact foldl_inv (State.isCancelled · x.2.op) _ (fun _ _ h => isCancelled_dropShare h _) _ _ (isCancelled_dropShare_same hbefore)

/-! ### Cancelling a handle (R206) -/

theorem isCancelled_cancelHandle {s : State} {r : Nat} (h : s.cancels r) : (s.cancelHandle r).isCancelled r := by
  unfold State.cancelHandle
  split
  · next hb =>
    have hshare := List.find?_some hb
    have hcancel := isCancelled_dropShares h (by simpa using hshare)
    dsimp only [State.isCancelled, State.op]
    rw [ops_releaseSigners]
    exact hcancel
  · split
    · exact ⟨isSome_modOp h.1 _ _, by rw [op_modOp h.1]⟩
    · exact isCancelled_cancelOp h

theorem freed_refl {s : State} {wk : Nat} (h : (s.weaves.find wk).isSome = true) : s.freed s wk := ⟨h, rfl, rfl, fun _ _ => rfl⟩

theorem freed_cancelHandle {s : State} {wk : Nat} (h : (s.weaves.find wk).isSome = true) (r : Nat) : s.freed (s.cancelHandle r) wk := by
  have hrefl (t : State) (ht : t.weaves = s.weaves) : s.freed t wk := by
    unfold State.freed State.weave
    rw [ht]
    exact freed_refl h
  unfold State.cancelHandle
  split
  · refine freed_releaseSigners (hrefl _ ?_) ..
    exact foldl_keeps State.weaves _ (fun _ _ => by rfl) _ _
  · split
    · exact hrefl _ rfl
    · exact hrefl _ rfl

theorem mems_cancelHandle (s : State) (r : Nat) : (s.cancelHandle r).mems = s.mems := by
  unfold State.cancelHandle
  split
  · rw [mems_releaseSigners, mems_setConv]
    exact foldl_keeps State.mems _ (fun _ _ => by rfl) _ _
  · split <;> rfl

/-! ### HCANCEL -/

/-- What HCANCEL does, by the state of the handle. -/
def State.hcancel (s : State) (k : Ctx) (e : Env) (act : BitVec 32) (i : Nat) : State :=
  match s.handle e.w i with
  | .empty => s.fault k act 0x18#32 0
  | .pending r => (s.cancelHandle r).advance k act
  | _ => s.advance k act

/-- A handle is Pending on what its register refers to. -/
theorem handles_of_pending {s : State} {w : Weave} {i r : Nat} (h : s.handle w i = .pending r) :
    Table.get none w.handles i = some r ∧ (s.op r).state = .pending := by
  unfold State.handle at h
  split at h
  · next q hq =>
    split at h
    · next hs =>
      cases h
      exact ⟨hq, hs⟩
    · cases h
    · cases h
  · split at h
    · split at h
      · cases h
      · split at h <;> cases h
    · cases h

theorem handle_of_isCancelled {s : State} {w : Weave} {i r : Nat} (hr : Table.get none w.handles i = some r) (h : s.isCancelled r) :
    s.handle w i = .cancelled := by
  unfold State.handle
  rw [hr]
  dsimp only
  rw [h.2]

section
variable {s : State} {k : Ctx} (h : s.inHand k) (g : Gate)
include h

/-- Lanes go on from a state whose weave has at most freed lanes. -/
theorem past_of_freed {t : State} (ht : (s.issueOf k g).b.freed t k.wk) :
    (t.advance k (s.issueOf k g).act).past k k.lanes ∧
      ∀ o l, l < 32 → ((t.advance k (s.issueOf k g).act).weave k.wk).kept o l = ((s.issueOf k g).b.weave k.wk).kept o l := by
  obtain ⟨hsome, hmoved, -, hlanes⟩ := ht
  refine ⟨past_iff_stand.2 fun l hl hc => ?_, fun o l hl => ?_⟩
  · rw [weave_advance hsome, lane_modLanes]
    split
    · exact stand_goOn ..
    · next hn =>
      have hstand := stand_b h g hl hc (by simpa [hl] using hn)
      rw [hlanes l]
      · exact hstand
      · rw [Lane.stand, Prod.ext_iff, Prod.ext_iff] at hstand
        refine hstand.2.2.trans ?_
        split <;> rfl
  · rw [weave_advance hsome, kept_modLanes_goOn]
    exact kept_of_unmoved hmoved o l

omit h in
/-- A handle register refers to what it did, once lanes have been freed and have gone on. -/
theorem handle_advance_of_freed {t : State} (ht : (s.issueOf k g).b.freed t k.wk) (m : BitVec 32) (i : Nat) :
    (t.advance k m).handle ((t.advance k m).weave k.wk) i = t.handle ((s.issueOf k g).b.weave k.wk) i := by
  obtain ⟨hsome, -, hhandles, -⟩ := ht
  simp only [Prod.mk.injEq] at hhandles
  rw [weave_advance hsome]
  exact handle_congr rfl ((handles_modLanes ..).trans hhandles.1) ((hsaved_modLanes ..).trans hhandles.2) i

/-- A handle as the word's effect reads it. -/
theorem handle_e (i : Nat) : (s.issueOf k g).b.handle (s.issueOf k g).e.w i = s.handle (s.weave k.wk) i := handle_congr (ops_b h g) rfl rfl i

/-- What is left as lanes go on, whichever operation has been cancelled. -/
theorem left_of_freed {t : State} (ht : (s.issueOf k g).b.freed t k.wk) (hm : t.mems = (s.issueOf k g).b.mems) (i : Nat) :
    let u := t.advance k (s.issueOf k g).act
    u.past k k.lanes ∧ (s.issueOf k g).keepsRegs u [] ∧ u.handle (u.weave k.wk) i = t.handle ((s.issueOf k g).b.weave k.wk) i :=
  have hpast := past_of_freed h g ht
  ⟨hpast.1, keepsRegs_of_kept h g hm fun o l hl _ => hpast.2 o l hl, handle_advance_of_freed g ht ..⟩

/-- HCANCEL cancels the operation that a handle is Pending on. -/
theorem hcancel_pending {i r : Nat} (hr : (s.ops.find r).isSome = true) (hp : s.handle (s.weave k.wk) i = .pending r) :
    let u := (s.issueOf k g).b.hcancel k (s.issueOf k g).e (s.issueOf k g).act i
    u.past k k.lanes ∧ (s.issueOf k g).keepsRegs u [] ∧ u.handle (u.weave k.wk) i = .cancelled := by
  obtain ⟨hreg, hop⟩ := handles_of_pending ((handle_b h g i).trans hp)
  have hcancels : (s.issueOf k g).b.cancels r := ⟨by rw [ops_b h g]; exact hr, .inl hop⟩
  obtain ⟨hpast, hkeeps, hhandle⟩ := left_of_freed h g (freed_cancelHandle (isSome_b h g) r) (mems_cancelHandle ..) i
  rw [handle_of_isCancelled hreg (isCancelled_cancelHandle hcancels)] at hhandle
  unfold State.hcancel
  rw [handle_e h g, hp]
  exact ⟨hpast, hkeeps, hhandle⟩

/-- HCANCEL leaves a handle that has resolved or is Cancelled. -/
theorem hcancel_done {i : Nat} (hd : (∃ st, s.handle (s.weave k.wk) i = .resolved st) ∨ s.handle (s.weave k.wk) i = .cancelled) :
    let u := (s.issueOf k g).b.hcancel k (s.issueOf k g).e (s.issueOf k g).act i
    u.past k k.lanes ∧ (s.issueOf k g).keepsRegs u [] ∧ u.handle (u.weave k.wk) i = s.handle (s.weave k.wk) i := by
  obtain ⟨hpast, hkeeps, hhandle⟩ := left_of_freed h g (freed_refl (isSome_b h g)) rfl i
  have hleft := And.intro hpast (And.intro hkeeps (hhandle.trans (handle_b h g i)))
  unfold State.hcancel
  rw [handle_e h g]
  obtain ⟨st, hs⟩ | hs := hd
  · rw [hs] at hleft ⊢
    exact hleft
  · rw [hs] at hleft ⊢
    exact hleft

end

theorem runs_hcancel (w : F3) (r : Nat) : Runs (.hcancel w) (fun s k => sqGate (s.gang k.gk) w isUnused isH isUnused (w.mods == 0) [])
    (fun x => anyLane x ∧ (x.s.ops.find r).isSome = true ∧
      (x.s.handle x.w (handleIndex w.a) = .pending r ∨ (∃ st, x.s.handle x.w (handleIndex w.a) = .resolved st) ∨
        x.s.handle x.w (handleIndex w.a) = .cancelled)) fun x t =>
      t.past x.k x.k.lanes ∧ x.keepsRegs t [] ∧ t.handle (t.weave x.k.wk) (handleIndex w.a) =
        if x.s.handle x.w (handleIndex w.a) = .pending r then .cancelled else x.s.handle x.w (handleIndex w.a) :=
  runs_of_effect (eff := fun _ k e act s => once act s (·.hcancel k e act (handleIndex w.a))) (fun _ => rfl)
    fun s k h _ ⟨hany, hsome, hstate⟩ => by
      rw [once_of_ne hany]
      split
      · next hp => exact hcancel_pending h _ hsome hp
      · next hp => exact hcancel_done h _ (hstate.resolve_left hp)

end Sys2Proof.Machine
end

section
/-! Words on handles (O19), third part: HMOV and its forms, and the obligation. -/

namespace Sys2Proof.Machine
open Sys2Proof

/-! ### A word held for the lanes that execute it -/

/-- The weave as a hold puts it back: as before the word, but for a clause that starts and stores that are joined. -/
theorem weave_holdActing {s : State} {k : Ctx} {e : Env} (hw : (s.weaves.find k.wk).isSome = true) (act : BitVec 32) (hd : Hold) :
    ∃ fs cs q, (s.holdActing k e act hd).weave k.wk =
      (({ e.w with flags := fs, clauses := cs, sq := q } : Weave).modLanes (k.lanes &&& ~~~act) (Lane.goOn k)).modLanes act (Lane.held hd) := by
  have hback := isSome_modWeave hw (fun _ => e.w) k.wk
  have hcore {t : State} (ht : (t.weaves.find k.wk).isSome = true) :
      ((t.advance k (k.lanes &&& ~~~act)).holdLanes k act hd).weave k.wk =
        ((t.weave k.wk).modLanes (k.lanes &&& ~~~act) (Lane.goOn k)).modLanes act (Lane.held hd) :=
    (weave_modWeave (isSome_modWeave ht _ _) _).trans (congrArg (Weave.modLanes · _ _) (weave_advance ht _))
  unfold State.holdActing
  split
  · rw [hcore hback, weave_modWeave hw]
    exact ⟨_, _, _, rfl⟩
  · obtain ⟨fs, cs, hst⟩ := weave_starts hback
    have hstarted := isSome_starts (k := k) hback
    rw [hcore (isSome_modWeave hstarted _ _), weave_modWeave hstarted, hst, weave_modWeave hw]
    exact ⟨_, _, _, rfl⟩

theorem mems_holdActing (s : State) (k : Ctx) (e : Env) (act : BitVec 32) (hd : Hold) : (s.holdActing k e act hd).mems = s.mems := by
  have hstarts (t : State) : (t.starts k).mems = t.mems := by
    unfold State.starts
    split <;> rfl
  unfold State.holdActing
  rw [mems_holdLanes, mems_advance]
  split
  · exact mems_modWeave ..
  · rw [mems_modWeave, hstarts, mems_modWeave]

/-! ### What a handle register is made to refer to -/

/-- The state of a reference, or of what is left of a reference that was saved. -/
def State.refers (s : State) (ref : Option Nat) (saved : Option Dbl) : HState :=
  match ref with
  | some r => match (s.op r).state with
    | .pending => .pending r
    | .resolved st => .resolved st
    | .cancelled => .cancelled
  | none => match saved with
    | some v => if v.extractLsb' 0 2 = 2 then .resolved (v.extractLsb' 8 32) else if v.extractLsb' 0 2 = 3 then .cancelled else .empty
    | none => .empty

theorem handle_eq_refers (s : State) (w : Weave) (i : Nat) : s.handle w i = s.refers (Table.get none w.handles i) (w.hsaved.find i) := rfl

/-- A handle register takes over a reference (R207). -/
def Weave.point (x : Weave) (d : Nat) (ref : Option Nat) (saved : Option Dbl) : Weave :=
  match saved with
  | some v => { x.setHandle d ref with hsaved := (x.setHandle d ref).hsaved.insert d v }
  | none => x.setHandle d ref

theorem handles_point (x : Weave) (d : Nat) (ref : Option Nat) (saved : Option Dbl) :
    Table.get none (x.point d ref saved).handles d = ref := by
  cases saved <;> exact Table.get_set_same ..

theorem hsaved_point (x : Weave) (d : Nat) (ref : Option Nat) (saved : Option Dbl) : (x.point d ref saved).hsaved.find d = saved := by
  cases saved
  · exact Table.find_erase_same ..
  · exact Table.find_insert_same ..

theorem kept_point (x : Weave) (d : Nat) (ref : Option Nat) (saved : Option Dbl) (o : Operand) (l : Nat) :
    (x.point d ref saved).kept o l = x.kept o l := by
  cases saved <;> exact kept_congr o (fun _ => rfl) (fun _ => rfl) rfl rfl rfl rfl rfl

theorem lane_point (x : Weave) (d : Nat) (ref : Option Nat) (saved : Option Dbl) (l : Nat) : (x.point d ref saved).lane l = x.lane l := by
  cases saved <;> rfl

theorem hmov_of_free {s : State} {k : Ctx} {d : Nat} (hd : ∀ r, s.handle (s.weave k.wk) d ≠ .pending r) (e : Env) (act : BitVec 32)
    (ref : Option Nat) (saved : Option Dbl) :
    s.hmov k e act d ref saved = (s.modWeave k.wk (·.point d ref saved)).advance k act := by
  unfold State.hmov
  dsimp only
  split
  · next r hr => exact absurd hr (hd r)
  · rfl

theorem hmov_of_pending {s : State} {k : Ctx} {d r : Nat} (hd : s.handle (s.weave k.wk) d = .pending r) (e : Env) (act : BitVec 32)
    (ref : Option Nat) (saved : Option Dbl) :
    s.hmov k e act d ref saved = if ref = some r then s.advance k act else s.holdActing k e act (.destPending d r) := by
  unfold State.hmov
  dsimp only
  rw [hd]

theorem past_mono {t : State} {k : Ctx} {m n : BitVec 32} (h : t.past k n) (hm : ∀ l, l < 32 → m.getLsbD l = true → n.getLsbD l = true) :
    t.past k m := fun l hl hml => h l hl (hm l hl hml)

theorem others_of_lanes {lanes act : BitVec 32} (l : Nat) (_ : l < 32) (h : (lanes &&& ~~~act).getLsbD l = true) : lanes.getLsbD l = true := by
  rw [BitVec.getLsbD_and, Bool.and_eq_true] at h
  exact h.1

section
variable {s : State} {k : Ctx} (h : s.inHand k) (g : Gate)
include h

/-- A hold leaves the lanes that execute the word at it, and every register. -/
theorem holdActing_waits (hd : Hold) :
    let x := s.issueOf k g
    let t := x.b.holdActing k x.e x.act hd
    s.waitsAt t k x.act hd ∧ t.past k (k.lanes &&& ~~~x.act) ∧ x.keepsRegs t [] := by
  intro x t
  obtain ⟨fs, cs, q, hweave⟩ := weave_holdActing (e := x.e) (isSome_b h g) x.act hd
  refine ⟨fun l hl hm => ?_, past_iff_stand.2 fun l hl hm => ?_, keepsRegs_of_kept h g (mems_holdActing ..) fun o l hl _ => ?_⟩
  · rw [hweave, lane_modLanes, if_pos ⟨hl, hm⟩, lane_modLanes, if_neg (by simp [hm])]
    exact ⟨rfl, rfl⟩
  · have hmask : x.act.getLsbD l = false := by
      rw [BitVec.getLsbD_and, Bool.and_eq_true] at hm
      simpa [hl] using hm.2
    rw [hweave, lane_modLanes, if_neg (by simp [hmask]), lane_modLanes, if_pos ⟨hl, hm⟩]
    exact stand_goOn ..
  · rw [hweave, kept_modLanes_held, kept_modLanes_goOn, kept_b h g o hl]
    exact kept_congr o (fun _ => rfl) (fun _ => rfl) rfl rfl rfl rfl rfl

/-- A word that only goes on. -/
theorem advance_leaves :
    let x := s.issueOf k g
    let t := x.b.advance k x.act
    t.past k k.lanes ∧ x.keepsRegs t [] ∧ s.frame t k [] := by
  intro x t
  have hweave : t.weave k.wk = (x.b.weave k.wk).modLanes x.act (Lane.goOn k) := weave_advance (isSome_b h g) _
  refine ⟨past_of_goOn h g hweave fun _ => rfl, keepsRegs_of_kept h g rfl fun o l _ _ => by rw [hweave, kept_modLanes_goOn],
    frameBy_of_onlyWeave h g (fun _ _ he => he) (onlyWeave_modWeave (onlyWeave_refl x) _) ?_⟩
  have hkeeps := keeps_goOn (x.b.weave k.wk) k (fun _ hl hm => acting_lanes hl hm) (m := x.act) []
  exact hweave ▸ hkeeps

/-- A handle register that takes over a reference, and lanes that go on. -/
theorem point_leaves (d : Nat) (ref : Option Nat) (saved : Option Dbl) :
    let x := s.issueOf k g
    let t := (x.b.modWeave k.wk (·.point d ref saved)).advance k x.act
    t.past k k.lanes ∧ x.keepsRegs t [] ∧ Table.get none (t.weave k.wk).handles d = ref ∧ t.handle (t.weave k.wk) d = s.refers ref saved := by
  intro x t
  have hw := isSome_b h g
  have hweave : t.weave k.wk = ((x.b.weave k.wk).point d ref saved).modLanes x.act (Lane.goOn k) :=
    (weave_advance (isSome_modWeave hw _ _) _).trans (congrArg (Weave.modLanes · _ _) (weave_modWeave hw _))
  have hhandles : Table.get none (t.weave k.wk).handles d = ref := by rw [hweave, handles_modLanes, handles_point]
  have hsaved : (t.weave k.wk).hsaved.find d = saved := by rw [hweave, hsaved_modLanes, hsaved_point]
  have hops : t.ops = s.ops := ops_b h g
  refine ⟨past_of_goOn h g hweave fun _ => by rw [lane_point], keepsRegs_of_kept h g rfl fun o l _ _ => ?_, hhandles, ?_⟩
  · rw [hweave, kept_modLanes_goOn, kept_point]
  · rw [handle_eq_refers, hhandles, hsaved]
    unfold State.refers State.op
    rw [hops]

/-- A move to a register that is Pending goes on where it would change nothing, and waits otherwise (R207). -/
theorem hmov_pending_leaves {d r : Nat} (hr : s.handle (s.weave k.wk) d = .pending r) (ref : Option Nat) (saved : Option Dbl) :
    let x := s.issueOf k g
    let t := x.b.hmov k x.e x.act d ref saved
    x.keepsRegs t [] ∧ t.past k (k.lanes &&& ~~~x.act) ∧
      if ref = some r then t.past k k.lanes ∧ s.frame t k [] else s.waitsAt t k x.act (.destPending d r) := by
  intro x t
  have ht : t = _ := hmov_of_pending ((handle_b h g d).trans hr) x.e x.act ref saved
  rw [ht]
  split
  · obtain ⟨hpast, hkeeps, hframe⟩ := advance_leaves h g
    exact ⟨hkeeps, past_mono hpast others_of_lanes, hpast, hframe⟩
  · obtain ⟨hwaits, hpast, hkeeps⟩ := holdActing_waits h g (.destPending d r)
    exact ⟨hkeeps, hpast, hwaits⟩

end

/-! ### HMOV between registers -/

theorem runs_hmov (w : F3) : Runs (.hmov w) (fun s k => sqGate (s.gang k.gk) w isH isH isUnused (w.mods == 0) []) anyLane fun x t =>
    x.keepsRegs t [] ∧ t.past x.k (x.k.lanes &&& ~~~x.act) ∧
    match x.s.handle x.w (handleIndex w.dst) with
    | .pending r =>
      if Table.get none x.w.handles (handleIndex w.a) = some r then t.past x.k x.k.lanes ∧ x.s.frame t x.k []
      else x.s.waitsAt t x.k x.act (.destPending (handleIndex w.dst) r)
    | _ => t.past x.k x.k.lanes ∧ t.handle (t.weave x.k.wk) (handleIndex w.dst) = x.s.handle x.w (handleIndex w.a) :=
  runs_of_effect (fun _ => rfl) fun s k h _ hany => by
    rw [once_of_ne hany]
    split
    · next r hr => exact hmov_pending_leaves h _ hr ..
    · next hfree =>
      rw [hmov_of_free fun r hr => hfree r ((handle_b h _ _).symm.trans hr)]
      obtain ⟨hpast, hkeeps, -, hhandle⟩ := point_leaves h (sqGate (s.gang k.gk) w isH isH isUnused (w.mods == 0) []) (handleIndex w.dst)
        (Table.get none (s.weave k.wk).handles (handleIndex w.a)) ((s.weave k.wk).hsaved.find (handleIndex w.a))
      exact ⟨hkeeps, past_mono hpast others_of_lanes, hpast, hhandle⟩

/-! ### HMOV.st: a token in the scratchpad -/

section
variable {s : State} {k : Ctx} (h : s.inHand k) (g : Gate)
include h

/-- Bytes written to the scratchpad, and lanes that go on. -/
theorem spWrite_leaves (hg : (s.gangs.find k.gk).isSome = true) (o : Nat) {bs : List Byte} {n : Nat} (hn : bs.length = n) :
    let x := s.issueOf k g
    let t := (x.b.modGang k.gk fun g => g.spWrite o bs).advance k x.act
    t.past k k.lanes ∧ x.keepsRegs t [] ∧
      ∀ a, Table.get 0 (t.gang k.gk).scratch a = if o ≤ a ∧ a < o + n then bs.getD (a - o) 0 else Table.get 0 (s.gang k.gk).scratch a := by
  intro x t
  subst hn
  have hweave : t.weave k.wk = (x.b.weave k.wk).modLanes x.act (Lane.goOn k) :=
    weave_advance (s := x.b.modGang k.gk fun g => g.spWrite o bs) (isSome_b h g) _
  have hsome : (x.b.gangs.find k.gk).isSome = true := by rw [b_eq h g]; exact hg
  have hgang : t.gang k.gk = (s.gang k.gk).spWrite o bs := (gang_modGang hsome _).trans (congrArg (Gang.spWrite · o bs) (gang_b h g))
  refine ⟨past_of_goOn h g hweave fun _ => rfl, keepsRegs_of_kept h g rfl fun o l _ _ => by rw [hweave, kept_modLanes_goOn], fun a => ?_⟩
  rw [hgang]
  exact get_memWrite ..

end

/-- The token of a record, as the statement writes it. -/
theorem tokenOf_eq (gk r : Nat) : tokenOf gk r = r % 2 ^ 16 + 2 ^ 16 * (Config.tokenCheck gk r).toNat := by
  rw [tokenOf, Nat.mul_comm]

theorem spCheck_of_aligned {g : Gang} {o : Nat} (h8 : o % 8 = 0) (hle : o + 8 ≤ 256 * g.spb) : g.spCheck o 8 = none := by
  unfold Gang.spCheck Gang.spSize
  rw [if_neg (by simp [h8]), if_neg (by omega)]

theorem spReadCheck_of_clean {g : Gang} {o : Nat} (h8 : o % 8 = 0) (hle : o + 8 ≤ 256 * g.spb)
    (hclean : ∀ u ∈ g.spPoison, ¬(8 * u < o + 8 ∧ o < 8 * u + 8)) : g.spReadCheck o 8 = none := by
  unfold Gang.spReadCheck
  rw [spCheck_of_aligned h8 hle]
  exact if_neg (by simpa using hclean)

/-- The token of what a handle register refers to: 0 where it is Empty or Cancelled. -/
def State.tokenIn (s : State) (gk : Nat) (w : Weave) (i : Nat) : Nat :=
  match s.handle w i, Table.get none w.handles i with
  | .cancelled, _ => 0
  | _, some r => tokenOf gk r
  | _, none => match (w.hsaved.find i).bind savedRecord with
    | some r => tokenOf gk r
    | none => 0

/-- What HMOV.st does: a token goes to an address of the scratchpad. -/
def State.storeToken (s : State) (k : Ctx) (e : Env) (act : BitVec 32) (o i : Nat) : State :=
  match (s.gang k.gk).spCheck o 8 with
  | some st => s.fault k act st (BitVec.ofNat 64 o)
  | none =>
    if e.w.scratchQueued then s.holdActing k e act .queueBusy
    else (s.modGang k.gk fun g => g.spWrite o (bytesOf 8 (s.tokenIn k.gk e.w i))).advance k act

theorem storeToken_of_inside {s : State} {k : Ctx} {e : Env} {o : Nat} (hc : (s.gang k.gk).spCheck o 8 = none)
    (hq : e.w.scratchQueued = false) (act : BitVec 32) (i : Nat) :
    s.storeToken k e act o i = (s.modGang k.gk fun g => g.spWrite o (bytesOf 8 (s.tokenIn k.gk e.w i))).advance k act := by
  unfold State.storeToken
  rw [hc, hq]
  rfl

theorem runs_hmovSt (w : F3) : Runs (.hmovSt w) (fun s k => sqGate (s.gang k.gk) w isUnused isS isH (modsIn w.mods 3) [w.a])
    (fun x => anyLane x ∧ (x.s.gangs.find x.k.gk).isSome = true ∧ x.w.scratchQueued = false ∧ (x.rd 0 w.a 0).toNat % 8 = 0 ∧
      (x.rd 0 w.a 0).toNat + 8 ≤ 256 * x.g.spb) fun x t =>
      let token (r : Nat) : Nat := r % 2 ^ 16 + 2 ^ 16 * (Config.tokenCheck x.k.gk r).toNat
      let tok : Nat := match x.s.handle x.w (handleIndex w.b), Table.get none x.w.handles (handleIndex w.b) with
        | .cancelled, _ => 0
        | _, some r => token r
        | _, none => match (x.w.hsaved.find (handleIndex w.b)).bind savedRecord with
          | some r => token r
          | none => 0
      t.past x.k x.k.lanes ∧ x.keepsRegs t [] ∧
      ∀ a, Table.get 0 (t.gang x.k.gk).scratch a =
        if (x.rd 0 w.a 0).toNat ≤ a ∧ a < (x.rd 0 w.a 0).toNat + 8 then (bytesOf 8 tok).getD (a - (x.rd 0 w.a 0).toNat) 0
        else Table.get 0 x.g.scratch a :=
  runs_of_effect (eff := fun _ k e act s => once act s fun s => s.storeToken k e act (e.rd s.ops 0 w.a 0).toNat (handleIndex w.b))
    (fun _ => rfl) fun s k h _ ⟨hany, hg, hq, h8, hle⟩ => by
      rw [once_of_ne hany, ops_b h, storeToken_of_inside (by rw [gang_b h]; exact spCheck_of_aligned h8 hle) hq]
      simp only [State.tokenIn, handle_e h, tokenOf_eq]
      exact spWrite_leaves h _ hg _ (bytesOf_length 8 _)

theorem resolved_of_savedToken {s : State} {gk t : Nat} {v : Dbl} (h : s.savedToken gk t = some v) : v.extractLsb' 0 2 = 2 := by
  obtain ⟨wk, -, hv⟩ := List.exists_of_findSome?_eq_some h
  obtain ⟨e, he, rfl⟩ := Option.map_eq_some_iff.1 hv
  have hany := List.find?_some he
  by_contra hne
  rw [savedRecord, if_neg hne] at hany
  cases hany

theorem refers_savedToken (s t : State) (gk n : Nat) : t.refers none (s.savedToken gk n) = match s.savedToken gk n with
    | some v => .resolved (v.extractLsb' 8 32)
    | none => .empty := by
  cases hv : s.savedToken gk n with
  | none => rfl
  | some v => exact if_pos (resolved_of_savedToken hv)

/-- What HMOV.ld does: a register takes over the record that a token names. -/
def State.loadToken (s : State) (k : Ctx) (e : Env) (act : BitVec 32) (d o : Nat) : State :=
  match (s.gang k.gk).spReadCheck o 8 with
  | some st => s.fault k act st (BitVec.ofNat 64 o)
  | none =>
    if e.w.scratchQueued then s.holdActing k e act .queueBusy else
    match (s.ops.map (·.1)).find? fun r => s.recordLives k.gk r && tokenOf k.gk r == leNat ((s.gang k.gk).spRead o 8) with
    | some r => s.hmov k e act d (some r) none
    | none => s.hmov k e act d none (s.savedToken k.gk (leNat ((s.gang k.gk).spRead o 8)))

section
variable {s : State} {k : Ctx} (h : s.inHand k) (g : Gate)
include h

theorem loadToken_leaves {d o : Nat} (hq : (s.weave k.wk).scratchQueued = false) (hc : (s.gang k.gk).spReadCheck o 8 = none)
    (hd : ∀ r, s.handle (s.weave k.wk) d ≠ .pending r) :
    let x := s.issueOf k g
    let t := x.b.loadToken k x.e x.act d o
    let tok := leNat ((s.gang k.gk).spRead o 8)
    t.past k k.lanes ∧ x.keepsRegs t [] ∧
    match (s.ops.map (·.1)).find? fun r => x.b.recordLives k.gk r && tokenOf k.gk r == tok with
    | some r => Table.get none (t.weave k.wk).handles d = some r
    | none => t.handle (t.weave k.wk) d = match x.b.savedToken k.gk tok with
      | some v => .resolved (v.extractLsb' 8 32)
      | none => .empty := by
  intro x t tok
  have hgang : x.b.gang k.gk = s.gang k.gk := gang_b h g
  have hq' : x.e.w.scratchQueued = false := hq
  have hmov (ref : Option Nat) (saved : Option Dbl) : x.b.hmov k x.e x.act d ref saved = _ :=
    hmov_of_free (fun r hr => hd r ((handle_b h g d).symm.trans hr)) x.e x.act ref saved
  have ht : t = match (s.ops.map (·.1)).find? fun r => x.b.recordLives k.gk r && tokenOf k.gk r == tok with
      | some r => (x.b.modWeave k.wk (·.point d (some r) none)).advance k x.act
      | none => (x.b.modWeave k.wk (·.point d none (x.b.savedToken k.gk tok))).advance k x.act := by
    show x.b.loadToken k x.e x.act d o = _
    unfold State.loadToken
    rw [hgang, hc, hq', ops_b h g]
    simp only [hmov] <;> rfl
  rw [ht]
  split
  · next r hr =>
    obtain ⟨hpast, hkeeps, hhandles, -⟩ := point_leaves h g d (some r) none
    exact ⟨hpast, hkeeps, hhandles⟩
  · next hr =>
    obtain ⟨hpast, hkeeps, -, hhandle⟩ := point_leaves h g d none (x.b.savedToken k.gk tok)
    exact ⟨hpast, hkeeps, hhandle.trans (refers_savedToken ..)⟩

end

theorem runs_hmovLd (w : F3) : Runs (.hmovLd w) (fun s k => sqGate (s.gang k.gk) w isH isS isUnused (modsIn w.mods 3) [w.a])
    (fun x => anyLane x ∧ x.w.scratchQueued = false ∧ (x.rd 0 w.a 0).toNat % 8 = 0 ∧ (x.rd 0 w.a 0).toNat + 8 ≤ 256 * x.g.spb ∧
      (∀ u ∈ x.g.spPoison, ¬(8 * u < (x.rd 0 w.a 0).toNat + 8 ∧ (x.rd 0 w.a 0).toNat < 8 * u + 8)) ∧
      ∀ r, x.s.handle x.w (handleIndex w.dst) ≠ .pending r) fun x t =>
      let tok := leNat (x.g.spRead (x.rd 0 w.a 0).toNat 8)
      t.past x.k x.k.lanes ∧ x.keepsRegs t [] ∧
      match (x.s.ops.map (·.1)).find? fun r => x.b.recordLives x.k.gk r && tokenOf x.k.gk r == tok with
      | some r => Table.get none (t.weave x.k.wk).handles (handleIndex w.dst) = some r
      | none => t.handle (t.weave x.k.wk) (handleIndex w.dst) = match x.b.savedToken x.k.gk tok with
        | some v => .resolved (v.extractLsb' 8 32)
        | none => .empty :=
  runs_of_effect (eff := fun _ k e act s => once act s fun s => s.loadToken k e act (handleIndex w.dst) (e.rd s.ops 0 w.a 0).toNat)
    (fun _ => rfl) fun s k h _ ⟨hany, hq, h8, hle, hclean, hfree⟩ => by
      rw [once_of_ne hany, ops_b h]
      exact loadToken_leaves h _ hq (spReadCheck_of_clean h8 hle hclean) hfree

/-- Settles O19, word by word. -/
theorem handleWords : Obligations.HandleWords :=
  ⟨⟨runs_hwait_resolved, runs_hwait_pending, runs_hwait_bad, runs_hwaitAll⟩, runs_hcancel, runs_hmov, runs_hmovSt, runs_hmovLd⟩

end Sys2Proof.Machine
end

section
/-! Unary functions (O5): a long-latency result that steps no generator. -/

namespace Sys2Proof.Machine
open Sys2Proof

theorem ll_modLanes (w : Weave) (m : BitVec 32) (f : Lane → Lane) : (w.modLanes m f).ll = w.ll := by rw [modLanes_eq]

section
variable (w : Weave) (k : Ctx) (free : Nat) (act : BitVec 32) {o : Operand} (val : Nat → Word → Val)

/-- A value that leaves the generators steps none. -/
theorem stepped_of_fixed (h : ∀ l g, (val l g).2.2 = g) : w.stepped act o val = w := by
  unfold Weave.stepped Weave.stepGens
  simp only [h]
  refine List.foldlRecOn (motive := fun x : Weave => x = w) (lanesOf (computing o act)) _ rfl fun x hx l _ => ?_
  rw [hx]
  exact if_pos rfl

/-- A deferred result that leaves the generators changes its destination at most, beside what issuing it changes. -/
theorem keepsBy_deferred (h : ∀ l g, (val l g).2.2 = g) :
    Weave.keepsBy Weave.restLL w (w.applied k free act o true val) k [o] := by
  unfold Weave.applied
  split
  · exact keepsBy_of_keeps restLL_of_rest (keeps_dropDst ..)
  · have hawait := keepsBy_awaiting w k free act (o := o) val
    rwa [stepped_of_fixed w act val h] at hawait

/-- Where a lane computes, its result is the last outstanding. -/
theorem getLast_ll_applied (h : lanesOf (computing o act) ≠ []) :
    ∃ p, (w.applied k free act o true val).ll.getLast? = some p ∧
      p.writes = (lanesOf (computing o act)).map (fun l => { dst := o, lane := laneKey o l, val := (val l (w.lane l).gen).1 }) ∧
      p.flags = w.raised k o act val ∧ p.lane = true ∧ p.ready = true ∧ p.clause = k.run := by
  unfold Weave.applied
  rw [if_neg (by rwa [List.isEmpty_iff]), if_pos rfl]
  exact ⟨_, List.getLast?_concat .., rfl, rfl, rfl, rfl, rfl⟩

end

section
variable {s : State} {k : Ctx} (h : s.inHand k) (g : Gate)
include h

/-- The shared effect of LA on a long-latency word is what `Issue.defers` says, where the value leaves the generators. -/
theorem defers_laApply (o : Operand) (val : Nat → Word → Val) (hgen : ∀ l g, (val l g).2.2 = g) :
    (s.issueOf k g).defers (((s.issueOf k g).b.laApply k (s.issueOf k g).act o true val).advance k (s.issueOf k g).act) [o]
      ((lanesOf (computing o (s.issueOf k g).act)).map fun l =>
        { dst := o, lane := laneKey o l, val := (val l (((s.issueOf k g).b.weave k.wk).lane l).gen).1 })
      ((s.issueOf k g).flags o (s.issueOf k g).act val) true := by
  have hb := isSome_b h g
  have hw := (weave_advance (isSome_laApply hb (s.issueOf k g).act o true val) (s.issueOf k g).act).trans
    (congrArg (Weave.modLanes · _ _) (weave_laApply hb ..))
  refine ⟨fun hne => ?_, past_of_goOn h g hw fun l => stand_applied .., ?_⟩
  · obtain ⟨p, hlast, hwrites, hflags, hrest⟩ := getLast_ll_applied ((s.issueOf k g).b.weave k.wk) k (s.issueOf k g).b.free
      (s.issueOf k g).act (o := o) val fun he => hne (by rw [he]; rfl)
    exact ⟨p, (congrArg (·.ll.getLast?) hw).trans (by rwa [ll_modLanes]), hwrites, hflags.trans (raised_b h g o _ val), hrest⟩
  · refine frameBy_of_onlyWeave h g restLL_of_rest (onlyWeave_modWeave (onlyWeave_laApply (onlyWeave_refl _) ..) _) ?_
    rw [hw]
    exact keepsBy_trans (keepsBy_deferred _ k _ _ val hgen)
      (keepsBy_of_keeps restLL_of_rest (keeps_goOn _ k (fun _ hl hm => acting_lanes hl hm) _))

end

/-- A unary long-latency word issues the function of SRCB, which no generator enters. -/
theorem runs_laUnaryLL {w : F3} {i : Instr} {f : Word → Word × Flags} (hexec : ∀ s, exec i s = laUnaryLL s w f) :
    Runs i (fun s k => laGate (s.gang k.gk) w isDest isUnused isSource none true (w.mods == 0) false) always fun x t =>
      x.defers t [w.dst]
        ((lanesOf (computing w.dst x.act)).map fun l => { dst := w.dst, lane := laneKey w.dst l, val := (f (x.b3 w false l)).1 })
        (x.flags w.dst x.act fun l g => ((f (x.b3 w false l)).1, (f (x.b3 w false l)).2, g)) true := by
  refine runs_of_effect hexec fun s k h _ _ => ?_
  dsimp only
  rw [ops_b h]
  exact defers_laApply h _ w.dst (fun l g => ((f ((s.issueOf k _).b3 w false l)).1, (f ((s.issueOf k _).b3 w false l)).2, g)) fun _ _ => rfl

/-- Settles O5: each of the eight words runs the shared effect of LA on its function. -/
theorem unaryFunctionsIssueResults : Obligations.UnaryFunctionsIssueResults := by
  intro w
  iterate 8 refine List.forall_mem_cons.2 ⟨runs_laUnaryLL fun _ => rfl, ?_⟩
  exact List.forall_mem_nil _

end Sys2Proof.Machine
end

section
/-! What reports of the matrix engine leave (O49): one operation resolves, and at most a gang's sticky fault word changes. -/

namespace Sys2Proof.Table

/-- A change that leaves the value it meets leaves the table. -/
theorem modify_of_fixed {α : Type} (d : α) {t : Table α} {k : Nat} {f : α → α} (h : f (get d t k) = get d t k) : t.modify k f = t := by
  induction t with
  | nil => rfl
  | cons e t ih =>
    unfold get at h
    unfold modify
    split
    · next he => rw [if_pos he] at h; rw [h]
    · next he => rw [if_neg he] at h; rw [ih h]

end Sys2Proof.Table

namespace Sys2Proof.Machine
open Sys2Proof

/-! ### Resolving an operation (R19, R20) -/

/-- An operation with a report: it resolves if it is pending. -/
def AsyncOp.reported (o : AsyncOp) (st : Word) : AsyncOp :=
  { o with stopped := !o.outstanding, state := if o.state = .pending then .resolved st else o.state }

theorem op_resolve {s : State} {r : Nat} (h : (s.ops.find r).isSome = true) (st : Word) : (s.resolve r st).op r = (s.op r).reported st :=
  op_modOp h _

theorem op_resolve_ne (s : State) {r j : Nat} (st : Word) (h : j ≠ r) : (s.resolve r st).op j = s.op j := op_modOp_ne s _ h

theorem isSome_modGang {s : State} {k : Nat} (h : (s.gangs.find k).isSome = true) (j : Nat) (f : Gang → Gang) :
    ((s.modGang j f).gangs.find k).isSome = true := by
  rw [State.modGang, Table.find_modify]
  split
  · rwa [Option.isSome_map]
  · exact h

/-! ### Reports (R254) -/

/-- A report of success only resolves. -/
theorem mxReport_zero (s : State) (r : Nat) : s.mxReport r 0 = s.resolve r 0 := by
  unfold State.mxReport
  dsimp only
  rw [if_neg (by simp)]

/-- A report resolves its operation, after a gang's sticky fault word may have changed. -/
theorem mxReport_eq (s : State) (r : Nat) (st : Word) :
    ∃ f : Gang → Gang, (∀ g, f g = { g with sticky := (f g).sticky }) ∧ s.mxReport r st = (s.modGang (s.op r).gang f).resolve r st := by
  unfold State.mxReport
  dsimp only
  split
  · exact ⟨_, fun g => by split <;> rfl, rfl⟩
  · refine ⟨id, fun _ => rfl, ?_⟩
    rw [State.modGang, Table.modify_of_fixed {} rfl]

/-- A report changes operations and gangs only. -/
theorem mxReport_keeps {β : Type} {v : State → β} (hops : ∀ s x, v { s with ops := x } = v s) (hgangs : ∀ s x, v { s with gangs := x } = v s)
    (s : State) (r : Nat) (st : Word) : v (s.mxReport r st) = v s := by
  obtain ⟨f, -, he⟩ := mxReport_eq s r st
  rw [he]
  exact (hops ..).trans (hgangs ..)

theorem ops_mxReport (s : State) (r : Nat) (st : Word) : (s.mxReport r st).ops = (s.resolve r st).ops := by
  obtain ⟨f, -, he⟩ := mxReport_eq s r st
  rw [he]
  rfl

theorem op_mxReport (s : State) (r : Nat) (st : Word) (j : Nat) : (s.mxReport r st).op j = (s.resolve r st).op j := by
  rw [State.op, ops_mxReport, ← State.op]

theorem mems_mxReport (s : State) (r : Nat) (st : Word) : (s.mxReport r st).mems = s.mems :=
  mxReport_keeps (fun _ _ => rfl) (fun _ _ => rfl) ..

theorem bonds_mxReport (s : State) (r : Nat) (st : Word) : (s.mxReport r st).bonds = s.bonds :=
  mxReport_keeps (fun _ _ => rfl) (fun _ _ => rfl) ..

theorem status_mxReport (s : State) (r : Nat) (st : Word) : (s.mxReport r st).status = s.status :=
  mxReport_keeps (fun _ _ => rfl) (fun _ _ => rfl) ..

theorem acc_mxReport (s : State) (r : Nat) (st : Word) (k : Nat) : ((s.mxReport r st).gang k).acc = (s.gang k).acc := by
  obtain ⟨f, hf, he⟩ := mxReport_eq s r st
  rw [he]
  exact Table.get_modify_keeps Gang.acc (fun g => by rw [hf g]) ..

/-- An operation that stands and is pending resolves with its report. -/
theorem state_mxReport {s : State} {r : Nat} (h : (s.ops.find r).isSome = true) (hp : (s.op r).state = .pending) (st : Word) :
    ((s.mxReport r st).op r).state = .resolved st := by
  rw [op_mxReport, op_resolve h]
  exact if_pos hp

/-- An operation that has resolved stays resolved. -/
theorem state_mxReport_of_resolved {s : State} {j : Nat} {x : Word} (hs : (s.ops.find j).isSome = true) (h : (s.op j).state = .resolved x)
    (r : Nat) (st : Word) : ((s.mxReport r st).op j).state = .resolved x := by
  rw [op_mxReport]
  by_cases hj : j = r
  · subst hj
    rw [op_resolve hs]
    simp [AsyncOp.reported, h]
  · rw [op_resolve_ne s st hj]
    exact h

/-! ### One report to every share of a round (R282) -/

/-- Every share of a table has a report. -/
def State.reportAll (s : State) (t : Table Share) (st : Word) : State := t.foldl (fun s e => s.mxReport e.2.op st) s

theorem reportAll_keeps {β : Type} {v : State → β} (hops : ∀ s x, v { s with ops := x } = v s) (hgangs : ∀ s x, v { s with gangs := x } = v s)
    (s : State) (t : Table Share) (st : Word) : v (s.reportAll t st) = v s :=
  foldl_keeps v _ (fun _ _ => mxReport_keeps hops hgangs ..) _ _

theorem acc_reportAll (s : State) (t : Table Share) (st : Word) (k : Nat) : ((s.reportAll t st).gang k).acc = (s.gang k).acc :=
  foldl_keeps (fun s : State => (s.gang k).acc) _ (fun _ _ => acc_mxReport ..) _ _

theorem isSome_mxReport {s : State} {j : Nat} (h : (s.ops.find j).isSome = true) (r : Nat) (st : Word) :
    ((s.mxReport r st).ops.find j).isSome = true := by
  rw [ops_mxReport]
  exact isSome_modOp h _ _

/-- Resolved or to be resolved: an operation whose report is `st` ends with it, whether it has had it or is still to have it. -/
theorem state_reportAll_of {t : Table Share} {s : State} {j : Nat} {st : Word} (hs : (s.ops.find j).isSome = true)
    (h : (s.op j).state = .resolved st ∨ (s.op j).state = .pending ∧ ∃ e ∈ t, e.2.op = j) : ((s.reportAll t st).op j).state = .resolved st := by
  induction t generalizing s with
  | nil =>
    obtain h | ⟨-, e, he, -⟩ := h
    · exact h
    · cases he
  | cons e t ih =>
    refine ih (isSome_mxReport hs ..) ?_
    obtain h | ⟨hp, e', he, rfl⟩ := h
    · exact .inl (state_mxReport_of_resolved hs h ..)
    · by_cases hj : e'.2.op = e.2.op
      · rw [hj] at hs hp ⊢
        exact .inl (state_mxReport hs hp st)
      · refine .inr ⟨?_, e', (List.mem_cons.1 he).resolve_left fun h => hj (by rw [h]), rfl⟩
        rw [op_mxReport, op_resolve_ne s st hj]
        exact hp

theorem state_reportAll {t : Table Share} {s : State} {e : Nat × Share} (he : e ∈ t) (hs : (s.ops.find e.2.op).isSome = true)
    (hp : (s.op e.2.op).state = .pending) (st : Word) : ((s.reportAll t st).op e.2.op).state = .resolved st :=
  state_reportAll_of hs (.inr ⟨hp, e, he, rfl⟩)

end Sys2Proof.Machine
end

section
/-! Accumulator rows (O49): what writing whole rows and adding partials leave at each entry. -/

namespace Sys2Proof.Machine
open Sys2Proof

/-! ### Rows written whole (R257) -/

theorem entry_setEntry (g : Gang) (r c : Nat) (e : BitVec 48) {row n : Nat} (hc : c < 32) (hn : n < 32) :
    (g.setEntry r c e).entry row n = if row = r ∧ n = c then e else g.entry row n := by
  unfold Gang.setEntry Gang.entry
  rw [Table.get_set]
  exact if_congr ⟨fun h => by omega, fun h => by omega⟩ rfl rfl

theorem entry_setCols (r : Nat) (f : Nat → Nat → BitVec 48) {cs : List Nat} (hcs : ∀ c ∈ cs, c < 32) (g : Gang) (row : Nat) {n : Nat} (hn : n < 32) :
    (cs.foldl (fun g c => g.setEntry r c (f r c)) g).entry row n = if row = r ∧ n ∈ cs then f row n else g.entry row n := by
  induction cs generalizing g with
  | nil => simp
  | cons c cs ih =>
    obtain ⟨hc, hcs⟩ := List.forall_mem_cons.1 hcs
    rw [List.foldl_cons, ih hcs, entry_setEntry g r c _ hc hn]
    by_cases hr : row = r
    · by_cases hnc : n = c <;> simp [hr, hnc]
    · simp [hr]

/-- Rows that are written hold what is written. -/
theorem entry_setRows (f : Nat → Nat → BitVec 48) (rows : List Nat) (g : Gang) (row : Nat) {n : Nat} (hn : n < 32) :
    (g.setRows rows f).entry row n = if row ∈ rows then f row n else g.entry row n := by
  induction rows generalizing g with
  | nil => simp [Gang.setRows]
  | cons r rows ih =>
    rw [Gang.setRows, List.foldl_cons, ← Gang.setRows, ih, entry_setCols r f (fun c hc => List.mem_range.1 hc) g row hn]
    by_cases hr : row = r <;> simp [hr, hn]

/-! ### Partials added to a row (R107) -/

theorem get_addCols (row : Nat) (p : Nat → Nat) {cs : List Nat} (hcs : ∀ c ∈ cs, c < 32) (hnodup : cs.Nodup) (t : Table (BitVec 48)) (r : Nat)
    {n : Nat} (hn : n < 32) :
    Table.get 0 (cs.foldl (fun t n => Table.set 0 t (32 * row + n) (accumulate (Table.get 0 t (32 * row + n)) (p n))) t) (32 * r + n) =
      if r = row ∧ n ∈ cs then accumulate (Table.get 0 t (32 * r + n)) (p n) else Table.get 0 t (32 * r + n) := by
  induction cs generalizing t with
  | nil => simp
  | cons c cs ih =>
    obtain ⟨hc, hcs⟩ := List.forall_mem_cons.1 hcs
    obtain ⟨hnew, hnodup⟩ := List.nodup_cons.1 hnodup
    rw [List.foldl_cons, ih hcs hnodup, Table.get_set]
    by_cases hkey : r = row ∧ n = c
    · obtain ⟨rfl, rfl⟩ := hkey
      simp [hnew]
    · have hne : 32 * r + n ≠ 32 * row + c := by omega
      rw [if_neg hne]
      exact if_congr ⟨fun h => ⟨h.1, List.mem_cons_of_mem _ h.2⟩,
        fun h => ⟨h.1, (List.mem_cons.1 h.2).resolve_left fun he => hkey ⟨h.1, he⟩⟩⟩ rfl rfl

/-- A row that partials are added to holds the sums. -/
theorem entry_addRow (g : Gang) (row : Nat) (p : Nat → Nat) (r : Nat) {n : Nat} (hn : n < 32) :
    (g.addRow row p).entry r n = if r = row then accumulate (g.entry r n) (p n) else g.entry r n := by
  refine (get_addCols row p (fun c hc => List.mem_range.1 hc) List.nodup_range g.acc r hn).trans ?_
  simp [hn, Gang.entry]

end Sys2Proof.Machine
end

section
/-! Matrix operations in their turn (O49): multiplies, configuration, rows and the codebook. -/

namespace Sys2Proof.Machine
open Sys2Proof

/-! ### An operation in its turn -/

section
variable {s : State} {r : Nat} {o : AsyncOp} {g : Gang} (h : s.matrixTurn r o g)
include h

theorem op_of_turn : s.op r = o := Table.get_of_find h.1
theorem gang_of_turn : s.gang o.gang = g := Table.get_of_find h.2.2.2
theorem isSome_of_turn : (s.ops.find r).isSome = true := by rw [h.1]; rfl
theorem isSome_gang_of_turn : (s.gangs.find o.gang).isSome = true := by rw [h.2.2.2]; rfl
theorem pending_of_turn : (s.op r).state = .pending := by rw [op_of_turn h]; exact h.2.1
theorem due_of_turn : (!s.mxReady r) = false := by rw [h.2.2.1]; rfl

/-- What its change of its gang leaves, with the report that it is done. -/
theorem done_leaves (f : Gang → Gang) : s.memoryKept ((s.modGang o.gang f).mxReport r 0) ∧
    (((s.modGang o.gang f).mxReport r 0).op r).state = .resolved 0 ∧ ((s.modGang o.gang f).mxReport r 0).gang o.gang = f g := by
  have hstands := isSome_of_turn h
  have hpending := pending_of_turn h
  refine ⟨memoryKept_of_mems (mems_mxReport ..), state_mxReport (s := s.modGang o.gang f) hstands hpending 0, ?_⟩
  rw [mxReport_zero]
  exact (gang_modGang (isSome_gang_of_turn h) f).trans (by rw [gang_of_turn h])

end

/-! ### Multiplies (R250 to R254) -/

/-- The streams are not accumulator rows. -/
theorem entry_setStream (g : Gang) (i : Nat) (x : Stream) (r n : Nat) : (g.setStream i x).entry r n = g.entry r n := by
  unfold Gang.setStream
  split <;> rfl

theorem exec_multiply {s : State} {w : F3} (h : (s.op s.ev.a).instr = .mma w ∨ (s.op s.ev.a).instr = .mmas w ∨ (s.op s.ev.a).instr = .mmal w ∨
    (s.op s.ev.a).instr = .mmac w) : exec .matrixOperationExecute s = .next (s.multiply s.ev.a) := by
  show execMatrixOperationExecute s = _
  unfold execMatrixOperationExecute
  obtain h | h | h | h := h <;> rw [h]

/-- A stream without scales gives none and stays. -/
theorem takeScales_off {g : Gang} {x : Stream} (h : x.off = 0xFFFFFFFF#32) (nb : Nat) : g.takeScales x nb = (none, x, 0) := if_pos h

section
variable {s : State} {o : AsyncOp} {g : Gang} (h : s.matrixTurn s.ev.a o g)
include h

theorem multiply_accumulates {p : Plane} {w : F3} (hw : o.instr = .mma w ∨ o.instr = .mmas w ∨ o.instr = .mmal w ∨ o.instr = .mmac w)
    (hshare : s.isShare s.ev.a = false) (hp : p = (s.core o.core).plane (o.arg 0)) (hlatched : p.latched = true) (hfaulted : p.faulted = false)
    (hoff : (g.stream (o.arg 1)).off = 0xFFFFFFFF) (hskewed : (g.stream (o.arg 1)).skewed = false) :
    s.gives .matrixOperationExecute fun t => s.memoryKept t ∧ (t.op s.ev.a).state = .resolved 0 ∧ ∀ n row, n < 32 →
      (t.gang o.gang).entry row n = if row = (o.aux.getD 0 0).toNat then
        accumulate (g.entry row n) (southPartial [{ planes := [p], a := wordBytes o.amat, afmt := o.arg 2, scales := none }] 0 n)
        else g.entry row n := by
  have hop := op_of_turn h
  have hm : s.multiply s.ev.a = (s.modGang o.gang fun g' => (g'.addRow (o.aux.getD 0 0).toNat fun n =>
      southPartial [{ planes := [p], a := wordBytes o.amat, afmt := o.arg 2, scales := none }] 0 n).setStream (o.arg 1) (g.stream (o.arg 1))).mxReport
        s.ev.a 0 := by
    unfold State.multiply
    simp only [hop, gang_of_turn h, ← hp, due_of_turn h, hshare, hlatched, hfaulted, takeScales_off hoff, hskewed, Bool.or_false, Bool.false_eq_true,
      if_false, Bool.not_true]
  obtain ⟨hmem, hstate, hgang⟩ := done_leaves h fun g' => (g'.addRow (o.aux.getD 0 0).toNat fun n =>
    southPartial [{ planes := [p], a := wordBytes o.amat, afmt := o.arg 2, scales := none }] 0 n).setStream (o.arg 1) (g.stream (o.arg 1))
  refine ⟨_, (exec_multiply (by rw [hop]; exact hw)).trans (congrArg _ hm), hmem, hstate, fun n row hn => ?_⟩
  rw [hgang, entry_setStream, entry_addRow _ _ _ _ hn]

theorem multiply_unlatched {p : Plane} {w : F3} (hw : o.instr = .mma w) (hshare : s.isShare s.ev.a = false)
    (hp : p = (s.core o.core).plane (o.arg 0)) (hlatched : p.latched = false) :
    s.gives .matrixOperationExecute fun t => s.memoryKept t ∧ (t.op s.ev.a).state = .resolved 0x28 ∧ (t.gang o.gang).acc = g.acc := by
  have hop := op_of_turn h
  have hm : s.multiply s.ev.a = s.mxReport s.ev.a 0x28#32 := by
    unfold State.multiply
    simp only [hop, ← hp, due_of_turn h, hshare, hlatched, Bool.or_false, Bool.false_eq_true, if_false, Bool.not_false, if_true]
  refine ⟨_, (exec_multiply (by rw [hop]; exact .inl hw)).trans (congrArg _ hm), memoryKept_of_mems (mems_mxReport ..),
    state_mxReport (isSome_of_turn h) (pending_of_turn h) _, ?_⟩
  rw [acc_mxReport, gang_of_turn h]

/-! ### TCFG takes effect (R244 to R246) -/

theorem tcfgTile_takes {w : FX} (hw : o.instr = .tcfgTile w) : s.gives .tcfgEffect fun t =>
    (t.op s.ev.a).state = .resolved 0 ∧ Table.get 0 (t.gang o.gang).cfg.tiles (o.arg 0) = o.aux.getD 6 0 := by
  have hm : s.tcfgEffect s.ev.a = (s.modGang o.gang fun g => { g with cfg := { g.cfg with
      tiles := Table.set 0 g.cfg.tiles (o.arg 0) (o.aux.getD 6 0) } }).mxReport s.ev.a 0 := by
    rw [mxReport_zero]
    unfold State.tcfgEffect
    simp only [op_of_turn h, hw, due_of_turn h, Bool.false_eq_true, if_false]
  obtain ⟨-, hstate, hgang⟩ := done_leaves h fun g => { g with cfg := { g.cfg with tiles := Table.set 0 g.cfg.tiles (o.arg 0) (o.aux.getD 6 0) } }
  refine ⟨_, congrArg Host.Outcome.next hm, hstate, ?_⟩
  rw [hgang]
  exact Table.get_set_same ..

omit h in
theorem plane_setPlane (c : Core) (i j : Nat) (p : Plane) : (c.setPlane i p).plane j = if j = i then p else c.plane j := Table.get_set ..

omit h in
/-- Planes that are released are blank. -/
theorem plane_clearPlanes {is : List Word} {i : Word} (hi : i ∈ is) (c : Core) :
    (is.foldl (fun c i => c.setPlane i.toNat {}) c).plane i.toNat = {} := by
  induction is generalizing c with
  | nil => cases hi
  | cons j is ih =>
    obtain rfl | hi := List.mem_cons.1 hi
    · refine foldl_inv (fun c : Core => c.plane i.toNat = {}) _ (fun c j hc => ?_) is _ ?_
      · rw [plane_setPlane, hc, ite_self]
      · rw [plane_setPlane, if_pos rfl]
    · exact ih hi _

theorem tcfgCfg_takes {w : FX} (hw : o.instr = .tcfgCfg w) : s.gives .tcfgEffect fun t =>
    (t.op s.ev.a).state = .resolved 0 ∧ (t.gang o.gang).cfg.tcw = o.aux.getD 5 0 ∧ (t.gang o.gang).cfg.npl = o.arg 1 ∧
    (∀ i ∈ o.amat, (t.core o.core).plane i.toNat = {}) ∧ (t.gang o.gang).str0.ctr = o.aux.getD 9 0 := by
  let released := s.modCore o.core fun c => o.amat.foldl (fun c i => c.setPlane i.toNat {}) c
  have hm : ∃ f : Gang → Gang, s.tcfgEffect s.ev.a = (released.modGang o.gang f).resolve s.ev.a 0 ∧ ∀ g,
       (f g).cfg.tcw = o.aux.getD 5 0 ∧ (f g).cfg.npl = o.arg 1 ∧ (f g).str0.ctr = o.aux.getD 9 0 := by
    unfold State.tcfgEffect
    simp only [op_of_turn h, hw, due_of_turn h, Bool.false_eq_true, if_false]
    exact ⟨_, rfl, fun g => ⟨rfl, rfl, rfl⟩⟩
  obtain ⟨f, hm, hf⟩ := hm
  obtain ⟨-, hstate, hgang⟩ := done_leaves h f
  obtain ⟨htcw, hnpl, hctr⟩ := hf g
  rw [mxReport_zero] at hstate hgang
  rw [← hgang] at htcw hnpl hctr
  refine ⟨_, congrArg Host.Outcome.next hm, hstate, htcw, hnpl, fun i hi => ?_, hctr⟩
  show (released.core o.core).plane i.toNat = {}
  rw [core_modCore]
  exact plane_clearPlanes hi _

/-! ### Commands over rows and the codebook (R249, R257) -/

theorem cbkld_loads {w : FX} (hw : o.instr = .cbkld w) : s.gives .matrixCommandUnit fun t =>
    s.memoryKept t ∧ (t.op s.ev.a).state = .resolved 0 ∧ (t.gang o.gang).codebook = codebookOf (g.spRead w.imm.toNat 32) ∧ (t.gang o.gang).acc = g.acc := by
  have hm : s.mxUnit s.ev.a = (s.modGang o.gang fun g => { g with codebook := codebookOf (g.spRead w.imm.toNat 32) }).mxReport s.ev.a 0 := by
    unfold State.mxUnit
    simp only [op_of_turn h, hw, due_of_turn h, Bool.false_eq_true, if_false]
  obtain ⟨hmem, hstate, hgang⟩ := done_leaves h fun g => { g with codebook := codebookOf (g.spRead w.imm.toNat 32) }
  refine ⟨_, congrArg Host.Outcome.next hm, hmem, hstate, ?_⟩
  rw [hgang]
  exact ⟨rfl, rfl⟩

omit h in
/-- The end of a unit: the operation goes on to the next, and after the last it reports. -/
theorem unitDone_leaves {s : State} {r : Nat} (hr : (s.ops.find r).isSome = true) :
    (s.unitDone r).mems = s.mems ∧ ((s.unitDone r).op r).unit = (s.op r).unit + 1 ∧ (s.unitDone r).gangs = s.gangs := by
  have hunit : ((s.modOp r fun o => { o with unit := o.unit + 1 }).op r).unit = (s.op r).unit + 1 := by rw [op_modOp hr]
  unfold State.unitDone
  dsimp only
  split
  · rw [mxReport_zero]
    exact ⟨rfl, by rw [op_resolve (isSome_modOp hr _ _)]; exact hunit, rfl⟩
  · exact ⟨rfl, hunit, rfl⟩

theorem accz_clears {w : FX} (hw : o.instr = .accz w) : s.gives .matrixCommandUnit fun t =>
    s.memoryKept t ∧ (t.op s.ev.a).unit = o.unit + 1 ∧ ∀ row c, c < 32 → (t.gang o.gang).entry row c =
      if row ∈ unitRows (o.aux.getD 0 0).toNat (o.aux.getD 1 0).toNat o.unit then 0 else g.entry row c := by
  have hop := op_of_turn h
  have hstands := isSome_of_turn h
  let cleared := s.modGang o.gang fun g => g.setRows (unitRows (o.aux.getD 0 0).toNat (o.aux.getD 1 0).toNat o.unit) fun _ _ => 0
  have hm : s.mxUnit s.ev.a = cleared.unitDone s.ev.a := by
    unfold State.mxUnit
    simp only [hop, hw, due_of_turn h, Bool.false_eq_true, if_false]
    rfl
  obtain ⟨hmems, hunit, hgangs⟩ := unitDone_leaves (s := cleared) hstands
  have hgang : (cleared.unitDone s.ev.a).gang o.gang = cleared.gang o.gang := congrArg (Table.get ({} : Gang) · o.gang) hgangs
  refine ⟨_, congrArg Host.Outcome.next hm, memoryKept_of_mems hmems, hunit.trans (congrArg (·.unit + 1) hop), fun row c hc => ?_⟩
  rw [hgang, gang_modGang (isSome_gang_of_turn h), gang_of_turn h, entry_setRows _ _ _ _ hc]

end

/-! ### An operation that is not due -/

theorem matrix_idle {s : State} (h : s.mxReady s.ev.a = false) :
    s.gives .matrixOperationExecute (fun t => t = s) ∧ s.gives .tcfgEffect (fun t => t = s) ∧
    s.gives .matrixCommandUnit (fun t => t = s) ∧ s.gives .drainShard fun t => t = s := by
  have hwait : (!s.mxReady s.ev.a) = true := by rw [h]; rfl
  have hmul : s.multiply s.ev.a = s := if_pos (by rw [hwait]; rfl)
  refine ⟨gives_idle ?_, gives_idle (congrArg _ (if_pos hwait)), gives_idle (congrArg _ (if_pos hwait)), gives_idle ?_⟩
  · show execMatrixOperationExecute s = _
    unfold execMatrixOperationExecute
    split
    case h_5 => rfl
    all_goals rw [hmul]
  · show Host.Outcome.next (s.drainStep s.ev.a) = _
    unfold State.drainStep
    dsimp only
    split
    · rw [if_pos hwait]
    · rfl

end Sys2Proof.Machine
end

section
/-! Drains (O49): an engine's reads keep operations and gangs, and a drain begins, computes a shard and ends. -/

namespace Sys2Proof.Machine
open Sys2Proof

/-! ### What an engine's reads keep -/

namespace AccessFree
variable {β : Type} {v : State → β} (hv : AccessFree v)
include hv

theorem engRead (s : State) (q : EngAsk) (va n : Nat) : v (s.engRead q va n).1 = v s := by
  unfold State.engRead
  dsimp only
  refine foldl_keeps (fun r : State × Got => v r.1) _ (fun r e => ?_) _ (s, _)
  obtain ⟨u, got⟩ := r
  have hcheck := hv.check u q.part q.master q.who (e.1 % 2 ^ 64) e.2 1 .read false false
  dsimp only
  split
  · split
    next he =>
      rw [he] at hcheck
      split
      · exact (hv.slices ..).trans hcheck
      · exact (hv.count ..).trans hcheck
    next he => rw [he] at hcheck; exact hcheck
    next he => rw [he] at hcheck; exact (hv.slices ..).trans hcheck
  · rfl

theorem isPromoted (s : State) (q : EngAsk) (x : ShapeRec) (i : Nat) : v (s.isPromoted q x i).1 = v s := by
  have hread := hv.engRead s q (x.mapBit i).1 1
  unfold State.isPromoted
  split
  · rfl
  · split
    all_goals next he => rw [he] at hread; exact hread

theorem shardPlace (s : State) (r : Nat) (bf : Bool) (sh : Nat) : v (s.shardPlace r bf sh).1 = v s := by
  unfold State.shardPlace
  dsimp only
  split
  · rfl
  · next x _ =>
    have hprom := hv.isPromoted s ((s.op r).ask 2) x (x.regionAt (((s.op r).reg2 0 + (if bf then 2048 else 4096) * sh) % 2 ^ 64))
    split
    all_goals next he => rw [he] at hprom; exact hprom

end AccessFree

/-- Operations and gangs. -/
def State.atWork (s : State) : Table AsyncOp × Table Gang := (s.ops, s.gangs)

theorem atWork_free : AccessFree State.atWork where
  slices _ _ := rfl
  tlb _ _ _ := rfl
  tickets _ _ _ := rfl
  acc _ _ := rfl
  trans _ _ _ := rfl
  agenda _ _ := rfl
  commit _ _ _ := rfl

/-! ### Drains (R262 to R266) -/

section
variable {s : State} {o : AsyncOp} {g : Gang} (h : s.matrixTurn s.ev.a o g)
include h

theorem drain_begins {w : FX} (hw : o.instr = .drain w) (hunit : o.unit = 0) (hrec : o.reg2 7 = 0) : s.gives .drainShard fun t =>
    s.memoryKept t ∧ (t.op s.ev.a).unit = 1 ∧ (t.gang o.gang).drain.valid = true ∧ (t.gang o.gang).drain.shards = 0 ∧
    (t.gang o.gang).drain.base = BitVec.ofNat 64 (o.reg2 0) := by
  have hstands := isSome_of_turn h
  have hm : ∃ (f : Gang → Gang) (ws : List Word), s.drainStep s.ev.a = (s.modGang o.gang f).modOp s.ev.a (fun o => { o with unit := 1, amat := ws }) ∧
      ∀ g, (f g).drain.valid = true ∧ (f g).drain.shards = 0 ∧ (f g).drain.base = BitVec.ofNat 64 (o.reg2 0) := by
    unfold State.drainStep State.drainStart
    simp only [op_of_turn h, hw, due_of_turn h, hunit, hrec, Bool.false_eq_true, if_false, if_true]
    exact ⟨_, _, rfl, fun g => ⟨rfl, rfl, rfl⟩⟩
  obtain ⟨f, ws, hm, hf⟩ := hm
  have hgang : ((s.modGang o.gang f).modOp s.ev.a fun o => { o with unit := 1, amat := ws }).gang o.gang = f (s.gang o.gang) :=
    gang_modGang (isSome_gang_of_turn h) f
  refine ⟨_, congrArg Host.Outcome.next hm, memoryKept_of_mems rfl, ?_, ?_⟩
  · rw [op_modOp (s := s.modGang o.gang f) hstands]
  · rw [hgang]
    exact hf _

/-- A DRAIN that has its verdict goes on in the state that it meets. -/
theorem drainVerdict_known (hphase : o.phase ≠ 0) : s.drainVerdict s.ev.a = (s, true) := by
  unfold State.drainVerdict
  rw [op_of_turn h]
  exact if_pos hphase

theorem drain_ends {w : FX} (hw : o.instr = .drain w) (hsafe : w.subop.getLsbD 0 = false) (hphase : o.phase = 2) (hunit : o.arg 0 < o.unit) :
    s.gives .drainShard fun t => s.memoryKept t ∧ (t.op s.ev.a).state = .resolved 0 ∧ (t.gang o.gang).drain.known = true ∧
      (t.gang o.gang).drain.nonfin = true ∧ (t.gang o.gang).acc = g.acc := by
  have hm : s.drainStep s.ev.a = (s.modGang o.gang fun g => { g with drain := { g.drain with known := true, nonfin := true } }).mxReport s.ev.a 0 := by
    have hstarted : o.unit ≠ 0 := by omega
    have hlast : ¬o.unit ≤ o.arg 0 := by omega
    unfold State.drainStep
    simp only [op_of_turn h, hw, due_of_turn h, hstarted, drainVerdict_known h (by omega), hsafe, hlast, hphase, State.drainEnd, Bool.false_eq_true,
      if_false]
    rfl
  obtain ⟨hmem, hstate, hgang⟩ := done_leaves h fun g => { g with drain := { g.drain with known := true, nonfin := true } }
  refine ⟨_, congrArg Host.Outcome.next hm, hmem, hstate, ?_⟩
  rw [hgang]
  exact ⟨rfl, rfl, rfl⟩

/-- A safe FP32 DRAIN holds a shard's new weights in its update rows. -/
theorem drain_computes {w : FX} {s1 s2 : State} {adr : Nat} {b : List Byte} (hw : o.instr = .drain w) (hsub : w.subop = 0) (hphase : o.phase = 1)
    (hfirst : 1 ≤ o.unit) (hlast : o.unit ≤ o.arg 0) (hplace : s.shardPlace s.ev.a false (o.unit - 1) = (s1, .inl (adr, false)))
    (hread : s1.engRead (o.ask 2) adr 4096 = (s2, .bytes b)) : s.gives .drainShard fun t =>
      s2.memoryKept t ∧ (t.op s.ev.a).unit = o.unit + 1 ∧ ∀ y c, y < 32 → c < 32 →
        let row := (o.aux.getD 0 0).toNat + 32 * (o.unit - 1)
        (t.gang o.gang).entry (row + y) c =
          entryOf (BitVec.ofNat 32 ((drainWords g row (w.imm == 4) false false (elemsOf 4 b 1024) (s2.weave o.wk).gens).2.getD (32 * y + c) 0)) := by
  have hop := op_of_turn h
  have hwork : s2.atWork = s.atWork := by
    have h1 := atWork_free.shardPlace s s.ev.a false (o.unit - 1)
    have h2 := atWork_free.engRead s1 (o.ask 2) adr 4096
    rw [hplace] at h1
    rw [hread] at h2
    exact h2.trans h1
  have hops : s2.ops = s.ops := congrArg Prod.fst hwork
  have hgangs : s2.gangs = s.gangs := congrArg Prod.snd hwork
  have hstands : (s2.ops.find s.ev.a).isSome = true := by rw [hops]; exact isSome_of_turn h
  have hgang2 : (s2.gangs.find o.gang).isSome = true := by rw [hgangs]; exact isSome_gang_of_turn h
  let row := (o.aux.getD 0 0).toNat + 32 * (o.unit - 1)
  let words := (drainWords g row (w.imm == 4) false false (elemsOf 4 b 1024) (s2.weave o.wk).gens).2
  let held := s2.modGang o.gang fun g => g.setRows ((List.range 32).map (row + ·)) fun y c => entryOf (BitVec.ofNat 32 (words.getD (32 * (y - row) + c) 0))
  have hm : ∃ (gs : Weave → Weave) (f : Gang → Gang), s.drainStep s.ev.a =
      ((held.modWeave o.wk gs).modGang o.gang f).modOp s.ev.a (fun o => { o with unit := o.unit + 1 }) ∧ ∀ g, (f g).acc = g.acc := by
    have hsafe : w.subop.getLsbD 0 = false := by rw [hsub]; rfl
    have hfp32 : w.subop.getLsbD 1 = false := by rw [hsub]; rfl
    have hstarted : o.unit ≠ 0 := by omega
    unfold State.drainStep
    simp only [hop, hw, due_of_turn h, hstarted, drainVerdict_known h (by omega), hsafe, hlast, Bool.false_eq_true, if_false, if_true]
    unfold State.drainShard
    simp only [hop, hsafe, hfp32, hplace, hread, gang_of_turn h, Bool.false_and, Bool.false_eq_true, if_false]
    exact ⟨_, _, rfl, fun g => rfl⟩
  obtain ⟨gs, f, hm, hf⟩ := hm
  have hgang : (((held.modWeave o.wk gs).modGang o.gang f).modOp s.ev.a fun o => { o with unit := o.unit + 1 }).gang o.gang =
      f (held.gang o.gang) := gang_modGang (s := held.modWeave o.wk gs) (isSome_modGang hgang2 _ _) f
  have hg2 : s2.gang o.gang = g := (congrArg (Table.get ({} : Gang) · o.gang) hgangs).trans (gang_of_turn h)
  refine ⟨_, congrArg Host.Outcome.next hm, memoryKept_of_mems (by simp [held]), ?_, fun y c hy hc => ?_⟩
  · rw [op_modOp (s := (held.modWeave o.wk gs).modGang o.gang f) hstands]
    exact congrArg (·.unit + 1) ((congrArg (Table.get ({} : AsyncOp) · s.ev.a) hops).trans hop)
  · dsimp only
    rw [hgang, Gang.entry, hf, ← Gang.entry, gang_modGang hgang2, entry_setRows _ _ _ _ hc, if_pos (List.mem_map.2 ⟨y, List.mem_range.2 hy, rfl⟩),
      Nat.add_sub_cancel_left]

end

end Sys2Proof.Machine
end

section
/-! Bonds and their rounds (O49): views that the end of a bond keeps, forming, granting, issuing and completing rounds, and link errors. -/

namespace Sys2Proof.Table

variable {α β : Type}

/-- What a change of a value keeps of it, a look-up in the changed table keeps. -/
theorem map_find_modify (v : α → β) {f : α → α} (hf : ∀ x, v (f x) = v x) (t : Table α) (k j : Nat) :
    ((t.modify k f).find j).map v = (t.find j).map v := by
  rw [find_modify]
  split
  · rw [Option.map_map]
    exact congrArg (Option.map · (t.find j)) (funext hf)
  · rfl

theorem map_find_mapVals (v : α → β) {f : Nat → α → α} (hf : ∀ k x, v (f k x) = v x) (t : Table α) (j : Nat) :
    ((t.mapVals f).find j).map v = (t.find j).map v := by
  rw [Machine.find_mapVals, Option.map_map]
  exact congrArg (Option.map · (t.find j)) (funext (hf j))

end Sys2Proof.Table

namespace Sys2Proof.Machine
open Sys2Proof

/-! ### Views that bonds and their rounds leave -/

/-- A view of the state that no change of operations, gangs, weaves or cohorts touches. -/
structure ReportFree {β : Type} (v : State → β) : Prop where
  ops : ∀ s x, v { s with ops := x } = v s
  gangs : ∀ s x, v { s with gangs := x } = v s
  weaves : ∀ s x, v { s with weaves := x } = v s
  cohorts : ∀ s x, v { s with cohorts := x } = v s

theorem mems_reportFree : ReportFree State.mems := ⟨fun _ _ => rfl, fun _ _ => rfl, fun _ _ => rfl, fun _ _ => rfl⟩
theorem status_reportFree : ReportFree State.status := ⟨fun _ _ => rfl, fun _ _ => rfl, fun _ _ => rfl, fun _ _ => rfl⟩
theorem bonds_reportFree : ReportFree State.bonds := ⟨fun _ _ => rfl, fun _ _ => rfl, fun _ _ => rfl, fun _ _ => rfl⟩

/-- Lanes that go on change weaves only. -/
theorem releaseSigners_keeps {β : Type} {v : State → β} (hv : ∀ s x, v { s with weaves := x } = v s) (s : State) (home c : Nat) (r : Half) :
    v (s.releaseSigners home c r) = v s :=
  foldl_keeps v _ (fun _ _ => foldl_keeps v _ (fun _ _ => foldl_keeps v _ (fun _ _ => hv ..) _ _) _ _) _ _

/-- A bond that is dissolved changes the table of bonds only. -/
theorem bondTidy_keeps {β : Type} {v : State → β} (hv : ∀ s x, v { s with bonds := x } = v s) (s : State) (bk : Nat) : v (s.bondTidy bk) = v s := by
  unfold State.bondTidy
  split
  · split
    · exact hv ..
    · rfl
  · rfl

/-- A bond with a round in flight is not dissolved yet (R285). -/
theorem bondTidy_of_flight {s : State} {bk : Nat} {b : Bond} (h : s.bonds.find bk = some b) (hf : b.flight ≠ []) : s.bondTidy bk = s := by
  have hempty : b.flight.isEmpty = false := by rwa [List.isEmpty_eq_false_iff]
  unfold State.bondTidy
  rw [h]
  dsimp only
  rw [hempty, Bool.and_false, if_neg (by decide)]

theorem find_modBond {s : State} {bk : Nat} {b : Bond} (h : s.bonds.find bk = some b) (f : Bond → Bond) :
    (s.modBond bk f).bonds.find bk = some (f b) := by
  rw [State.modBond, Table.find_modify, if_pos rfl, h]
  rfl

/-! ### Shares of rounds that have not issued (R285) -/

/-- The shares of a bond's armed round, and those bound to the next, report 0x29, and the lanes that signed go on. -/
def State.failUnissued (s : State) (b : Bond) : State :=
  let v := s.conv (s.bondHome b) b.c
  let s := match b.armed with
    | some x => (s.reportAll x.shares 0x29#32).releaseSigners (s.bondHome b) b.c (v.round - 1)
    | none => s
  if b.shares.isEmpty then s
  else ((s.reportAll b.shares 0x29#32).setConv (s.bondHome b) b.c { v with sig := [], round := v.round + 1, bound := false }).releaseSigners
    (s.bondHome b) b.c v.round

theorem dropUnissued_eq {s : State} {bk : Nat} {b : Bond} (h : s.bonds.find bk = some b) :
    s.dropUnissued bk = (s.failUnissued b).modBond bk fun b => { b with shares := [], armed := none } := by
  unfold State.dropUnissued
  rw [h]
  rfl

theorem ReportFree.failUnissued {β : Type} {v : State → β} (hv : ReportFree v) (s : State) (b : Bond) : v (s.failUnissued b) = v s := by
  unfold State.failUnissued
  dsimp only
  split
  case' isFalse => rw [releaseSigners_keeps hv.weaves, State.setConv, State.modCohort, hv.cohorts, reportAll_keeps hv.ops hv.gangs]
  all_goals
    split
    · rw [releaseSigners_keeps hv.weaves, reportAll_keeps hv.ops hv.gangs]
    · rfl

/-- A formed bond that a round in flight keeps is lost: it has no lease and no share that waits (R285). -/
theorem loseBond_leaves {s : State} {bk : Nat} {b : Bond} (h : s.bonds.find bk = some b) (hformed : b.state = .formed) (hf : b.flight ≠ []) :
    (s.loseBond bk).bonds.find bk = some { b.loseLeases with shares := [], armed := none, state := .lost } ∧
    (s.loseBond bk).mems = s.mems ∧ (s.loseBond bk).status = s.status := by
  let lost := ((s.failUnissued b).modBond bk fun b => { b with shares := [], armed := none }).modBond bk fun b => { b.loseLeases with state := .lost }
  have hfind : lost.bonds.find bk = some { b.loseLeases with shares := [], armed := none, state := .lost } :=
    find_modBond (find_modBond (by rw [bonds_reportFree.failUnissued]; exact h) _) _
  have hlose : s.loseBond bk = lost := by
    unfold State.loseBond
    rw [h, dropUnissued_eq h]
    dsimp only
    rw [hformed]
    exact bondTidy_of_flight hfind hf
  rw [hlose]
  exact ⟨hfind, mems_reportFree.failUnissued s b, status_reportFree.failUnissued s b⟩

/-- A dissolving bond is not lost. -/
theorem loseBond_dissolving {s : State} {bk : Nat} {b : Bond} (h : s.bonds.find bk = some b) (hstate : b.state = .dissolving) : s.loseBond bk = s := by
  unfold State.loseBond
  rw [h]
  dsimp only
  rw [hstate]
  rfl

/-! ### A link error (R285) -/

/-- The columns that a link error strikes. -/
def Bond.fedBy (b : Bond) (col : Nat) (west : Bool) : List Nat := if west then (List.range b.w).filter fun c => decide (col ≤ c) else [col]

/-- A bond with the columns struck. -/
def Bond.strike (b : Bond) (fed : List Nat) : Bond := { b with badCols := (fed ++ b.badCols).dedup }

theorem exec_operandLinkError {s : State} {b : Bond} (h : s.bonds.find s.ev.a = some b) (hf : b.flight ≠ []) : exec .operandLinkError s = .next
    (((s.logError 3 true 0 (s.gang (b.gangOf (b.at_ 0 s.ev.b))).core 0 64).modBond s.ev.a (·.strike (b.fedBy s.ev.b s.ev.on))).loseBond s.ev.a) := by
  have hempty : b.flight.isEmpty = false := by rwa [List.isEmpty_eq_false_iff]
  show execOperandLinkError s = _
  unfold execOperandLinkError
  dsimp only
  rw [h]
  dsimp only
  rw [hempty]
  rfl

theorem mem_strike (b : Bond) (fed : List Nat) {c : Nat} (h : c ∈ fed) : c ∈ (b.strike fed).badCols :=
  List.mem_dedup.2 (List.mem_append_left _ h)

theorem struck_column (b : Bond) {col : Nat} {west : Bool} (h : west = false) : col ∈ (b.strike (b.fedBy col west)).badCols :=
  mem_strike b _ (by rw [Bond.fedBy, h]; exact List.mem_singleton_self _)

theorem struck_columns (b : Bond) {col c : Nat} {west : Bool} (h : west = true) (hcol : col ≤ c) (hc : c < b.w) :
    c ∈ (b.strike (b.fedBy col west)).badCols :=
  mem_strike b _ (by rw [Bond.fedBy, h]; simp [hcol, hc])

/-- The low half of an entry of the error log: class 3, uncorrected, code 0 (R448). -/
theorem linkError_low (unit us : Nat) :
    BitVec.ofNat 64 (3 % 8 + flagAt true 3 + 0 % 256 * 2 ^ 8 + unit % 2 ^ 16 * 2 ^ 16 + us % 2 ^ 32 * 2 ^ 32) &&& 0xFF0F = 0x000B := by
  apply BitVec.eq_of_toNat_eq
  rw [BitVec.toNat_and, BitVec.toNat_ofNat]
  have hmask : (0xFF0F : Dbl).toNat = (2 ^ 16 - 1) &&& 0xFF0F := by decide
  have hlow : (3 % 8 + flagAt true 3 + 0 % 256 * 2 ^ 8 + unit % 2 ^ 16 * 2 ^ 16 + us % 2 ^ 32 * 2 ^ 32) % 2 ^ 64 % 2 ^ 16 = 11 := by
    rw [show flagAt true 3 = 8 from rfl]
    omega
  rw [hmask, ← Nat.land_assoc, Nat.and_two_pow_sub_one_eq_mod, hlow]
  rfl

theorem linkError_loses {s : State} {b : Bond} (h : s.bonds.find s.ev.a = some b) (hformed : b.state = .formed) (hf : b.flight ≠ []) :
    s.gives .operandLinkError fun t => s.memoryKept t ∧ t.status.ehead = (s.status.ehead + 1) % 64 ∧
      (Table.get {} t.status.elog s.status.ehead).q0 &&& 0xFF0F = 0x000B ∧
      ∃ b2, t.bonds.find s.ev.a = some b2 ∧ b2.state = .lost ∧ b2.leases = [] ∧ b2.shares = [] ∧ b2.armed = none ∧
        (s.ev.on = false → s.ev.b ∈ b2.badCols) ∧ (s.ev.on = true → ∀ c, s.ev.b ≤ c → c < b.w → c ∈ b2.badCols) := by
  let logged := s.logError 3 true 0 (s.gang (b.gangOf (b.at_ 0 s.ev.b))).core 0 64
  have hfind : (logged.modBond s.ev.a (·.strike (b.fedBy s.ev.b s.ev.on))).bonds.find s.ev.a = some (b.strike (b.fedBy s.ev.b s.ev.on)) :=
    find_modBond (s := logged) h _
  obtain ⟨hlost, hmems, hstatus⟩ := loseBond_leaves hfind hformed hf
  refine ⟨_, exec_operandLinkError h hf, memoryKept_of_mems hmems, ?_, ?_, _, hlost, rfl, rfl, rfl, rfl, struck_column b,
    fun hon c hcol hc => struck_columns b hon hcol hc⟩
  · rw [hstatus]
    rfl
  · rw [hstatus]
    show (Table.get {} (Table.set {} s.status.elog s.status.ehead _) s.status.ehead).q0 &&& 0xFF0F = 0x000B
    rw [Table.get_set_same]
    exact linkError_low ..

theorem linkError_dissolving {s : State} {b : Bond} (h : s.bonds.find s.ev.a = some b) (hstate : b.state = .dissolving) (hf : b.flight ≠ []) :
    s.gives .operandLinkError fun t => s.memoryKept t ∧ ∃ b2, t.bonds.find s.ev.a = some b2 ∧ b2.state = .dissolving ∧ b2.leases = b.leases ∧
      (s.ev.on = false → s.ev.b ∈ b2.badCols) := by
  let logged := s.logError 3 true 0 (s.gang (b.gangOf (b.at_ 0 s.ev.b))).core 0 64
  have hfind : (logged.modBond s.ev.a (·.strike (b.fedBy s.ev.b s.ev.on))).bonds.find s.ev.a = some (b.strike (b.fedBy s.ev.b s.ev.on)) :=
    find_modBond (s := logged) h _
  refine ⟨_, (exec_operandLinkError h hf).trans (congrArg _ (loseBond_dissolving hfind hstate)), memoryKept_of_mems rfl, _, hfind, hstate, rfl,
    struck_column b⟩

end Sys2Proof.Machine
end

section
/-! Bonds form, and their rounds are granted and issue (O49). -/

namespace Sys2Proof.Machine
open Sys2Proof

/-! ### Forming (R277) -/

theorem snd_of_mem_zip_map {α β : Type} {f : α → β} {l : List α} {e : α × β} (h : e ∈ l.zip (l.map f)) : e.2 = f e.1 := by
  induction l with
  | nil => cases h
  | cons a l ih =>
    obtain rfl | h := List.mem_cons.1 h
    · rfl
    · exact ih h

section
variable {s : State} {bk : Nat} {b : Bond}

/-- The cores on which the members of a bond stand. -/
abbrev State.standingOn (s : State) (b : Bond) : List Nat := b.members.map fun m => (s.gang m).core

/-- The rectangles of a bond's shape on its clusters. -/
abbrev State.rectanglesOf (s : State) (b : Bond) : List (List Nat) :=
  rectangles b.h b.w b.seamDir (s.cohortCluster b.cohort) (s.cohortCluster ((s.cohort b.cohort).partner.getD b.cohort))

/-- A bond is formed: its register may be declared again, and BFORM has ended. -/
def State.formed (s : State) (bk : Nat) (b : Bond) : State :=
  ((s.modBond bk fun b => { b with state := .formed }).setConv (s.bondHome b) b.c { s.conv (s.bondHome b) b.c with bound := false }).resolve b.op 0

theorem bonds_formed (s : State) (bk : Nat) (b : Bond) : (s.formed bk b).bonds = (s.modBond bk fun b => { b with state := .formed }).bonds := by
  simp only [State.formed, State.resolve, State.modOp, State.setConv, State.modCohort, State.modBond]

theorem ops_formed (s : State) (bk : Nat) (b : Bond) : (s.formed bk b).ops = (s.resolve b.op 0).ops := by
  simp only [State.formed, State.resolve, State.modOp, State.setConv, State.modCohort, State.modBond]

/-- A bond whose members stand in a free rectangle is formed where they stand. -/
theorem formBond_here (h : s.bonds.find bk = some b) (hforming : b.state = .forming) (hstopped : b.stopped = false)
    (hpending : (s.op b.op).state = .pending) (hin : s.standingOn b ∈ s.rectanglesOf b) (hfree : s.rectangleFree b.members (s.standingOn b) = true) :
    s.formBond bk = (s.takeFree 1).2.formed bk b := by
  have hfits : ((s.rectanglesOf b).filter fun r => s.rectangleFree b.members r &&
      (b.members.zip r).all fun e => (s.gang e.1).core == e.2 || s.canMove e.1).contains (s.standingOn b) = true := by
    refine List.contains_iff_mem.2 (List.mem_filter.2 ⟨hin, ?_⟩)
    rw [hfree, Bool.true_and, List.all_eq_true]
    intro e he
    rw [snd_of_mem_zip_map he, beq_self_eq_true, Bool.true_or]
  have hstay : (b.members.zip (s.standingOn b)).filter (fun e => ((s.takeFree 1).2.gang e.1).core != e.2) = [] := by
    refine List.filter_eq_nil_iff.2 fun e he => ?_
    show ¬((s.gang e.1).core != e.2) = true
    rw [snd_of_mem_zip_map he, bne_self_eq_false]
    decide
  unfold State.formBond
  rw [h]
  dsimp only
  rw [if_neg (by simp [hforming, hstopped]), if_neg (by simp [hpending]), if_pos hfits]
  dsimp only
  rw [hstay]
  rfl

end

theorem bond_forms {s : State} {b : Bond} {o : AsyncOp} (h : s.bonds.find s.ev.a = some b) (hforming : b.state = .forming) (hstopped : b.stopped = false)
    (ho : s.ops.find b.op = some o) (hpending : o.state = .pending) (hin : s.standingOn b ∈ s.rectanglesOf b)
    (hfree : s.rectangleFree b.members (s.standingOn b) = true) : s.gives .bondFormComplete fun t =>
      s.memoryKept t ∧ t.bonds.find s.ev.a = some { b with state := .formed } ∧ (t.op b.op).state = .resolved 0 := by
  have hop : s.op b.op = o := Table.get_of_find ho
  have hstands : (s.ops.find b.op).isSome = true := by rw [ho]; rfl
  rw [← hop] at hpending
  have hresolved := state_mxReport hstands hpending 0
  rw [mxReport_zero] at hresolved
  refine ⟨(s.takeFree 1).2.formed s.ev.a b, congrArg Host.Outcome.next (formBond_here h hforming hstopped hpending hin hfree), memoryKept_of_mems ?_,
    ?_, ?_⟩
  · simp [State.formed]
  · rw [bonds_formed]
    exact find_modBond (s := (s.takeFree 1).2) h _
  · rw [State.op, ops_formed]
    exact hresolved

/-! ### No bond -/

theorem bond_idle {s : State} (h : s.bonds.find s.ev.a = none) :
    s.gives .bondFormComplete (fun t => t = s) ∧ s.gives .roundIssue (fun t => t = s) ∧ s.gives .roundComplete fun t => t = s := by
  have hform : s.formBond s.ev.a = s := by unfold State.formBond; rw [h]
  have hissue : s.roundIssue s.ev.a = s := by unfold State.roundIssue; rw [h]
  have hcomplete : s.roundComplete s.ev.a = s := by unfold State.roundComplete; rw [h]
  exact ⟨gives_idle (congrArg _ hform), gives_idle (congrArg _ hissue), gives_idle (congrArg _ hcomplete)⟩

/-! ### Grants (R281) -/

theorem turnOf_congr {s t : State} (hcores : t.cores = s.cores) (hclk : t.clk = s.clk) (core unit : Nat) : t.turnOf core unit = s.turnOf core unit := by
  unfold State.turnOf State.core
  rw [hcores, hclk]

theorem turnOf_takeTurn (s : State) (core unit l : Nat) : (s.takeTurn core unit l).turnOf core unit = some l := by
  unfold State.turnOf State.takeTurn
  rw [core_modCore]
  dsimp only
  rw [Table.find_insert_same]
  exact if_pos rfl

section
variable {s : State} {bk m : Nat} {b : Bond} {x : Round} {sh : Share} (h : s.bonds.find bk = some b) (hx : b.armed = some x)
  (hsh : x.shares.find m = some sh) (hnew : x.granted.find m = none)
include h hx hsh hnew

theorem roundGrant_waits (hserves : s.serves (s.gang (b.gangOf m)).core 0 (s.gang (b.gangOf m)).launch (s.grantWaits (s.gang (b.gangOf m)).core) = false) :
    s.roundGrant bk m = s := by
  unfold State.roundGrant
  simp only [h, hx, hsh, hnew, hserves, Bool.not_false, if_true]

omit h hx hsh hnew in
/-- A grant gives the core's cycle to the launch, keeps the operands that were bound, and accepts the share. -/
def State.granting (s : State) (bk m : Nat) (b : Bond) (x : Round) (sh : Share) : State :=
  let u := ((s.takeTurn (s.gang (b.gangOf m)).core 0 (s.gang (b.gangOf m)).launch).takeFree (s.op sh.op).amat.length).2
  (u.fresh.2.modOp sh.op fun o => { o with accepted := true, port := u.fresh.1 + 1 }).modBond bk fun b =>
    { b with armed := some { x with granted := Table.insert x.granted m (s.op sh.op).amat } }

omit h hx hsh hnew in
theorem bonds_granting : (s.granting bk m b x sh).bonds = s.bonds.modify bk fun b =>
    { b with armed := some { x with granted := Table.insert x.granted m (s.op sh.op).amat } } := by
  simp only [State.granting, State.modBond, State.modOp, State.fresh, State.takeFree, State.takeTurn, State.modCore]

omit h hx hsh hnew in
theorem ops_granting : (s.granting bk m b x sh).ops = s.ops.modify sh.op fun o => { o with accepted := true, port := s.nextKey + 1 } := by
  simp only [State.granting, State.modBond, State.modOp, State.fresh, State.takeFree, State.takeTurn, State.modCore]

omit h hx hsh hnew in
theorem turnOf_granting : (s.granting bk m b x sh).turnOf (s.gang (b.gangOf m)).core 0 = some (s.gang (b.gangOf m)).launch := by
  refine Eq.trans (turnOf_congr ?_ ?_ ..) (turnOf_takeTurn s (s.gang (b.gangOf m)).core 0 (s.gang (b.gangOf m)).launch)
  all_goals simp only [State.granting, State.modBond, State.modOp, State.fresh, State.takeFree]

/-- After the last grant the lanes that signed go on, too. -/
theorem roundGrant_grants {β : Type} {v : State → β} (hv : ∀ s x, v { s with weaves := x } = v s) (hlatched : (s.op sh.op).arg 7 = 1)
    (hserves : s.serves (s.gang (b.gangOf m)).core 0 (s.gang (b.gangOf m)).launch (s.grantWaits (s.gang (b.gangOf m)).core) = true) :
    v (s.roundGrant bk m) = v (s.granting bk m b x sh) := by
  have hop : (s.takeTurn (s.gang (b.gangOf m)).core 0 (s.gang (b.gangOf m)).launch).op sh.op = s.op sh.op := rfl
  unfold State.roundGrant
  simp only [h, hx, hsh, hnew, hserves, hop, hlatched, Bool.not_true, Bool.false_eq_true, if_false, if_true]
  split
  · exact releaseSigners_keeps hv ..
  · rfl

end

theorem round_granted {s : State} {b : Bond} {x : Round} {sh : Share} (h : s.bonds.find s.ev.a = some b) (hx : b.armed = some x)
    (hsh : x.shares.find s.ev.b = some sh) (hnew : x.granted.find s.ev.b = none) (hlatched : (s.op sh.op).arg 7 = 1)
    (hserves : s.serves (s.gang (b.gangOf s.ev.b)).core 0 (s.gang (b.gangOf s.ev.b)).launch (s.grantWaits (s.gang (b.gangOf s.ev.b)).core) = true) :
    s.gives .roundGrant fun t => s.memoryKept t ∧
      t.bonds.find s.ev.a = some { b with armed := some { x with granted := Table.insert x.granted s.ev.b (s.op sh.op).amat } } ∧
      t.turnOf (s.gang (b.gangOf s.ev.b)).core 0 = some (s.gang (b.gangOf s.ev.b)).launch ∧
      ((s.ops.find sh.op).isSome = true → (t.op sh.op).accepted = true) := by
  have hkeeps {β : Type} {v : State → β} (hv : ∀ s x, v { s with weaves := x } = v s) : v (s.roundGrant s.ev.a s.ev.b) =
      v (s.granting s.ev.a s.ev.b b x sh) := roundGrant_grants h hx hsh hnew hv hlatched hserves
  refine ⟨s.roundGrant s.ev.a s.ev.b, rfl, memoryKept_of_mems ?_, ?_, ?_, fun hstands => ?_⟩
  · rw [hkeeps (v := State.mems) fun _ _ => rfl]
    simp [State.granting]
  · rw [hkeeps (v := State.bonds) fun _ _ => rfl, bonds_granting]
    exact find_modBond h _
  · rw [hkeeps (v := fun u : State => u.turnOf _ 0) fun _ _ => rfl, turnOf_granting]
  · rw [hkeeps (v := fun u : State => u.op sh.op) fun _ _ => rfl, State.op, ops_granting]
    exact congrArg AsyncOp.accepted (op_modOp hstands _)

theorem round_ungranted {s : State} {b : Bond} {x : Round} {sh : Share} (h : s.bonds.find s.ev.a = some b) (hx : b.armed = some x)
    (hsh : x.shares.find s.ev.b = some sh) (hnew : x.granted.find s.ev.b = none)
    (hserves : s.serves (s.gang (b.gangOf s.ev.b)).core 0 (s.gang (b.gangOf s.ev.b)).launch (s.grantWaits (s.gang (b.gangOf s.ev.b)).core) = false) :
    s.gives .roundGrant fun t => t = s := gives_idle (congrArg Host.Outcome.next (roundGrant_waits h hx hsh hnew hserves))

/-! ### Issue of a round (R281) -/

/-- The rounds in flight of a bond, and how many it has issued. -/
def State.issuedOf (bk : Nat) (s : State) : Option (List Round × Word) := (s.bonds.find bk).map fun b => (b.flight, b.rounds)

/-- A view of a bond, at one key, that neither arming nor dropping shares touches. -/
theorem issuedOf_modify (bk : Nat) (s : State) {f : Bond → Bond} (hf : ∀ b, ((f b).flight, (f b).rounds) = (b.flight, b.rounds)) (j : Nat) :
    (({ s with bonds := s.bonds.modify j f } : State)).issuedOf bk = s.issuedOf bk :=
  Table.map_find_modify (fun b : Bond => (b.flight, b.rounds)) hf s.bonds j bk

theorem issuedOf_mapVals (bk : Nat) (s : State) {f : Nat → Bond → Bond} (hf : ∀ k b, ((f k b).flight, (f k b).rounds) = (b.flight, b.rounds)) :
    (({ s with bonds := s.bonds.mapVals f } : State)).issuedOf bk = s.issuedOf bk :=
  Table.map_find_mapVals (fun b : Bond => (b.flight, b.rounds)) hf s.bonds bk

/-- Checking a register arms and drops shares; it issues no round. -/
theorem issuedOf_convCheck (bk : Nat) (s : State) (home c : Nat) : (s.convCheck home c).issuedOf bk = s.issuedOf bk := by
  have hset (s : State) (v : Conv) : (s.setConv home c v).issuedOf bk = s.issuedOf bk := rfl
  have hrelease (s : State) (r : Half) : (s.releaseSigners home c r).issuedOf bk = s.issuedOf bk := releaseSigners_keeps (fun _ _ => rfl) ..
  have hshares (s0 : State) (t : Table Bond) (s : State) : (t.foldl (fun s e =>
      if s0.bondHome e.2 == home && e.2.c == c then s.resolveShares e.2.shares 0 else s) s).issuedOf bk = s.issuedOf bk :=
    foldl_keeps (State.issuedOf bk) _ (fun s e => by
      split
      · exact foldl_keeps (State.issuedOf bk) (fun s (e : Nat × Share) => s.resolve e.2.op 0) (fun _ _ => rfl) _ _
      · rfl) _ _
  have hdrop (s0 s : State) : State.issuedOf bk
      { s with bonds := s.bonds.mapVals fun _ b => if s0.bondHome b == home && b.c == c then { b with shares := [] } else b } = s.issuedOf bk :=
    issuedOf_mapVals bk s fun _ b => by split <;> rfl
  have harm (s : State) (j : Nat) : State.issuedOf bk
      { s with bonds := s.bonds.modify j fun b => { b with armed := some { shares := b.shares }, shares := [] } } = s.issuedOf bk :=
    issuedOf_modify bk s (fun _ => by rfl) j
  unfold State.convCheck
  dsimp only
  split
  · split
    all_goals
      split
      · simp only [hrelease, hset, hdrop, hshares]
      · rfl
  · split
    · split
      · split
        · split <;> rfl
        · split
          all_goals simp only [hset, harm]
      · split
        all_goals simp only [hrelease, hset]
    · split <;> rfl

/-- A bond that issues its armed round. -/
def Bond.issuing (b : Bond) (x : Round) : Bond := { b with armed := none, flight := b.flight ++ [{ x with issued := true }], rounds := b.rounds + 1 }

theorem round_issues {s : State} {b : Bond} {x : Round} (h : s.bonds.find s.ev.a = some b) (hx : b.armed = some x)
    (hall : b.members.length ≤ x.granted.length) (hfree : ∀ e ∈ x.shares, s.mxFree (s.op e.2.op) = true) (hnone : b.flight = []) :
    s.gives .roundIssue fun t => s.memoryKept t ∧
      ∃ b2, t.bonds.find s.ev.a = some b2 ∧ b2.flight = [{ x with issued := true }] ∧ b2.rounds = b.rounds + 1 := by
  have hissue : s.roundIssue s.ev.a = (s.modBond s.ev.a (·.issuing x)).convCheck (s.bondHome b) b.c := by
    have hready : (x.shares.all fun e => s.mxFree (s.op e.2.op) || b.flight.any fun y => y.shares.any fun z => z.1 == e.1) = true :=
      List.all_eq_true.2 fun e he => by rw [hfree e he, Bool.true_or]
    unfold State.roundIssue
    simp only [h, hx, hready, decide_eq_false (Nat.not_lt.2 hall), Bool.not_true, Bool.or_false, Bool.false_eq_true, if_false]
    rfl
  have hview : (s.roundIssue s.ev.a).issuedOf s.ev.a = some ((b.issuing x).flight, (b.issuing x).rounds) := by
    rw [hissue, issuedOf_convCheck, State.issuedOf, find_modBond h]
    rfl
  obtain ⟨b2, hfind, hb2⟩ := Option.map_eq_some_iff.1 hview
  obtain ⟨hflight, hrounds⟩ := Prod.mk.inj hb2
  refine ⟨s.roundIssue s.ev.a, rfl, memoryKept_of_mems ?_, b2, hfind, ?_, hrounds⟩
  · rw [hissue, mems_convCheck, mems_modBond]
  · rw [hflight]
    exact congrArg (· ++ [_]) hnone

theorem round_not_granted {s : State} {b : Bond} {x : Round} (h : s.bonds.find s.ev.a = some b) (hx : b.armed = some x)
    (hfew : x.granted.length < b.members.length) : s.gives .roundIssue fun t => t = s := by
  refine gives_idle (congrArg Host.Outcome.next ?_)
  unfold State.roundIssue
  simp only [h, hx, hfew, decide_true, Bool.true_or, if_true]

end Sys2Proof.Machine
end

section
/-! A round completes (O49): no share's stream takes scales, so every row's operands are those of its shares, and each column adds its partials
into its own gang's rows. -/

namespace Sys2Proof.Machine
open Sys2Proof

/-! ### Reports of a completed round (R282) -/

/-- A round has completed with a report. -/
def State.roundDone (s : State) (bk : Nat) (x : Round) (rest : List Round) (rep : Word) : State :=
  ((s.reportAll x.shares rep).modBond bk fun b => { b with flight := rest, badCols := if rest.isEmpty then [] else b.badCols }).bondTidy bk

section
variable (s : State) (bk : Nat) (x : Round) (rest : List Round) (rep : Word)

/-- Beside bonds, what a completed round leaves is what its reports leave. -/
theorem roundDone_keeps {β : Type} {v : State → β} (hv : ∀ s x, v { s with bonds := x } = v s) :
    v (s.roundDone bk x rest rep) = v (s.reportAll x.shares rep) := (bondTidy_keeps hv ..).trans (hv ..)

theorem memoryKept_roundDone : s.memoryKept (s.roundDone bk x rest rep) :=
  memoryKept_of_mems ((roundDone_keeps (v := State.mems) s bk x rest rep fun _ _ => rfl).trans (reportAll_keeps (fun _ _ => rfl) (fun _ _ => rfl) ..))

theorem acc_roundDone (k : Nat) : ((s.roundDone bk x rest rep).gang k).acc = (s.gang k).acc :=
  (roundDone_keeps (v := fun u : State => (u.gang k).acc) s bk x rest rep fun _ _ => rfl).trans (acc_reportAll ..)

theorem state_roundDone {e : Nat × Share} (he : e ∈ x.shares) (hs : (s.ops.find e.2.op).isSome = true) (hp : (s.op e.2.op).state = .pending) :
    ((s.roundDone bk x rest rep).op e.2.op).state = .resolved rep :=
  (roundDone_keeps (v := fun u : State => (u.op e.2.op).state) s bk x rest rep fun _ _ => rfl).trans (state_reportAll he hs hp rep)

end

/-! ### A share whose plane is not latched -/

theorem round_unlatched {s : State} {b : Bond} {x : Round} {rest : List Round} {m : Nat} (h : s.bonds.find s.ev.a = some b) (hflight : b.flight = x :: rest)
    (hm : (List.range (b.h * b.w)).find? (fun m => !(s.sharePlane b x m).latched) = some m) : s.gives .roundComplete fun t =>
      s.memoryKept t ∧ (∀ k, (t.gang k).acc = (s.gang k).acc) ∧ ∀ e ∈ x.shares, (s.ops.find e.2.op).isSome = true →
        (s.op e.2.op).state = .pending → (t.op e.2.op).state = .resolved (if b.badCols = [] then 0x28 ||| BitVec.ofNat 32 m <<< 8 else 0x29) := by
  have hc : s.roundComplete s.ev.a = s.roundDone s.ev.a x rest (if b.badCols = [] then 0x28 ||| BitVec.ofNat 32 m <<< 8 else 0x29) := by
    have hrep : (if (!b.badCols.isEmpty) = true then 0x29#32 else 0x28#32 ||| (BitVec.ofNat 32 m <<< 8)) =
        if b.badCols = [] then 0x28 ||| BitVec.ofNat 32 m <<< 8 else 0x29 := by cases b.badCols <;> rfl
    unfold State.roundComplete
    simp only [h, hflight, hm, hrep]
    rfl
  exact ⟨_, congrArg Host.Outcome.next hc, memoryKept_roundDone .., fun k => acc_roundDone _ _ _ _ _ k,
    fun e he hs hp => state_roundDone _ _ _ _ _ he hs hp⟩

/-! ### The operands of its rows -/

/-- A fold over rows that leaves the state, reports nothing and adds one row each time gathers the rows. -/
theorem foldl_gather {σ ρ τ : Type} {f : σ × List ρ × Option τ → Nat → σ × List ρ × Option τ} {s : σ} {row : Nat → ρ} {is : List Nat}
    (hf : ∀ i ∈ is, ∀ rows, f (s, rows, none) i = (s, rows ++ [row i], none)) (rows : List ρ) :
    is.foldl f (s, rows, none) = (s, rows ++ is.map row, none) := by
  induction is generalizing rows with
  | nil => simp
  | cons i is ih =>
    obtain ⟨hi, his⟩ := List.forall_mem_cons.1 hf
    rw [List.foldl_cons, hi, ih his, List.append_assoc]
    rfl

theorem setStream_stream (g : Gang) (i : Nat) : g.setStream i (g.stream i) = g := by
  unfold Gang.setStream Gang.stream
  split <;> rfl

/-- A stream that stays leaves the state. -/
theorem modGang_setStream (s : State) (k i : Nat) : s.modGang k (·.setStream i ((s.gang k).stream i)) = s := by
  have h : s.gangs.modify k (·.setStream i ((s.gang k).stream i)) = s.gangs := Table.modify_of_fixed {} (setStream_stream ..)
  unfold State.modGang
  rw [h]

/-! ### The partials of its columns (R107) -/

section
variable (gk row : Nat → Nat) (p : Nat → Nat → Nat)

/-- Each column adds its partials into its gang's row. -/
def State.addColumns (s : State) (cs : List Nat) : State := cs.foldl (fun s c => s.modGang (gk c) fun g => g.addRow (row c) (p c)) s

theorem ops_addColumns (s : State) (cs : List Nat) : (s.addColumns gk row p cs).ops = s.ops :=
  foldl_keeps State.ops (fun (s : State) c => s.modGang (gk c) fun g => g.addRow (row c) (p c)) (fun _ _ => rfl) _ _
theorem mems_addColumns (s : State) (cs : List Nat) : (s.addColumns gk row p cs).mems = s.mems :=
  foldl_keeps State.mems (fun (s : State) c => s.modGang (gk c) fun g => g.addRow (row c) (p c)) (fun _ _ => rfl) _ _

/-- A gang into which no column adds stays. -/
theorem gang_addColumns_of_ne {k : Nat} {cs : List Nat} (h : ∀ c ∈ cs, gk c ≠ k) (s : State) : (s.addColumns gk row p cs).gang k = s.gang k := by
  induction cs generalizing s with
  | nil => rfl
  | cons c cs ih =>
    obtain ⟨hc, hcs⟩ := List.forall_mem_cons.1 h
    exact (ih hcs _).trans (gang_modGang_ne s _ (Ne.symm hc))

/-- Where each column has its own gang, that gang's row has the column's partials once. -/
theorem gang_addColumns {c : Nat} {cs : List Nat} (hc : c ∈ cs) (hnodup : cs.Nodup) (hinj : ∀ c ∈ cs, ∀ d ∈ cs, gk c = gk d → c = d) {s : State}
    (hs : (s.gangs.find (gk c)).isSome = true) : (s.addColumns gk row p cs).gang (gk c) = (s.gang (gk c)).addRow (row c) (p c) := by
  induction cs generalizing s with
  | nil => cases hc
  | cons d cs ih =>
    obtain ⟨hnew, hnodup⟩ := List.nodup_cons.1 hnodup
    obtain rfl | hmem := List.mem_cons.1 hc
    · have hother : ∀ e ∈ cs, gk e ≠ gk c := fun e he heq => hnew (hinj e (List.mem_cons_of_mem _ he) c hc heq ▸ he)
      exact (gang_addColumns_of_ne gk row p hother _).trans (gang_modGang hs _)
    · have hne : gk c ≠ gk d := fun heq => hnew (hinj c hc d List.mem_cons_self heq ▸ hmem)
      refine (ih hmem hnodup (fun a ha b hb => hinj a (List.mem_cons_of_mem _ ha) b (List.mem_cons_of_mem _ hb)) (isSome_modGang hs _ _)).trans ?_
      rw [gang_modGang_ne s _ hne]

end

/-! ### A round without scales and without faults completes -/

section
variable {s : State} {bk : Nat} {b : Bond} {x : Round} {rest : List Round} (h : s.bonds.find bk = some b) (hflight : b.flight = x :: rest)
  (hplanes : ∀ m, m < b.h * b.w → (s.sharePlane b x m).latched = true ∧ (s.sharePlane b x m).faulted = false) (hscales : s.noScales b x)
  (hbad : b.badCols = [])
include h hflight hplanes hscales hbad

theorem roundComplete_accumulates : s.roundComplete bk = (s.addColumns (fun c => b.gangOf (b.at_ (b.h - 1) c))
    (fun c => ((x.shares.find (b.at_ (b.h - 1) c)).getD {}).row) (southPartial (s.roundRows b x)) (List.range b.w)).roundDone bk x rest 0 := by
  have hlatched : (List.range (b.h * b.w)).find? (fun m => !(s.sharePlane b x m).latched) = none :=
    List.find?_eq_none.2 fun m hm => by rw [(hplanes m (List.mem_range.1 hm)).1]; decide
  have hfaulted : (List.range (b.h * b.w)).find? (fun m => (s.sharePlane b x m).faulted) = none :=
    List.find?_eq_none.2 fun m hm => by rw [(hplanes m (List.mem_range.1 hm)).2]; decide
  unfold State.roundComplete
  simp only [h, hflight, hlatched, hfaulted]
  rw [foldl_gather (s := s) (row := fun i => {
    planes := (List.range b.w).map fun c => s.sharePlane b x (b.at_ i c), a := wordBytes (Table.get [] x.granted (b.at_ i 0))
    afmt := (s.op ((x.shares.find (b.at_ i 0)).getD {}).op).arg 2, scales := none })]
  · simp only [hbad]
    rfl
  · intro i hi rows
    obtain ⟨hoff, -⟩ := hscales i (List.mem_range.1 hi)
    dsimp only
    simp only [takeScales_off hoff, modGang_setStream, if_true]

end

theorem round_accumulates {s : State} {b : Bond} {x : Round} {rest : List Round} (h : s.bonds.find s.ev.a = some b) (hflight : b.flight = x :: rest)
    (hplanes : ∀ m, m < b.h * b.w → (s.sharePlane b x m).latched = true ∧ (s.sharePlane b x m).faulted = false) (hscales : s.noScales b x)
    (hbad : b.badCols = [])
    (hinj : ∀ c d, c < b.w → d < b.w → b.gangOf (b.at_ (b.h - 1) c) = b.gangOf (b.at_ (b.h - 1) d) → c = d) : s.gives .roundComplete fun t =>
      s.memoryKept t ∧
      (∀ e ∈ x.shares, (s.ops.find e.2.op).isSome = true → (s.op e.2.op).state = .pending → (t.op e.2.op).state = .resolved 0) ∧
      ∀ c n row, c < b.w → n < 32 → let gk := b.gangOf (b.at_ (b.h - 1) c)
        (s.gangs.find gk).isSome = true → (t.gang gk).entry row n =
          if row = ((x.shares.find (b.at_ (b.h - 1) c)).getD {}).row then accumulate ((s.gang gk).entry row n) (southPartial (s.roundRows b x) c n)
          else (s.gang gk).entry row n := by
  refine ⟨_, congrArg Host.Outcome.next (roundComplete_accumulates h hflight hplanes hscales hbad), ?_, fun e he hs hp => ?_, fun c n row hc hn => ?_⟩
  · exact memoryKept_of_mems ((roundDone_keeps (v := State.mems) _ _ _ _ _ fun _ _ => rfl).trans
      ((reportAll_keeps (fun _ _ => rfl) (fun _ _ => rfl) ..).trans (mems_addColumns ..)))
  · have hops := ops_addColumns (fun c => b.gangOf (b.at_ (b.h - 1) c)) (fun c => ((x.shares.find (b.at_ (b.h - 1) c)).getD {}).row)
      (southPartial (s.roundRows b x)) s (List.range b.w)
    exact state_roundDone _ _ _ _ _ he (by rw [hops]; exact hs) (by unfold State.op; rw [hops]; exact hp)
  · dsimp only
    intro hs
    have hgang := gang_addColumns (fun c => b.gangOf (b.at_ (b.h - 1) c)) (fun c => ((x.shares.find (b.at_ (b.h - 1) c)).getD {}).row)
      (southPartial (s.roundRows b x)) (List.mem_range.2 hc) List.nodup_range
      (fun c hc d hd => hinj c d (List.mem_range.1 hc) (List.mem_range.1 hd)) hs
    unfold Gang.entry
    rw [acc_roundDone, hgang]
    exact entry_addRow _ _ _ _ hn

/-! ### The obligation -/

/-- Settles O49: each clause is the lemma of its event. A multiply, a TCFG, a matrix command and a DRAIN act on the gang whose turn it is and
report; a bond's events act on its members. -/
theorem matrixEvents : Obligations.MatrixEvents := by
  rintro s _ ⟨-, rfl⟩
  exact ⟨fun o g w p h hw hshare hp hlatched hfaulted hoff hskewed => multiply_accumulates h hw hshare hp hlatched hfaulted hoff hskewed,
    fun o g w p h hw hshare hp hlatched => multiply_unlatched h hw hshare hp hlatched,
    fun o g w h hw => tcfgTile_takes h hw,
    fun o g w h hw => tcfgCfg_takes h hw,
    fun o g w h hw hunit hrec => drain_begins h hw hunit hrec,
    fun o g w s1 s2 adr bytes h hw hsub hphase hlow hhigh hplace hread => drain_computes h hw hsub hphase hlow hhigh hplace hread,
    fun o g w h hw hsafe hphase hunit => drain_ends h hw hsafe hphase hunit,
    fun o g w h hw => cbkld_loads h hw,
    fun o g w h hw => accz_clears h hw,
    matrix_idle,
    fun b o h hforming hstopped ho hpending hin hfree => bond_forms h hforming hstopped ho hpending hin hfree,
    bond_idle,
    fun b x sh h hx hsh hnew hlatched => ⟨round_granted h hx hsh hnew hlatched, round_ungranted h hx hsh hnew⟩,
    fun b x h hx hfew => round_not_granted h hx hfew,
    fun b x h hx hall hfree hflight => round_issues h hx hall hfree hflight,
    fun b x rest m h hflight hm => round_unlatched h hflight hm,
    fun b x rest h hflight hplanes hscales hbad hinj => round_accumulates h hflight hplanes hscales hbad hinj,
    fun b h hformed hflight => linkError_loses h hformed hflight,
    fun b h hstate hflight => linkError_dissolving h hstate hflight⟩

end Sys2Proof.Machine
end

section
/-! Entries leave the store queue (O45): what an entry that is performed writes, and that what follows it writes nothing more. -/

namespace Sys2Proof.Table

theorem modify_modify {α : Type} (t : Table α) (k : Nat) (f f' : α → α) : (t.modify k f).modify k f' = t.modify k fun x => f' (f x) := by
  induction t with
  | nil => rfl
  | cons e t ih =>
    by_cases h : e.1 = k
    · simp [modify, h]
    · simp [modify, h, ih]

end Sys2Proof.Table

namespace Sys2Proof.Machine
open Sys2Proof

/-! ### Bytes -/

theorem leNat_lt (bs : List Byte) : leNat bs < 256 ^ bs.length := by
  induction bs with
  | nil => decide
  | cons b bs ih =>
    have hb := b.isLt
    rw [leNat, List.length_cons, Nat.pow_succ]
    omega

theorem leNat_memRead_lt (m : List Host.Cell) (a n : Nat) : leNat (memRead m a n) < 256 ^ n := by
  have h := leNat_lt (memRead m a n)
  rwa [memRead_length] at h

theorem memQword_lt (m : List Host.Cell) (a : Nat) : memQword m a < 2 ^ 64 := leNat_memRead_lt m a 8

/-- A fold of writes leaves every byte outside all of them. -/
theorem get_foldl_memWrite_outside {α : Type} (at_ : α → Nat) (bytes : α → List Byte) {xs : List α} {b : Nat}
    (h : ∀ x ∈ xs, b < at_ x ∨ at_ x + (bytes x).length ≤ b) (m : List Host.Cell) :
    Table.get 0 (xs.foldl (fun m x => memWrite m (at_ x) (bytes x)) m) b = Table.get 0 m b := by
  induction xs generalizing m with
  | nil => rfl
  | cons x xs ih =>
    obtain ⟨hx, hxs⟩ := List.forall_mem_cons.1 h
    rw [List.foldl_cons, ih hxs, get_memWrite_outside (by omega)]

/-! ### What follows an entry that was performed: commands behind it come closer, and barriers may complete -/

/-- What a weave's queue and its results hold. -/
def Weave.duty (w : Weave) : List SqEntry × List PendFault × List LLPend := (w.sq, w.pend, w.ll)

/-- The memories, what a weave's queue and results hold, and a gang's scratchpad. -/
def State.effects (wk g : Nat) (s : State) :
    (List Host.Cell × List Host.Cell) × (List SqEntry × List PendFault × List LLPend) × List Host.Cell :=
  (s.mems, (s.weave wk).duty, (s.gang g).scratch)

section
variable (wk g : Nat)

theorem effects_modWeave (s : State) (j : Nat) {f : Weave → Weave} (hf : ∀ w, (f w).duty = w.duty) :
    (s.modWeave j f).effects wk g = s.effects wk g := by
  have hw : ((s.modWeave j f).weave wk).duty = (s.weave wk).duty := Table.get_modify_keeps Weave.duty hf {} s.weaves j wk
  unfold State.effects
  rw [hw]
  rfl

theorem effects_modGang (s : State) (j : Nat) {f : Gang → Gang} (hf : ∀ x, (f x).scratch = x.scratch) :
    (s.modGang j f).effects wk g = s.effects wk g := by
  have hg : ((s.modGang j f).gang g).scratch = (s.gang g).scratch := Table.get_modify_keeps Gang.scratch hf {} s.gangs j g
  unfold State.effects
  rw [hg]
  rfl

theorem effects_passHeldAll (f : Hold → Bool) (wks : List Nat) (s : State) :
    (wks.foldl (fun s j => s.modWeave j (·.passHeld f)) s).effects wk g = s.effects wk g :=
  foldl_keeps (State.effects wk g) _ (fun s j => effects_modWeave wk g s j (f := (·.passHeld f)) fun _ => rfl) _ _

theorem effects_gbarCheck (s : State) (gk : Nat) : (s.gbarCheck gk).effects wk g = s.effects wk g := by
  unfold State.gbarCheck
  dsimp only
  split
  · exact (effects_modGang wk g _ _ fun _ => by rfl).trans (effects_passHeldAll ..)
  · exact effects_modGang wk g _ _ fun _ => by rfl

theorem effects_cbarCheck (s : State) (gk : Nat) : (s.cbarCheck gk).effects wk g = s.effects wk g := by
  unfold State.cbarCheck
  dsimp only
  split
  · refine (foldl_keeps (State.effects wk g) _ (fun s j => ?_) _ _).trans (effects_passHeldAll ..)
    exact effects_modGang wk g s j (f := fun x => { x with cbar := 0 }) fun _ => rfl
  · exact foldl_keeps (State.effects wk g) _ (fun s j => effects_modGang wk g s j fun _ => by rfl) _ _

end

/-- What follows an entry of a weave that was performed. -/
def State.afterEntry (s : State) (wk : Nat) : State :=
  let s := { s with ops := s.ops.mapVals fun _ o => if o.wk = wk then { o with ahead := o.ahead - 1 } else o }
  let gk := (s.weave wk).gang
  ((s.gbarCheck gk).cbarCheck gk).deliverPend wk

theorem effects_afterEntry {s : State} {wk : Nat} (h : (s.weave wk).pend = []) (g : Nat) : (s.afterEntry wk).effects wk g = s.effects wk g := by
  unfold State.afterEntry
  dsimp only
  have hbar : ∀ (u : State) (gk : Nat), u.effects wk g = s.effects wk g →
      (((u.gbarCheck gk).cbarCheck gk).deliverPend wk).effects wk g = s.effects wk g := by
    intro u gk hu
    have hu' : ((u.gbarCheck gk).cbarCheck gk).effects wk g = s.effects wk g :=
      ((effects_cbarCheck wk g _ _).trans (effects_gbarCheck wk g _ _)).trans hu
    rw [deliverPend_of_calm ((congrArg (·.2.1.2.1) hu').trans h), hu']
  exact hbar _ _ rfl

/-! ### The oldest entry leaves -/

/-- A state from whose weave's queue the oldest entry has been taken. -/
def State.popped (s : State) (wk : Nat) (rest : List SqEntry) : State := s.modWeave wk fun w => { w with sq := rest }

/-- An entry leaves unless it is an exchange store or a way of one of its home slices wakes. -/
theorem leaveQueue_eq {s : State} {wk : Nat} {e : SqEntry} {rest : List SqEntry} (hsq : (s.weave wk).sq = e :: rest) (hx : e.kind ≠ .xst)
    (hawake : e.kind.isScratch = true ∨ ∀ i ∈ e.items, s.sliceWakes i.addr = false) :
    s.leaveQueue wk = ((s.popped wk rest).performEntry wk e).afterEntry wk := by
  have hk : (e.kind == .xst) = false := beq_eq_false_iff_ne.2 hx
  have hstay : (!e.kind.isScratch && e.items.any fun i => s.sliceWakes i.addr) = false := by
    rw [Bool.and_eq_false_iff, Bool.not_eq_false', List.any_eq_false]
    exact hawake.imp_right fun h i hi => by simp [h i hi]
  unfold State.leaveQueue
  rw [hsq]
  dsimp only
  rw [hk, hstay]
  rfl

/-- An entry with a home slice that wakes a way stays (R315). -/
theorem leaveQueue_stays {s : State} {wk : Nat} {e : SqEntry} {rest : List SqEntry} (hsq : (s.weave wk).sq = e :: rest)
    (hs : e.kind.isScratch = false) (hwakes : ¬ ∀ i ∈ e.items, s.sliceWakes i.addr = false) : s.leaveQueue wk = s := by
  have hstay : (!e.kind.isScratch && e.items.any fun i => s.sliceWakes i.addr) = true := by
    rw [hs, Bool.not_false, Bool.true_and, List.any_eq_true]
    push Not at hwakes
    simpa using hwakes
  unfold State.leaveQueue
  rw [hsq]
  dsimp only
  rw [hstay, Bool.or_true, if_pos rfl]

section
variable {s : State} {e : SqEntry} {rest : List SqEntry} (hw : (s.weaves.find s.ev.a).isSome = true)
include hw

theorem weave_popped : (s.popped s.ev.a rest).weave s.ev.a = { s.weave s.ev.a with sq := rest } := weave_modWeave hw _

theorem duty_popped (hp : (s.weave s.ev.a).pend = []) : ((s.popped s.ev.a rest).weave s.ev.a).duty = (rest, [], (s.weave s.ev.a).ll) := by
  rw [weave_popped hw, ← hp]
  rfl

end

/-- What the event leaves is what performing the entry leaves of memory, the scratchpads, and the weave's queue and results. -/
theorem storeQueueLeave_performs {s : State} {e : SqEntry} {rest : List SqEntry} {ll : List LLPend} (hsq : (s.weave s.ev.a).sq = e :: rest)
    (hx : e.kind ≠ .xst) (hawake : e.kind.isScratch = true ∨ ∀ i ∈ e.items, s.sliceWakes i.addr = false) {u : State}
    (hu : (s.popped s.ev.a rest).performEntry s.ev.a e = u) (hduty : (u.weave s.ev.a).duty = (rest, [], ll)) :
    s.gives .storeQueueLeave fun t => t.mems = u.mems ∧ (t.weave s.ev.a).sq = rest ∧ (t.weave s.ev.a).ll = ll ∧
      ∀ g, (t.gang g).scratch = (u.gang g).scratch := by
  have hkeeps := effects_afterEntry (s := u) (wk := s.ev.a) (congrArg (·.2.1) hduty)
  have heq : (((u.afterEntry s.ev.a).weave s.ev.a).duty) = (rest, [], ll) := (congrArg (·.2.1) (hkeeps 0)).trans hduty
  exact ⟨_, congrArg Host.Outcome.next ((leaveQueue_eq hsq hx hawake).trans (congrArg (·.afterEntry s.ev.a) hu)), congrArg (·.1) (hkeeps 0),
    congrArg (·.1) heq, congrArg (·.2.2) heq, fun g => congrArg (·.2.2) (hkeeps g)⟩

/-! ### What a write to memory leaves beside memory -/

/-- Weaves, gangs and the host's memory: what a write to memory leaves. -/
def State.beside (s : State) : Table Weave × Table Gang × List Host.Cell := (s.weaves, s.gangs, s.hostMem)

theorem beside_free : AccessFree State.beside where
  slices _ _ := rfl
  tlb _ _ _ := rfl
  tickets _ _ _ := rfl
  acc _ _ := rfl
  trans _ _ _ := rfl
  agenda _ _ := rfl
  commit _ _ _ := rfl

theorem weave_of_beside {s u : State} (h : u.beside = s.beside) (wk : Nat) : u.weave wk = s.weave wk :=
  congrArg (fun x : Table Weave × Table Gang × List Host.Cell => Table.get ({} : Weave) x.1 wk) h

theorem isSome_of_beside {s u : State} (h : u.beside = s.beside) {wk : Nat} (hw : (s.weaves.find wk).isSome = true) :
    (u.weaves.find wk).isSome = true := by
  rwa [show u.weaves = s.weaves from congrArg (·.1) h]

/-! ### Global stores (R119, R123) -/

/-- An item of a gang's store enters memory, and its core's held lines follow. -/
def State.storeItem (g : Gang) (s : State) (i : SqItem) : State :=
  (s.agentWrite g.part (8 * g.part) none i.addr i.bytes).l1Fresh g.core g.part none i.addr i.bytes.length

theorem mem_storeItem (g : Gang) (s : State) {i : SqItem} (h : inMmio i.addr = false) : (s.storeItem g i).mem = memWrite s.mem i.addr i.bytes := by
  have hwrite : s.agentWrite g.part (8 * g.part) none i.addr i.bytes = s.commitWrite i.addr i.bytes := if_neg (by simp [h])
  unfold State.storeItem
  rw [hwrite]
  rfl

theorem mem_foldl_storeItem (g : Gang) {is : List SqItem} (h : ∀ i ∈ is, inMmio i.addr = false) (s : State) :
    (is.foldl (State.storeItem g) s).mem = is.foldl (fun m i => memWrite m i.addr i.bytes) s.mem := by
  induction is generalizing s with
  | nil => rfl
  | cons i is ih =>
    obtain ⟨hi, his⟩ := List.forall_mem_cons.1 h
    rw [List.foldl_cons, ih his, mem_storeItem g s hi, List.foldl_cons]

section
variable {e : SqEntry} (htag : e.tag = none)
include htag

theorem mems_writeLine (s : State) (p line die : Nat) : (s.writeLine p e line die).mems = s.mems := by
  unfold State.writeLine
  dsimp only
  rw [htag]
  exact (mems_lineRequest ..).trans (mems_countOnly ..)

theorem beside_writeLine (s : State) (p line die : Nat) : (s.writeLine p e line die).beside = s.beside := by
  unfold State.writeLine
  dsimp only
  rw [htag]
  exact (beside_free.modHome ..).trans (beside_free.modHome ..)

theorem beside_performStores (s : State) (wk : Nat) : (s.performStores wk e).beside = s.beside := by
  unfold State.performStores
  refine (foldl_keeps State.beside _ (fun s _ => beside_writeLine htag s ..) _ _).trans (foldl_keeps State.beside _ (fun s i => ?_) _ _)
  rw [htag]
  exact beside_free.agentWrite s ..

/-- The bytes of the items enter memory one after the other. -/
theorem mem_performStores (hmmio : ∀ i ∈ e.items, inMmio i.addr = false) (s : State) (wk : Nat) :
    (s.performStores wk e).mem = e.items.foldl (fun m i => memWrite m i.addr i.bytes) s.mem := by
  unfold State.performStores
  refine (congrArg Prod.fst (foldl_mems _ (fun s l => mems_writeLine htag s ..) _ _)).trans ?_
  rw [htag]
  exact mem_foldl_storeItem _ hmmio s

end

/-! ### Atomics and stamped words (R318, R319, R344, R346) -/

/-- A slice operation of a gang's core leaves a value at an address. -/
def State.operate (s : State) (g : Gang) (a n v : Nat) : State :=
  ((s.commitWrite a (bytesOf n v)).l1Fresh g.core g.part none a n).countOp g.part a n (g.core / 256)

theorem mem_operate (s : State) (g : Gang) (a n v : Nat) : (s.operate g a n v).mem = memWrite s.mem a (bytesOf n v) :=
  congrArg Prod.fst (mems_countOp ..)

theorem beside_operate (s : State) (g : Gang) (a n v : Nat) : (s.operate g a n v).beside = s.beside :=
  ((beside_free.modHome ..).trans (beside_free.modHome ..)).trans ((beside_free.modHome ..).trans (beside_free.commit s a (bytesOf n v)))

/-- Where memory is as an operation left it, the value stands at its address and no other byte has changed. -/
theorem reads_of_operate {s t : State} {a n v : Nat} (h : t.mem = memWrite s.mem a (bytesOf n v)) (hv : v < 256 ^ n) :
    leNat (memRead t.mem a n) = v ∧ keptOutside s t a n := by
  obtain ⟨hread, hkept⟩ := reads_of_memWrite h (bytesOf_length n v)
  exact ⟨by rw [hread, leNat_bytesOf, Nat.mod_eq_of_lt hv], hkept⟩

theorem ratomValue_lt (op : Nat) {n m x c : Nat} (hn : 4 ≤ n) (hm : m < 256 ^ n) (hx : x < 256 ^ n) : ratomValue op n m x c < 256 ^ n := by
  have hpow : 256 ^ n = 2 ^ (8 * n) := by rw [Nat.pow_mul]
  have hword : ∀ v : Word, v.toNat < 2 ^ (8 * n) := fun v => lt_of_lt_of_le v.isLt (Nat.pow_le_pow_right (by decide) (by omega))
  rw [hpow] at hm hx ⊢
  have hone : ∀ (p : Prop) [Decidable p], (if p then x else m) < 2 ^ (8 * n) := fun p _ => by split <;> assumption
  unfold ratomValue
  dsimp only
  split
  case h_1 => exact Nat.mod_lt _ (Nat.two_pow_pos _)
  case h_3 | h_4 | h_11 => exact hone _
  case h_5 => exact lt_of_le_of_lt (Nat.min_le_left ..) hm
  case h_6 => exact Nat.max_lt.2 ⟨hm, hx⟩
  case h_7 => exact Nat.and_lt_two_pow _ hx
  case h_8 => exact Nat.or_lt_two_pow hm hx
  case h_9 => exact Nat.xor_lt_two_pow hm hx
  case h_10 => exact hx
  all_goals exact hword _

/-! ### An atomic's result (R319) -/

theorem queue_put (w : Weave) (o : Operand) (l : Nat) (v : Word) : ((w.put o l v).sq, (w.put o l v).pend) = (w.sq, w.pend) := by
  cases o with
  | p i =>
    show ((if i.val = 0 then w else w.modLane l _).sq, (if i.val = 0 then w else w.modLane l _).pend) = _
    split <;> rfl
  | special q => cases q <;> rfl
  | _ => rfl

theorem queue_dropDst (w : Weave) (o : Operand) : ((w.dropDst o).sq, (w.dropDst o).pend) = (w.sq, w.pend) := by
  unfold Weave.dropDst
  split <;> rfl

theorem queue_deliverLL (w : Weave) (id free : Nat) (vals : List LLWrite) :
    ((w.deliverLL id free vals).sq, (w.deliverLL id free vals).pend) = (w.sq, w.pend) := by
  unfold Weave.deliverLL
  split
  · rfl
  · refine foldl_keeps (fun w : Weave => (w.sq, w.pend)) _ (fun w x => ?_) _ w
    dsimp only
    split
    · exact (queue_dropDst ..).trans (queue_put ..)
    · rfl

/-- A delivered result is ready, and what it writes is of the values delivered. -/
theorem ready_of_deliverLL {w : Weave} {id free : Nat} {vals : List LLWrite} {p : LLPend} (hp : p ∈ (w.deliverLL id free vals).ll)
    (hid : p.id = id) : p.ready = true ∧ ∀ x ∈ p.writes, x ∈ vals := by
  unfold Weave.deliverLL at hp
  split at hp
  next hnone => exact absurd (beq_iff_eq.2 hid) (List.find?_eq_none.1 hnone p hp)
  next q _ =>
    obtain ⟨r, _, rfl⟩ := List.mem_map.1 hp
    by_cases hr : r.id = id
    · rw [if_pos hr]
      exact ⟨rfl, fun x hx => (List.mem_filter.1 (List.mem_filter.1 hx).1).1⟩
    · rw [if_neg hr] at hid
      exact absurd hid hr

/-- A result's write of the lane `key` takes its half of what the atomic found. -/
def LLWrite.found (d : Operand) (key old : Nat) (x : LLWrite) : LLWrite :=
  match [(key, BitVec.ofNat 64 old)].find? fun o : Nat × Dbl => o.1 == x.lane with
  | some o => { x with val := if x.dst == d then loWord o.2 else hiWord o.2 }
  | none => x

theorem val_found {d : Operand} {key old : Nat} {x : LLWrite} (h : (x.found d key old).lane = key) :
    (x.found d key old).val = if (x.found d key old).dst = d then BitVec.ofNat 32 old else BitVec.ofNat 32 (old / 2 ^ 32) := by
  have hlo : loWord (BitVec.ofNat 64 old) = BitVec.ofNat 32 old := by
    apply BitVec.eq_of_toNat_eq
    simp only [loWord, BitVec.extractLsb'_toNat, BitVec.toNat_ofNat, Nat.shiftRight_zero]
    omega
  have hhi : hiWord (BitVec.ofNat 64 old) = BitVec.ofNat 32 (old / 2 ^ 32) := by
    apply BitVec.eq_of_toNat_eq
    simp only [hiWord, BitVec.extractLsb'_toNat, BitVec.toNat_ofNat, Nat.shiftRight_eq_div_pow]
    omega
  have hlane : (x.found d key old).lane = x.lane := by
    unfold LLWrite.found
    split <;> rfl
  rw [hlane] at h
  have hfound : x.found d key old = { x with val := if x.dst == d then loWord (BitVec.ofNat 64 old) else hiWord (BitVec.ofNat 64 old) } := by
    unfold LLWrite.found
    rw [List.find?_singleton, if_pos (by simpa using h.symm)]
  rw [hfound, hlo, hhi]
  simp only [beq_iff_eq]

/-- An atomic of one lane writes its value and delivers what it found. -/
theorem performRatom_single {s u : State} {wk op n old ll : Nat} {wide : Bool} {i : SqItem} (hn : (if wide then 8 else 4) = n)
    (hold : leNat (memRead s.mem i.addr n) = old) (hu : s.operate (s.gang (s.weave wk).gang) i.addr n
      (ratomValue op n old (i.x.toNat % 2 ^ (8 * n)) (i.y.toNat % 2 ^ (8 * n))) = u) (d : Operand) :
    ∃ vals : List LLWrite, (∀ x ∈ vals, ∃ y, x = LLWrite.found d (laneKey d i.lane) old y) ∧
      s.performRatom wk op wide d ll [i] = (u.takeFree 128).2.modWeave wk (·.deliverLL ll u.free vals) := by
  subst hn hold hu
  refine ⟨_, fun x hx => ?_, rfl⟩
  obtain ⟨y, _, rfl⟩ := List.mem_map.1 hx
  exact ⟨y, rfl⟩

/-! ### A stamped word (R344, R346) -/

theorem stampedWord_lt (v : Word) (step fi : Nat) : stampedWord v step fi < 256 ^ 8 := by
  have hv := v.isLt
  unfold stampedWord
  omega

/-- The word that a stamped entry leaves in place of a word. -/
def SqItem.stamped (i : SqItem) (t : Stamp) (set at_ : Bool) (w : Nat) : Nat :=
  if set then stampedWord (loWord i.x) t.step.toNat i.y.toNat else (daddWord t at_ w (loWord i.x) (bits i.y.toNat 23 0)).1

theorem stamped_lt (i : SqItem) (t : Stamp) (set at_ : Bool) (w : Nat) : i.stamped t set at_ w < 256 ^ 8 := by
  unfold SqItem.stamped daddWord
  cases set <;> exact stampedWord_lt ..

theorem modWeave_modWeave (s : State) (wk : Nat) (f f' : Weave → Weave) :
    (s.modWeave wk f).modWeave wk f' = s.modWeave wk fun w => f' (f w) := by
  unfold State.modWeave
  rw [Table.modify_modify]

/-- A stamped entry of one lane writes its word; its weave's queue and results stay. -/
theorem performStamp_single {s u : State} {wk v : Nat} {g : Gang} {e : SqEntry} {i : SqItem} {set at_ : Bool} (hi : e.items = [i])
    (hg : s.gang (s.weave wk).gang = g) (hv : i.stamped (s.part g.part).stamp set at_ (memQword s.mem i.addr) = v)
    (hu : s.operate g i.addr 8 v = u) :
    ∃ f : Weave → Weave, (∀ w, (f w).duty = w.duty) ∧ s.performStamp wk set at_ e = u.modWeave wk f := by
  subst hg hv hu
  have hduty : ∀ (m a : BitVec 32) (w : Weave), ((w.passHeldIn m .performed).modLanes a fun l =>
      if l.hold = some .performed then { l with hold := none } else l).duty = w.duty := by
    intro m a w
    rw [modLanes_eq]
    rfl
  unfold State.performStamp
  rw [hi]
  simp only [List.foldl_cons, List.foldl_nil]
  cases set with
  | true => exact ⟨_, hduty _ _, rfl⟩
  | false =>
    simp only [Bool.false_eq_true, if_false]
    split
    next => exact ⟨_, hduty _ _, rfl⟩
    next => exact ⟨_, fun w => (hduty _ _ _).trans (by rfl), modWeave_modWeave ..⟩

/-! ### The clauses -/

section
variable {s : State} {e : SqEntry} {rest : List SqEntry} (hcalm : s.calmWeave s.ev.a) (hsq : (s.weave s.ev.a).sq = e :: rest)
include hcalm

theorem gang_popped : (s.popped s.ev.a rest).gang ((s.popped s.ev.a rest).weave s.ev.a).gang = s.gang (s.weave s.ev.a).gang := by
  rw [weave_popped hcalm.1]
  rfl

/-- Where an entry's effect is a write to memory that leaves the weaves, the queue is the rest of it. -/
theorem duty_of_beside {u : State} (h : u.beside = (s.popped s.ev.a rest).beside) :
    (u.weave s.ev.a).duty = (rest, [], (s.weave s.ev.a).ll) := by
  rw [weave_of_beside h, duty_popped hcalm.1 hcalm.2]

/-- The same where the weave is then given a result. -/
theorem duty_delivered {u : State} (h : u.beside = (s.popped s.ev.a rest).beside) (ll : Nat) (vals : List LLWrite) :
    (((u.takeFree 128).2.modWeave s.ev.a (·.deliverLL ll u.free vals)).weave s.ev.a).duty =
      (rest, [], ((u.weave s.ev.a).deliverLL ll u.free vals).ll) := by
  have hwk := isSome_of_beside h (isSome_modWeave hcalm.1 _ s.ev.a)
  have hduty := duty_of_beside hcalm h
  have hqueue := queue_deliverLL (u.weave s.ev.a) ll u.free vals
  rw [weave_modWeave (by exact hwk)]
  exact Prod.ext ((congrArg Prod.fst hqueue).trans (congrArg (·.1) hduty))
    (Prod.ext ((congrArg Prod.snd hqueue).trans (congrArg (·.2.1) hduty)) rfl)

include hsq

/-- A store's bytes enter memory (R119, R123). -/
theorem globalEntry_leaves (hk : e.kind = .global) (hawake : ∀ i ∈ e.items, s.sliceWakes i.addr = false) (htag : e.tag = none)
    (hmmio : ∀ i ∈ e.items, inMmio i.addr = false) : s.gives .storeQueueLeave fun t =>
      (t.weave s.ev.a).sq = rest ∧
      (∀ b, (∀ i ∈ e.items, b < i.addr ∨ i.addr + i.bytes.length ≤ b) → Table.get 0 t.mem b = Table.get 0 s.mem b) ∧
      ∀ i, e.items = [i] → memRead t.mem i.addr i.bytes.length = i.bytes := by
  have hperform : (s.popped s.ev.a rest).performEntry s.ev.a e = (s.popped s.ev.a rest).performStores s.ev.a e := by
    unfold State.performEntry
    rw [hk]
  obtain ⟨t, ht, hmems, hrest, -, -⟩ := storeQueueLeave_performs hsq (by rw [hk]; simp) (.inr hawake) hperform
    (duty_of_beside hcalm (beside_performStores htag ..))
  have hmem : t.mem = e.items.foldl (fun m i => memWrite m i.addr i.bytes) s.mem :=
    (congrArg Prod.fst hmems).trans (mem_performStores htag hmmio ..)
  refine ⟨t, ht, hrest, fun b hb => ?_, fun i hi => ?_⟩
  · rw [hmem]
    exact get_foldl_memWrite_outside SqItem.addr SqItem.bytes hb s.mem
  · rw [hmem, hi]
    exact memRead_memWrite ..

/-- A scratchpad store's bytes enter the gang's scratchpad (R224). -/
theorem scratchEntry_leaves (hk : e.kind = .scratch) (hg : (s.gangs.find (s.weave s.ev.a).gang).isSome = true) :
    s.gives .storeQueueLeave fun t => (t.weave s.ev.a).sq = rest ∧ s.memoryKept t ∧
      (∀ b, (∀ i ∈ e.items, b < i.addr ∨ i.addr + i.bytes.length ≤ b) →
        Table.get 0 (t.gang (s.weave s.ev.a).gang).scratch b = Table.get 0 (s.gang (s.weave s.ev.a).gang).scratch b) ∧
      ∀ i, e.items = [i] → memRead (t.gang (s.weave s.ev.a).gang).scratch i.addr i.bytes.length = i.bytes := by
  have hperform : (s.popped s.ev.a rest).performEntry s.ev.a e = (s.popped s.ev.a rest).modGang (s.weave s.ev.a).gang fun g =>
      e.items.foldl (fun g i => g.spWrite i.addr i.bytes) g := by
    unfold State.performEntry
    rw [hk, weave_popped hcalm.1]
  obtain ⟨t, ht, hmems, hrest, -, hscratch⟩ := storeQueueLeave_performs hsq (by rw [hk]; simp) (.inl (by rw [hk]; rfl)) hperform
    (duty_popped hcalm.1 hcalm.2)
  have hsp : (t.gang (s.weave s.ev.a).gang).scratch =
      e.items.foldl (fun m i => memWrite m i.addr i.bytes) (s.gang (s.weave s.ev.a).gang).scratch := by
    rw [hscratch, gang_modGang (by exact hg)]
    exact (List.foldl_hom Gang.scratch (g₁ := fun g (i : SqItem) => g.spWrite i.addr i.bytes)
      (g₂ := fun m i => memWrite m i.addr i.bytes) fun _ _ => rfl).symm
  refine ⟨t, ht, hrest, memoryKept_of_mems hmems, fun b hb => ?_, fun i hi => ?_⟩
  · rw [hsp]
    exact get_foldl_memWrite_outside SqItem.addr SqItem.bytes hb _
  · rw [hsp, hi]
    exact memRead_memWrite ..

/-- An atomic leaves its value, and its result is ready (R318, R319). -/
theorem atomicEntry_leaves {op ll : Nat} {wide uni : Bool} {d : Operand} {i : SqItem} (hk : e.kind = .ratom op wide d ll uni)
    (hawake : ∀ i ∈ e.items, s.sliceWakes i.addr = false) (hi : e.items = [i]) : s.gives .storeQueueLeave fun t =>
      let n := if wide then 8 else 4
      let old := leNat (memRead s.mem i.addr n)
      (t.weave s.ev.a).sq = rest ∧ keptOutside s t i.addr n ∧
      leNat (memRead t.mem i.addr n) = ratomValue op n old (i.x.toNat % 2 ^ (8 * n)) (i.y.toNat % 2 ^ (8 * n)) ∧
      ∀ p ∈ (t.weave s.ev.a).ll, p.id = ll → p.ready = true ∧ ∀ x ∈ p.writes, x.lane = (if perLane d then i.lane else 0) →
        x.val = if x.dst = d then BitVec.ofNat 32 old else BitVec.ofNat 32 (old / 2 ^ 32) := by
  dsimp only
  generalize hn : (if wide then 8 else 4) = n
  have hn4 : 4 ≤ n := by rw [← hn]; cases wide <;> decide
  generalize hold : leNat (memRead s.mem i.addr n) = old
  generalize hv : ratomValue op n old (i.x.toNat % 2 ^ (8 * n)) (i.y.toNat % 2 ^ (8 * n)) = v
  generalize hu : (s.popped s.ev.a rest).operate (s.gang (s.weave s.ev.a).gang) i.addr n v = u
  have hbeside : u.beside = (s.popped s.ev.a rest).beside := hu ▸ beside_operate ..
  obtain ⟨vals, hvals, hone⟩ := performRatom_single (s := s.popped s.ev.a rest) (wk := s.ev.a) (op := op) (ll := ll) hn hold
    (by rw [gang_popped hcalm, hv, hu]) d
  have hperform : (s.popped s.ev.a rest).performEntry s.ev.a e =
      (u.takeFree 128).2.modWeave s.ev.a (·.deliverLL ll u.free vals) := by
    unfold State.performEntry
    rw [hk, hi]
    exact hone
  obtain ⟨t, ht, hmems, hrest, hll, -⟩ := storeQueueLeave_performs hsq (by rw [hk]; simp) (.inr hawake) hperform
    (duty_delivered hcalm hbeside ll vals)
  have hmem : t.mem = memWrite s.mem i.addr (bytesOf n v) :=
    (congrArg Prod.fst hmems).trans ((congrArg State.mem hu).symm.trans (mem_operate ..))
  have hx : i.x.toNat % 2 ^ (8 * n) < 256 ^ n := (Nat.mod_lt _ (Nat.two_pow_pos _)).trans_eq (Nat.pow_mul ..)
  obtain ⟨hread, hkept⟩ := reads_of_operate hmem (hv ▸ ratomValue_lt op hn4 (hold ▸ leNat_memRead_lt ..) hx)
  refine ⟨t, ht, hrest, hkept, hread, fun p hp hid => ?_⟩
  obtain ⟨hready, hwrites⟩ := ready_of_deliverLL (hll ▸ hp) hid
  refine ⟨hready, fun x hx hlane => ?_⟩
  obtain ⟨y, rfl⟩ := hvals x (hwrites x hx)
  exact val_found hlane

/-- A stamped update leaves its word (R344, R346). -/
theorem stampedEntry_leaves {i : SqItem} {set at_ : Bool} (hx : e.kind ≠ .xst)
    (hk : ∀ u : State, u.performEntry s.ev.a e = u.performStamp s.ev.a set at_ e)
    (hawake : ∀ i ∈ e.items, s.sliceWakes i.addr = false) (hi : e.items = [i]) : s.gives .storeQueueLeave fun t =>
      (t.weave s.ev.a).sq = rest ∧ keptOutside s t i.addr 8 ∧ memQword t.mem i.addr =
        i.stamped (s.part (s.gang (s.weave s.ev.a).gang).part).stamp set at_ (memQword s.mem i.addr) := by
  generalize hv : i.stamped (s.part (s.gang (s.weave s.ev.a).gang).part).stamp set at_ (memQword s.mem i.addr) = v
  generalize hu : (s.popped s.ev.a rest).operate (s.gang (s.weave s.ev.a).gang) i.addr 8 v = u
  obtain ⟨f, hf, hone⟩ := performStamp_single (s := s.popped s.ev.a rest) hi (gang_popped hcalm) hv hu
  have hbeside : u.beside = (s.popped s.ev.a rest).beside := hu ▸ beside_operate ..
  obtain ⟨t, ht, hmems, hrest, -, -⟩ := storeQueueLeave_performs hsq hx (.inr hawake) ((hk _).trans hone)
    ((congrArg (·.2.1) (effects_modWeave s.ev.a 0 u s.ev.a hf)).trans (duty_of_beside hcalm hbeside))
  have hmem : t.mem = memWrite s.mem i.addr (bytesOf 8 v) :=
    (congrArg Prod.fst hmems).trans ((congrArg State.mem hu).symm.trans (mem_operate ..))
  obtain ⟨hread, hkept⟩ := reads_of_operate hmem (hv ▸ stamped_lt ..)
  exact ⟨t, ht, hrest, hkept, hread⟩

end

/-- What DSET leaves: the value, the step and the index of the factor. -/
theorem stamped_dset (i : SqItem) (t : Stamp) (at_ : Bool) (w : Nat) :
    i.stamped t true at_ w = i.x.toNat % 2 ^ 32 + t.step.toNat % 2 ^ 24 * 2 ^ 32 + i.y.toNat % 2 ^ 8 * 2 ^ 56 := by
  have hlo : (loWord i.x).toNat = i.x.toNat % 2 ^ 32 := by
    rw [loWord, BitVec.extractLsb'_toNat, Nat.shiftRight_zero]
  show (loWord i.x).toNat + _ + _ = _
  rw [hlo]
  rfl

/-- What DADD leaves without `.at`: the decayed value and the operand in one rounding, the step, and the word's own index. -/
theorem stamped_dadd (i : SqItem) (t : Stamp) {w : Nat} (hw : w < 2 ^ 64) : i.stamped t false false w =
    (ffma32 .rn false (BitVec.ofNat 32 w) (t.decay w) (i.x.setWidth 32)).1.toNat + t.step.toNat % 2 ^ 24 * 2 ^ 32 + w / 2 ^ 56 * 2 ^ 56 := by
  have hx : loWord i.x = i.x.setWidth 32 := by
    apply BitVec.eq_of_toNat_eq
    rw [loWord, BitVec.extractLsb'_toNat, BitVec.toNat_setWidth, Nat.shiftRight_zero]
  have hidx : stampedIndex w % 256 = w / 2 ^ 56 := by
    rw [stampedIndex, bits_eq]
    omega
  show (ffma32 .rn false (stampedVal w) (t.decay w) (loWord i.x)).1.toNat + _ + stampedIndex w % 256 * 2 ^ 56 = _
  rw [hx, hidx]
  rfl

/-- Settles O45: each clause is what performing an entry of its kind leaves; what follows it writes no memory, no queue and no result. -/
theorem storesLeaveTheQueue : Obligations.StoresLeaveTheQueue := by
  rintro s _ e rest ⟨-, rfl⟩ hcalm hsq
  refine ⟨fun hk hawake htag hmmio => globalEntry_leaves hcalm hsq hk hawake htag hmmio,
    fun hk hg => scratchEntry_leaves hcalm hsq hk hg,
    fun op wide d ll uni i hk hawake hi _ => atomicEntry_leaves hcalm hsq hk hawake hi, fun i hk hawake hi => ?_, fun i hk hawake hi => ?_,
    fun hs hwakes => ⟨s, congrArg _ (leaveQueue_stays hsq hs hwakes), rfl⟩⟩
  · obtain ⟨t, ht, hrest, hkept, hread⟩ := stampedEntry_leaves (set := true) (at_ := false) hcalm hsq (by rw [hk]; simp)
      (fun _ => by unfold State.performEntry; rw [hk]) hawake hi
    exact ⟨t, ht, hrest, hkept, hread.trans (stamped_dset ..)⟩
  · obtain ⟨t, ht, hrest, hkept, hread⟩ := stampedEntry_leaves (set := false) (at_ := false) hcalm hsq (by rw [hk]; simp)
      (fun _ => by unfold State.performEntry; rw [hk]) hawake hi
    exact ⟨t, ht, hrest, hkept, hread.trans (stamped_dadd i _ (memQword_lt ..))⟩

end Sys2Proof.Machine
end

section
/-! Global loads (O26): addresses, what checking and reading the lanes leaves, and the result that is issued. -/

namespace Sys2Proof.Machine
open Sys2Proof

/-! ### Addresses (R219) -/

/-- A sign-extended index, shifted. -/
theorem sx64_shiftLeft (v : Word) (n : Nat) : sx64 v <<< n = BitVec.ofInt 64 (v.toInt * 2 ^ n) := by
  have hpow : (BitVec.ofInt 64 ((2 : Int) ^ n)) = BitVec.twoPow 64 n := by
    apply BitVec.eq_of_toNat_eq
    rw [show (2 : Int) ^ n = ((2 ^ n : Nat) : Int) by push_cast; rfl, BitVec.ofInt_natCast, BitVec.toNat_ofNat, BitVec.toNat_twoPow]
  rw [BitVec.ofInt_mul, hpow, BitVec.shiftLeft_eq_mul_twoPow]
  rfl

theorem shiftCode_eq (m : BitVec 5) : shiftCode m = m.toNat / 8 := by
  have hm := m.isLt
  rw [shiftCode, BitVec.extractLsb'_toNat, Nat.shiftRight_eq_div_pow]
  omega

theorem pairAt_eq (x : Issue) (a : Operand) (l : Nat) : x.e.pairAt x.s.ops a l = x.pairOf a l := toNat_pair ..

theorem addr3_eq_glob (x : Issue) (w : F3) (l : Nat) : x.e.addr3 x.s.ops w true l = x.glob w l := by
  show (BitVec.ofNat 64 (x.e.pairAt x.s.ops w.a l) + sx64 (x.b3 w false l) <<< shiftCode w.mods).toNat = _
  rw [pairAt_eq, sx64_shiftLeft, shiftCode_eq]
  rfl

theorem addrI_eq_globI (x : Issue) (w : FI) (l : Nat) : x.e.addrI x.s.ops w true l = x.globI w l := by
  show (BitVec.ofNat 64 (x.e.pairAt x.s.ops w.a l) + w.imm.signExtend 64).toNat = _
  rw [pairAt_eq]
  rfl

/-! ### Checking and reading the lanes moves no weave -/

theorem weaves_checkLanes (s : State) (c : Ctx) (m : BitVec 32) (addr : Nat → Nat) (n al : Nat) (k : AccessKind) (ho : Bool) :
    (s.checkLanes c m addr n al k ho).1.weaves = s.weaves := by
  unfold State.checkLanes
  refine foldl_keeps (fun r : State × LaneAcc => r.1.weaves) _ (fun r l => ?_) _ (s, {})
  obtain ⟨s, a⟩ := r
  have hk := weaves_check s c.part (8 * c.part) c.asker (addr l) n al k ho (c.helpers.getLsbD l)
  dsimp only
  split
  all_goals
    next e => rw [e] at hk; exact hk

theorem lanes_checkLanes {s t : State} {c : Ctx} {m : BitVec 32} {addr : Nat → Nat} {n al : Nat} {k : AccessKind} {ho : Bool} {a : LaneAcc}
    (h : s.checkLanes c m addr n al k ho = (t, a)) : ∀ r ∈ a.pass, r.1 < 32 := by
  have hinv : ∀ r ∈ (s.checkLanes c m addr n al k ho).2.pass, r.1 < 32 := by
    unfold State.checkLanes
    refine List.foldlRecOn (motive := fun x : State × LaneAcc => ∀ r ∈ x.2.pass, r.1 < 32) (lanesOf m) _ (by simp) fun x hx l hl => ?_
    obtain ⟨s, a⟩ := x
    dsimp only
    split
    · intro r hr
      rcases List.mem_append.1 hr with hr | hr
      · exact hx r hr
      · rw [List.mem_singleton.1 hr]
        exact (mem_lanesOf.1 hl).1
    · split <;> exact hx
    · exact hx
  rwa [h] at hinv

theorem weaves_l1Load (s : State) (c p kind : Nat) (tag : Option Nat) (va pa n : Nat) : (s.l1Load c p kind tag va pa n).1.weaves = s.weaves := by
  unfold State.l1Load
  dsimp only
  split
  · exact weaves_count ..
  · split
    · rfl
    · split
      · rfl
      · exact weaves_count ..

theorem weaves_loadLane (s : State) (c : Ctx) (kind l va pa n : Nat) : (s.loadLane c kind l va pa n).1.weaves = s.weaves := by
  unfold State.loadLane
  split
  · rfl
  · split
    · split
      · rfl
      · exact weaves_l1Load ..
    · rfl
    · rfl

/-- What reading the lanes that passed leaves: the weaves, and values for some of these lanes. -/
theorem loadLanes_leaves {s t : State} {c : Ctx} {pass : List (Nat × Nat)} {addr : Nat → Nat} {n : Nat} {got : List (Nat × List Byte)}
    {wait : BitVec 32} (h : s.loadLanes c pass addr n = (t, got, wait)) :
    t.weaves = s.weaves ∧ ∀ r ∈ got, ∃ e ∈ pass, e.1 = r.1 := by
  have hinv : (s.loadLanes c pass addr n).1.weaves = s.weaves ∧ ∀ r ∈ (s.loadLanes c pass addr n).2.1, ∃ e ∈ pass, e.1 = r.1 := by
    unfold State.loadLanes
    refine List.foldlRecOn (motive := fun x : State × List (Nat × List Byte) × BitVec 32 × List (Nat × List Byte) =>
      x.1.weaves = s.weaves ∧ ∀ r ∈ x.2.1, ∃ e ∈ pass, e.1 = r.1) pass _ (b := (s, [], 0, [])) ⟨rfl, by simp⟩ fun x hx e he => ?_
    obtain ⟨s', got', wait', seen'⟩ := x
    obtain ⟨hw, hgot⟩ := hx
    have happend : ∀ b : List Byte, ∀ r ∈ got' ++ [(e.1, b)], ∃ e ∈ pass, e.1 = r.1 := fun b => List.forall_mem_append.2
      ⟨hgot, fun r hr => ⟨e, he, by rw [List.mem_singleton.1 hr]⟩⟩
    have hk := weaves_loadLane s' c 0 e.1 (addr e.1) e.2 n
    dsimp only
    split
    · exact ⟨hw, happend _⟩
    · split
      next eq => rw [eq] at hk; exact ⟨hk.trans hw, happend _⟩
      next eq => rw [eq] at hk; exact ⟨hk.trans hw, hgot⟩
  rwa [h] at hinv

/-! ### The words of a group (R221, R222) -/

theorem length_loadWords (c : Nat) (bs : List Byte) : (loadWords c bs).length = widthRegs c := by
  unfold loadWords
  split
  · rfl
  · rfl
  · rw [List.length_map, List.length_range]

theorem mem_groupWrites {o : Operand} {c : Nat} {got : List (Nat × List Byte)} {zero : BitVec 32} (hgot : ∀ r ∈ got, r.1 < 32) :
    ∀ x ∈ groupWrites o c got zero, x.dst ∈ regsOfGroup o c ∧ x.lane < 32 := by
  intro x hx
  obtain ⟨e, he, hxe⟩ := List.mem_flatMap.1 hx
  obtain ⟨⟨v, j⟩, hv, rfl⟩ := List.mem_map.1 hxe
  have hj := (List.mem_zipIdx' hv).1
  rw [length_loadWords] at hj
  refine ⟨List.mem_map.2 ⟨j, List.mem_range.2 hj, rfl⟩, laneKey_lt o ?_⟩
  rcases List.mem_append.1 he with he | he
  · exact hgot e he
  · obtain ⟨l, hl, rfl⟩ := List.mem_map.1 he
    exact (mem_lanesOf.1 hl).1

/-! ### A result of a group is issued -/

theorem keeps_foldl_meet_group (k : Ctx) (free : Nat) (ds : List Operand) {xs : List (LLWrite × Nat)}
    (hx : ∀ x ∈ xs, x.1.dst ∈ ds ∧ x.1.lane < 32) (w : Weave) : Weave.keeps w (xs.foldl (Weave.meet free) w) k ds := by
  induction xs generalizing w with
  | nil => exact keeps_refl ..
  | cons x xs ih =>
    obtain ⟨⟨hd, hlane⟩, hxs⟩ := List.forall_mem_cons.1 hx
    exact keeps_trans (keepsBy_mono (keeps_meet w k free hlane) (List.cons_subset.2 ⟨hd, List.nil_subset _⟩)) (ih hxs _)

theorem kept_issueLL_group (w : Weave) (k : Ctx) {ds : List Operand} {writes : List LLWrite} (hw : ∀ x ∈ writes, x.dst ∈ ds ∧ x.lane < 32)
    (free cl : Nat) (la : Bool) (flags : Flags) (ready : Bool) {o : Operand} {l : Nat} (hl : l < 32) (ho : o ∉ ds) :
    (w.issueLL free cl writes la flags ready).kept o l = w.kept o l := by
  obtain ⟨cs, p, he⟩ := issueLL_eq w free cl writes la flags ready
  have hmeet := keeps_foldl_meet_group k free ds (xs := writes.zipIdx) (fun x hx => hw x.1 (List.fst_mem_of_mem_zipIdx hx)) w
  rw [he]
  exact (kept_congr o (fun _ => rfl) (fun _ => rfl) rfl rfl rfl rfl rfl).trans (hmeet.2.1 o l hl ho)

/-- The lanes that execute pass the checks of a load of `n` bytes each, and reading them gives their bytes. -/
def Issue.readLanes (x : Issue) (addr : Nat → Nat) (n : Nat) (c1 c2 : State) (ps : List (Nat × Nat)) (got : List (Nat × List Byte)) : Prop :=
  x.b.checkLanes x.k x.act addr n n .read false = (c1, { pass := ps }) ∧ c1.loadLanes x.k ps addr n = (c2, got, 0)

/-- Some lane executes, the one access of a uniform load passes its checks, and reading gives its bytes. -/
def Issue.readOnce (x : Issue) (va n : Nat) (c1 c2 : State) (pa : Nat) (bs : List Byte) : Prop :=
  anyLane x ∧ x.b.check x.k.part (8 * x.k.part) x.k.asker va n n .read false false = (c1, .pass pa) ∧
    c1.loadLane x.k 6 (lowest (x.act &&& ~~~x.k.helpers)) va pa n = (c2, some bs)

/-- A weave issues the result of a load; a load of no lane's result issues none. -/
def Weave.issueLoad (w : Weave) (k : Ctx) (free : Nat) (writes : List LLWrite) (skip : Bool) : Weave :=
  if skip then w else w.issueLL free k.run writes false 0 true

theorem weave_modWeave_issueLoad {s t : State} {k : Ctx} (ht : t.weaves = s.weaves) (hw : (s.weaves.find k.wk).isSome = true)
    (writes : List LLWrite) (skip : Bool) :
    ((t.takeFree 128).2.modWeave k.wk (·.issueLoad k t.free writes skip)).weave k.wk = (s.weave k.wk).issueLoad k t.free writes skip := by
  rw [weave_modWeave (by exact ht ▸ hw), weave_congr (show (t.takeFree 128).2.weaves = s.weaves from ht)]

section
variable {s : State} {k : Ctx} (h : s.inHand k) (g : Gate)
include h

/-- Lanes that go on, once the weave has issued the result, have loaded. -/
theorem loads_of_issued {m t : State} {free : Nat} {ds : List Operand} {writes : List LLWrite} {skip : Bool}
    (hw : ∀ x ∈ writes, x.dst ∈ ds ∧ x.lane < 32) (hnone : skip = true → writes = []) (hmem : t.mem = m.mem)
    (ht : t.weave k.wk = (((s.issueOf k g).b.weave k.wk).issueLoad k free writes skip).modLanes (s.issueOf k g).act (Lane.goOn k)) :
    (s.issueOf k g).loads m t ds writes := by
  generalize hb : (s.issueOf k g).b.weave k.wk = w at ht
  refine ⟨fun hne => ?_, past_of_goOn h g ht fun l => ?_, fun _ => by rw [hmem], fun o l hl ho => ?_⟩
  · have hn : skip = false := Bool.eq_false_iff.2 fun hn => hne (hnone hn)
    show ∃ p, (t.weave k.wk).ll.getLast? = some p ∧ _
    rw [ht, ll_modLanes, hn]
    exact ⟨_, List.getLast?_concat .., rfl, rfl, rfl⟩
  · rw [hb]
    cases skip
    · exact stand_issueLL ..
    · rfl
  · show (t.weave k.wk).kept o l = (s.weave k.wk).kept o l
    rw [ht, kept_modLanes_goOn, ← kept_b h g o hl, hb]
    cases skip
    · exact kept_issueLL_group w k hw _ _ _ _ _ hl ho
    · rfl

end

/-! ### LD -/

/-- Finishing an access without faults and parked lanes is going on. -/
theorem weave_finishAcc_clean {s : State} {k : Ctx} (hw : (s.weaves.find k.wk).isSome = true) (m : BitVec 32) (pass : List (Nat × Nat))
    (kd : AccessKind) : (s.finishAcc k m { pass := pass } kd).weave k.wk = (s.weave k.wk).modLanes m (Lane.goOn k) :=
  (weave_modWeave (by exact isSome_advance hw m) _).trans (weave_advance hw m)

theorem maskOfPairs_nil {α : Type} : maskOfPairs ([] : List (Nat × α)) = 0 := by
  apply BitVec.eq_of_getLsbD_eq
  intro i hi
  rw [maskOfPairs, getLsbD_maskOf _ _ hi]
  simp

theorem loadGlobal_eq {s c1 c2 : State} {k : Ctx} {e : Env} {act : BitVec 32} {dst : Operand} {c : Nat} {addr : Nat → Nat}
    {ps : List (Nat × Nat)} {got : List (Nat × List Byte)} {ws : List LLWrite}
    (hc : s.checkLanes k act addr (widthBytes c) (widthBytes c) .read false = (c1, { pass := ps }))
    (hl : c1.loadLanes k ps addr (widthBytes c) = (c2, got, 0)) (hws : groupWrites dst c got (zeroHelpers k act ps) = ws) :
    s.loadGlobal k e act dst c addr (fun _ => true) =
      ((c2.takeFree 128).2.modWeave k.wk (·.issueLoad k c2.free ws (ws.isEmpty && act != 0))).finishAcc k act
        { pass := ps } .read := by
  have hall : act &&& ~~~(maskOfPairs ([] : List (Nat × Word × Nat)) ||| maskOfPairs ([] : List (Nat × Nat × Nat))) = act := by
    rw [maskOfPairs_nil, maskOfPairs_nil]
    exact BitVec.and_allOnes
  unfold State.loadGlobal
  dsimp only
  rw [hc]
  dsimp only
  rw [hl]
  simp only [ne_eq, not_true_eq_false, if_false, if_true, List.map_id', hall, hws]
  unfold Weave.issueLoad
  cases (ws.isEmpty && act != 0)
  · rfl
  · exact congrArg (State.finishAcc · k act { pass := ps } .read) (modWeave_id (c2.takeFree 128).2 k.wk).symm

theorem loads_loadGlobal {s c1 c2 : State} {k : Ctx} (h : s.inHand k) (g : Gate) {dst : Operand} {c : Nat} {addr : Nat → Nat}
    {ps : List (Nat × Nat)} {got : List (Nat × List Byte)}
    (hread : (s.issueOf k g).readLanes addr (widthBytes c) c1 c2 ps got) : (s.issueOf k g).loads c2
      ((s.issueOf k g).b.loadGlobal k (s.issueOf k g).e (s.issueOf k g).act dst c addr fun _ => true) (regsOfGroup dst c)
      (groupWrites dst c got (zeroHelpers k (s.issueOf k g).act ps)) := by
  obtain ⟨hc, hl⟩ : (s.issueOf k g).b.checkLanes k (s.issueOf k g).act addr (widthBytes c) (widthBytes c) .read false = (c1, { pass := ps }) ∧
    c1.loadLanes k ps addr (widthBytes c) = (c2, got, 0) := hread
  obtain ⟨hw2, hgot⟩ := loadLanes_leaves hl
  have hw1 := weaves_checkLanes (s.issueOf k g).b k (s.issueOf k g).act addr (widthBytes c) (widthBytes c) .read false
  rw [hc] at hw1
  have hweaves : c2.weaves = (s.issueOf k g).b.weaves := hw2.trans hw1
  have hsome : (c2.weaves.find k.wk).isSome = true := hweaves ▸ isSome_b h g
  have hlanes : ∀ r ∈ got, r.1 < 32 := fun r hr => by
    obtain ⟨q, hq, he⟩ := hgot r hr
    exact he ▸ lanes_checkLanes hc q hq
  generalize hws : groupWrites dst c got (zeroHelpers k (s.issueOf k g).act ps) = ws
  rw [loadGlobal_eq hc hl hws]
  refine loads_of_issued h g (free := c2.free) (skip := ws.isEmpty && (s.issueOf k g).act != 0) (hws ▸ mem_groupWrites hlanes) (fun hn => ?_)
    (congrArg Prod.fst (mems_finishAcc _ k (s.issueOf k g).act { pass := ps } .read)) ?_
  · rw [Bool.and_eq_true, List.isEmpty_iff] at hn
    exact hn.1
  · rw [weave_finishAcc_clean (isSome_modWeave (by exact hsome) _ _), weave_modWeave_issueLoad hweaves (isSome_b h g)]

/-- A load of lanes, by the address that it takes for each. -/
theorem runs_loadGlobal {i : Instr} {gate : State → Ctx → Gate} {o : Operand} {m : BitVec 5} {addr : Issue → Nat → Nat}
    {eff : Table AsyncOp → Env → Nat → Nat}
    (hexec : ∀ s, exec i s = weaveOnly s fun k => s.runWord k (gate s k) fun e act s =>
      s.loadGlobal k e act o (widthCode m) (eff s.ops e) fun _ => true)
    (haddr : ∀ x : Issue, eff x.s.ops x.e = addr x) (c1 c2 : State) (ps : List (Nat × Nat)) (got : List (Nat × List Byte)) :
    Runs i gate (fun x => x.readLanes (addr x) (widthBytes (widthCode m)) c1 c2 ps got)
      fun x t => x.loads c2 t (regsOfGroup o (widthCode m)) (groupWrites o (widthCode m) got (zeroHelpers x.k x.act ps)) := by
  refine runs_of_effect hexec fun s k h _ hread => ?_
  rw [ops_b h, show eff s.ops (s.issueOf k (gate s k)).e = addr (s.issueOf k (gate s k)) from haddr (s.issueOf k (gate s k))]
  exact loads_loadGlobal h _ hread

/-! ### LDC (R223) -/

/-- A word that prologues run too, by what its effect leaves where a weave runs it. -/
theorem runs_of_onWeave {i : Instr} {gate : State → Ctx → Gate} {ok : Issue → Prop} {post : Issue → State → Prop}
    {eff : State → Ctx → Env → BitVec 32 → State → State}
    (hexec : ∀ s k, s.inHand k → exec i s = onWeave s fun k => s.runWord k (gate s k) (eff s k))
    (hpost : ∀ s k, s.inHand k → s.passes k (gate s k) = true → ok (s.issueOf k (gate s k)) →
      post (s.issueOf k (gate s k)) (eff s k (s.issueOf k (gate s k)).e (s.issueOf k (gate s k)).act (s.issueOf k (gate s k)).b)) :
    Runs i gate ok post := fun s k h hp hok =>
  ⟨_, ((hexec s k h).trans (onWeave_eq h _)).trans (congrArg _ (runWord_of_passes hp (eff s k))), hpost s k h hp hok⟩

theorem loads_loadUniform {s c1 c2 : State} {k : Ctx} (h : s.inHand k) (g : Gate) {dst : Operand} {c addr pa : Nat} {bs : List Byte}
    (hread : (s.issueOf k g).readOnce addr (widthBytes c) c1 c2 pa bs) :
    (s.issueOf k g).loads c2 ((s.issueOf k g).b.loadUniform k (s.issueOf k g).e (s.issueOf k g).act dst c addr) (regsOfGroup dst c)
      (groupWrites dst c [(0, bs)] 0) := by
  obtain ⟨hany, hc, hl⟩ : anyLane (s.issueOf k g) ∧
    (s.issueOf k g).b.check k.part (8 * k.part) k.asker addr (widthBytes c) (widthBytes c) .read false false = (c1, .pass pa) ∧
    c1.loadLane k 6 (lowest ((s.issueOf k g).act &&& ~~~k.helpers)) addr pa (widthBytes c) = (c2, some bs) := hread
  have hw1 := weaves_check (s.issueOf k g).b k.part (8 * k.part) k.asker addr (widthBytes c) (widthBytes c) .read false false
  have hw2 := weaves_loadLane c1 k 6 (lowest ((s.issueOf k g).act &&& ~~~k.helpers)) addr pa (widthBytes c)
  rw [hc] at hw1
  rw [hl] at hw2
  have hweaves : c2.weaves = (s.issueOf k g).b.weaves := hw2.trans hw1
  have hsome : (c2.weaves.find k.wk).isSome = true := hweaves ▸ isSome_b h g
  have heq : (s.issueOf k g).b.loadUniform k (s.issueOf k g).e (s.issueOf k g).act dst c addr =
      ((c2.takeFree 128).2.modWeave k.wk
        (·.issueLoad k c2.free (groupWrites dst c [(0, bs)] 0) false)).advance k (s.issueOf k g).act := by
    unfold State.loadUniform
    rw [once_of_ne hany]
    dsimp only
    rw [hc]
    dsimp only
    rw [show (lanesOf ((s.issueOf k g).act &&& ~~~k.helpers)).headD 0 = lowest ((s.issueOf k g).act &&& ~~~k.helpers) from rfl, hl]
    rfl
  rw [heq]
  refine loads_of_issued h g (free := c2.free) (skip := false) (mem_groupWrites (by simp)) (fun hn => by cases hn) rfl ?_
  rw [weave_advance (isSome_modWeave (by exact hsome) _ _), weave_modWeave_issueLoad hweaves (isSome_b h g)]

theorem runs_loadUniform {i : Instr} {gate : State → Ctx → Gate} {o : Operand} {m : BitVec 5} {addr : Issue → Nat → Nat}
    {eff : Table AsyncOp → Env → Nat → Nat}
    (hexec : ∀ s k, s.inHand k → exec i s = onWeave s fun k => s.runWord k (gate s k) fun e act s =>
      s.loadUniform k e act o (widthCode m) (eff s.ops e (lowest act)))
    (haddr : ∀ x : Issue, eff x.s.ops x.e = addr x) (c1 c2 : State) (pa : Nat) (bs : List Byte) :
    Runs i gate (fun x => x.readOnce (addr x (lowest x.act)) (widthBytes (widthCode m)) c1 c2 pa bs)
      fun x t => x.loads c2 t (regsOfGroup o (widthCode m)) (groupWrites o (widthCode m) [(0, bs)] 0) := by
  refine runs_of_onWeave hexec fun s k h _ hread => ?_
  rw [ops_b h, show eff s.ops (s.issueOf k (gate s k)).e = addr (s.issueOf k (gate s k)) from haddr (s.issueOf k (gate s k))]
  exact loads_loadUniform h _ hread

/-- LDC where a weave has it in hand. -/
theorem execLdc_eq {s : State} {k : Ctx} (h : s.inHand k) (w : F3) : execLdc w s = onWeave s fun k =>
    let gt := memGate (s.gang k.gk) w isS true (loadOk (s.gang k.gk) w.dst w.mods) []
    s.runWord k { gt with legal := gt.legal && isS w.a && isUniformSource w.b } fun e act s =>
      s.loadUniform k e act w.dst (widthCode w.mods) (e.addr3 s.ops w true (lowest act)) := by
  obtain ⟨j, hj, -⟩ := h
  unfold execLdc
  rw [hj]
  rfl

theorem execLdcFi_eq {s : State} {k : Ctx} (h : s.inHand k) (w : FI) : execLdcFi w s = onWeave s fun k =>
    let gt := memGateI (s.gang k.gk) w isS true (loadOk (s.gang k.gk) w.dst w.mods) []
    s.runWord k { gt with legal := gt.legal && isS w.a } fun e act s =>
      s.loadUniform k e act w.dst (widthCode w.mods) (e.addrI s.ops w true (lowest act)) := by
  obtain ⟨j, hj, -⟩ := h
  unfold execLdcFi
  rw [hj]
  rfl

/-! ### The bytes of a lane (R120, R221) -/

/-- Bytes within a line, from the line. -/
theorem memRead_of_line (m : List Host.Cell) {pa n : Nat} (hn : pa % 64 + n ≤ 64) :
    ((memRead m (pa / 64 * 64) 64).drop (pa % 64)).take n = memRead m pa n := by
  apply List.ext_getElem
  · simp only [List.length_take, List.length_drop, memRead_length]
    omega
  · intro i h1 h2
    simp only [memRead_eq, List.getElem_take, List.getElem_drop, List.getElem_map, List.getElem_range]
    congr 1
    omega

theorem l1Load_of_miss {s : State} {c p kind va pa n : Nat} (hmiss : ((s.core c).l1.any fun x => x.part == p && x.vline == va / 64) = false)
    (hn : pa % 64 + n ≤ 64) : (s.l1Load c p kind none va pa n).2 = memRead s.mem pa n := by
  have hfind : ((s.core c).l1.find? fun l => l.part == p && l.vline == va / 64 && l.tag == none) = none := by
    rw [List.find?_eq_none]
    intro l hl hx
    rw [Bool.and_eq_true] at hx
    exact (List.any_eq_false.1 hmiss l hl) hx.1
  unfold State.l1Load
  dsimp only
  rw [hfind]
  exact memRead_of_line s.mem hn

/-- A lane without queued stores, whose line the core does not hold, gets the bytes of memory. -/
theorem loadLane_of_memory {s : State} {k : Ctx} {va pa n : Nat} (kind l : Nat) (hsq : (s.weave k.wk).sq = []) (hmmio : inMmio pa = false)
    (hawake : s.sliceWakes pa = false) (htag : (s.gang k.gk).tag = none)
    (hmiss : ((s.core k.core).l1.any fun x => x.part == k.part && x.vline == va / 64) = false) (hn : pa % 64 + n ≤ 64) :
    (s.loadLane k kind l va pa n).2 = some (memRead s.mem pa n) := by
  have hforward : forward (s.weave k.wk) false l pa n = .none_ := by
    unfold forward
    rw [hsq]
    rfl
  unfold State.loadLane
  rw [hmmio, hforward, hawake, htag]
  exact congrArg some (l1Load_of_miss hmiss hn)

/-! ### The words of the widths (R221) -/

theorem loadWords_units (a b c d : Byte) : loadWords 0 [a] = [a.setWidth 32] ∧ loadWords 1 [a] = [a.signExtend 32] ∧
    loadWords 2 [a, b] = [(b ++ a).setWidth 32] ∧ loadWords 3 [a, b] = [(b ++ a).signExtend 32] ∧
    loadWords 4 [a, b, c, d] = [BitVec.ofNat 32 (a.toNat + 2 ^ 8 * b.toNat + 2 ^ 16 * c.toNat + 2 ^ 24 * d.toNat)] := by
  have hbyte : BitVec.ofNat 8 (leNat [a]) = a := by
    rw [show leNat [a] = a.toNat from rfl, BitVec.ofNat_toNat, BitVec.setWidth_eq]
  have hhalf : leNat [a, b] = (b ++ a).toNat := by
    rw [BitVec.toNat_append, ← Nat.shiftLeft_add_eq_or_of_lt a.isLt, Nat.shiftLeft_eq]
    show a.toNat + 256 * (b.toNat + 256 * 0) = _
    omega
  refine ⟨?_, ?_, ?_, ?_, ?_⟩
  · show [BitVec.ofNat 32 a.toNat] = _
    rw [BitVec.ofNat_toNat]
  · show [(BitVec.ofNat 8 (leNat [a])).signExtend 32] = _
    rw [hbyte]
  · show [BitVec.ofNat 32 (leNat [a, b])] = _
    rw [hhalf, BitVec.ofNat_toNat]
  · show [(BitVec.ofNat 16 (leNat [a, b])).signExtend 32] = _
    rw [hhalf, BitVec.ofNat_toNat, BitVec.setWidth_eq]
  · show [BitVec.ofNat 32 (a.toNat + 256 * (b.toNat + 256 * (c.toNat + 256 * (d.toNat + 256 * 0))))] = _
    congr 2
    omega

theorem leNat_word (x : Word) : BitVec.ofNat 32 (leNat (bytesOf 4 x.toNat)) = x := by
  rw [leNat_bytesOf, Nat.mod_eq_of_lt (by exact x.isLt), BitVec.ofNat_toNat, BitVec.setWidth_eq]

theorem loadWords_pair (x y : Word) : loadWords 5 (bytesOf 4 x.toNat ++ bytesOf 4 y.toNat) = [x, y] := by
  show [BitVec.ofNat 32 (leNat (bytesOf 4 x.toNat)), BitVec.ofNat 32 (leNat (bytesOf 4 y.toNat))] = _
  rw [leNat_word, leNat_word]

theorem loadWords_quad (x y z u : Word) :
    loadWords 6 (bytesOf 4 x.toNat ++ bytesOf 4 y.toNat ++ bytesOf 4 z.toNat ++ bytesOf 4 u.toNat) = [x, y, z, u] := by
  show [BitVec.ofNat 32 (leNat (bytesOf 4 x.toNat)), BitVec.ofNat 32 (leNat (bytesOf 4 y.toNat)), BitVec.ofNat 32 (leNat (bytesOf 4 z.toNat)),
    BitVec.ofNat 32 (leNat (bytesOf 4 u.toNat))] = _
  rw [leNat_word, leNat_word, leNat_word, leNat_word]

/-! ### Translation (R146, R147) -/

/-- Memory as a translation through a walk leaves it: as it was, or with A, or A and D, set in the leaf's entry. -/
def State.usedLeaf (s : State) (w : Walk) (mem : List Host.Cell) : Prop :=
  mem = s.mem ∨ ∃ pte level e m, w = .leaf pte level e ∧ m ||| 0x180 = 0x180 ∧ m < 2 ^ 64 ∧
    mem = memWrite s.mem pte (bytesOf 8 (memQword s.mem pte ||| m))

theorem mem_pteOr (s : State) (p pte m : Nat) :
    (s.pteOr p pte m).mem = s.mem ∨ (s.pteOr p pte m).mem = memWrite s.mem pte (bytesOf 8 (memQword s.mem pte ||| m)) := by
  unfold State.pteOr
  dsimp only
  split
  · exact .inl rfl
  · exact .inr (congrArg Prod.fst ((mems_lineRequest ..).trans (mems_count ..)))

theorem usedLeaf_useLeaf (s : State) (c p va : Nat) (k : AccessKind) (w : Walk) : s.usedLeaf w (s.useLeaf c p va k w).1.mem := by
  have hwalk : (s.countWalk p va).mem = s.mem := congrArg Prod.fst (mems_countWalk ..)
  unfold State.useLeaf
  dsimp only
  split
  · exact .inl hwalk
  · exact .inl hwalk
  · dsimp only
    split
    · split <;> exact .inl hwalk
    · exact .inl hwalk
  next pte level e =>
    split
    · exact .inl hwalk
    · split
      · exact .inl hwalk
      · show s.usedLeaf _ (State.tlbPut _ c _).mem
        rw [show ∀ (u : State) (t : Tlb), (u.tlbPut c t).mem = u.mem from fun u t => congrArg Prod.fst (mems_tlbPut u c t)]
        rcases mem_pteOr (s.countWalk p va) p pte (if (kindRights k).getLsbD 1 then 0x180 else 0x80) with hsame | hset
        · exact .inl (hsame.trans hwalk)
        · rw [hwalk] at hset
          exact .inr ⟨pte, level, e, _, rfl, by split <;> rfl, by split <;> decide, hset⟩

theorem usedLeaf_translate (s : State) (c p va : Nat) (k : AccessKind) : s.usedLeaf (s.walk p va) (s.translate c p va k).1.mem := by
  have huse := usedLeaf_useLeaf s c p va k (s.walk p va)
  have hchoose : s.usedLeaf (s.walk p va) (s.choose.2.useLeaf c p va k (s.walk p va)).1.mem := usedLeaf_useLeaf s.choose.2 c p va k (s.walk p va)
  unfold State.translate
  dsimp only
  split
  · exact huse
  · split
    all_goals
      split
      · split
        · exact huse
        · split <;> exact .inl rfl
      · split
        · exact .inl rfl
        · exact hchoose

/-- A byte that a translation changes is of the entry of the leaf that it uses, and that entry keeps every bit but A and D. -/
theorem translate_changes {s : State} {c p va a : Nat} {k : AccessKind}
    (h : Table.get 0 (s.translate c p va k).1.mem a ≠ Table.get 0 s.mem a) :
    ∃ pte level e, s.walk p va = .leaf pte level e ∧ pte ≤ a ∧ a < pte + 8 ∧
      memQword (s.translate c p va k).1.mem pte ||| 0x180 = memQword s.mem pte ||| 0x180 := by
  rcases usedLeaf_translate s c p va k with hsame | ⟨pte, level, e, m, hwalk, hm, hlt, hset⟩
  · rw [hsame] at h
    exact absurd rfl h
  · rw [hset] at h ⊢
    have hin : pte ≤ a ∧ a < pte + (bytesOf 8 (memQword s.mem pte ||| m)).length := by
      by_contra hout
      exact h (get_memWrite_outside hout)
    rw [bytesOf_length] at hin
    refine ⟨pte, level, e, hwalk, hin.1, hin.2, ?_⟩
    rw [memQword_memWrite, Nat.mod_eq_of_lt (Nat.or_lt_two_pow (memQword_lt s.mem pte) hlt), Nat.or_assoc, hm]

/-- Settles O26: the loads issue one result of the bytes that reading the lanes gave; the other clauses say what these bytes and words are,
and what translating their addresses leaves of memory. -/
theorem globalLoads : Obligations.GlobalLoads := by
  refine ⟨⟨fun w v => List.forall_mem_cons.2 ⟨?_, List.forall_mem_singleton.2 ?_⟩,
      fun w v => List.forall_mem_cons.2 ⟨?_, List.forall_mem_singleton.2 ?_⟩⟩,
    fun _ _ kind l _ _ _ hsq hmmio hawake htag hmiss hn => loadLane_of_memory kind l hsq hmmio hawake htag hmiss hn,
    loadWords_units, loadWords_pair, loadWords_quad, fun _ _ _ _ _ _ => translate_changes⟩
  · exact runs_loadGlobal (eff := fun ops e l => e.addr3 ops w true l) (fun _ => rfl) fun x => funext (addr3_eq_glob x w)
  · exact runs_loadGlobal (eff := fun ops e l => e.addrI ops v true l) (fun _ => rfl) fun x => funext (addrI_eq_globI x v)
  · exact runs_loadUniform (eff := fun ops e l => e.addr3 ops w true l) (fun _ _ h => execLdc_eq h w) fun x => funext (addr3_eq_glob x w)
  · exact runs_loadUniform (eff := fun ops e l => e.addrI ops v true l) (fun _ _ h => execLdcFi_eq h v) fun x => funext (addrI_eq_globI x v)

end Sys2Proof.Machine
end

section
/-! SUPPORT. O60, first part: the rules by which the canonical form of the memories is followed through a state's operations,
and the shared operations of words. An operation that writes no memory stands in an equivalence; one that writes keeps the
form. The rules are tried on the outermost operation first (`↓`): what it was given beside the state does not matter. -/

namespace Sys2Proof.Machine

open Sys2Proof

/-! ### Folds, choices and answers -/

theorem memOk_congr {s t : State} (h : t.mems = s.mems) : t.memOk ↔ s.memOk := ⟨memOk_of_mems h.symm, memOk_of_mems h⟩

/-- An answer's next state has its memories in their canonical form. -/
def outOk : Out → Prop
  | .next t => t.memOk
  | .fault _ => True
  | .refused _ => True

@[simp ↓] theorem outOk_next (t : State) : outOk (.next t) ↔ t.memOk := ⟨id, id⟩
@[simp ↓] theorem outOk_fault (f : Fault) : outOk (.fault f) ↔ True := ⟨id, id⟩
@[simp ↓] theorem outOk_refused (r : Refusal) : outOk (.refused r) ↔ True := ⟨id, id⟩

/-- Of a state that is written out field by field, the two memories count. -/
@[simp ↓] theorem memOk_mk : ∀ (a b m c h d e f g i j k l n o p q r t u v w x y z a' b' c' d' e' f' g' h' i' j' k' l' m' n' o' p'),
    (State.mk a b m c h d e f g i j k l n o p q r t u v w x y z a' b' c' d' e' f' g' h' i' j' k' l' m' n' o' p').memOk ↔
      Memory.wf m = true ∧ Memory.wf h = true := by
  intros
  exact ⟨id, id⟩

@[simp ↓] theorem memOk_fields (s : State) : Memory.wf s.mem = true ∧ Memory.wf s.hostMem = true ↔ s.memOk := ⟨id, id⟩

@[simp ↓] theorem memOk_ite (c : Prop) [Decidable c] (s t : State) : (if c then s else t).memOk ↔ if c then s.memOk else t.memOk := by
  split <;> rfl

@[simp ↓] theorem memOk_ite_fst {α : Type} (c : Prop) [Decidable c] (p q : State × α) :
    (if c then p else q).1.memOk ↔ if c then p.1.memOk else q.1.memOk := by split <;> rfl

@[simp ↓] theorem outOk_ite (c : Prop) [Decidable c] (o p : Out) : outOk (if c then o else p) ↔ if c then outOk o else outOk p := by
  split <;> rfl

/-- The state of an answer in parts, once the answer is known. -/
theorem memOk_of_fst {α : Type} {p : State × α} {s : State} {x : α} (h : p = (s, x)) (hp : p.1.memOk) : s.memOk := by
  rw [h] at hp
  exact hp

theorem memOk_iff_of_fst {α : Type} {p : State × α} {s t : State} {x : α} (h : p = (t, x)) (hp : p.1.memOk ↔ s.memOk) :
    t.memOk ↔ s.memOk := by
  rw [h] at hp
  exact hp

/-- Every turn of a fold leaves the memories' form as it was. -/
def turnKeeps {α : Type} (f : State → α → State) : Prop := ∀ s x, (f s x).memOk ↔ s.memOk

@[simp] theorem turnKeeps_iff {α : Type} (f : State → α → State) : turnKeeps f ↔ ∀ s x, (f s x).memOk ↔ s.memOk := ⟨id, id⟩

@[simp ↓] theorem memOk_foldl_iff {α : Type} {f : State → α → State} (h : turnKeeps f) (xs : List α) (s : State) :
    (xs.foldl f s).memOk ↔ s.memOk := by
  induction xs generalizing s with
  | nil => rfl
  | cons x xs ih => exact (ih _).trans (h s x)

/-- Every turn of a fold over a state and more leaves the memories' form as it was. -/
def turnKeepsFst {α β : Type} (f : State × β → α → State × β) : Prop := ∀ s b x, (f (s, b) x).1.memOk ↔ s.memOk

@[simp] theorem turnKeepsFst_iff {α β : Type} (f : State × β → α → State × β) :
    turnKeepsFst f ↔ ∀ s b x, (f (s, b) x).1.memOk ↔ s.memOk := ⟨id, id⟩

@[simp ↓] theorem memOk_foldl_fst_iff {α β : Type} {f : State × β → α → State × β} (h : turnKeepsFst f) (xs : List α)
    (p : State × β) : (xs.foldl f p).1.memOk ↔ p.1.memOk := by
  induction xs generalizing p with
  | nil => rfl
  | cons x xs ih => exact (ih _).trans (h p.1 p.2 x)

theorem memOk_foldl {α : Type} {f : State → α → State} {xs : List α} {s : State} (hs : s.memOk)
    (h : ∀ s x, s.memOk → (f s x).memOk) : (xs.foldl f s).memOk := foldl_inv State.memOk f h xs s hs

theorem memOk_foldl_fst {α β : Type} {f : State × β → α → State × β} {xs : List α} {p : State × β} (hp : p.1.memOk)
    (h : ∀ s b x, s.memOk → (f (s, b) x).1.memOk) : (xs.foldl f p).1.memOk :=
  foldl_inv (fun p => p.1.memOk) f (fun p x => h p.1 p.2 x) xs p hp

/-! ### The operations of Laws/Kept.lean, in this form -/

section
variable {s : State}

@[simp ↓] theorem memOk_modWeave (k f) : (s.modWeave k f).memOk ↔ s.memOk := memOk_congr (mems_modWeave ..)
@[simp ↓] theorem memOk_modGang (k f) : (s.modGang k f).memOk ↔ s.memOk := memOk_congr (mems_modGang ..)
@[simp ↓] theorem memOk_modLaunch (k f) : (s.modLaunch k f).memOk ↔ s.memOk := memOk_congr (mems_modLaunch ..)
@[simp ↓] theorem memOk_modCohort (k f) : (s.modCohort k f).memOk ↔ s.memOk := memOk_congr (mems_modCohort ..)
@[simp ↓] theorem memOk_modOp (k f) : (s.modOp k f).memOk ↔ s.memOk := memOk_congr (mems_modOp ..)
@[simp ↓] theorem memOk_modBond (k f) : (s.modBond k f).memOk ↔ s.memOk := memOk_congr (mems_modBond ..)
@[simp ↓] theorem memOk_modPart (k f) : (s.modPart k f).memOk ↔ s.memOk := memOk_congr (mems_modPart ..)
@[simp ↓] theorem memOk_modSlice (k f) : (s.modSlice k f).memOk ↔ s.memOk := memOk_congr (mems_modSlice ..)
@[simp ↓] theorem memOk_modCore (k f) : (s.modCore k f).memOk ↔ s.memOk := memOk_congr (mems_modCore ..)
@[simp ↓] theorem memOk_modPort (k f) : (s.modPort k f).memOk ↔ s.memOk := memOk_congr (mems_modPort ..)
@[simp ↓] theorem memOk_modSlot (k f) : (s.modSlot k f).memOk ↔ s.memOk := memOk_congr (mems_modSlot ..)
@[simp ↓] theorem memOk_resolve (r st) : (s.resolve r st).memOk ↔ s.memOk := memOk_congr (mems_resolve ..)
@[simp ↓] theorem memOk_cancelOp (r) : (s.cancelOp r).memOk ↔ s.memOk := memOk_congr (mems_cancelOp ..)
@[simp ↓] theorem memOk_setConv (home c v) : (s.setConv home c v).memOk ↔ s.memOk := memOk_congr (mems_setConv ..)
@[simp ↓] theorem memOk_advance (c m) : (s.advance c m).memOk ↔ s.memOk := memOk_congr (mems_advance ..)
@[simp ↓] theorem memOk_jump (c m t) : (s.jump c m t).memOk ↔ s.memOk := memOk_congr (mems_jump ..)
@[simp ↓] theorem memOk_holdLanes (c m h) : (s.holdLanes c m h).memOk ↔ s.memOk := memOk_congr (mems_holdLanes ..)
@[simp ↓] theorem memOk_holdIssue (c e h) : (s.holdIssue c e h).memOk ↔ s.memOk := memOk_congr (mems_holdIssue ..)
@[simp ↓] theorem memOk_l1Drop (c f) : (s.l1Drop c f).memOk ↔ s.memOk := memOk_congr (mems_l1Drop ..)
@[simp ↓] theorem memOk_l1Fresh (c p t pa n) : (s.l1Fresh c p t pa n).memOk ↔ s.memOk := memOk_congr (mems_l1Fresh ..)
@[simp ↓] theorem memOk_takeTurn (c u l) : (s.takeTurn c u l).memOk ↔ s.memOk := memOk_congr (mems_takeTurn ..)
@[simp ↓] theorem memOk_acquire (c p) : (s.acquire c p).memOk ↔ s.memOk := memOk_congr (mems_acquire ..)
@[simp ↓] theorem memOk_markTileFailed (l t) : (s.markTileFailed l t).memOk ↔ s.memOk := memOk_congr (mems_markTileFailed ..)
@[simp ↓] theorem memOk_evalWatches (pa n) : (s.evalWatches pa n).memOk ↔ s.memOk := memOk_congr (mems_evalWatches ..)
@[simp ↓] theorem memOk_logRefusal (t m pa k) : (s.logRefusal t m pa k).memOk ↔ s.memOk := memOk_congr (mems_logRefusal ..)
@[simp ↓] theorem memOk_logUnpopulated (p pa) : (s.logUnpopulated p pa).memOk ↔ s.memOk := memOk_congr (mems_logUnpopulated ..)
@[simp ↓] theorem memOk_tlbPut (c t) : (s.tlbPut c t).memOk ↔ s.memOk := memOk_congr (mems_tlbPut ..)
@[simp ↓] theorem memOk_tlbDrop (p va n f) : (s.tlbDrop p va n f).memOk ↔ s.memOk := memOk_congr (mems_tlbDrop ..)
@[simp ↓] theorem memOk_stallOp (r t k) : (s.stallOp r t k).memOk ↔ s.memOk := memOk_congr (mems_stallOp ..)
@[simp ↓] theorem memOk_unasked (s0) : (s.unasked s0).memOk ↔ s.memOk := memOk_congr (mems_unasked ..)
@[simp ↓] theorem memOk_next_ (i a b c) : (s.next_ i a b c).memOk ↔ s.memOk := memOk_congr (mems_next ..)
@[simp ↓] theorem memOk_logError (c u d n p m) : (s.logError c u d n p m).memOk ↔ s.memOk := memOk_congr (mems_logError ..)
@[simp ↓] theorem memOk_mailDone (m) : (s.mailDone m).memOk ↔ s.memOk := memOk_congr (mems_mailDone ..)
@[simp ↓] theorem memOk_modHome (pa f) : (s.modHome pa f).memOk ↔ s.memOk := memOk_congr (mems_modHome ..)
@[simp ↓] theorem memOk_countOnly (p pa kind d) : (s.countOnly p pa kind d).memOk ↔ s.memOk := memOk_congr (mems_countOnly ..)
@[simp ↓] theorem memOk_lineRequest (p pa w m) : (s.lineRequest p pa w m).memOk ↔ s.memOk := memOk_congr (mems_lineRequest ..)
@[simp ↓] theorem memOk_count (p pa kind d) : (s.count p pa kind d).memOk ↔ s.memOk := memOk_congr (mems_count ..)
@[simp ↓] theorem memOk_countWrite (p t pa n d) : (s.countWrite p t pa n d).memOk ↔ s.memOk := memOk_congr (mems_countWrite ..)
@[simp ↓] theorem memOk_countOp (p pa n d) : (s.countOp p pa n d).memOk ↔ s.memOk := memOk_congr (mems_countOp ..)
@[simp ↓] theorem memOk_resolveShares (t st) : (s.resolveShares t st).memOk ↔ s.memOk := memOk_congr (mems_resolveShares ..)
@[simp ↓] theorem memOk_releaseSigners (home c r) : (s.releaseSigners home c r).memOk ↔ s.memOk := memOk_congr (mems_releaseSigners ..)
@[simp ↓] theorem memOk_convCheck (home c) : (s.convCheck home c).memOk ↔ s.memOk := memOk_congr (mems_convCheck ..)
@[simp ↓] theorem memOk_convCheckAll (g) : (s.convCheckAll g).memOk ↔ s.memOk := memOk_congr (mems_convCheckAll ..)
@[simp ↓] theorem memOk_gbarCheck (g) : (s.gbarCheck g).memOk ↔ s.memOk := memOk_congr (mems_gbarCheck ..)
@[simp ↓] theorem memOk_cbarCheck (g) : (s.cbarCheck g).memOk ↔ s.memOk := memOk_congr (mems_cbarCheck ..)
@[simp ↓] theorem memOk_exit (wk m) : (s.exit wk m).memOk ↔ s.memOk := memOk_congr (mems_exit ..)
@[simp ↓] theorem memOk_killGang (g) : (s.killGang g).memOk ↔ s.memOk := memOk_congr (mems_killGang ..)
@[simp ↓] theorem memOk_endLaunch (l st) : (s.endLaunch l st).memOk ↔ s.memOk := memOk_congr (mems_endLaunch ..)
@[simp ↓] theorem memOk_failTile (l t) : (s.failTile l t).memOk ↔ s.memOk := memOk_congr (mems_failTile ..)
@[simp ↓] theorem memOk_fatal (g st) : (s.fatal g st).memOk ↔ s.memOk := memOk_congr (mems_fatal ..)
@[simp ↓] theorem memOk_accept (r) : (s.accept r).memOk ↔ s.memOk := memOk_congr (mems_accept ..)
@[simp ↓] theorem memOk_acceptAll (wk) : (s.acceptAll wk).memOk ↔ s.memOk := memOk_congr (mems_acceptAll ..)
@[simp ↓] theorem memOk_enterHandler (wk f) : (s.enterHandler wk f).memOk ↔ s.memOk := memOk_congr (mems_enterHandler ..)
@[simp ↓] theorem memOk_raise (wk f) : (s.raise wk f).memOk ↔ s.memOk := memOk_congr (mems_raise ..)
@[simp ↓] theorem memOk_fault (c m st a) : (s.fault c m st a).memOk ↔ s.memOk := memOk_congr (mems_fault ..)
@[simp ↓] theorem memOk_deliverPend (wk) : (s.deliverPend wk).memOk ↔ s.memOk := memOk_congr (mems_deliverPend ..)
@[simp ↓] theorem memOk_unpause (g) : (s.unpause g).memOk ↔ s.memOk := memOk_congr (mems_unpause ..)
@[simp ↓] theorem memOk_eret (wk m) : (s.eret wk m).memOk ↔ s.memOk := memOk_congr (mems_eret ..)
@[simp ↓] theorem memOk_parkLanes (wk p k) : (s.parkLanes wk p k).memOk ↔ s.memOk := memOk_congr (mems_parkLanes ..)
@[simp ↓] theorem memOk_deliverFaults (c f) : (s.deliverFaults c f).memOk ↔ s.memOk := memOk_congr (mems_deliverFaults ..)
@[simp ↓] theorem memOk_finishAcc (c m a k) : (s.finishAcc c m a k).memOk ↔ s.memOk := memOk_congr (mems_finishAcc ..)
@[simp ↓] theorem memOk_countWalk (p va) : (s.countWalk p va).memOk ↔ s.memOk := memOk_congr (mems_countWalk ..)
@[simp ↓] theorem memOk_provSector (p tag pa b) : (s.provSector p tag pa b).memOk ↔ s.memOk := memOk_congr (mems_provSector ..)
@[simp ↓] theorem memOk_provWrite (p tag pa b n) : (s.provWrite p tag pa b n).memOk ↔ s.memOk := memOk_congr (mems_provWrite ..)
@[simp ↓] theorem memOk_choose : s.choose.2.memOk ↔ s.memOk := memOk_congr (mems_choose s)
@[simp ↓] theorem memOk_takeFree (n) : (s.takeFree n).2.memOk ↔ s.memOk := memOk_congr (mems_takeFree s n)
@[simp ↓] theorem memOk_fresh : s.fresh.2.memOk ↔ s.memOk := memOk_congr (mems_fresh s)
@[simp ↓] theorem memOk_l1Load (c p k t va pa n) : (s.l1Load c p k t va pa n).1.memOk ↔ s.memOk := memOk_congr (mems_l1Load ..)
@[simp ↓] theorem memOk_checkPhysical (p m pa n k h) : (s.checkPhysical p m pa n k h).1.memOk ↔ s.memOk := memOk_congr (mems_checkPhysical ..)

@[simp ↓] theorem memOk_holdActing (k e act hd) : (s.holdActing k e act hd).memOk ↔ s.memOk := memOk_congr (mems_holdActing ..)
@[simp ↓] theorem memOk_cancelHandle (r) : (s.cancelHandle r).memOk ↔ s.memOk := memOk_congr (mems_cancelHandle ..)
@[simp ↓] theorem memOk_claimPlanes (gk n) : (s.claimPlanes gk n).1.memOk ↔ s.memOk := memOk_congr (mems_claimPlanes ..)
@[simp ↓] theorem memOk_mxReport (r st) : (s.mxReport r st).memOk ↔ s.memOk := memOk_congr (mems_mxReport ..)
@[simp ↓] theorem memOk_reply (wk n vs) : (s.reply wk n vs).memOk ↔ s.memOk := memOk_congr (mems_reply ..)
@[simp ↓] theorem memOk_setRows (p f) : (s.setRows p f).memOk ↔ s.memOk := memOk_congr (mems_setRows ..)

variable (h : s.memOk)
include h

@[simp ↓] theorem commitWrite_memOk (pa b) : (s.commitWrite pa b).memOk := memOk_commitWrite pa b h
@[simp ↓] theorem agentWrite_memOk (p m t pa b) : (s.agentWrite p m t pa b).memOk := memOk_agentWrite p m t pa b h
@[simp ↓] theorem useLeaf_memOk (c p va k w) : (s.useLeaf c p va k w).1.memOk := memOk_useLeaf c p va k w h
@[simp ↓] theorem translate_memOk (c p va k) : (s.translate c p va k).1.memOk := memOk_translate c p va k h
@[simp ↓] theorem check_memOk (p m w va n al k ho q) : (s.check p m w va n al k ho q).1.memOk := memOk_check p m w va n al k ho q h
@[simp ↓] theorem fetchWord_memOk (c p va w q) : (s.fetchWord c p va w q).1.memOk := memOk_fetchWord c p va w q h
@[simp ↓] theorem engRead_memOk (q va n) : (s.engRead q va n).1.memOk := memOk_engRead q va n h
@[simp ↓] theorem engPut_memOk (q ps b) : (s.engPut q ps b).memOk := memOk_engPut q ps b h
@[simp ↓] theorem feRead_memOk (p va n ho) : (s.feRead p va n ho).1.memOk := memOk_feRead p va n ho h
@[simp ↓] theorem fePut_memOk (p va b) : (s.fePut p va b).memOk := memOk_fePut p va b h
@[simp ↓] theorem feAdd_memOk (p va n) : (s.feAdd p va n).memOk := memOk_feAdd p va n h
@[simp ↓] theorem mergeSector_memOk (e) : (s.mergeSector e).memOk := memOk_mergeSector e h
@[simp ↓] theorem putRecord_memOk (l) : (s.putRecord l).memOk := memOk_putRecord l h
@[simp ↓] theorem setStage_memOk (l st) : (s.setStage l st).memOk := memOk_setStage l st h

end

/-! ### Shared operations of words (Ops.lean, Legal.lean, Access.lean) -/

@[simp ↓] theorem memOk_unpair (s : State) (c) : (s.unpair c).memOk ↔ s.memOk := by
  unfold State.unpair
  split <;> simp

@[simp ↓] theorem memOk_storEnd (s : State) (r) : (s.storEnd r).memOk ↔ s.memOk := by
  unfold State.storEnd
  dsimp only
  split
  · rfl
  · split
    · simp
    · split <;> simp

@[simp ↓] theorem memOk_setTx (s : State) (n c) : (s.setTx n c).memOk ↔ s.memOk := memOk_congr rfl

@[simp ↓] theorem memOk_returnSlot (s : State) (r) : (s.returnSlot r).memOk ↔ s.memOk := by
  unfold State.returnSlot
  dsimp only
  split
  · split <;> simp
  · rfl

@[simp ↓] theorem memOk_failOp (s : State) (r st) : (s.failOp r st).memOk ↔ s.memOk := by
  unfold State.failOp
  dsimp only
  split <;> simp

@[simp ↓] theorem memOk_starts (s : State) (c) : (s.starts c).memOk ↔ s.memOk := by simp [State.starts]

@[simp ↓] theorem memOk_begun (s : State) (c k e act) : (s.begun c k e act).memOk ↔ s.memOk := by simp [State.begun]

@[simp ↓] theorem memOk_checkLanes {s : State} (h : s.memOk) (c m addr n al k ho) : (s.checkLanes c m addr n al k ho).1.memOk := by
  refine memOk_foldl_fst h fun s a l hs => ?_
  dsimp only
  split
  all_goals
    next e => exact memOk_of_fst e (by simp [hs])

/-- What the effect of a word keeps, the word keeps. -/
theorem memOk_runWord {s : State} {c k} {eff : Env → BitVec 32 → State → State} (h : s.memOk)
    (heff : ∀ e act t, t.memOk → (eff e act t).memOk) : (s.runWord c k eff).memOk := by
  have hrun (e act) : (eff e act (s.begun c k e act)).memOk := heff _ _ _ (by simpa using h)
  unfold State.runWord
  dsimp only
  repeat' split
  case h_3.isFalse => exact hrun _ _
  all_goals simpa [State.guardFault, memOk_holdActing] using h

@[simp ↓] theorem memOk_endPrologue (s : State) (p st) : (s.endPrologue p st).memOk ↔ s.memOk := by
  unfold State.endPrologue
  split <;> simp

theorem outOk_onWeave {s : State} {f : Ctx → State} (hf : ∀ k, (f k).memOk) : outOk (onWeave s f) := by
  unfold onWeave
  split
  · split
    · exact hf _
    · trivial
  · trivial

theorem outOk_weaveOnly {s : State} {f : Ctx → State} (h : s.memOk) (hf : ∀ k, (f k).memOk) : outOk (weaveOnly s f) := by
  unfold weaveOnly
  split
  · split
    · simpa using h
    · trivial
  · exact outOk_onWeave hf

/-- A word of a weave keeps the canonical form where its effect does. -/
theorem outOk_word {s : State} {gt : Ctx → Gate} {eff : Ctx → Env → BitVec 32 → State → State} (h : s.memOk)
    (heff : ∀ k e act t, t.memOk → (eff k e act t).memOk) : outOk (weaveOnly s fun k => s.runWord k (gt k) (eff k)) :=
  outOk_weaveOnly h fun k => memOk_runWord h (heff k)

@[simp ↓] theorem memOk_once (act) (s : State) (f) : (once act s f).memOk ↔ if act = 0 then s.memOk else (f s).memOk := memOk_ite ..

@[simp ↓] theorem memOk_onceReal (k act) (s : State) (f) :
    (onceReal k act s f).memOk ↔ if act &&& ~~~k.helpers = 0 then s.memOk else (f s).memOk := by
  simp [onceReal]

theorem memOk_runPrologue {s : State} {p l r n} {f : Prologue → State → State} (h : s.memOk)
    (hf : ∀ x t, t.memOk → (f x t).memOk) : (s.runPrologue p l r n f).memOk := by
  have hrun (x q) : (f x (s.modPart p q)).memOk := hf _ _ (by simpa using h)
  unfold State.runPrologue
  dsimp only
  repeat' split
  · exact h
  · simpa using h
  · exact hrun _ _
  · simpa using h

@[simp ↓] theorem memOk_setPrologue (s : State) (p x) : (s.setPrologue p x).memOk ↔ s.memOk := memOk_congr rfl

@[simp ↓] theorem memOk_command (s : State) (c e w i eng more) : (s.command c e w i eng more).memOk ↔ s.memOk := by
  unfold State.command
  dsimp only
  split
  · simp
  · simp

@[simp ↓] theorem memOk_loadLane (s : State) (c kind l va pa n) : (s.loadLane c kind l va pa n).1.memOk ↔ s.memOk := by
  unfold State.loadLane
  split
  · rfl
  · split
    · split <;> simp
    · rfl
    · rfl

@[simp ↓] theorem memOk_loadLanes (s : State) (c pass addr n) : (s.loadLanes c pass addr n).1.memOk ↔ s.memOk := by
  unfold State.loadLanes
  refine memOk_foldl_fst_iff (fun s b e => ?_) _ _
  dsimp only
  split
  · rfl
  · split
    all_goals
      next e => exact memOk_iff_of_fst e (by simp)

@[simp ↓] theorem memOk_enqueue (s : State) (c kind act items) : (s.enqueue c kind act items).memOk ↔ s.memOk := by
  simp [State.enqueue]

end Sys2Proof.Machine
end

section
/-! SUPPORT. O60, second part: the operations of the sequencer, of loads and stores, and of issue. -/

namespace Sys2Proof.Machine

open Sys2Proof

/-! ### The sequencer's operations -/

@[simp ↓] theorem memOk_targetKind {s : State} (h : s.memOk) (k t) : (s.targetKind k t).1.memOk := by
  unfold State.targetKind
  split
  · exact h
  · split
    all_goals
      next e => exact memOk_of_fst e (by simp [h])

@[simp ↓] theorem memOk_sortTargets {s : State} (h : s.memOk) (k m t) : (s.sortTargets k m t).1.memOk := by
  refine memOk_foldl_fst h fun s b l hs => ?_
  dsimp only
  split
  all_goals
    next e => exact memOk_of_fst e (by simp [hs])

@[simp ↓] theorem memOk_targetFaults (s : State) (k mis nol t) : (s.targetFaults k mis nol t).memOk ↔ s.memOk := by
  simp [State.targetFaults]

@[simp ↓] theorem memOk_call {s : State} (h : s.memOk) (k e m t) : (s.call k e m t).memOk := by
  simp [State.call, h]

@[simp ↓] theorem memOk_hwait (s : State) (k act hs dst) : (s.hwait k act hs dst).memOk ↔ s.memOk := by
  simp [State.hwait]

@[simp ↓] theorem memOk_hmov (s : State) (k e act d ref saved) : (s.hmov k e act d ref saved).memOk ↔ s.memOk := by
  unfold State.hmov
  dsimp only
  split
  · simp [memOk_holdActing]
  · simp

@[simp ↓] theorem memOk_setRing (s : State) (k j r) : (s.setRing k j r).memOk ↔ s.memOk := memOk_congr rfl

@[simp ↓] theorem memOk_writeSys (s : State) (k r l v) : (s.writeSys k r l v).memOk ↔ s.memOk := by
  unfold State.writeSys
  cases r
  case rpos | rfull | rslot =>
    dsimp only
    split <;> simp
  all_goals rfl

/-! ### Loads and stores -/

@[simp ↓] theorem memOk_loadGlobal {s : State} (h : s.memOk) (k e act dst c addr holds) :
    (s.loadGlobal k e act dst c addr holds).memOk := by
  simp [State.loadGlobal, h]

@[simp ↓] theorem memOk_loadScratch (s : State) (k e act dst c addr) : (s.loadScratch k e act dst c addr).memOk ↔ s.memOk := by
  simp [State.loadScratch]

@[simp ↓] theorem memOk_loadUniform {s : State} (h : s.memOk) (k e act dst c addr) :
    (s.loadUniform k e act dst c addr).memOk := by
  unfold State.loadUniform once
  dsimp only
  split
  · exact h
  split <;> rename_i e1 <;> have hs := memOk_of_fst e1 (by simp [h])
  · simp [hs]
  · simp [hs]
  · split
    · simp [h]
    · next e2 =>
        have hl := memOk_of_fst e2 (by simp [hs])
        simp [hl]

@[simp ↓] theorem memOk_prologueLoad {s : State} (h : s.memOk) (p old x dst c addr) :
    (s.prologueLoad p old x dst c addr).memOk := by
  unfold State.prologueLoad
  dsimp only
  split
  · simp [h]
  · split
    all_goals
      next e =>
        have hs := memOk_of_fst e (by simp [h])
        simp [hs]

@[simp ↓] theorem memOk_ldcPrologue {s : State} (h : s.memOk) (p legal pred neg dst c addr) :
    (s.ldcPrologue p legal pred neg dst c addr).memOk := by
  unfold State.ldcPrologue
  split
  · exact h
  · exact memOk_runPrologue h fun x t ht => by simp [ht]

@[simp ↓] theorem memOk_storeGlobal {s : State} (h : s.memOk) (k e act n addr data) : (s.storeGlobal k e act n addr data).memOk := by
  simp [State.storeGlobal, h]

@[simp ↓] theorem memOk_storeScratch (s : State) (k e act n addr data) : (s.storeScratch k e act n addr data).memOk ↔ s.memOk := by
  simp [State.storeScratch]

@[simp ↓] theorem memOk_prefetch {s : State} (h : s.memOk) (k va) : (s.prefetch k va).memOk := by
  unfold State.prefetch
  split
  · exact h
  · split
    · next e =>
        have hs := memOk_of_fst e (by simp [h])
        simp [h, hs]
    · exact h

@[simp ↓] theorem memOk_loseLease (s : State) (wk c a) : (s.loseLease wk c a).memOk ↔ s.memOk := memOk_congr rfl

@[simp ↓] theorem memOk_revokeLease {s : State} (h : s.memOk) (wk) : (s.revokeLease wk).memOk := by
  unfold State.revokeLease
  dsimp only
  split
  · exact h
  · split
    all_goals
      simp only [↓memOk_loseLease, ↓memOk_modWeave]
      refine memOk_foldl_fst h fun s b x hs => ?_
      dsimp only
      split
      · exact hs
      · split <;> rename_i e <;> have ht := memOk_of_fst e (by simp [hs])
        · simp [ht]
        · exact ht
        · exact ht

@[simp ↓] theorem memOk_failFrontReads (s : State) (t) : (s.failFrontReads t).memOk ↔ s.memOk := by
  unfold State.failFrontReads
  rw [memOk_mk, memOk_fields, memOk_foldl_iff fun s e => by split <;> simp]
  simp

@[simp ↓] theorem memOk_failParked (s : State) (wk t d st) : (s.failParked wk t d st).memOk ↔ s.memOk := by
  refine memOk_foldl_iff (fun s l => ?_) _ _
  dsimp only
  split <;> simp

@[simp ↓] theorem memOk_closeTicket (s : State) (t fail) : (s.closeTicket t fail).memOk ↔ s.memOk := by
  unfold State.closeTicket
  dsimp only
  split <;> simp

/-! ### Issue -/

@[simp ↓] theorem memOk_wakeHwait (s : State) (wk) : (s.wakeHwait wk).memOk ↔ s.memOk := by
  refine memOk_foldl_iff (fun s l => ?_) _ _
  dsimp only
  split <;> simp

@[simp ↓] theorem memOk_deliverWindow (s : State) (wk due hdr) : (s.deliverWindow wk due hdr).memOk ↔ s.memOk := by
  unfold State.deliverWindow
  dsimp only
  split <;> simp

@[simp ↓] theorem memOk_enterClause {s : State} (h : s.memOk) (wk m at_) : (s.enterClause wk m at_).1.memOk := by
  unfold State.enterClause
  dsimp only
  split <;> rename_i e <;> have hs := memOk_of_fst e (by simp [h])
  · simp [hs]
  · simp [hs]
  · exact hs
  · split <;> simp [hs]

@[simp ↓] theorem memOk_prepare {s : State} (h : s.memOk) (wk cand l) : (s.prepare wk cand l).1.memOk := by
  simp [State.prepare, h]

/-- One attempt of `tryIssue`. Its callee stands for itself, or the check that both sides are the same runs it. -/
theorem tryIssue_succ (s : State) (wk cand n) : s.tryIssue wk cand (n + 1) =
    (let w := s.weave wk
    match lowestLane w cand with
    | none => (s, false)
    | some l =>
      let rest := cand.filter fun i => !(w.lane l).sameGroup (w.lane i)
      match s.prepare wk cand l with
      | (s, .blocked) => State.tryIssue s wk rest n
      | (s, .gone) => (s, true)
      | (s, .ready a) =>
        let rest := rest.filter fun i => ((s.weave wk).lane i).place != a.pc.toNat
        let alone : State × Bool := ({ s with issue := [.weave a] }, true)
        match lowestLane (s.weave wk) rest with
        | none => alone
        | some l2 =>
          match s.prepare wk rest l2 with
          | (s2, .ready b) => match s2.pairs a b with
            | some l => ({ s2 with issue := l }, true)
            | none => alone
          | _ => alone) := by
  delta State.tryIssue State.tryIssue._f
  generalize State.prepare = g
  rfl

@[simp ↓] theorem memOk_tryIssue {s : State} (h : s.memOk) (wk cand n) : (s.tryIssue wk cand n).1.memOk := by
  induction n generalizing s cand with
  | zero => exact h
  | succ n ih =>
    rw [tryIssue_succ]
    dsimp only
    split
    · exact h
    · split <;> rename_i e <;> have hs := memOk_of_fst e (by simp [h])
      · exact ih hs _
      · exact hs
      · split
        · exact hs
        · split
          · next e2 =>
              have hs2 := memOk_of_fst e2 (by simp [hs])
              split
              · exact hs2
              · exact hs
          · exact hs

@[simp ↓] theorem memOk_issueWeave {s : State} (h : s.memOk) (wk) : (s.issueWeave wk).1.memOk := by
  simp [State.issueWeave, h]

/-- One turn of `issueFirst`. -/
theorem issueFirst_cons (s : State) (wk rest) : s.issueFirst (wk :: rest) =
    match s.issueWeave wk with
    | (s, true) => (s, true)
    | (s, false) => s.issueFirst rest := by
  delta State.issueFirst State.issueFirst._f
  generalize State.issueWeave = g
  rfl

@[simp ↓] theorem memOk_issueFirst {s : State} (h : s.memOk) (ws) : (s.issueFirst ws).1.memOk := by
  induction ws generalizing s with
  | nil => exact h
  | cons wk rest ih =>
    rw [issueFirst_cons]
    split <;> rename_i e <;> have hs := memOk_of_fst e (by simp [h])
    · exact hs
    · exact ih hs

/-- One turn of `issueContexts`. -/
theorem issueContexts_cons (s : State) (core l rest) : s.issueContexts core (l :: rest) =
    (let ws := s.weaveOrder core l
    match s.issueFirst ws with
    | (s, true) => ws.foldl (fun s wk => s.modWeave wk fun w => if w.lastIssue = s.clk.toNat then w else { w with age := w.age + 1 }) s
    | (s, false) => s.issueContexts core rest) := by
  delta State.issueContexts State.issueContexts._f
  generalize State.issueFirst = g
  rfl

@[simp ↓] theorem memOk_issueContexts {s : State} (h : s.memOk) (core ls) : (s.issueContexts core ls).memOk := by
  induction ls generalizing s with
  | nil => exact h
  | cons l rest ih =>
    rw [issueContexts_cons]
    dsimp only
    split <;> rename_i e <;> have hs := memOk_of_fst e (by simp [h])
    · simp [hs]
    · exact ih hs

@[simp ↓] theorem memOk_fetchSlot {s : State} (h : s.memOk) (i) : (s.fetchSlot i).1.memOk := by
  unfold State.fetchSlot
  dsimp only
  split <;> rename_i e <;> have hs := memOk_of_fst e (by simp [h])
  · simp [hs]
  · simp [hs]
  · exact hs
  · split <;> simp [hs]

@[simp ↓] theorem memOk_proWord {s : State} (h : s.memOk) (p va) : (s.proWord p va).1.memOk := by
  unfold State.proWord
  split
  all_goals
    next e =>
      have hs := memOk_of_fst e (by simp [h])
      simp [hs]

@[simp ↓] theorem memOk_fetchPrologue {s : State} (h : s.memOk) (p) : (s.fetchPrologue p).1.memOk := by
  unfold State.fetchPrologue
  split
  · exact h
  · extract_lets word
    have hword (t x) (ht : t.memOk) : (word t x).1.memOk := by
      dsimp only [word]
      split
      · exact ht
      · split <;> rename_i e <;> have hs := memOk_of_fst e (by simp [ht])
        · simp [hs]
        · simp [hs]
        · exact hs
        · split <;> simp [hs]
    clear_value word
    split
    · exact hword _ _ h
    · split <;> rename_i e <;> have hs := memOk_of_fst e (by simp [h])
      · simp [hs]
      · simp [hs]
      · exact hs
      · split
        · simp [hs]
        · exact hword _ _ (by simpa using hs)

end Sys2Proof.Machine
end

section
/-! SUPPORT. O60, third part: the operations of the slices, of stamps, of the engines' accesses and of the float lanes. -/

namespace Sys2Proof.Machine

open Sys2Proof

/-! ### Slices, work queues and the host -/

@[simp ↓] theorem memOk_answer (s : State) (k act d v) : (s.answer k act d v).memOk ↔ s.memOk := memOk_congr rfl

@[simp ↓] theorem memOk_performRatom {s : State} (h : s.memOk) (wk op wide dst ll items) :
    (s.performRatom wk op wide dst ll items).memOk := by
  unfold State.performRatom
  simp only [↓memOk_modWeave, ↓memOk_takeFree]
  exact memOk_foldl_fst h fun s old i hs => by simp [hs]

@[simp ↓] theorem memOk_setQrec {s : State} (h : s.memOk) (q) : (s.setQrec q).memOk := by simp [State.setQrec, h]

@[simp ↓] theorem memOk_dropWaiter {s : State} (h : s.memOk) (p q r x) : (s.dropWaiter p q r x).memOk := by simp [State.dropWaiter, h]

@[simp ↓] theorem memOk_withdraw {s : State} (h : s.memOk) (wk) : (s.withdraw wk).memOk :=
  memOk_foldl h fun s e hs => by simp [hs]

@[simp ↓] theorem memOk_wakeWaiter (s : State) (x q st ws) : (s.wakeWaiter x q st ws).memOk ↔ s.memOk := by simp [State.wakeWaiter]

@[simp ↓] theorem memOk_ringCheck (s : State) (p i r k) : (s.ringCheck p i r k).1.memOk ↔ s.memOk := by simp [State.ringCheck]

@[simp ↓] theorem memOk_queuePut {s : State} (h : s.memOk) (p q bs) : (s.queuePut p q bs).1.memOk := by
  unfold State.queuePut
  dsimp only
  split <;> simp [h]

@[simp ↓] theorem memOk_queueGet {s : State} (h : s.memOk) (p q) : (s.queueGet p q).1.memOk := by simp [State.queueGet, h]

@[simp ↓] theorem memOk_countQ (s : State) (k q) : (s.countQ k q).memOk ↔ s.memOk := by simp [State.countQ]

@[simp ↓] theorem memOk_releaseWaiters (s : State) (p q) : (s.releaseWaiters p q).memOk ↔ s.memOk := by simp [State.releaseWaiters]

@[simp ↓] theorem memOk_armWatch (s : State) (x) : (s.armWatch x).1.memOk ↔ s.memOk := by
  unfold State.armWatch
  split <;> simp

@[simp ↓] theorem memOk_flushLine (s : State) (p pa inv) : (s.flushLine p pa inv).memOk ↔ s.memOk := memOk_congr rfl

@[simp ↓] theorem memOk_flushFrom {s : State} (h : s.memOk) (k act m inv line n) : (s.flushFrom k act m inv line n).memOk := by
  induction n generalizing s line with
  | zero => simpa [State.flushFrom] using h
  | succ n ih =>
    unfold State.flushFrom
    dsimp only
    split <;> rename_i e <;> have hs := memOk_of_fst e (by simp [h])
    · simp [hs]
    · simp [hs]
    · exact ih (by simp [hs]) _

@[simp ↓] theorem memOk_takeResidual (s : State) (l t r) : (s.takeResidual l t r).memOk ↔ s.memOk := memOk_congr rfl

@[simp ↓] theorem memOk_mergeLine {s : State} (h : s.memOk) (n e) : (s.mergeLine n e).memOk := by simp [State.mergeLine, h]

@[simp ↓] theorem memOk_sliceRequest {s : State} (h : s.memOk) (n r) : (s.sliceRequest n r).memOk := by simp [State.sliceRequest, h]

@[simp ↓] theorem memOk_serveInput {s : State} (h : s.memOk) (n) : (s.serveInput n).memOk :=
  memOk_foldl (by simpa using h) fun s r hs => by simp [hs]

@[simp ↓] theorem memOk_hostCpl (s : State) (fn ab bs) : (s.hostCpl fn ab bs).memOk ↔ s.memOk := memOk_congr rfl

@[simp ↓] theorem memOk_hostRead (s : State) (fn at_ n bar0) : (s.hostRead fn at_ n bar0).memOk ↔ s.memOk := by
  unfold State.hostRead
  dsimp only
  repeat' split
  all_goals simp

@[simp ↓] theorem memOk_hostWriteLine {s : State} (h : s.memOk) (p kind pa bs) : (s.hostWriteLine p kind pa bs).memOk := by
  unfold State.hostWriteLine
  split
  · exact h
  · split
    · simp [h]
    · split <;> simp [h]

@[simp ↓] theorem memOk_logFirmware (s : State) (p ws) : (s.logFirmware p ws).memOk ↔ s.memOk := memOk_congr rfl

@[simp ↓] theorem memOk_invalidating (s : State) (p) : (s.invalidating p).memOk ↔ s.memOk := memOk_congr rfl

/-! ### Stamps -/

@[simp ↓] theorem memOk_stampRead {s : State} (h : s.memOk) (k e act w n val win) : (s.stampRead k e act w n val win).memOk := by
  simp [State.stampRead, h]

@[simp ↓] theorem memOk_stampWrite {s : State} (h : s.memOk) (k e act w kind acc) : (s.stampWrite k e act w kind acc).memOk := by
  simp [State.stampWrite, h]

@[simp ↓] theorem memOk_performStamp {s : State} (h : s.memOk) (wk set at_ en) : (s.performStamp wk set at_ en).memOk := by
  unfold State.performStamp
  simp only [↓memOk_modWeave]
  refine memOk_foldl h fun s i hs => ?_
  split <;> simp [hs]

@[simp ↓] theorem memOk_answer2 (s : State) (k act d v) : (s.answer2 k act d v).memOk ↔ s.memOk := memOk_congr rfl
@[simp ↓] theorem memOk_modStamp (s : State) (p f) : (s.modStamp p f).memOk ↔ s.memOk := memOk_congr rfl
@[simp ↓] theorem memOk_askFurther (s : State) (p) : (s.askFurther p).memOk ↔ s.memOk := memOk_congr rfl

@[simp ↓] theorem memOk_sweepDone (s : State) (p r) : (s.sweepDone p r).memOk ↔ s.memOk := by simp [State.sweepDone]

@[simp ↓] theorem memOk_swpregEffect (s : State) (r) : (s.swpregEffect r).memOk ↔ s.memOk := by
  unfold State.swpregEffect
  dsimp only
  split
  · simp
  · split <;> simp

@[simp ↓] theorem memOk_startSte (s : State) (p) : (s.startSte p).memOk ↔ s.memOk := by simp [State.startSte]

@[simp ↓] theorem memOk_sweepVisit {s : State} (h : s.memOk) (p r) : (s.sweepVisit p r).memOk := by
  unfold State.sweepVisit
  extract_lets t g go
  have hgo (u n g) (hu : u.memOk) : (go u n g).memOk := by simp [go, hu]
  clear_value go
  split
  · exact h
  · dsimp only
    split <;> rename_i e <;> have hs := memOk_of_fst e (by simp [h])
    · repeat' split
      · exact hs
      all_goals exact hgo _ _ _ (by simp [hs])
    · exact hgo _ _ _ hs

/-! ### The engines' accesses -/

@[simp ↓] theorem memOk_engPlaces {s : State} (h : s.memOk) (q va n k) : (s.engPlaces q va n k).1.memOk := by
  refine memOk_foldl_fst h fun s g e hs => ?_
  dsimp only
  split
  · split <;> rename_i e <;> exact memOk_of_fst e (by simp [hs])
  · exact hs

@[simp ↓] theorem memOk_engWrite {s : State} (h : s.memOk) (q va bs) : (s.engWrite q va bs).1.memOk := by
  unfold State.engWrite
  split <;> rename_i e <;> have hs := memOk_of_fst e (by simp [h])
  · simp [hs]
  · exact hs

@[simp ↓] theorem memOk_readRecord {s : State} (h : s.memOk) (q va) : (s.readRecord q va).1.memOk := by
  unfold State.readRecord
  split
  · next e =>
      have hs := memOk_of_fst e (by simp [h])
      dsimp only
      split
      · exact hs
      · split
        · next e => exact memOk_of_fst e (by simp [hs])
        · simp [hs]
  · simp [h]

@[simp ↓] theorem memOk_readShape {s : State} (h : s.memOk) (q va) : (s.readShape q va).1.memOk := by
  unfold State.readShape
  split <;> rename_i e <;> exact memOk_of_fst e (by simp [h])

@[simp ↓] theorem memOk_engBit {s : State} (h : s.memOk) (q va i on) : (s.engBit q va i on).1.memOk := by
  unfold State.engBit
  split
  · next e => simp [memOk_of_fst e (by simp [h])]
  · simp [h]

@[simp ↓] theorem memOk_isPromoted {s : State} (h : s.memOk) (q x i) : (s.isPromoted q x i).1.memOk := by
  unfold State.isPromoted
  split
  · exact h
  · split <;> rename_i e <;> exact memOk_of_fst e (by simp [h])

/-! ### Words of the lanes -/

@[simp ↓] theorem memOk_laApply (s : State) (k act dst ll val) : (s.laApply k act dst ll val).memOk ↔ s.memOk := by simp [State.laApply]

/-- An integer word, of a prologue or of a weave, keeps the form where both its effects do. -/
theorem outOk_proOrWord {s : State} {g : Nat → State} {gt : Ctx → Gate} {eff : Ctx → Env → BitVec 32 → State → State} (h : s.memOk)
    (hg : ∀ p, (g p).memOk) (heff : ∀ k e act t, t.memOk → (eff k e act t).memOk) :
    outOk (match s.cur with
      | some (.prologue p) => if (s.part p).prologue.isNone then .fault .noIssuer else .next (g p)
      | _ => onWeave s fun k => s.runWord k (gt k) (eff k)) := by
  split
  · split
    · trivial
    · exact hg _
  · exact outOk_onWeave fun k => memOk_runWord h (heff k)

theorem outOk_laInt {s : State} {w dst a b c modb mods val} (h : s.memOk) : outOk (laInt s w dst a b c modb mods val) :=
  outOk_proOrWord h (fun _ => memOk_runPrologue h fun x t ht => by simp [ht]) fun k e act t ht => by simp [ht]

theorem outOk_laIntImm {s : State} {w dst a mods imm val} (h : s.memOk) : outOk (laIntImm s w dst a mods imm val) :=
  outOk_proOrWord h (fun _ => memOk_runPrologue h fun x t ht => by simp [ht]) fun k e act t ht => by simp [ht]

theorem outOk_laInt2 {s : State} {w dst c isInt mods val} (h : s.memOk) : outOk (laInt2 s w dst c isInt mods val) :=
  outOk_proOrWord h (fun _ => memOk_runPrologue h fun x t ht => by simp [ht]) fun k e act t ht => by simp [ht]

theorem outOk_laCarry {s : State} {w mods} (h : s.memOk) : outOk (laCarry s w mods) :=
  outOk_proOrWord h (fun _ => memOk_runPrologue h fun x t ht => by simp [ht]) fun k e act t ht => by simp [ht]

theorem outOk_laFloat {s : State} {w dst a b c modb mods ll half val} (h : s.memOk) :
    outOk (laFloat s w dst a b c modb mods ll half val) := outOk_word h fun k e act t ht => by simp [ht]

theorem outOk_laFloatImm {s : State} {w dst mods val} (h : s.memOk) : outOk (laFloatImm s w dst mods val) :=
  outOk_word h fun k e act t ht => by simp [ht]

theorem outOk_laExchange {s : State} {w b mods pick} (h : s.memOk) : outOk (laExchange s w b mods pick) :=
  outOk_word h fun k e act t ht => by simp [ht]

end Sys2Proof.Machine
end

section
/-! SUPPORT. O60, fourth part: the operations of the exchange, of the store queues and of the matrix engine. -/

namespace Sys2Proof.Machine

open Sys2Proof

/-! ### Exchange and links -/

@[simp ↓] theorem memOk_modRegion (s : State) (p n f) : (s.modRegion p n f).memOk ↔ s.memOk := memOk_congr rfl

@[simp ↓] theorem memOk_sendXst (s : State) (wk en) : (s.sendXst wk en).memOk ↔ s.memOk := by
  unfold State.sendXst
  dsimp only
  split
  · simp
  · refine memOk_foldl_iff (fun s i => ?_) _ _
    split <;> simp

@[simp ↓] theorem memOk_issueXbcast (s : State) (k e act w i) : (s.issueXbcast k e act w i).memOk ↔ s.memOk := by
  simp [State.issueXbcast]

@[simp ↓] theorem memOk_startXbcast (s : State) (r) : (s.startXbcast r).memOk ↔ s.memOk := by
  unfold State.startXbcast
  dsimp only
  split <;> simp

@[simp ↓] theorem memOk_landDatum (s : State) (p n i) : (s.landDatum p n i).memOk ↔ s.memOk := by
  unfold State.landDatum
  split
  · rfl
  · split
    · rfl
    · dsimp only
      split
      · rfl
      · split <;> simp

@[simp ↓] theorem memOk_releaseStep (s : State) (p n l) : (s.releaseStep p n l).memOk ↔ s.memOk := by simp [State.releaseStep]

@[simp ↓] theorem memOk_setRx (s : State) (n x) : (s.setRx n x).memOk ↔ s.memOk := memOk_congr rfl

@[simp ↓] theorem memOk_failSends (s : State) (f st) : (s.failSends f st).memOk ↔ s.memOk := by
  refine memOk_foldl_iff (fun s e => ?_) _ _
  split <;> simp

@[simp ↓] theorem memOk_bufferPages {s : State} (h : s.memOk) (k base n) : (s.bufferPages k base n).1.memOk := by
  refine memOk_foldl_fst h fun s r i hs => ?_
  dsimp only
  split
  · exact hs
  · split
    · exact hs
    · split <;> rename_i e <;> exact memOk_of_fst e (by simp [hs])

@[simp ↓] theorem memOk_sendBytes {s : State} (h : s.memOk) (r n) : (s.sendBytes r n).memOk := by
  unfold State.sendBytes
  dsimp only
  split
  · exact h
  · split <;> rename_i e <;> simp [memOk_of_fst e (by simp [h])]

@[simp ↓] theorem memOk_trySend {s : State} (h : s.memOk) (r) : (s.trySend r).memOk := by
  unfold State.trySend
  dsimp only
  split <;> simp [h]

@[simp ↓] theorem memOk_retrySends {s : State} (h : s.memOk) (n) : (s.retrySends n).memOk :=
  memOk_foldl h fun s e hs => by simp [hs]

@[simp ↓] theorem memOk_startSend {s : State} (h : s.memOk) (r) : (s.startSend r).memOk := by simp [State.startSend, h]

@[simp ↓] theorem memOk_acked (s : State) (n k) : (s.acked n k).memOk ↔ s.memOk := memOk_congr rfl
@[simp ↓] theorem memOk_ackedAll (s : State) (n) : (s.ackedAll n).memOk ↔ s.memOk := memOk_congr rfl
@[simp ↓] theorem memOk_failChannel (s : State) (n) : (s.failChannel n).memOk ↔ s.memOk := by simp [State.failChannel]

@[simp ↓] theorem memOk_receivePayload {s : State} (h : s.memOk) (port p buf slot off x bs) :
    (s.receivePayload port p buf slot off x bs).memOk := by
  refine memOk_foldl_fst h fun s b e hs => ?_
  dsimp only
  split
  · simp [hs]
  · split <;> simp [hs]

@[simp ↓] theorem memOk_actFlit {s : State} (h : s.memOk) (port f) : (s.actFlit port f).memOk := by
  unfold State.actFlit
  dsimp only
  split
  · split <;> simp [h]
  all_goals simp [h]

/-! ### Store queues -/

@[simp ↓] theorem memOk_writeLine (s : State) (p e l d) : (s.writeLine p e l d).memOk ↔ s.memOk := by simp [State.writeLine]

@[simp ↓] theorem memOk_performStores {s : State} (h : s.memOk) (wk e) : (s.performStores wk e).memOk := by
  unfold State.performStores
  simp only [↓memOk_foldl_iff, ↓memOk_writeLine, turnKeeps_iff, implies_true]
  exact memOk_foldl h fun s i hs => by simp [hs]

@[simp ↓] theorem memOk_performEntry {s : State} (h : s.memOk) (wk e) : (s.performEntry wk e).memOk := by
  unfold State.performEntry
  split <;> simp [h]

@[simp ↓] theorem memOk_leaveQueue {s : State} (h : s.memOk) (wk) : (s.leaveQueue wk).memOk := by
  unfold State.leaveQueue
  split
  · exact h
  · simp [h]

/-! ### The matrix engine -/

@[simp ↓] theorem memOk_mxRecord (s : State) (k i named share aux amat) : (s.mxRecord k i named share aux amat).2.memOk ↔ s.memOk := memOk_congr rfl

@[simp ↓] theorem memOk_tcfgEffect (s : State) (r) : (s.tcfgEffect r).memOk ↔ s.memOk := by
  unfold State.tcfgEffect
  dsimp only
  split
  · rfl
  · split <;> simp

@[simp ↓] theorem memOk_latchPlane (s : State) (r) : (s.latchPlane r).memOk ↔ s.memOk := by simp [State.latchPlane]
@[simp ↓] theorem memOk_unitDone (s : State) (r) : (s.unitDone r).memOk ↔ s.memOk := by simp [State.unitDone]
@[simp ↓] theorem memOk_accrdNow (s : State) (r w) : (s.accrdNow r w).memOk ↔ s.memOk := by simp [State.accrdNow]
@[simp ↓] theorem memOk_issueAcc (s : State) (k e act w i) : (s.issueAcc k e act w i).memOk ↔ s.memOk := by simp [State.issueAcc]

@[simp ↓] theorem memOk_gotStop (s : State) (r g) : (s.gotStop r g).memOk ↔ s.memOk := by
  unfold State.gotStop
  split <;> simp

@[simp ↓] theorem memOk_engReadAll {s : State} (h : s.memOk) (q rs) : (s.engReadAll q rs).1.memOk := by
  refine memOk_foldl_fst h fun s g e hs => ?_
  dsimp only
  split
  · split
    · next e => exact memOk_of_fst e (by simp [hs])
    · simp [hs]
  · exact hs

@[simp ↓] theorem memOk_engWriteAll {s : State} (h : s.memOk) (q ws) : (s.engWriteAll q ws).1.memOk := by
  unfold State.engWriteAll
  split
  rename_i e
  have hs := memOk_of_fst e <| memOk_foldl_fst h fun s g e hs => by
    dsimp only
    split
    · split <;> rename_i e <;> exact memOk_of_fst e (by simp [hs])
    · exact hs
  split
  · exact memOk_foldl hs fun s e hs => by simp [hs]
  · exact hs

@[simp ↓] theorem memOk_accldUnit {s : State} (h : s.memOk) (r f) : (s.accldUnit r f).memOk := by
  unfold State.accldUnit
  dsimp only
  split <;> rename_i e <;> simp [memOk_of_fst e (by simp [h])]

@[simp ↓] theorem memOk_markPromoted {s : State} (h : s.memOk) (q rec_ x is prom) : (s.markPromoted q rec_ x is prom).memOk := by
  have hall : (is.foldl (fun s i => (s.engBit q (x.mapBit i).1 (x.mapBit i).2 true).1) s).memOk :=
    memOk_foldl h fun s i hs => by simp [hs]
  simp [State.markPromoted, hall]

@[simp ↓] theorem memOk_canMark {s : State} (h : s.memOk) (q rec_ x is) : (s.canMark q rec_ x is).1.memOk := by
  unfold State.canMark
  split
  · exact h
  · refine memOk_foldl_fst h fun s g a hs => ?_
    dsimp only
    split
    · split <;> rename_i e <;> exact memOk_of_fst e (by simp [hs])
    · exact hs

@[simp ↓] theorem memOk_accstUnit {s : State} (h : s.memOk) (r f sr) : (s.accstUnit r f sr).memOk := by
  unfold State.accstUnit
  extract_lets o q r0 rows g rec_ at_ parts store
  have hstore (t ps wide x new_) (ht : t.memOk) : (store t ps wide x new_).memOk := by
    dsimp only [store]
    split <;> rename_i e <;> have hs := memOk_of_fst e (by simp [ht])
    · split <;> rename_i e <;> simp [memOk_of_fst e (by simp [hs])]
    · simp [hs]
  clear_value store
  split
  · exact hstore _ _ _ _ _ h
  · split <;> rename_i e <;> have hs := memOk_of_fst e (by simp [h])
    · simp [hs]
    · simp [hs]
    · split
      · exact hstore _ _ _ _ _ hs
      · extract_lets above ps regions
        split
        rename_i e
        have ht := memOk_of_fst e <| memOk_foldl_fst hs fun s got i hs => by
          dsimp only
          split
          · split <;> rename_i e <;> exact memOk_of_fst e (by simp [hs])
          · exact hs
        split
        · simp [ht]
        · exact hstore _ _ _ _ _ ht

@[simp ↓] theorem memOk_reissue (s : State) (gk) : (s.reissue gk).memOk ↔ s.memOk := by
  refine memOk_foldl_iff (fun s e => ?_) _ _
  dsimp only
  split
  · rfl
  · split <;> simp

@[simp ↓] theorem memOk_restoreBlock (s : State) (gk b) : (s.restoreBlock gk b).1.memOk ↔ s.memOk := by simp [State.restoreBlock]

@[simp ↓] theorem memOk_accContext {s : State} (h : s.memOk) (r load) : (s.accContext r load).memOk := by
  unfold State.accContext
  dsimp only
  split
  · split <;> rename_i e <;> have hs := memOk_of_fst e (by simp [h])
    · split <;> rename_i e <;> simp [memOk_of_fst e (by simp [hs])]
    · simp [hs]
  · split <;> rename_i e <;> simp [memOk_of_fst e (by simp [h])]

@[simp ↓] theorem memOk_promNow {s : State} (h : s.memOk) (r w) : (s.promNow r w).memOk := by
  unfold State.promNow
  dsimp only
  split <;> rename_i e <;> simp [memOk_of_fst e (by simp [h])]

@[simp ↓] theorem memOk_drainVerdict {s : State} (h : s.memOk) (r) : (s.drainVerdict r).1.memOk := by
  unfold State.drainVerdict
  dsimp only
  split
  · exact h
  · split
    · exact h
    · simp [h]
    · split
      · simp [h]
      · split <;> rename_i e <;> simp [memOk_of_fst e (by simp [h])]

@[simp ↓] theorem memOk_drainStart {s : State} (h : s.memOk) (r w) : (s.drainStart r w).memOk := by
  unfold State.drainStart
  dsimp only
  split
  · simp [h]
  · split <;> rename_i e <;> simp [memOk_of_fst e (by simp [h])]

@[simp ↓] theorem memOk_shardPlace {s : State} (h : s.memOk) (r bf sh) : (s.shardPlace r bf sh).1.memOk := by
  unfold State.shardPlace
  dsimp only
  split
  · exact h
  · split <;> rename_i e <;> exact memOk_of_fst e (by simp [h])

@[simp ↓] theorem memOk_drainEnd (s : State) (r) : (s.drainEnd r).memOk ↔ s.memOk := by simp [State.drainEnd]

@[simp ↓] theorem memOk_drainShard {s : State} (h : s.memOk) (r w sh) : (s.drainShard r w sh).memOk := by
  unfold State.drainShard
  dsimp only
  split <;> rename_i e <;> have hs := memOk_of_fst e (by simp [h])
  · simp [hs]
  · split <;> rename_i e <;> have hs := memOk_of_fst e (by simp [hs])
    · split
      · split <;> rename_i e <;> have hs := memOk_of_fst e (by simp [hs])
        · split <;> rename_i e <;> simp [memOk_of_fst e (by simp [hs])]
        · simp [hs]
      · simp [hs]
    · simp [hs]

@[simp ↓] theorem memOk_drainStore {s : State} (h : s.memOk) (r w sh) : (s.drainStore r w sh).memOk := by
  unfold State.drainStore
  dsimp only
  split <;> rename_i e <;> have hs := memOk_of_fst e (by simp [h])
  · split <;> rename_i e <;> simp [memOk_of_fst e (by simp [hs])]
  · simp [hs]

@[simp ↓] theorem memOk_drainStep {s : State} (h : s.memOk) (r) : (s.drainStep r).memOk := by
  unfold State.drainStep
  dsimp only
  split
  · split
    · exact h
    · split
      · simp [h]
      · split <;> rename_i e <;> have hs := memOk_of_fst e (by simp [h])
        · exact hs
        · repeat' split
          all_goals simp [hs]
  · exact h

@[simp ↓] theorem memOk_undoUnit {s : State} (h : s.memOk) (r) : (s.undoUnit r).memOk := by
  unfold State.undoUnit
  extract_lets o q g d finish
  have hfinish (t : State) (ht : t.memOk) : (finish t).memOk := by simp [finish, ht]
  clear_value finish
  split
  · exact hfinish _ h
  · split
    · exact hfinish _ h
    · extract_lets rec_ a n ws put
      have hput (t x) (ht : t.memOk) : (put t x).memOk := by
        dsimp only [put]
        split <;> rename_i e <;> have hs := memOk_of_fst e (by simp [ht])
        · split <;> rename_i e <;> have hs := memOk_of_fst e (by simp [hs])
          · split
            · exact hfinish _ (by simp [hs])
            · simp [hs]
          · simp [hs]
        · simp [hs]
      clear_value put
      split
      · exact hput _ _ h
      · split <;> rename_i e <;> have hs := memOk_of_fst e (by simp [h])
        · simp [hs]
        · simp [hs]
        · exact hput _ _ hs

end Sys2Proof.Machine
end

section
/-! SUPPORT. O60, fifth part: the operations of bonds. -/

namespace Sys2Proof.Machine

open Sys2Proof

@[simp ↓] theorem memOk_dealNext (s : State) (core) : (s.dealNext core).memOk ↔ s.memOk := by simp [State.dealNext]

@[simp ↓] theorem memOk_enterCore (s : State) (core l) : (s.enterCore core l).memOk ↔ s.memOk := by
  unfold State.enterCore
  dsimp only
  split
  · rfl
  · split <;> simp

@[simp ↓] theorem memOk_leaveCore (s : State) (core l) : (s.leaveCore core l).memOk ↔ s.memOk := by simp [State.leaveCore]

@[simp ↓] theorem memOk_bondTidy (s : State) (bk) : (s.bondTidy bk).memOk ↔ s.memOk := by
  unfold State.bondTidy
  split <;> simp

@[simp ↓] theorem memOk_dropUnissued (s : State) (bk) : (s.dropUnissued bk).memOk ↔ s.memOk := by
  unfold State.dropUnissued
  split
  · rfl
  · dsimp only
    split <;> split <;> simp

@[simp ↓] theorem memOk_loseBond (s : State) (bk) : (s.loseBond bk).memOk ↔ s.memOk := by
  unfold State.loseBond
  split <;> simp

@[simp ↓] theorem memOk_endLeases (s : State) (gk mask) : (s.endLeases gk mask).memOk ↔ s.memOk := by
  unfold State.endLeases
  split <;> simp

@[simp ↓] theorem memOk_bindShare (s : State) (bk m sh) : (s.bindShare bk m sh).memOk ↔ s.memOk := by
  unfold State.bindShare
  dsimp only
  split <;> simp

@[simp ↓] theorem memOk_issueMma (s : State) (k e act kind w i) : (s.issueMma k e act kind w i).memOk ↔ s.memOk := by
  unfold State.issueMma
  extract_lets g st
  split
  · simp
  · extract_lets p size latched data aux record mine
    split
    · simp
    · split
      · simp
      · split
        · simp
        · split
          · simp
          · have hrecord (t : State) (b : Bool) : (record t b).2.memOk ↔ t.memOk := by simp [record]
            clear_value record
            split
            · exact hrecord s false
            · extract_lets m
              split
              · split
                · exact hrecord s false
                · exact (memOk_mxReport ..).trans (hrecord s false)
              · split
                · simp
                · split
                  · simp
                  · split
                    · simp
                    · exact (memOk_bindShare ..).trans (hrecord s true)

@[simp ↓] theorem memOk_runMma {s : State} (h : s.memOk) (k kind w i) : (s.runMma k kind w i).memOk :=
  memOk_runWord h fun e act t ht => by simp [ht]

@[simp ↓] theorem memOk_multiply (s : State) (r) : (s.multiply r).memOk ↔ s.memOk := by simp [State.multiply]

@[simp ↓] theorem memOk_roundGrant (s : State) (bk m) : (s.roundGrant bk m).memOk ↔ s.memOk := by
  unfold State.roundGrant
  repeat' split
  all_goals simp

@[simp ↓] theorem memOk_roundIssue (s : State) (bk) : (s.roundIssue bk).memOk ↔ s.memOk := by
  unfold State.roundIssue
  repeat' split
  all_goals simp

@[simp ↓] theorem memOk_roundComplete (s : State) (bk) : (s.roundComplete bk).memOk ↔ s.memOk := by
  unfold State.roundComplete
  split
  · rfl
  · split
    · rfl
    · extract_lets ms finish struck
      have hfinish (t : State) (rep : Word) : (finish t rep).memOk ↔ t.memOk := by simp [finish]
      clear_value finish
      split
      · exact hfinish s _
      · split
        · exact hfinish s _
        · split
          rename_i e
          simpa [hfinish] using memOk_iff_of_fst e (memOk_foldl_fst_iff (fun t b x => by simp) _ _)

@[simp ↓] theorem memOk_startBond (s : State) (r) : (s.startBond r).memOk ↔ s.memOk := by
  unfold State.startBond
  dsimp only
  split
  · repeat' split
    all_goals simp
  · rfl

@[simp ↓] theorem memOk_moveGangs (s : State) (mv) : (s.moveGangs mv).memOk ↔ s.memOk := by simp [State.moveGangs]

@[simp ↓] theorem memOk_formBond (s : State) (bk) : (s.formBond bk).memOk ↔ s.memOk := by
  unfold State.formBond
  split
  · rfl
  · dsimp only
    repeat' split
    all_goals simp

@[simp ↓] theorem memOk_pairCohorts (s : State) (c d dir) : (s.pairCohorts c d dir).memOk ↔ s.memOk := by simp [State.pairCohorts]

@[simp ↓] theorem memOk_seamPair (s : State) (k dir) : (s.seamPair k dir).1.memOk ↔ s.memOk := by
  unfold State.seamPair
  dsimp only
  split
  · rfl
  · repeat' split
    all_goals simp

@[simp ↓] theorem memOk_modTab (s : State) (core unit f) : (s.modTab core unit f).memOk ↔ s.memOk := memOk_congr rfl

@[simp ↓] theorem memOk_bondCommand {s : State} (h : s.memOk) (k w i) : (s.bondCommand k w i).memOk :=
  memOk_runWord h fun e act t ht => by simp [ht]

@[simp ↓] theorem memOk_bondSave {s : State} (h : s.memOk) (r) : (s.bondSave r).memOk := by
  unfold State.bondSave
  dsimp only
  split <;> rename_i e <;> simp [memOk_of_fst e (by simp [h])]

@[simp ↓] theorem memOk_restoreShare (s : State) (b m q2) : (s.restoreShare b m q2).1.memOk ↔ s.memOk := by
  unfold State.restoreShare
  dsimp only
  split
  · rfl
  · split <;> rfl

@[simp ↓] theorem memOk_bondRestore (s : State) (bk b) : (s.bondRestore bk b).memOk ↔ s.memOk := by
  have hshare := memOk_restoreShare
  unfold State.bondRestore
  generalize State.restoreShare = restore at hshare ⊢
  -- a lemma of its own, so that the kernel never evaluates the restored share's words
  as_aux_lemma =>
    extract_lets ops
    split
    rename_i e
    simpa using memOk_iff_of_fst e (memOk_foldl_fst_iff (fun t b x => by simp [hshare]) _ _)

@[simp ↓] theorem memOk_regrantNext (s : State) (bk b) : (s.regrantNext bk b).memOk ↔ s.memOk := by
  unfold State.regrantNext
  split
  · simp
  · refine (memOk_convCheck ..).trans <| (memOk_foldl_iff (fun t gk => ?_) _ _).trans (memOk_modBond ..)
    split <;> simp

@[simp ↓] theorem memOk_bondResume {s : State} (h : s.memOk) (r) : (s.bondResume r).memOk := by
  unfold State.bondResume
  dsimp only
  split
  · split <;> simp [h]
  · split <;> rename_i e <;> have hs := memOk_of_fst e (by simp [h])
    · split
      · simp [hs]
      · split
        · simp [hs]
        · split
          · refine (memOk_modBond ..).2 <| (memOk_loseBond ..).2 <| (memOk_foldl_iff (fun t gk => ?_) _ _).2 (by simp [hs])
            split <;> simp
          · simp [hs]
    · simp [hs]

@[simp ↓] theorem memOk_stopBond (s : State) (bk) : (s.stopBond bk).memOk ↔ s.memOk := by
  unfold State.stopBond
  split <;> simp

@[simp ↓] theorem memOk_surrenderNext (s : State) (bk b) : (s.surrenderNext bk b).memOk ↔ s.memOk := by
  unfold State.surrenderNext
  split <;> simp

@[simp ↓] theorem memOk_mxUnit {s : State} (h : s.memOk) (r) : (s.mxUnit r).memOk := by
  unfold State.mxUnit
  dsimp only
  split
  · exact h
  · split <;> simp [h]

end Sys2Proof.Machine
end

section
/-! SUPPORT. O60, sixth part: the copy engine, the search engine and what an acceptance does. -/

namespace Sys2Proof.Machine

open Sys2Proof

/-- Of a choice, both states keep the form. -/
theorem memOk_of_ite {c : Prop} [Decidable c] {s t : State} (hs : s.memOk) (ht : t.memOk) : (if c then s else t).memOk := by
  split
  · exact hs
  · exact ht

@[simp ↓] theorem memOk_issueCe (s : State) (k e act w i al) : (s.issueCe k e act w i al).memOk ↔ s.memOk := by
  unfold State.issueCe
  dsimp only
  split <;> simp

@[simp ↓] theorem memOk_promotedOf {s : State} (h : s.memOk) (q x) : (s.promotedOf q x).1.memOk := by
  refine memOk_foldl_fst h fun s g i hs => ?_
  dsimp only
  split
  · split <;> rename_i e <;> exact memOk_of_fst e (by simp [hs])
  · exact hs

@[simp ↓] theorem memOk_loadRec {s : State} (h : s.memOk) (o va) : (s.loadRec o va).1.memOk := by
  unfold State.loadRec
  split <;> rename_i e <;> have hs := memOk_of_fst e (by simp [h])
  · split
    · exact hs
    · split <;> rename_i e <;> exact memOk_of_fst e (by simp [hs])
  · exact hs

@[simp ↓] theorem memOk_readPlaces {s : State} (h : s.memOk) (o ps) : (s.readPlaces o ps).1.memOk := by
  refine memOk_foldl_fst h fun s g p hs => ?_
  dsimp only
  split
  · split
    · exact hs
    · split
      · next e => exact memOk_of_fst e (by simp [hs])
      · simp [hs]
  · exact hs

@[simp ↓] theorem memOk_putElems {s : State} (h : s.memOk) (o x targets ps vs) : (s.putElems o x targets ps vs).1.memOk := by
  unfold State.putElems
  dsimp only
  split
  · next e => simp [memOk_of_fst e (by simp [h])]
  · simp [h]

@[simp ↓] theorem memOk_ceStop (s : State) (r g) : (s.ceStop r g).memOk ↔ s.memOk := by
  unfold State.ceStop
  split <;> simp

@[simp ↓] theorem memOk_ceRefuse (s : State) (r d) : (s.ceRefuse r d).memOk ↔ s.memOk := by simp [State.ceRefuse]

@[simp ↓] theorem memOk_ceDone (s : State) (r n) : (s.ceDone r n).memOk ↔ s.memOk := by simp [State.ceDone]

/-- What goes on with two records keeps the form where the operation behind it does. -/
theorem memOk_loadTwo {s : State} {r a b} {go : State → List Word → List Word → State} (h : s.memOk)
    (hgo : ∀ t x y, t.memOk → (go t x y).memOk) : (s.loadTwo r a b go).memOk := by
  unfold State.loadTwo
  dsimp only
  split <;> rename_i e <;> have hs := memOk_of_fst e (by simp [h])
  · simp [hs]
  · split <;> rename_i e <;> have hs := memOk_of_fst e (by simp [hs])
    · simp [hs]
    · exact hgo _ _ _ hs

@[simp ↓] theorem memOk_ceBegin (s : State) (r a b gen) : (s.ceBegin r a b gen).memOk ↔ s.memOk := by simp [State.ceBegin]

/-! ### Moves by rows -/

/-- Both halves of a move keep the memories' form. -/
structure RowMove.Keeps (m : RowMove) : Prop where
  read : ∀ s u, s.memOk → (m.read s u).1.memOk
  write : ∀ s u b gen, s.memOk → (m.write s u b gen).1.memOk

@[simp ↓] theorem memOk_keepSource (s : State) (r m meets) : (s.keepSource r m meets).memOk ↔ s.memOk := by
  unfold State.keepSource
  split <;> simp

@[simp ↓] theorem memOk_mixRow (s : State) (o m now) : (s.mixRow o m now).1.memOk ↔ s.memOk := by
  unfold State.mixRow
  split
  · rfl
  · simp

theorem memOk_moveRow {s : State} {m : RowMove} (h : s.memOk) (hm : m.Keeps) (r) : (s.moveRow r m).memOk := by
  unfold State.moveRow
  dsimp only
  split <;> rename_i e <;> have hs := memOk_of_fst e (hm.read _ _ h)
  · split <;> rename_i e <;> have hs := memOk_of_fst e (hm.write _ _ _ _ (by simp [hs])) <;> simp [hs]
  · simp [hs]

@[simp ↓] theorem memOk_gatherRead {s : State} (h : s.memOk) (o va n) : (s.gatherRead o va n).1.memOk := by
  unfold State.gatherRead
  dsimp only
  split <;> rename_i e <;> have hs := memOk_of_fst e (by simp [h])
  · simp [hs]
  · exact hs
  · exact hs

theorem copyMove_keeps (o : AsyncOp) (w targets) : (o.copyMove w targets).Keeps where
  read s u hs := by simp [AsyncOp.copyMove, hs]
  write s u b gen hs := by simp [AsyncOp.copyMove, hs]

theorem gatherMove_keeps (o : AsyncOp) (w) : (o.gatherMove w).Keeps where
  read s u hs := by
    refine memOk_foldl_fst hs fun s g k hs => ?_
    dsimp only
    split
    · split
      · next e => exact memOk_of_fst e (by simp [hs])
      · simp [hs]
    · exact hs
  write s u b gen hs := by simp [AsyncOp.gatherMove, hs]

@[simp ↓] theorem memOk_startCopy {s : State} (h : s.memOk) (r w mcast) : (s.startCopy r w mcast).memOk := by
  unfold State.startCopy
  dsimp only
  split
  · simp [h]
  · exact memOk_loadTwo h fun t x y ht => by simp [ht]

@[simp ↓] theorem memOk_copyRow {s : State} (h : s.memOk) (r w targets) : (s.copyRow r w targets).memOk :=
  memOk_moveRow h (copyMove_keeps ..) r

@[simp ↓] theorem memOk_noteGather (s : State) (p stack d pat a) : (s.noteGather p stack d pat a).memOk ↔ s.memOk := by
  simp [State.noteGather]

@[simp ↓] theorem memOk_gatherRefuse (s : State) (r d pat a stack) : (s.gatherRefuse r d pat a stack).memOk ↔ s.memOk := by
  simp [State.gatherRefuse]

@[simp ↓] theorem memOk_sgpatNow (s : State) (r w) : (s.sgpatNow r w).memOk ↔ s.memOk := by simp [State.sgpatNow]

@[simp ↓] theorem memOk_sgpatDrop (s : State) (r w) : (s.sgpatDrop r w).memOk ↔ s.memOk := by simp [State.sgpatDrop]

@[simp ↓] theorem memOk_startGather {s : State} (h : s.memOk) (r w) : (s.startGather r w).memOk := by
  unfold State.startGather
  dsimp only
  split
  · simp [h]
  · split <;> rename_i e <;> have hs := memOk_of_fst e (by simp [h])
    · simp [hs]
    · split
      · simp [hs]
      · split
        · simp [hs]
        · split
          · simp [hs]
          · generalize hp : List.foldl _ (_, none) _ = p
            have hs : p.1.memOk := by
              rw [← hp]
              refine memOk_foldl_fst hs fun t g k ht => ?_
              split
              · exact ht
              · split <;> rename_i e <;> exact memOk_of_fst e (by simp [ht])
            split <;> simp [hs]

@[simp ↓] theorem memOk_gatherRow {s : State} (h : s.memOk) (r w) : (s.gatherRow r w).memOk := memOk_moveRow h (gatherMove_keeps ..) r

@[simp ↓] theorem memOk_startFill {s : State} (h : s.memOk) (r) : (s.startFill r).memOk := by
  unfold State.startFill
  dsimp only
  split <;> rename_i e <;> simp [memOk_of_fst e (by simp [h])]

@[simp ↓] theorem memOk_fillRow {s : State} (h : s.memOk) (r) : (s.fillRow r).memOk := by
  unfold State.fillRow
  dsimp only
  split <;> rename_i e <;> simp [memOk_of_fst e (by simp [h])]

@[simp ↓] theorem memOk_startQuant {s : State} (h : s.memOk) (r w tdq) : (s.startQuant r w tdq).memOk := by
  refine memOk_loadTwo h fun t x y ht => ?_
  dsimp only
  refine memOk_of_ite (by simp [ht]) <| memOk_of_ite (by simp [ht]) <| memOk_of_ite (by simp [ht]) <|
    memOk_of_ite (by simp [ht]) ?_
  split <;> rename_i e <;> simp [memOk_of_fst e (by simp [ht])]

@[simp ↓] theorem memOk_quantUnit {s : State} (h : s.memOk) (r w) : (s.quantUnit r w).memOk := by
  unfold State.quantUnit
  dsimp only
  split <;> rename_i e <;> have hs := memOk_of_fst e (by simp [h])
  · split
    · split <;> rename_i e <;> simp [memOk_of_fst e (by simp [hs])]
    · split <;> rename_i e <;> simp [memOk_of_fst e (by simp [hs])]
  · simp [hs]

@[simp ↓] theorem memOk_dequantUnit {s : State} (h : s.memOk) (r w) : (s.dequantUnit r w).memOk := by
  unfold State.dequantUnit
  dsimp only
  split <;> rename_i e <;> have hs := memOk_of_fst e (by simp [h])
  · refine memOk_of_ite (by simp [hs]) ?_
    split <;> rename_i e <;> have hs := memOk_of_fst e (by simp [hs])
    · split <;> rename_i e <;> simp [memOk_of_fst e (by simp [hs])]
    · simp [hs]
  · simp [hs]

/-! ### Storage and prefetches -/

@[simp ↓] theorem memOk_setStor (s : State) (p e f) : (s.setStor p e f).memOk ↔ s.memOk := memOk_congr rfl

@[simp ↓] theorem memOk_storSubmit {s : State} (h : s.memOk) (r e store fua) : (s.storSubmit r e store fua).memOk := by
  unfold State.storSubmit
  dsimp only
  split
  · simp [h]
  · split
    · simp [h]
    · split
      · simp [h]
      · split
        · simp [h]
        · generalize hp : List.foldl _ (_, Sum.inl []) _ = p
          have hs : p.1.memOk := by
            rw [← hp]
            refine memOk_foldl_fst h fun t g e ht => ?_
            split
            · split <;> rename_i e <;> exact memOk_of_fst e (by simp [ht])
            · exact ht
          split <;> simp [hs]

@[simp ↓] theorem memOk_storLand {s : State} (h : s.memOk) (places bs all) : (s.storLand places bs all).memOk := by
  refine memOk_foldl_fst h fun s b p hs => ?_
  dsimp only
  split
  · simp [hs]
  · exact memOk_foldl (by simp [hs]) fun s i hs => by simp [hs]

@[simp ↓] theorem memOk_storDone (s : State) (r i st) : (s.storDone r i st).memOk ↔ s.memOk := by simp [State.storDone]

@[simp ↓] theorem memOk_prefetchUnit {s : State} (h : s.memOk) (r w) : (s.prefetchUnit r w).memOk := by
  unfold State.prefetchUnit
  dsimp only
  split
  · split <;> rename_i e <;> simp [memOk_of_fst e (by simp [h])]
  · split
    · simp [h]
    · split
      · split <;> rename_i e <;> simp [memOk_of_fst e (by simp [h])]
      · simp [h]

@[simp ↓] theorem memOk_copyStep {s : State} (h : s.memOk) (r) : (s.copyStep r).memOk := by
  unfold State.copyStep
  dsimp only
  split
  case h_2 => split
              · simp [h]
              · split <;> simp [h]
  all_goals simp [h]

@[simp ↓] theorem memOk_copyUnit {s : State} (h : s.memOk) (r) : (s.copyUnit r).memOk := by simp [State.copyUnit, h]

/-! ### The search engine -/

@[simp ↓] theorem memOk_modList (s : State) (wk f) : (s.modList wk f).memOk ↔ s.memOk := by simp [State.modList]

@[simp ↓] theorem memOk_unlessMerging (s : State) (k e f) :
    (s.unlessMerging k e f).memOk ↔ if s.merging k.wk then s.memOk else (f s).memOk := by simp [State.unlessMerging]

@[simp ↓] theorem memOk_issueMerge (s : State) (k e w i) : (s.issueMerge k e w i).memOk ↔ s.memOk := by simp [State.issueMerge]

@[simp ↓] theorem memOk_runImage {s : State} (h : s.memOk) (k w sub i) : (s.runImage k w sub i).memOk :=
  memOk_runWord h fun e act t ht => by simp [ht]

@[simp ↓] theorem memOk_nnPlaces {s : State} (h : s.memOk) (q va n k) : (s.nnPlaces q va n k).1.memOk := by
  refine memOk_foldl_fst h fun s g e hs => ?_
  dsimp only
  split
  · exact hs
  · split <;> rename_i e <;> have hs := memOk_of_fst e (by simp [hs])
    · simp [hs]
    · exact hs
    · exact hs

@[simp ↓] theorem memOk_nnRead {s : State} (h : s.memOk) (q va n) : (s.nnRead q va n).1.memOk := by
  unfold State.nnRead
  split <;> rename_i e <;> simp [memOk_of_fst e (by simp [h])]

@[simp ↓] theorem memOk_nnStop (s : State) (r i g) : (s.nnStop r i g).memOk ↔ s.memOk := by
  unfold State.nnStop
  split <;> simp

@[simp ↓] theorem memOk_gdistPut {s : State} (h : s.memOk) (r glob v) : (s.gdistPut r glob v).memOk := by
  unfold State.gdistPut
  extract_lets o i done
  have hdone (t : State) : (done t).memOk ↔ t.memOk := by simp [done]
  clear_value done
  split
  · simp [hdone, h]
  · split <;> rename_i e <;> simp [hdone, memOk_of_fst e (by simp [h])]

@[simp ↓] theorem memOk_gdistCandidate {s : State} (h : s.memOk) (r) : (s.gdistCandidate r).memOk := by
  unfold State.gdistCandidate
  dsimp only
  split
  · split
    · exact h
    · split
      · simp [h]
      · split <;> rename_i e <;> simp [memOk_of_fst e (by simp [h])]
  · exact h

@[simp ↓] theorem memOk_storeImage {s : State} (h : s.memOk) (r a bs) : (s.storeImage r a bs).memOk := by
  unfold State.storeImage
  dsimp only
  split <;> rename_i e <;> have hs := memOk_of_fst e (by simp [h])
  · simp [hs]
  · simp [hs]
  · exact (memOk_nnStop ..).2 (memOk_foldl (by simp [hs]) fun s e hs => by simp [hs])

@[simp ↓] theorem memOk_loadImage {s : State} (h : s.memOk) (r a) : (s.loadImage r a).memOk := by
  unfold State.loadImage
  dsimp only
  split <;> rename_i e <;> have hs := memOk_of_fst e (by simp [h])
  · split <;> rename_i e <;> simp [memOk_of_fst e (by simp [hs])]
  · simp [hs]

@[simp ↓] theorem memOk_tkmrgResolve {s : State} (h : s.memOk) (r) : (s.tkmrgResolve r).memOk := by
  unfold State.tkmrgResolve
  dsimp only
  split
  · exact h
  · split <;> simp [h]

/-! ### Acceptance -/

@[simp ↓] theorem memOk_onAccept {s : State} (h : s.memOk) (r) : (s.onAccept r).memOk := by
  unfold State.onAccept
  split <;> simp [h]

@[simp ↓] theorem memOk_acceptTurn (s : State) (r) : (s.acceptTurn r).memOk ↔ s.memOk := by
  unfold State.acceptTurn
  dsimp only
  split <;> simp

@[simp ↓] theorem memOk_takeUp {s : State} (h : s.memOk) (r) : (s.takeUp r).memOk := by simp [State.takeUp, h]

end Sys2Proof.Machine
end

section
/-! SUPPORT. O60, seventh part: queues, packets, dispatch, tiles and preemption. -/

namespace Sys2Proof.Machine

open Sys2Proof

/-! ### Queues and their slots -/

@[simp ↓] theorem memOk_putDesc {s : State} (h : s.memOk) (p q o v) : (s.putDesc p q o v).memOk := by simp [State.putDesc, h]

@[simp ↓] theorem memOk_queueError (s : State) (p q) : (s.queueError p q).memOk ↔ s.memOk := by simp [State.queueError]

@[simp ↓] theorem memOk_putPacket {s : State} (h : s.memOk) (l) : (s.putPacket l).memOk := by simp [State.putPacket, h]

@[simp ↓] theorem memOk_setPending (s : State) (p q w) : (s.setPending p q w).memOk ↔ s.memOk := by simp [State.setPending]

@[simp ↓] theorem memOk_kick {s : State} (h : s.memOk) (p q width w) : (s.kick p q width w).memOk := by
  unfold State.kick
  split
  · simp [h]
  · split
    · simp [h]
    · split <;> rename_i e <;> simp [memOk_of_fst e (by simp [h])]

@[simp ↓] theorem memOk_unmapSlot {s : State} (h : s.memOk) (n) : (s.unmapSlot n).memOk := by
  unfold State.unmapSlot
  split
  · exact h
  · dsimp only
    split <;> simp [h]

@[simp ↓] theorem memOk_evictSlot {s : State} (h : s.memOk) (n) : (s.evictSlot n).memOk := by
  unfold State.evictSlot
  split <;> simp [h]

theorem memOk_of_roomForQueue {s t : State} {p n} (h : s.memOk) (e : s.roomForQueue p = some (n, t)) : t.memOk := by
  unfold State.roomForQueue at e
  dsimp only at e
  split at e
  · cases e
    exact h
  · obtain ⟨k, -, hk⟩ := Option.map_eq_some_iff.mp e
    cases hk
    simp [h]

@[simp ↓] theorem memOk_loadSlot (s : State) (n x w b) : (s.loadSlot n x w b).memOk ↔ s.memOk := memOk_congr rfl

@[simp ↓] theorem memOk_mapQueue {s : State} (h : s.memOk) (p q) : (s.mapQueue p q).memOk := by
  unfold State.mapQueue
  split
  · exact h
  · dsimp only
    split
    · exact h
    · split <;> rename_i e <;> have hs := memOk_of_fst e (by simp [h])
      · simp [hs]
      · simp [hs]
      · refine memOk_of_ite (by simp [hs]) ?_
        split
        · exact hs
        · next e => simp [memOk_of_roomForQueue hs e]

@[simp ↓] theorem memOk_takePacket {s : State} (h : s.memOk) (n) : (s.takePacket n).memOk := by
  unfold State.takePacket
  split
  · exact h
  · dsimp only
    split
    · exact h
    · split <;> rename_i e <;> simp [memOk_of_fst e (by simp [h])]

/-! ### Prologues and packets -/

/-- A word of a prologue keeps the form where its effect does. -/
theorem outOk_prologueOnly {s : State} {f : Nat → Prologue → State} (h : s.memOk) (hf : ∀ p x, (f p x).memOk) :
    outOk (prologueOnly s f) := by
  unfold prologueOnly
  split
  · split
    · exact hf _ _
    · trivial
  · exact outOk_onWeave fun k => by simp [h]

@[simp ↓] theorem memOk_setPacketQword {s : State} (h : s.memOk) (l k v) : (s.setPacketQword l k v).memOk := by
  simp [State.setPacketQword, h]

@[simp ↓] theorem memOk_amended (s : State) (p l again) : (s.amended p l again).memOk ↔ s.memOk := by simp [State.amended]

@[simp ↓] theorem memOk_startPrologue {s : State} (h : s.memOk) (l) : (s.startPrologue l).memOk := by
  simp [State.startPrologue, h]

@[simp ↓] theorem memOk_checkPipe {s : State} (h : s.memOk) (l) : (s.checkPipe l).1.memOk := by
  unfold State.checkPipe
  dsimp only
  split
  · exact h
  · split <;> rename_i e <;> have hs := memOk_of_fst e (by simp [h])
    · exact hs
    · simp [hs]
    · split
      · exact hs
      · split <;> rename_i e <;> simp [memOk_of_fst e (by simp [hs])]

@[simp ↓] theorem memOk_checkPacket {s : State} (h : s.memOk) (l) : (s.checkPacket l).1.memOk := by
  unfold State.checkPacket
  dsimp only
  split
  case h_6 =>
    split
    · exact h
    · split
      · next e => simp [memOk_of_fst e (by simp [h])]
      · simp [h]
  all_goals simp [h]

@[simp ↓] theorem memOk_depMet {s : State} (h : s.memOk) (l i) : (s.depMet l i).memOk := by simp [State.depMet, h]

@[simp ↓] theorem memOk_depEval {s : State} (h : s.memOk) (l i) : (s.depEval l i).memOk := by
  unfold State.depEval
  dsimp only
  split
  · exact h
  · split <;> rename_i e <;> simp [memOk_of_fst e (by simp [h])]

@[simp ↓] theorem memOk_startDeps {s : State} (h : s.memOk) (l) : (s.startDeps l).memOk :=
  memOk_foldl (by simp [h]) fun s i hs => by simp [hs]

@[simp ↓] theorem memOk_bindLaunch (s : State) (l) : (s.bindLaunch l).1.memOk ↔ s.memOk := by
  unfold State.bindLaunch
  dsimp only
  split <;> simp

@[simp ↓] theorem memOk_freeStream (s : State) (l) : (s.freeStream l).memOk ↔ s.memOk := by simp [State.freeStream]

@[simp ↓] theorem memOk_settle {s : State} (h : s.memOk) (l) : (s.settle l).memOk := by simp [State.settle, h]

@[simp ↓] theorem memOk_awaitStream {s : State} (h : s.memOk) (l bind) : (s.awaitStream l bind).memOk := by
  unfold State.awaitStream
  dsimp only
  split
  · exact h
  · generalize hp : ite ((s.launch l).allMet = true) _ _ = p
    have hs : p.1.memOk := by
      rw [← hp]
      simp [h]
    simp [hs]

theorem memOk_processPacket {s : State} {l} {go : State → State} (h : s.memOk) (hgo : ∀ t, t.memOk → (go t).memOk) :
    (s.processPacket l go).memOk := by
  unfold State.processPacket
  dsimp only
  split
  · exact h
  · split
    · exact hgo s h
    · split <;> rename_i e <;> have hs := memOk_of_fst e (by simp [h])
      · simp [hs]
      · exact hs
      · have hstage {c d : Prop} [Decidable c] [Decidable d] {t u : State} (ht : t.memOk) (hu : u.memOk) :
            (if d then (if c then t else u) else (if c then t else u).startDeps l).memOk := by simp [ht, hu]
        exact memOk_of_ite (hstage (by simp [hs]) (by simp [hs])) (hgo _ (hstage (by simp [hs]) (by simp [hs])))

/-- The step of a packet keeps the form where what it goes on with does. -/
theorem outOk_packetOfType {s : State} {l ty} {go : State → State} (h : s.memOk) (hgo : ∀ t, t.memOk → (go t).memOk) :
    outOk (s.packetOfType l ty go) := by
  show State.memOk _
  split
  · split
    · exact memOk_processPacket h hgo
    · exact h
  · exact h

/-! ### Dispatch -/

@[simp ↓] theorem memOk_startGang (s : State) (l g core exact) : (s.startGang l g core exact).memOk ↔ s.memOk := by
  unfold State.startGang
  dsimp only
  split <;> simp

@[simp ↓] theorem memOk_endOrders (s : State) (l) : (s.endOrders l).memOk ↔ s.memOk := by simp [State.endOrders]

@[simp ↓] theorem memOk_allDispatched {s : State} (h : s.memOk) (l) : (s.allDispatched l).memOk := by simp [State.allDispatched, h]

@[simp ↓] theorem memOk_openTile (s : State) (l g) : (s.openTile l g).memOk ↔ s.memOk := by simp [State.openTile]

@[simp ↓] theorem memOk_dispatchGang {s : State} (h : s.memOk) (l g core exact) : (s.dispatchGang l g core exact).memOk := by
  simp [State.dispatchGang, h]

@[simp ↓] theorem memOk_dispatchBound {s : State} (h : s.memOk) (l r) : (s.dispatchBound l r).memOk :=
  memOk_allDispatched (putRecord_memOk (by simp [h]) l) l

@[simp ↓] theorem memOk_loseHeld (s : State) (gk) : (s.loseHeld gk).memOk ↔ s.memOk := by
  unfold State.loseHeld
  split <;> simp

@[simp ↓] theorem memOk_endPairing (s : State) (c) : (s.endPairing c).memOk ↔ s.memOk := by simp [State.endPairing]

/-! ### Tiles and the end of a run -/

@[simp ↓] theorem memOk_putTile {s : State} (h : s.memOk) (l t) : (s.putTile l t).memOk := by
  unfold State.putTile
  extract_lets x st
  simp [h]

@[simp ↓] theorem memOk_exactDone {s : State} (h : s.memOk) (l t) : (s.exactDone l t).memOk := by
  unfold State.exactDone
  dsimp only
  split <;> simp [h]

@[simp ↓] theorem memOk_leaveGang (s : State) (gk) : (s.leaveGang gk).memOk ↔ s.memOk := by simp [State.leaveGang]

@[simp ↓] theorem memOk_endBond (s : State) (gk) : (s.endBond gk).memOk ↔ s.memOk := by
  unfold State.endBond
  split <;> simp

@[simp ↓] theorem memOk_tileDecided {s : State} (h : s.memOk) (l t y) : (s.tileDecided l t y).memOk :=
  memOk_settle (memOk_allDispatched (feAdd_memOk (putRecord_memOk (memOk_putTile (by simp [h]) ..) _) ..) _) _

@[simp ↓] theorem memOk_clearRun (s : State) (l) : (s.clearRun l).memOk ↔ s.memOk := by simp [State.clearRun]

@[simp ↓] theorem memOk_failRest {s : State} (h : s.memOk) (l) : (s.failRest l).memOk := by
  unfold State.failRest
  dsimp only
  split
  · exact h
  · exact memOk_foldl h fun s t hs => by split <;> simp [hs]

@[simp ↓] theorem memOk_putCompletion {s : State} (h : s.memOk) (l) : (s.putCompletion l).memOk := by simp [State.putCompletion, h]

/-! ### Preemption -/

@[simp ↓] theorem memOk_orderQueue {s : State} (h : s.memOk) (p q cause) : (s.orderQueue p q cause).memOk :=
  memOk_foldl (by simp [h]) fun s l hs => by simp [hs]

@[simp ↓] theorem memOk_placeAreas (s : State) (gs at_) : (s.placeAreas gs at_).1.memOk ↔ s.memOk :=
  memOk_foldl_fst_iff (fun s a gk => by simp) _ _

@[simp ↓] theorem memOk_escalate {s : State} (h : s.memOk) (l) : (s.escalate l).memOk := by
  unfold State.escalate
  dsimp only
  split
  · exact h
  · split
    · simp [h]
    · split <;> rename_i e <;> have hs := memOk_of_fst e (by simp [h])
      · generalize hp : State.placeAreas _ _ _ = p
        have ht : p.1.memOk := by
          rw [← hp]
          simp [hs]
        split
        · simp [hs]
        · refine memOk_foldl ((memOk_modLaunch ..).2 (memOk_foldl ht fun t gk ht => ?_)) fun t gk ht => by simp [ht]
          split <;> simp [ht]
      · simp [hs]

@[simp ↓] theorem memOk_takeBack (s : State) (wk) : (s.takeBack wk).memOk ↔ s.memOk := by simp [State.takeBack]

@[simp ↓] theorem memOk_trapWeave {s : State} (h : s.memOk) (wk) : (s.trapWeave wk).memOk := by simp [State.trapWeave, h]

@[simp ↓] theorem memOk_writeBlocks {s : State} (h : s.memOk) (gk) : (s.writeBlocks gk).memOk :=
  memOk_engWrite (memOk_engWrite (memOk_engWrite h ..) ..) ..

@[simp ↓] theorem memOk_putBlocks {s : State} (h : s.memOk) (gk) : (s.putBlocks gk).memOk := by simp [State.putBlocks, h]

@[simp ↓] theorem memOk_trapGang {s : State} (h : s.memOk) (gk) : (s.trapGang gk).memOk := by
  refine memOk_putBlocks ?_ gk
  exact memOk_foldl (f := State.trapWeave) (by simp [h]) fun s wk hs => memOk_trapWeave hs wk

@[simp ↓] theorem memOk_saveGang {s : State} (h : s.memOk) (gk) : (s.saveGang gk).memOk := by simp [State.saveGang, h]

@[simp ↓] theorem memOk_reloadCopies {s : State} (h : s.memOk) (gk) : (s.reloadCopies gk).memOk := by
  unfold State.reloadCopies
  dsimp only
  split <;> rename_i e <;> have hs := memOk_of_fst e (by simp [h])
  · split <;> rename_i e <;> simp [memOk_of_fst e (by simp [hs])]
  · exact hs

@[simp ↓] theorem memOk_restoreGang {s : State} (h : s.memOk) (v core) : (s.restoreGang v core).memOk := by
  simp [State.restoreGang, h]

@[simp ↓] theorem memOk_reopenCohort (s : State) (ck cl) : (s.reopenCohort ck cl).memOk ↔ s.memOk := by simp [State.reopenCohort]

/-- A state that an attempt may give keeps the form. -/
def attemptOk (o : Option State) : Prop := ∀ t, o = some t → t.memOk

@[simp] theorem attemptOk_none : attemptOk none := fun _ e => nomatch e
@[simp] theorem attemptOk_some (t : State) : attemptOk (some t) ↔ t.memOk := ⟨fun h => h t rfl, fun h _ e => Option.some.inj e ▸ h⟩

theorem attemptOk_bind {o : Option State} {f : State → Option State} (ho : attemptOk o) (hf : ∀ t, t.memOk → attemptOk (f t)) :
    attemptOk (o.bind f) := by
  cases o with
  | none => exact attemptOk_none
  | some t => exact hf t (ho t rfl)

theorem attemptOk_foldl {α : Type} {f : Option State → α → Option State} {xs : List α} {o : Option State} (ho : attemptOk o)
    (hf : ∀ o x, attemptOk o → attemptOk (f o x)) : attemptOk (xs.foldl f o) := foldl_inv attemptOk f hf xs o ho

theorem attemptOk_restoreUnit {s : State} (h : s.memOk) (vs plan cores) : attemptOk (s.restoreUnit vs plan cores) := by
  unfold State.restoreUnit
  refine attemptOk_foldl (by simp [h]) fun o v ho => attemptOk_bind ho fun t ht => ?_
  dsimp only
  split
  · split
    · simp [ht]
    · exact attemptOk_none
  · intro u hu
    obtain ⟨k, -, rfl⟩ := Option.map_eq_some_iff.mp hu
    simp [ht]

theorem attemptOk_resumeUnit {s : State} (h : s.memOk) (vs home) : attemptOk (s.resumeUnit vs home) := by
  intro u hu
  obtain ⟨w, -, hw⟩ := Option.bind_eq_some_iff.mp hu
  exact attemptOk_restoreUnit (by simp [h]) _ _ _ u hw

theorem attemptOk_restoreAll {s : State} (h : s.memOk) (l) : attemptOk (s.restoreAll l) := by
  unfold State.restoreAll
  dsimp only
  split
  · split
    · exact (attemptOk_some _).2 (memOk_foldl (by simp [h]) fun t v ht => by simp [ht])
    · exact attemptOk_none
  · exact attemptOk_foldl (by simp [h]) fun o x ho => attemptOk_bind ho fun t ht => attemptOk_resumeUnit ht _ _

end Sys2Proof.Machine
end

section
/-! SUPPORT. O60, eighth part: partitions, the firmware, the registers and the plan of a step. -/

namespace Sys2Proof.Machine

open Sys2Proof

@[simp ↓] theorem memOk_removePartition (s : State) (p) : (s.removePartition p).memOk ↔ s.memOk := by
  simp [State.removePartition]

theorem outOk_mail {s : State} {cmd bad} {f : State → State} (h : s.memOk) (hf : ∀ t, t.memOk → (f t).memOk) :
    outOk (s.mail cmd bad f) := by
  simp [State.mail, h, hf]

theorem outOk_mailPart {s : State} {cmd bad act} {f : State → Nat → State} (h : s.memOk) (hf : ∀ t p, t.memOk → (f t p).memOk) :
    outOk (s.mailPart cmd bad act f) :=
  outOk_mail h fun t ht => by simp [ht, hf]

@[simp ↓] theorem memOk_orderAll {s : State} (h : s.memOk) (p) : (s.orderAll p).memOk :=
  memOk_foldl h fun s q hs => by simp [hs]

@[simp ↓] theorem memOk_dropOrders (s : State) (p) : (s.dropOrders p).memOk ↔ s.memOk := by simp [State.dropOrders]

@[simp ↓] theorem memOk_cutFlash (s : State) : s.cutFlash.memOk ↔ s.memOk := by simp [State.cutFlash]

@[simp ↓] theorem memOk_cold (s : State) : s.cold.memOk ↔ s.memOk := memOk_cutFlash s

@[simp ↓] theorem memOk_bootRom (s : State) : s.bootRom.memOk ↔ s.memOk := by simp [State.bootRom]

@[simp ↓] theorem memOk_train (s : State) (hbm ports expanders capacity peers) :
    (s.train hbm ports expanders capacity peers).memOk ↔ s.memOk := memOk_congr rfl

@[simp ↓] theorem memOk_senses (s : State) : s.senses.memOk ↔ s.memOk := memOk_congr rfl

@[simp ↓] theorem memOk_dataError (s : State) (wk m addr) : (s.dataError wk m addr).memOk ↔ s.memOk := by simp [State.dataError]

/-! ### Registers -/

@[simp ↓] theorem memOk_writeTrans (s : State) (p o w) : (s.writeTrans p o w).memOk ↔ s.memOk := by
  unfold State.writeTrans
  dsimp only
  split
  case h_4 =>
    split
    · rfl
    · split <;> simp
  all_goals simp

@[simp ↓] theorem memOk_writeFront (s : State) (fw p o w) : (s.writeFront fw p o w).memOk ↔ s.memOk := by
  unfold State.writeFront
  dsimp only
  split
  · simp
  · split <;> simp

@[simp ↓] theorem memOk_writePlmap (s : State) (k w) : (s.writePlmap k w).memOk ↔ s.memOk := by simp [State.writePlmap]

@[simp ↓] theorem memOk_writeControl (s : State) (p o w) : (s.writeControl p o w).memOk ↔ s.memOk := by simp [State.writeControl]

@[simp ↓] theorem memOk_writeStamp (s : State) (p o w) : (s.writeStamp p o w).memOk ↔ s.memOk := by simp [State.writeStamp]

@[simp ↓] theorem memOk_writeStatus (s : State) (o w) : (s.writeStatus o w).memOk ↔ s.memOk := by simp [State.writeStatus]

@[simp ↓] theorem memOk_writeAcc (s : State) (t o w) : (s.writeAcc t o w).memOk ↔ s.memOk := by simp [State.writeAcc]

@[simp ↓] theorem memOk_writeBar (s : State) (o w) : (s.writeBar o w).memOk ↔ s.memOk := by
  unfold State.writeBar
  dsimp only
  split
  · rfl
  · refine (memOk_ite ..).trans ?_
    split
    · simp
    · refine (memOk_ite ..).trans ?_
      split
      · simp
      · split <;> simp

@[simp ↓] theorem memOk_writeMmio (s : State) (master o n v) : (s.writeMmio master o n v).memOk ↔ s.memOk := by
  simp [State.writeMmio]

/-! ### A step's plan -/

@[simp ↓] theorem memOk_tick (s : State) : s.tick.memOk ↔ s.memOk := by simp [State.tick]

@[simp ↓] theorem memOk_plan (s : State) : s.plan.memOk ↔ s.memOk := by simp [State.plan]

end Sys2Proof.Machine
end

section
/-! SUPPORT. O60, ninth part: the words whose effect stands in cases. -/

namespace Sys2Proof.Machine

open Sys2Proof

theorem once_memOk {act} {s : State} {f : State → State} (h : s.memOk) (hf : (f s).memOk) : (once act s f).memOk := by simp [h, hf]

theorem onceReal_memOk {k act} {s : State} {f : State → State} (h : s.memOk) (hf : (f s).memOk) : (onceReal k act s f).memOk := by
  simp [h, hf]

section
variable {s : State} (h : s.memOk)
include h

/-! ### Lanes, sequencer and scratchpad -/

theorem outOk_execWred (w) : outOk (execWred w s) :=
  outOk_weaveOnly h fun k => memOk_runWord h fun e act t ht => by
    dsimp only
    split <;> simp [ht]

theorem outOk_execD2Word (hi lo) : outOk (execD2Word hi lo s) :=
  outOk_weaveOnly h fun k => memOk_runWord h fun e act t ht => by
    extract_lets reads hold
    have hhold (u x) : (hold u x).memOk ↔ u.memOk := by
      cases x <;> simp [hold]
    clear_value hold
    split
    · simp [ht]
    · generalize t.halfBlock e.w hi act = x
      obtain ⟨waitHi, badHi⟩ := x
      dsimp only
      generalize t.halfBlock e.w lo _ = y
      simp [hhold, ht]

theorem outOk_execCvdecl (w) : outOk (execCvdecl w s) :=
  outOk_word h fun k e act t ht => once_memOk ht <| by
    dsimp only
    split <;> simp [ht]

theorem outOk_execHcancel (w) : outOk (execHcancel w s) :=
  outOk_word h fun k e act t ht => once_memOk ht <| by
    split <;> simp [ht]

theorem outOk_execHmovSt (w) : outOk (execHmovSt w s) :=
  outOk_word h fun k e act t ht => once_memOk ht <| by
    dsimp only
    split <;> simp [ht]

theorem outOk_execHmovLd (w) : outOk (execHmovLd w s) :=
  outOk_word h fun k e act t ht => once_memOk ht <| by
    dsimp only
    split
    · simp [ht]
    · refine memOk_of_ite (by simp [ht]) ?_
      split <;> simp [ht]

theorem outOk_execRsend (w) : outOk (execRsend w s) :=
  outOk_word h fun k e act t ht => once_memOk ht <| by
    dsimp only
    split <;> simp [ht]

theorem outOk_execRtake (w) : outOk (execRtake w s) :=
  outOk_word h fun k e act t ht => once_memOk ht <| by
    dsimp only
    split <;> simp [ht]

theorem outOk_execRstat (w) : outOk (execRstat w s) :=
  outOk_word h fun k e act t ht => once_memOk ht <| by
    split <;> simp [ht]

theorem outOk_execRdsr (w) : outOk (execRdsr w s) :=
  outOk_weaveOnly h fun k => memOk_runWord h fun e act t ht => by
    split <;> simp [ht]

theorem outOk_execWrsr (w) : outOk (execWrsr w s) :=
  outOk_weaveOnly h fun k => memOk_runWord h fun e act t ht => by
    dsimp only
    split <;> simp [ht]

/-! ### Loads, stores and leases -/

theorem outOk_execPfl1 (w) : outOk (execPfl1 w s) :=
  outOk_word h fun k e act t ht => (memOk_advance ..).2 (memOk_foldl ht fun t l ht => by simp [ht])

theorem outOk_execPfl1Fi (w) : outOk (execPfl1Fi w s) :=
  outOk_word h fun k e act t ht => (memOk_advance ..).2 (memOk_foldl ht fun t l ht => by simp [ht])

theorem outOk_execNlease (w) : outOk (execNlease w s) :=
  outOk_weaveOnly h fun k => memOk_runWord h fun e act t ht => once_memOk ht <| by
    extract_lets n b answer
    have hanswer (u v) : (answer u v).memOk ↔ u.memOk := by simp [answer]
    clear_value answer
    split
    · simp [hanswer, ht]
    · split
      · simp [hanswer, ht]
      · split <;> simp [hanswer, ht]

theorem outOk_execNspl (w) : outOk (execNspl w s) :=
  outOk_word h fun k e act t ht => by
    dsimp only
    split <;> simp [ht]

theorem outOk_execNfil (w) : outOk (execNfil w s) :=
  outOk_word h fun k e act t ht => by
    dsimp only
    split <;> simp [ht]

theorem outOk_execPgmap (w) : outOk (execPgmap w s) :=
  outOk_weaveOnly h fun k => memOk_runWord h fun e act t ht => once_memOk ht <| by
    extract_lets va ent
    generalize State.pgmapCheck _ _ _ _ _ = x
    obtain ⟨st, at_⟩ := x
    refine (memOk_advance ..).2 <| (memOk_modWeave ..).2 <| memOk_of_ite ht <| (memOk_tlbDrop ..).2 <| memOk_foldl ht fun t i ht => ?_
    simp [ht]

theorem outOk_execPgdone (w) : outOk (execPgdone w s) :=
  outOk_weaveOnly h fun k => memOk_runWord h fun e act t ht => once_memOk ht <| by
    extract_lets n answer
    have hanswer (u v) : (answer u v).memOk ↔ u.memOk := by simp [answer]
    clear_value answer
    split <;> simp [hanswer, ht]

/-! ### Matrix words and bonds -/

theorem outOk_execTcfgCfg (w) : outOk (execTcfgCfg w s) :=
  outOk_weaveOnly h fun k => memOk_runWord h fun e act t ht => by
    dsimp only
    refine memOk_of_ite (by simp [ht]) ?_
    split <;> simp [ht]

theorem outOk_execTcfgTile (w) : outOk (execTcfgTile w s) :=
  outOk_weaveOnly h fun k => memOk_runWord h fun e act t ht => by
    dsimp only
    split <;> simp [ht]

theorem outOk_execWlatch (w) : outOk (execWlatch w s) :=
  outOk_weaveOnly h fun k => memOk_runWord h fun e act t ht => by
    dsimp only
    split
    · simp [ht]
    · refine memOk_of_ite (by simp [ht]) <| memOk_of_ite (by simp [ht]) ?_
      split <;> simp [ht]

theorem outOk_execDrain (w) : outOk (execDrain w s) :=
  outOk_weaveOnly h fun k => memOk_runWord h fun e act t ht => by
    dsimp only
    refine memOk_of_ite (by simp [ht]) <| memOk_of_ite (by simp [ht]) <| memOk_of_ite (by simp [ht]) <|
      memOk_of_ite (by simp [ht]) ?_
    split <;> simp [ht]

theorem outOk_execBlease (w) : outOk (execBlease w s) :=
  outOk_word h fun k e act t ht => onceReal_memOk ht <| by
    dsimp only
    split <;> simp [ht]

theorem outOk_execBseamPair (w) : outOk (execBseamPair w s) :=
  outOk_word h fun k e act t ht => onceReal_memOk ht <| by
    dsimp only
    split <;> rename_i e <;> simp [memOk_of_fst e (by simp [ht])]

theorem outOk_execBseamUn (w) : outOk (execBseamUn w s) :=
  outOk_word h fun k e act t ht => onceReal_memOk ht <| by
    dsimp only
    split <;> simp [ht]

/-! ### Queues, watches and residuals -/

theorem outOk_execQenq (w) : outOk (execQenq w s) :=
  outOk_word h fun k e act t ht => onceReal_memOk ht <| by
    extract_lets q r n max put
    have hput {u : State} (hu : u.memOk) : (put u).memOk := by simp [put, hu]
    clear_value put
    refine memOk_of_ite (by simp [ht]) <| memOk_of_ite (by simp [ht]) <| memOk_of_ite (by simp [ht]) <|
      memOk_of_ite (by simp [ht]) <| memOk_of_ite (by simp [ht]) <| memOk_of_ite (hput ht) ?_
    split <;> rename_i e <;> have ht := memOk_of_fst e (by simp [ht])
    · simp [ht]
    · exact hput ht

theorem outOk_execQdeq (w) : outOk (execQdeq w s) :=
  outOk_word h fun k e act t ht => onceReal_memOk ht <| by
    extract_lets q give r
    have hgive (u vs) : (give u vs).memOk ↔ u.memOk := by simp [give]
    clear_value give
    refine memOk_of_ite (by simp [ht]) <| memOk_of_ite (by simp [hgive, ht]) <| memOk_of_ite (by simp [ht]) <|
      memOk_of_ite (by simp [hgive, ht]) ?_
    split <;> rename_i e <;> have ht := memOk_of_fst e (by simp [ht]) <;> simp [hgive, ht]

theorem outOk_execQpark (w) : outOk (execQpark w s) :=
  outOk_word h fun k e act t ht => onceReal_memOk ht <| by
    extract_lets q r leave x parked
    have hleave (u) : (leave u).memOk ↔ u.memOk := by simp [leave]
    clear_value leave
    have hparked : parked.memOk := by simp [parked, hleave, ht]
    refine memOk_of_ite (by simp [ht]) <| memOk_of_ite (by simp [hleave, ht]) <| memOk_of_ite (by simp [hleave, ht]) <|
      memOk_of_ite ?_ (by simp [hparked, ht])
    split <;> rename_i e <;> have ht := memOk_of_fst e (by simp [ht]) <;> simp [hleave, ht]

theorem outOk_execWatch (w) : outOk (execWatch w s) :=
  outOk_weaveOnly h fun k => memOk_runWord h fun e act t ht => onceReal_memOk ht <| by
    dsimp only
    split <;> rename_i e <;> have ht := memOk_of_fst e (by simp [ht])
    · simp [ht]
    · simp [ht]
    · refine memOk_of_ite (by simp [ht]) <| memOk_of_ite (by simp [ht]) ?_
      split <;> rename_i e <;> simp [memOk_of_fst e (by simp [ht])]

theorem outOk_execWatchCancel (w) : outOk (execWatchCancel w s) :=
  outOk_word h fun k e act t ht => onceReal_memOk ht <| by
    dsimp only
    split <;> simp [ht]

theorem outOk_execGres (w) : outOk (execGres w s) :=
  outOk_word h fun k e act t ht => by
    dsimp only
    split <;> simp [ht]

/-! ### Search and exchange -/

theorem outOk_execGdist (w) : outOk (execGdist w s) :=
  outOk_weaveOnly h fun k => memOk_runWord h fun e act t ht => by
    split <;> simp [ht]

theorem outOk_execXstep (w) : outOk (execXstep w s) :=
  outOk_word h fun k e act t ht => by
    dsimp only
    refine memOk_of_ite (by simp [ht]) ?_
    split <;> simp [ht]

theorem outOk_execLbufcfgRx (w) : outOk (execLbufcfgRx w s) :=
  outOk_weaveOnly h fun k => memOk_runWord h fun e act t ht => onceReal_memOk ht <| by
    dsimp only
    refine memOk_of_ite (by simp [ht]) <| memOk_of_ite (by simp [ht]) <| memOk_of_ite (by simp [ht]) ?_
    split
    · simp [ht]
    · next e => simp [memOk_of_fst e (by simp [ht])]

end

end Sys2Proof.Machine
end

section
/-! SUPPORT. O60, tenth part: the events whose effect stands in cases. -/

namespace Sys2Proof.Machine

open Sys2Proof

section
variable {s : State} (h : s.memOk)
include h

/-! ### Weaves, gangs and operations -/

theorem outOk_execLlWriteback : outOk (execLlWriteback s) := by
  unfold execLlWriteback
  split <;> simp [h]

theorem outOk_execWeaveEnd : outOk (execWeaveEnd s) := by
  unfold execWeaveEnd
  dsimp only
  split <;> simp [h]

theorem outOk_execGangEnd : outOk (execGangEnd s) := by
  unfold execGangEnd
  dsimp only
  split <;> simp [h]

theorem outOk_execWindowFaultDelivery : outOk (execWindowFaultDelivery s) := by
  unfold execWindowFaultDelivery
  dsimp only
  split <;> simp [h]

theorem outOk_execPagerUpcall : outOk (execPagerUpcall s) := by
  unfold execPagerUpcall
  split
  · exact h
  · dsimp only
    refine memOk_of_ite h <| memOk_of_ite (by simp [h]) ?_
    split
    · next e => simp [memOk_of_fst e (by simp [h])]
    · exact h

theorem outOk_execRegisterWrite : outOk (execRegisterWrite s) := by
  refine memOk_of_ite (by simp [h]) <| memOk_of_ite h ?_
  split <;> simp [h]

theorem outOk_execMatrixOperationExecute : outOk (execMatrixOperationExecute s) := by
  refine (outOk_next _).2 ?_
  split <;> simp [h]

theorem outOk_execOperandLinkError : outOk (execOperandLinkError s) := by
  unfold execOperandLinkError
  dsimp only
  split <;> simp [h]

theorem outOk_execNvmeCompletion : outOk (execNvmeCompletion s) := by
  unfold execNvmeCompletion
  dsimp only
  split <;> simp [h]

theorem outOk_execNvmeTimeout : outOk (execNvmeTimeout s) := by
  unfold execNvmeTimeout
  dsimp only
  split <;> simp [h]

/-! ### Slices -/

theorem outOk_execSliceWriteRequest : outOk (execSliceWriteRequest s) :=
  (outOk_next _).2 <| memOk_foldl_fst h fun s x _ hs => by simp [hs]

theorem outOk_execSectorFillComplete : outOk (execSectorFillComplete s) := by
  unfold execSectorFillComplete
  dsimp only
  split <;> simp [h]

theorem outOk_execTileCommit : outOk (execTileCommit s) :=
  (outOk_next _).2 <| (memOk_modSlice ..).2 <| memOk_foldl h fun s e hs => by simp [hs]

/-- The host's memory takes a completed watch's bytes. -/
theorem outOk_execWatchFire : outOk (execWatchFire s) := by
  obtain ⟨hmem, hhost⟩ := h
  unfold execWatchFire
  split
  · refine memOk_of_ite ⟨hmem, ?_⟩ ⟨hmem, hhost⟩
    exact wf_memWrite _ _ hhost
  · exact ⟨hmem, hhost⟩

/-! ### Queues, packets and launches -/

theorem outOk_execSlotIdleTimeout : outOk (execSlotIdleTimeout s) := by
  refine (outOk_next _).2 ?_
  split <;> simp [h]

theorem outOk_execDispatchStreamChoice : outOk (execDispatchStreamChoice s) := by
  refine memOk_of_ite h ?_
  split <;> simp [h]

theorem outOk_execSignalPacket : outOk (execSignalPacket s) := outOk_packetOfType h fun t ht => by simp [ht]

theorem outOk_execBarrierPacket : outOk (execBarrierPacket s) := outOk_packetOfType h fun t ht => by simp [ht]

theorem outOk_execDirectPacket : outOk (execDirectPacket s) := outOk_packetOfType h fun t ht => by simp [ht]

theorem outOk_execIndirectPacket : outOk (execIndirectPacket s) := outOk_packetOfType h fun t ht => by simp [ht]

theorem outOk_execGuardedPacket : outOk (execGuardedPacket s) := outOk_packetOfType h fun t ht => by simp [ht]

theorem outOk_execWatchPacket : outOk (execWatchPacket s) :=
  outOk_packetOfType h fun t ht => by
    dsimp only
    refine memOk_of_ite ht ?_
    split <;> rename_i e <;> have ht := memOk_of_fst e (by simp [ht])
    · simp [ht]
    · simp [ht]
    · split <;> rename_i e <;> simp [memOk_of_fst e (by simp [ht])]

theorem outOk_execStitchPacket : outOk (execStitchPacket s) :=
  outOk_packetOfType h fun t ht => by
    dsimp only
    split <;> rename_i e <;> simp [memOk_of_fst e (by simp [ht])]

theorem outOk_execPrologueWordLimit : outOk (execPrologueWordLimit s) := by
  refine (outOk_next _).2 ?_
  split <;> simp [h]

theorem outOk_execPrologueRepeat : outOk (execPrologueRepeat s) := by
  unfold execPrologueRepeat
  dsimp only
  split <;> simp [h]

theorem outOk_execGangDispatch : outOk (execGangDispatch s) := by
  refine (outOk_next _).2 ?_
  split
  · exact h
  · refine memOk_of_ite h ?_
    split <;> simp [h]

theorem outOk_execLaunchCompletion : outOk (execLaunchCompletion s) := by
  refine (outOk_next _).2 ?_
  split
  · exact h
  · refine memOk_of_ite h ?_
    exact memOk_putCompletion (setStage_memOk (by simp [h]) ..) _

theorem outOk_execTileDecision : outOk (execTileDecision s) := by
  refine (outOk_next _).2 ?_
  split
  · exact h
  · refine memOk_of_ite h <| memOk_of_ite (by simp [h]) ?_
    rw [← List.foldl_reverse]
    exact memOk_foldl (by simp [h]) fun t n ht => by simp [ht]

/-! ### Preemption and system calls -/

theorem outOk_execPriorityWaitExpiry : outOk (execPriorityWaitExpiry s) := by
  refine memOk_of_ite h ?_
  split <;> simp [h]

theorem outOk_execDrainDeadlineExpiry : outOk (execDrainDeadlineExpiry s) :=
  memOk_of_ite (memOk_foldl (by simp [h]) fun _ _ ht => memOk_escalate ht _) h

theorem outOk_execPreemptTrap : outOk (execPreemptTrap s) := by
  refine memOk_of_ite h <| memOk_of_ite (by simp [h]) <| memOk_of_ite h ?_
  split
  · simp [h]
  · exact memOk_foldl h fun _ _ ht => memOk_trapGang ht _

theorem outOk_execLaunchResume : outOk (execLaunchResume s) := by
  refine memOk_of_ite h ?_
  split
  · exact h
  · next e => simp [attemptOk_restoreAll h _ _ e]

theorem outOk_execEscapementRelease : outOk (execEscapementRelease s) := by
  refine (outOk_next _).2 ?_
  split
  · exact h
  · refine memOk_of_ite (by simp [h]) ?_
    split <;> simp [h]

theorem outOk_execSyscSaveDone : outOk (execSyscSaveDone s) := by
  unfold execSyscSaveDone
  dsimp only
  split <;> simp [h]

theorem outOk_execSyscLog : outOk (execSyscLog s) := by
  unfold execSyscLog
  dsimp only
  split <;> simp [h]

/-! ### The firmware -/

theorem outOk_execPcreate : outOk (execPcreate s) := outOk_mailPart h fun t p ht => by simp [ht]

theorem outOk_execPdestroy : outOk (execPdestroy s) := outOk_mailPart h fun t p ht => by simp [ht]

theorem outOk_execPsuspend : outOk (execPsuspend s) := outOk_mailPart h fun t p ht => by simp [ht]

theorem outOk_execPresume : outOk (execPresume s) := outOk_mailPart h fun t p ht => by simp [ht]

theorem outOk_execStorset : outOk (execStorset s) := outOk_mailPart h fun t p ht => by simp [ht]

theorem outOk_execImgwrite : outOk (execImgwrite s) := outOk_mail h fun t ht => by simp [ht]

theorem outOk_execAttest : outOk (execAttest s) := outOk_mail h fun t ht => by simp [ht]

theorem outOk_execProvision : outOk (execProvision s) := outOk_mail h fun t ht => by simp [ht]

theorem outOk_execFullServiceSwitch : outOk (execFullServiceSwitch s) := by
  have horders {u : State} (hu : u.memOk) (ps : List Nat) : (ps.foldl State.orderAll u).memOk := memOk_foldl hu fun _ _ ht => memOk_orderAll ht _
  refine memOk_of_ite h <| memOk_of_ite ?_ (horders (by simp [h]) _)
  exact memOk_foldl (horders (by simp [h]) _) fun _ _ ht => (memOk_dropOrders ..).2 ht

theorem outOk_execUncorrectableError : outOk (execUncorrectableError s) := by
  unfold execUncorrectableError
  extract_lets e t
  have ht : t.memOk := by simp [t, h]
  clear_value t
  refine (outOk_next _).2 ?_
  split
  case h_5 =>
    dsimp only
    split <;> simp [ht]
  all_goals simp [ht]

end

end Sys2Proof.Machine
end

section
/-! SETTLES O60. Every word and every event keeps the canonical form of the memories, and so does every step. -/

namespace Sys2Proof.Machine

open Sys2Proof

section
variable {s : State} (h : s.memOk)
include h

theorem outOk_laUnaryLL (w val) : outOk (laUnaryLL s w val) := outOk_laFloat h

theorem outOk_execLsendDeparture : outOk (execLsendDeparture s) := by
  unfold execLsendDeparture
  dsimp only
  split <;> simp [h]

theorem outOk_execImadw (w) : outOk (execImadw w s) := by
  unfold execImadw
  exact outOk_laInt2 h

theorem outOk_execCvt (w) : outOk (execCvt w s) := by
  unfold execCvt
  exact outOk_laFloat h

theorem outOk_execIdp4 (w) : outOk (execIdp4 w s) := by
  unfold execIdp4
  split
  · exact outOk_weaveOnly h fun _ => h
  · exact outOk_laInt h

theorem outOk_execLdc (w) : outOk (execLdc w s) :=
  outOk_proOrWord h (fun p => by simp [h]) fun k e act t ht => by simp [ht]

theorem outOk_execLdcFi (w) : outOk (execLdcFi w s) :=
  outOk_proOrWord h (fun p => by simp [h]) fun k e act t ht => by simp [ht]

/-- A packet's word, of a prologue alone. -/
theorem outOk_prologueWord {l r n : Nat → Prologue → _} {f : Nat → Prologue → Prologue → State → State}
    (hf : ∀ p x y t, t.memOk → (f p x y t).memOk) :
    outOk (prologueOnly s fun p x => s.runPrologue p (l p x) (r p x) (n p x) (f p x)) :=
  outOk_prologueOnly h fun p x => memOk_runPrologue h (hf p x)

/-- Every instruction, word or event, keeps the canonical form of device and host memory. -/
theorem outOk_exec (i : Instr) : outOk (exec i s) := by
  cases i <;> dsimp only [exec]
  case iadd | isub | imul | imulh | imad | iabs | ineg | imin | imax | and | or | xor | not | andn | shl | shr | rot | bfe |
      bfi | popc | clz | ctz | brev | isel | icmp | lea | mov | pand | por | pxor => exact outOk_laInt h
  case iaddFi | isubFi | imulFi | iminFi | imaxFi | andFi | orFi | xorFi | andnFi | shlFi | shrFi | rotFi | bfeFi | icmpFi |
      leaFi | movi | movhi => exact outOk_laIntImm h
  case iaddc => exact outOk_laCarry h
  case fadd | fsub | fmul | ffma | fmin | fmax | fcmp | hadd2 | hmul2 | hfma2 | hdot2 | pack | unpack => exact outOk_laFloat h
  case faddFi | fsubFi | fmulFi | fcmpFi => exact outOk_laFloatImm h
  case frcp | fsqrt | frsq | fexp2 | flog2 | fsin | fcos | ftanh => exact outOk_laUnaryLL h ..
  case qswap | qbcast | shfl => exact outOk_laExchange h
  case plset | plgo | plcancel | plrepeat | pldep | plstat => exact outOk_prologueWord h fun p x y t ht => by simp [ht]
  case mma | mmas | mmal | mmac | bsave | bresume | tkmrgSt | tkmrgLd => exact outOk_weaveOnly h fun k => by simp [h]
  case srnd | bra | brau | call | ret | meet | rejoin | exit | nop | yield | actmask | sign | hwait | hwaitAll | htest | hmov
      | gbar | cbar | trap | sysc | eret | clrflg | flgrd | cctlIvl | cctlIvd | cctlIvi | nrel | dld | dset | stepadv |
      ftset | swpreg | swpregInv | swpregNow | swpstat | tcfgrd | opfence | accld | drainundo | accstat | bform | brel |
      bstat | wslot | bseamQ | tcopy | tmcast | tqnt | tdq | sload | sstore | bpref | sgpat | sgpatInv | sgstat | tfill |
      qstat | cntrd | cntclr | tkcfg | tkins | tkmrgWv | tkclr | tkstat | xstat | lsend | lret | lbufcfgTx | lbufcfgOff |
      xcnt | jmpi | calli | vote | stkset | ld | ldFi | st | stFi | lds | ldsFi | sts | stsFi | atom | fence | nleaseSt |
      dadd | draw | steprd | steprdGe | steprdPend | swpregThr | cbkld | accz | accrd | accwr | accst | accprom | wslotRd |
      tcopyG | ratom | qinit | qinitInv | sflush | tkrd | xst | xbcast | lpoll =>
    exact outOk_weaveOnly h fun k => memOk_runWord h fun e act t ht => by simp [ht]
  case commandAccept | storeQueueLeave | tlbWalk | invalidatePage | invalidateRange | invalidatePartition | invalidationDone
      | refusalLogClear | issueCycle | slotTableDeal | leaseRevoke | tcfgEffect | drainShard | bondFormComplete | roundGrant
      | roundIssue | roundComplete | copyUnit | gdistCandidate | sliceReadRequest | writeBackDrain | provisionalWrite |
      tileDiscard | soloBoundary | sweepVisit | xstLand | huapolFlitReceive | linkDown | slotFull | creditReceive |
      fullAcknowledgement | discardReport | doorbellKick | queueMap | ageTick | packetTake | dependencyEvaluation |
      dependencyPoll | runLimitExpiry | commandLinkMessage | commandLinkError | syscNull | syscPartitionInfo | syscTime |
      reset | thermalHold | thermalRelease | thermalTrip | securityAlarm | correctedError | scratchpadBankGate |
      scratchpadBankWake | l2WayGate | l2WayWake | matrixCommandUnit | tkmrgResolve =>
    simp [execCommandAccept, execStoreQueueLeave, execTlbWalk, execInvalidatePage, execInvalidateRange, execInvalidatePartition,
      execInvalidationDone, execRefusalLogClear, execIssueCycle, execSlotTableDeal, execLeaseRevoke, execTcfgEffect,
      execDrainShard, execBondFormComplete, execRoundGrant, execRoundIssue, execRoundComplete, execCopyUnit,
      execGdistCandidate, execSliceReadRequest, execWriteBackDrain, execProvisionalWrite, execTileDiscard, execSoloBoundary,
      execSweepVisit, execXstLand, execHuapolFlitReceive, execLinkDown, execSlotFull, execCreditReceive,
      execFullAcknowledgement, execDiscardReport, execDoorbellKick, execQueueMap, execAgeTick, execPacketTake,
      execDependencyEvaluation, execDependencyPoll, execRunLimitExpiry, execCommandLinkMessage, execCommandLinkError,
      execSyscNull, execSyscPartitionInfo, execSyscTime, execReset, execThermalHold, execThermalRelease, execThermalTrip,
      execSecurityAlarm, execCorrectedError, execScratchpadBankGate, execScratchpadBankWake, execL2WayGate, execL2WayWake,
      execMatrixCommandUnit, execTkmrgResolve, h]
  case idp4 => exact outOk_execIdp4 h ..
  case ldc => exact outOk_execLdc h ..
  case ldcFi => exact outOk_execLdcFi h ..
  case imadw => exact outOk_execImadw h ..
  case cvt => exact outOk_execCvt h ..
  case lsendDeparture => exact outOk_execLsendDeparture h
  case wred => exact outOk_execWred h ..
  case d2Word => exact outOk_execD2Word h ..
  case cvdecl => exact outOk_execCvdecl h ..
  case hcancel => exact outOk_execHcancel h ..
  case hmovSt => exact outOk_execHmovSt h ..
  case hmovLd => exact outOk_execHmovLd h ..
  case rsend => exact outOk_execRsend h ..
  case rtake => exact outOk_execRtake h ..
  case rstat => exact outOk_execRstat h ..
  case rdsr => exact outOk_execRdsr h ..
  case wrsr => exact outOk_execWrsr h ..
  case pfl1 => exact outOk_execPfl1 h ..
  case pfl1Fi => exact outOk_execPfl1Fi h ..
  case nlease => exact outOk_execNlease h ..
  case nspl => exact outOk_execNspl h ..
  case nfil => exact outOk_execNfil h ..
  case pgmap => exact outOk_execPgmap h ..
  case pgdone => exact outOk_execPgdone h ..
  case tcfgCfg => exact outOk_execTcfgCfg h ..
  case tcfgTile => exact outOk_execTcfgTile h ..
  case wlatch => exact outOk_execWlatch h ..
  case drain => exact outOk_execDrain h ..
  case blease => exact outOk_execBlease h ..
  case bseamPair => exact outOk_execBseamPair h ..
  case bseamUn => exact outOk_execBseamUn h ..
  case qenq => exact outOk_execQenq h ..
  case qdeq => exact outOk_execQdeq h ..
  case qpark => exact outOk_execQpark h ..
  case watch => exact outOk_execWatch h ..
  case watchCancel => exact outOk_execWatchCancel h ..
  case gres => exact outOk_execGres h ..
  case gdist => exact outOk_execGdist h ..
  case xstep => exact outOk_execXstep h ..
  case lbufcfgRx => exact outOk_execLbufcfgRx h ..
  case llWriteback => exact outOk_execLlWriteback h
  case weaveEnd => exact outOk_execWeaveEnd h
  case gangEnd => exact outOk_execGangEnd h
  case windowFaultDelivery => exact outOk_execWindowFaultDelivery h
  case pagerUpcall => exact outOk_execPagerUpcall h
  case registerWrite => exact outOk_execRegisterWrite h
  case matrixOperationExecute => exact outOk_execMatrixOperationExecute h
  case operandLinkError => exact outOk_execOperandLinkError h
  case nvmeCompletion => exact outOk_execNvmeCompletion h
  case nvmeTimeout => exact outOk_execNvmeTimeout h
  case sliceWriteRequest => exact outOk_execSliceWriteRequest h
  case sectorFillComplete => exact outOk_execSectorFillComplete h
  case tileCommit => exact outOk_execTileCommit h
  case watchFire => exact outOk_execWatchFire h
  case escapementRelease => exact outOk_execEscapementRelease h
  case slotIdleTimeout => exact outOk_execSlotIdleTimeout h
  case dispatchStreamChoice => exact outOk_execDispatchStreamChoice h
  case directPacket => exact outOk_execDirectPacket h
  case indirectPacket => exact outOk_execIndirectPacket h
  case guardedPacket => exact outOk_execGuardedPacket h
  case signalPacket => exact outOk_execSignalPacket h
  case watchPacket => exact outOk_execWatchPacket h
  case barrierPacket => exact outOk_execBarrierPacket h
  case stitchPacket => exact outOk_execStitchPacket h
  case prologueWordLimit => exact outOk_execPrologueWordLimit h
  case prologueRepeat => exact outOk_execPrologueRepeat h
  case gangDispatch => exact outOk_execGangDispatch h
  case launchCompletion => exact outOk_execLaunchCompletion h
  case tileDecision => exact outOk_execTileDecision h
  case priorityWaitExpiry => exact outOk_execPriorityWaitExpiry h
  case drainDeadlineExpiry => exact outOk_execDrainDeadlineExpiry h
  case preemptTrap => exact outOk_execPreemptTrap h
  case launchResume => exact outOk_execLaunchResume h
  case syscSaveDone => exact outOk_execSyscSaveDone h
  case syscLog => exact outOk_execSyscLog h
  case pcreate => exact outOk_execPcreate h
  case pdestroy => exact outOk_execPdestroy h
  case psuspend => exact outOk_execPsuspend h
  case presume => exact outOk_execPresume h
  case storset => exact outOk_execStorset h
  case imgwrite => exact outOk_execImgwrite h
  case attest => exact outOk_execAttest h
  case provision => exact outOk_execProvision h
  case fullServiceSwitch => exact outOk_execFullServiceSwitch h
  case uncorrectableError => exact outOk_execUncorrectableError h

/-- A step runs the word that an issue or a prologue fetches, the next event, or plans the next cycle. -/
theorem outOk_step : outOk (step s) := by
  unfold step
  split
  · split <;> rename_i e <;> have hs := memOk_of_fst e (by simp [h])
    · exact outOk_exec hs _
    · exact hs
  · split <;> rename_i e <;> have hs := memOk_of_fst e (by simp [h])
    · exact outOk_exec hs _
    · exact hs
  · split
    · exact outOk_exec (by simp [h]) _
    · simp [h]

end

/-- Settles O60, by cases on what the step runs: every instruction keeps the form (`outOk_exec`). -/
theorem memoryCanonicalKeptByEveryStep : Obligations.MemoryCanonicalKeptByEveryStep := by
  unfold Obligations.MemoryCanonicalKeptByEveryStep
  intro s t h e
  have ht := outOk_step h
  rw [e] at ht
  exact ht

end Sys2Proof.Machine
end

section
/-! SETTLES O59. The values of reset, block by block. -/

namespace Sys2Proof.Machine

open Sys2Proof

theorem part_reset (p : Nat) : State.reset.part p = {} := rfl
theorem core_reset (c : Nat) : State.reset.core c = {} := rfl
theorem slice_reset (n : Nat) : State.reset.slice n = {} := rfl
theorem accTable_reset (t : Nat) : State.reset.accTable t = {} := rfl

/-- An unwritten factor of the stamp block is 1.0, in both halves of a qword. -/
theorem qword_factor_of_default (i : Nat) (hi : i < 128) : ({} : Stamp).qword (0x400 + 8 * i) = 0x3F8000003F800000 := by
  have hlow : ¬(0x20 ≤ 0x400 + 8 * i ∧ 0x400 + 8 * i < 0x220) := by omega
  have hfactor : 0x400 ≤ 0x400 + 8 * i ∧ 0x400 + 8 * i < 0x800 := by omega
  simp only [Stamp.qword, if_neg hlow, if_pos hfactor]
  simp [Table.get]

/-- An access table has one row at reset, the firmware's; a row that is not listed allows nothing. -/
theorem rows_default_of_lt {m : Nat} (hm : m < 64) : Table.get {} ({} : AccTable).rows m = {} := by
  have h : 64 ≠ m := by omega
  simp [Table.get, h]

theorem allows_default (pa n : Nat) (need : BitVec 3) : ({} : AccRow).allows pa n need = false := by
  simp [AccRow.allows, Table.get]

/-- The firmware's row has one range, of every right below the end of the address space. -/
theorem allows_firmware {pa n : Nat} (h : pa + n ≤ 0xFFFFFFFFF000) (k : AccessKind) :
    (Table.get {} ({} : AccTable).rows 64).allows pa n (kindRights k) = true := by
  have hrights : (7#3 &&& kindRights k == kindRights k) = true := by cases k <;> rfl
  simp [AccRow.allows, Table.get, h, hrights, List.range_succ]

theorem statusQword_reset {o : Nat} (ho : o < 0x1000) : State.reset.statusQword o = 0 := by
  have h1 : ¬(0x1000 ≤ o ∧ o < 0x2000) := by omega
  have h2 : ¬(0x2000 ≤ o ∧ o < 0x2200) := by omega
  have hlog (i : Nat) : (Table.get {} ([] : Table ELog) i).qword (o % 32 / 8) = 0 := by
    unfold ELog.qword
    split <;> rfl
  simp only [State.statusQword, if_neg h1, if_neg h2]
  repeat' split
  case isFalse.isFalse.isFalse.isFalse.isFalse.isTrue => exact hlog _
  all_goals rfl

/-- Settles O59: every field of `State.reset` is its default. -/
theorem resetState : Obligations.ResetState := by
  unfold Obligations.ResetState
  refine ⟨⟨rfl, rfl⟩, fun p => ⟨rfl, rfl, rfl, rfl, rfl, rfl, rfl, rfl, rfl, rfl, rfl⟩, fun p i hi => qword_factor_of_default i hi,
    fun j m pa n k hm => ?_, fun j pa n k h => allows_firmware h k, fun c => ⟨rfl, rfl⟩, fun c => rfl, fun n => rfl, fun k => rfl,
    rfl, rfl, fun o ho => statusQword_reset ho, rfl, rfl, rfl, rfl⟩
  rw [State.accessOk, accTable_reset, rows_default_of_lt hm]
  exact allows_default ..

end Sys2Proof.Machine
end

section
/-! SUPPORT. O47, first part: walks, invalidations and register writes. -/

namespace Sys2Proof.Machine

open Sys2Proof

/-! ### Walks and invalidations (R146, R155 to R157) -/

theorem tlbWalk_gives (s : State) :
    s.gives .tlbWalk fun t =>
      t = (s.useLeaf s.ev.a s.ev.b s.ev.value.toNat s.ev.kind (s.walk s.ev.b s.ev.value.toNat)).1 ∧
      ∀ b, Table.get 0 t.mem b ≠ Table.get 0 s.mem b →
        ∃ pte level e, s.walk s.ev.b s.ev.value.toNat = .leaf pte level e ∧ pte ≤ b ∧ b < pte + 8 := by
  refine ⟨_, rfl, rfl, fun b hb => ?_⟩
  rcases usedLeaf_useLeaf s s.ev.a s.ev.b s.ev.value.toNat s.ev.kind (s.walk s.ev.b s.ev.value.toNat) with
    hsame | ⟨pte, level, e, m, hwalk, -, -, hset⟩
  · rw [hsame] at hb
    exact absurd rfl hb
  · rw [hset] at hb
    have hin : pte ≤ b ∧ b < pte + (bytesOf 8 (memQword s.mem pte ||| m)).length := by
      by_contra hout
      exact hb (get_memWrite_outside hout)
    rw [bytesOf_length] at hin
    exact ⟨pte, level, e, hwalk, hin⟩

/-- No translation that an invalidation names is left. -/
theorem not_mem_tlbDrop {s : State} {p va n : Nat} {f : Tlb → Bool} {e : Nat × List Tlb} (he : e ∈ (s.tlbDrop p va n f).tlb)
    {y : Tlb} (hy : y ∈ e.2) : ¬(y.part = p ∧ f y = true) := by
  obtain ⟨e', -, rfl⟩ := List.mem_map.mp (List.mem_of_mem_filter he)
  have hkept := (List.mem_filter.mp hy).2
  simpa [imp_iff_not_or] using hkept

/-- What every invalidation leaves: memory, BUSY, and none of the translations that it names. -/
theorem invalidation_leaves (s : State) (p va n : Nat) (f : Tlb → Bool) :
    s.memoryKept ((s.tlbDrop p va n f).invalidating p) ∧ (((s.tlbDrop p va n f).invalidating p).part p).trans.busy = true ∧
      ∀ e ∈ ((s.tlbDrop p va n f).invalidating p).tlb, ∀ y ∈ e.2, ¬(y.part = p ∧ f y = true) := by
  refine ⟨memoryKept_of_mems rfl, ?_, fun e he y hy => not_mem_tlbDrop (va := va) (n := n) he hy⟩
  show (((s.tlbDrop p va n f).modPart p fun q => { q with trans := { q.trans with busy := true } }).part p).trans.busy = true
  rw [part_modPart]

theorem meets_iff (y : Tlb) (va n : Nat) : y.meets va n = true ↔ y.vbase < va + n ∧ va < y.vbase + pageBytes y.size := by
  simp [Tlb.meets]

theorem invalidatePage_gives (s : State) :
    s.gives .invalidatePage fun t => s.memoryKept t ∧ (t.part s.ev.a).trans.busy = true ∧
      let va := (s.part s.ev.a).trans.invVa
      ∀ e ∈ t.tlb, ∀ y ∈ e.2, ¬(y.part = s.ev.a ∧ y.vbase ≤ va ∧ va < y.vbase + pageBytes y.size) := by
  obtain ⟨hmem, hbusy, htlb⟩ := invalidation_leaves s s.ev.a ((s.part s.ev.a).trans.invVa / 2 ^ 30 * 2 ^ 30) (2 ^ 30)
    fun t => t.meets (s.part s.ev.a).trans.invVa 1
  refine ⟨_, rfl, hmem, hbusy, fun e he y hy hin => htlb e he y hy ⟨hin.1, (meets_iff ..).mpr ?_⟩⟩
  exact ⟨Nat.lt_succ_of_le hin.2.1, hin.2.2⟩

theorem invalidateRange_gives (s : State) :
    s.gives .invalidateRange fun t => s.memoryKept t ∧ (t.part s.ev.a).trans.busy = true ∧
      let va := (s.part s.ev.a).trans.invVa
      ∀ e ∈ t.tlb, ∀ y ∈ e.2, ¬(y.part = s.ev.a ∧ y.vbase < va + 4096 * s.ev.b ∧ va < y.vbase + pageBytes y.size) := by
  obtain ⟨hmem, hbusy, htlb⟩ := invalidation_leaves s s.ev.a (s.part s.ev.a).trans.invVa (4096 * s.ev.b)
    fun t => t.meets (s.part s.ev.a).trans.invVa (4096 * s.ev.b)
  exact ⟨_, rfl, hmem, hbusy, fun e he y hy hin => htlb e he y hy ⟨hin.1, (meets_iff ..).mpr hin.2⟩⟩

theorem invalidatePartition_gives (s : State) :
    s.gives .invalidatePartition fun t => s.memoryKept t ∧ (t.part s.ev.a).trans.busy = true ∧
      ∀ e ∈ t.tlb, ∀ y ∈ e.2, y.part ≠ s.ev.a := by
  obtain ⟨hmem, hbusy, htlb⟩ := invalidation_leaves s s.ev.a 0 (2 ^ 64) fun _ => true
  exact ⟨_, rfl, hmem, hbusy, fun e he y hy hp => htlb e he y hy ⟨hp, rfl⟩⟩

/-- TINVVA's 57 bits are sign-extended to the address that an invalidation is of. -/
theorem invVa_canonical (x : TransBlock) (h : x.tinvva < 2 ^ 57) : canonical x.invVa = true ∧ x.invVa % 2 ^ 57 = x.tinvva := by
  simp only [canonical, TransBlock.invVa, bit, bits_eq, Nat.testBit_eq_decide_div_mod_eq, beq_iff_eq]
  by_cases htop : x.tinvva / 2 ^ 56 % 2 = 1
  · have hsum : (x.tinvva + (2 ^ 64 - 2 ^ 57)) / 2 ^ 56 % 2 = 1 := by omega
    simp only [htop, hsum, decide_true, if_true]
    omega
  · simp only [htop, decide_false, if_false, Bool.false_eq_true]
    omega

theorem invalidationDone_gives {s : State} (h : s.staleAccess s.ev.a = false) :
    s.gives .invalidationDone fun t => ({ t with parts := s.parts } : State) = s ∧
      (t.part s.ev.a).trans = { (s.part s.ev.a).trans with busy := false } := by
  refine ⟨s.modPart s.ev.a fun q => { q with trans := { q.trans with busy := false } }, ?_, rfl, by rw [part_modPart]⟩
  show Host.Outcome.next _ = _
  rw [h]
  rfl

theorem invalidationDone_waits {s : State} (h : s.staleAccess s.ev.a = true) : s.gives .invalidationDone fun t => t = s := by
  refine ⟨s, ?_, rfl⟩
  show Host.Outcome.next _ = _
  rw [h]
  rfl

/-! ### Register writes (R160, R424, R426) -/

theorem refusalLogClear_gives (s : State) :
    s.gives .refusalLogClear fun t => ({ t with acc := s.acc } : State) = s ∧ (t.accTable s.ev.a).logv = false ∧
      (t.accTable s.ev.a).logCount = (s.accTable s.ev.a).logCount := by
  refine ⟨_, rfl, rfl, ?_⟩
  simp [State.accTable]

theorem logRefusal_restores (s : State) (t m pa : Nat) (k : AccessKind) : ({ s.logRefusal t m pa k with acc := s.acc } : State) = s := rfl

theorem registerWrite_refused {s : State} (hon : s.ev.on = false) (hmmio : inMmio s.ev.b = true)
    (hno : s.accessOk (s.targetOf s.ev.b) s.ev.a s.ev.b s.ev.c .write = false) :
    s.gives .registerWrite fun t => ({ t with acc := s.acc } : State) = s := by
  have hrefuser : s.refuser s.ev.a s.ev.b s.ev.c .write = some (s.targetOf s.ev.b) := by
    simp [State.refuser, State.targetsOf, hmmio, hno]
  refine ⟨_, rfl, ?_⟩
  simp only [hon, hmmio, hrefuser]
  simp only [Bool.false_eq_true, if_false, Bool.not_true, Bool.false_or]
  split
  · rfl
  · exact logRefusal_restores ..

theorem registerWrite_elsewhere {s : State} (hon : s.ev.on = false) (hmmio : inMmio s.ev.b = false) :
    s.gives .registerWrite fun t => t = s := by
  refine ⟨_, rfl, ?_⟩
  simp [hon, hmmio]

/-- A write of all eight bytes gives the value. -/
theorem over_qwrite_eight (v : Dbl) (old : Nat) {o : Nat} (ho : o % 8 = 0) : (qwrite o 8 v).over old = v.toNat := by
  have hmask : ~~~BitVec.ofNat 64 ((2 ^ (8 * 8) - 1) * 2 ^ (8 * 0) % 2 ^ 64) = 0#64 := by decide
  have hval : v.toNat % 2 ^ (8 * 8) * 2 ^ (8 * 0) % 2 ^ 64 = v.toNat := by
    have hv := v.isLt
    omega
  simp only [qwrite, QWrite.over, ho, hmask, hval]
  simp

theorem registerWrite_mailbox {s : State} (hon : s.ev.on = true) (hgo : s.mailbox.go = false) (htherm : s.status.therm ≠ 2)
    (hb : s.ev.b = 0x1008) (hc : s.ev.c = 8) :
    s.gives .registerWrite fun t => ({ t with mailbox := s.mailbox } : State) = s ∧ t.mailbox = { s.mailbox with arg := s.ev.value } := by
  have hover := over_qwrite_eight s.ev.value s.mailbox.arg.toNat (o := 0x1008) rfl
  refine ⟨{ s with mailbox := { s.mailbox with arg := s.ev.value } }, ?_, rfl, rfl⟩
  show Host.Outcome.next _ = _
  simp [hon, hb, hc, State.writeBar, hgo, htherm, hover]

end Sys2Proof.Machine
end

section
/-! SUPPORT. O47, second part: a slice's requests, fills and write-backs (R312 to R315), and the host's reads. -/

namespace Sys2Proof.Machine

open Sys2Proof

/-! ### Requests at a slice -/

/-- Two slices that hold the same lines, sectors, misses and waiting requests. -/
def Slice.agrees (x y : Slice) : Prop :=
  x.lines = y.lines ∧ x.miss = y.miss ∧ x.wb = y.wb ∧ x.input = y.input ∧ x.gate = y.gate ∧ x.waking = y.waking

theorem agrees_bump (x : Slice) (p kind : Nat) : (x.bump p kind).agrees x := ⟨rfl, rfl, rfl, rfl, rfl, rfl⟩

theorem agrees_bump_if (c : Prop) [Decidable c] (x : Slice) (p kind : Nat) : (if c then x.bump p kind else x).agrees x := by
  split
  · exact agrees_bump ..
  · exact ⟨rfl, rfl, rfl, rfl, rfl, rfl⟩

/-- What a slice accepts, and what it misses, depend on those alone. -/
theorem accepts_congr {x y : Slice} (h : x.agrees y) (r : SliceReq) : x.accepts r = y.accepts r := by
  obtain ⟨x1, x2, x3, x4, x5, x6, x7, x8, x9, x10, x11⟩ := x
  obtain ⟨rfl, rfl, rfl, rfl, rfl, rfl⟩ := h
  rfl

theorem missing_congr {x y : Slice} (h : x.agrees y) (line : Nat) (m : BitVec 64) : x.missing line m = y.missing line m := by
  obtain ⟨x1, x2, x3, x4, x5, x6, x7, x8, x9, x10, x11⟩ := x
  obtain ⟨rfl, rfl, rfl, rfl, rfl, rfl⟩ := h
  rfl

theorem take_of_not_accepts {x : Slice} {r : SliceReq} (h : x.accepts r = false) : x.take r = { x with input := x.input ++ [r] } := by
  simp [Slice.take, h]

/-- A request waits while a way wakes or behind one of its line (R315). -/
theorem accepts_eq_false {x : Slice} {r : SliceReq} (h : x.waking ≠ 0 ∨ ∃ y ∈ x.input, y.line = r.line) : x.accepts r = false := by
  rcases h with hwake | ⟨y, hy, hline⟩
  · have hwake' : (x.waking == 0) = false := beq_false_of_ne hwake
    rw [Slice.accepts, hwake']
    rfl
  · have hany : (x.input.any fun y => y.line == r.line) = true := List.any_eq_true.mpr ⟨y, hy, by simp [hline]⟩
    simp [Slice.accepts, hany]

/-- A read that misses, of a line without an entry, takes one of the 64 entries of the miss table (R314). -/
theorem take_of_miss {x y : Slice} (h : x.agrees y) {r : SliceReq} (hread : r.write = false) (hwake : y.waking = 0)
    (hinput : ∀ z ∈ y.input, z.line ≠ r.line) (hmiss : ∀ e ∈ y.miss, e.line ≠ r.line) (hroom : y.miss.length < 64)
    (hneed : y.missing r.line r.mask ≠ 0) :
    (x.take r).miss = y.miss ++ [{ line := r.line, part := r.part, need := y.missing r.line r.mask }] ∧
      (x.take r).input = y.input := by
  have hinput' : (y.input.any fun z => z.line == r.line) = false := by simpa using hinput
  have hmiss' : (y.miss.any fun e => e.line == r.line) = false := by simpa using hmiss
  have haccepts : x.accepts r = true := by
    rw [accepts_congr h]
    simp [Slice.accepts, hwake, hinput', hread, hroom]
  rw [Slice.take, haccepts, hread, missing_congr h]
  obtain ⟨-, hm, -, hi, -, -⟩ := h
  simp only [hm, hmiss', if_neg hneed, Bool.not_true, Bool.false_eq_true, if_false, hi, and_self]

/-! ### SLICE_READ_REQUEST -/

/-- The request of a read of a line by a partition's engine. -/
def lineRead (p line : Nat) : SliceReq := { part := p, line := line, mask := lineMask 0 64 }

theorem sliceReadRequest_eq {s : State} (hon : s.ev.on = false) :
    exec .sliceReadRequest s = .next (s.modSlice s.ev.a fun x =>
      (if s.ev.d < 8 then x.bump s.ev.c s.ev.d else x).take (lineRead s.ev.c s.ev.b)) := by
  show Host.Outcome.next _ = _
  simp only [hon, Bool.false_eq_true, if_false]
  rfl

theorem sliceReadRequest_host {s : State} (hon : s.ev.on = true) :
    exec .sliceReadRequest s = .next (s.hostRead s.ev.a s.ev.b s.ev.d (s.ev.c = 1)) := by
  show Host.Outcome.next _ = _
  simp only [hon, if_true]

theorem sliceReadRequest_restores {s : State} (hon : s.ev.on = false) :
    s.gives .sliceReadRequest fun t => ({ t with slices := s.slices } : State) = s := ⟨_, sliceReadRequest_eq hon, rfl⟩

theorem sliceReadRequest_misses {s : State} (hon : s.ev.on = false) (hwake : (s.slice s.ev.a).waking = 0)
    (hinput : ∀ y ∈ (s.slice s.ev.a).input, y.line ≠ s.ev.b) (hmiss : ∀ e ∈ (s.slice s.ev.a).miss, e.line ≠ s.ev.b)
    (hroom : (s.slice s.ev.a).miss.length < 64) (hneed : (s.slice s.ev.a).missing s.ev.b (lineMask 0 64) ≠ 0) :
    s.gives .sliceReadRequest fun t =>
      (t.slice s.ev.a).miss = (s.slice s.ev.a).miss ++
        [{ line := s.ev.b, part := s.ev.c, need := (s.slice s.ev.a).missing s.ev.b (lineMask 0 64) }] ∧
      (t.slice s.ev.a).input = (s.slice s.ev.a).input := by
  refine ⟨_, sliceReadRequest_eq hon, ?_⟩
  have hagrees := agrees_bump_if (s.ev.d < 8) (s.slice s.ev.a) s.ev.c s.ev.d
  beta_reduce
  rw [slice_modSlice]
  exact take_of_miss hagrees (r := lineRead s.ev.c s.ev.b) rfl hwake hinput hmiss hroom hneed

theorem sliceReadRequest_waits {s : State} (hon : s.ev.on = false)
    (h : (s.slice s.ev.a).waking ≠ 0 ∨ ∃ y ∈ (s.slice s.ev.a).input, y.line = s.ev.b) :
    s.gives .sliceReadRequest fun t =>
      (t.slice s.ev.a).miss = (s.slice s.ev.a).miss ∧ (t.slice s.ev.a).lines = (s.slice s.ev.a).lines ∧
      (t.slice s.ev.a).input = (s.slice s.ev.a).input ++ [{ part := s.ev.c, line := s.ev.b, mask := lineMask 0 64 }] := by
  refine ⟨_, sliceReadRequest_eq hon, ?_⟩
  have hagrees := agrees_bump_if (s.ev.d < 8) (s.slice s.ev.a) s.ev.c s.ev.d
  have hwaits : (s.slice s.ev.a).accepts (lineRead s.ev.c s.ev.b) = false := accepts_eq_false h
  beta_reduce
  rw [slice_modSlice, take_of_not_accepts ((accepts_congr hagrees _).trans hwaits)]
  obtain ⟨hl, hm, -, hi, -, -⟩ := hagrees
  exact ⟨hm, hl, congrArg (· ++ [lineRead s.ev.c s.ev.b]) hi⟩

theorem hostRead_devid {s : State} (hon : s.ev.on = true) (ha : s.ev.a = 8) (hb : s.ev.b = 0) (hc : s.ev.c = 1) (hd : s.ev.d = 4) :
    s.gives .sliceReadRequest fun t =>
      t = { s with hostReads := s.hostReads ++ [{ fn := 8, aborted := false, bytes := [0x00, 0x46, 0x00, 0x4B] }] } := by
  refine ⟨_, sliceReadRequest_host hon, ?_⟩
  rw [ha, hb, hc, hd]
  simp [State.hostRead, State.hostCpl, State.barQword, devid, List.range_succ]

theorem hostRead_refused {s : State} (hon : s.ev.on = true) (ha : s.ev.a < 8) (hc : s.ev.c ≠ 1) (hpop : s.populated s.ev.b = true)
    (href : s.refuser (8 * s.ev.a + 7) s.ev.b s.ev.d .read ≠ none) :
    s.gives .sliceReadRequest fun t =>
      s.memoryKept t ∧ t.hostReads = s.hostReads ++ [{ fn := s.ev.a, aborted := true, bytes := [] }] := by
  refine ⟨_, sliceReadRequest_host hon, ?_⟩
  have ha8 : s.ev.a ≠ 8 := by omega
  obtain ⟨q, hq⟩ := Option.ne_none_iff_exists'.mp href
  simp only [State.hostRead, ha8, hc, hpop, hq, decide_false, Bool.false_and, Bool.not_false, Bool.and_true, if_false, Bool.not_true,
    Bool.false_eq_true]
  split
  · exact ⟨memoryKept_of_mems rfl, rfl⟩
  · exact ⟨memoryKept_of_mems rfl, rfl⟩

/-! ### SLICE_WRITE_REQUEST -/

theorem hostWriteLine_nil (s : State) (p kind pa : Nat) : s.hostWriteLine p kind pa [] = s := rfl

/-- Beyond the end of its bytes, a write asks for nothing. -/
theorem hostWriteLines_nil (p kind : Nat) (xs : List Nat) (s : State) (pa : Nat) :
    (xs.foldl (fun (s, pa, bs) _ =>
      let k := 64 - pa % 64
      (s.hostWriteLine p kind pa ((bs : List Byte).take k), pa + k, bs.drop k)) ((s, pa, []) : State × Nat × List Byte)).1 = s := by
  induction xs generalizing pa with
  | nil => rfl
  | cons x xs ih =>
    simp only [List.foldl_cons, List.take_nil, List.drop_nil, hostWriteLine_nil]
    exact ih _

/-- A write within one line is one request. -/
theorem sliceWriteRequest_eq {s : State} (h : s.ev.b % 64 + s.ev.bytes.length ≤ 64) :
    exec .sliceWriteRequest s = .next (s.hostWriteLine s.ev.c s.ev.d s.ev.b s.ev.bytes) := by
  have htake : s.ev.bytes.take (64 - s.ev.b % 64) = s.ev.bytes := List.take_of_length_le (by omega)
  have hdrop : s.ev.bytes.drop (64 - s.ev.b % 64) = [] := List.drop_of_length_le (by omega)
  show Host.Outcome.next _ = _
  rw [List.range_succ_eq_map, List.foldl_cons]
  simp only [htake, hdrop]
  rw [hostWriteLines_nil]

/-- The request of a host function's write within a line. -/
def lineWrite (p pa : Nat) (bs : List Byte) : SliceReq :=
  { part := p, line := pa / 64, write := true, mask := lineMask (pa % 64) bs.length, pa := pa, bytes := bs }

theorem hostWriteLine_eq {s : State} {p kind pa : Nat} {bs : List Byte} (hne : bs ≠ []) (hsvc : s.status.svc ≠ 3)
    (hpop : s.populated pa = true) (href : s.refuser (8 * p + 7) pa bs.length .write = none) :
    s.hostWriteLine p kind pa bs =
      (if kind < 8 then s.modSlice (s.homeSlice pa) (·.bump p kind) else s).sliceRequest (s.homeSlice pa) (lineWrite p pa bs) := by
  simp [State.hostWriteLine, hne, hsvc, hpop, href, lineWrite]

/-- A bumped counter changes neither memory nor what the home slice accepts. -/
theorem counted_keeps (s : State) (c : Prop) [Decidable c] (n p kind : Nat) :
    (if c then s.modSlice n (·.bump p kind) else s).mems = s.mems ∧
      ((if c then s.modSlice n (·.bump p kind) else s).slice n).agrees (s.slice n) := by
  split
  · exact ⟨rfl, by rw [slice_modSlice]; exact agrees_bump ..⟩
  · exact ⟨rfl, rfl, rfl, rfl, rfl, rfl, rfl⟩

theorem sliceRequest_commits {s : State} {n : Nat} {r : SliceReq} (h : (s.slice n).accepts r = true) (hne : r.bytes ≠ []) :
    (s.sliceRequest n r).mem = memWrite s.mem r.pa r.bytes := by
  have hgo : ((s.slice n).accepts r && !r.bytes.isEmpty) = true := by simp [h, hne]
  rw [State.sliceRequest, if_pos hgo]
  rfl

theorem sliceRequest_waits {s : State} {n : Nat} {r : SliceReq} (h : (s.slice n).accepts r = false) :
    (s.sliceRequest n r).mems = s.mems ∧ ((s.sliceRequest n r).slice n).input = (s.slice n).input ++ [r] := by
  have hstay : ¬((s.slice n).accepts r && !r.bytes.isEmpty) = true := by simp [h]
  rw [State.sliceRequest, if_neg hstay, slice_modSlice, take_of_not_accepts h]
  exact ⟨rfl, rfl⟩

section
variable {s : State} (hne : s.ev.bytes ≠ []) (hline : s.ev.b % 64 + s.ev.bytes.length ≤ 64) (hpop : s.populated s.ev.b = true)
include hline hpop

theorem sliceWriteRequest_refused (href : s.refuser (8 * s.ev.c + 7) s.ev.b s.ev.bytes.length .write ≠ none) :
    s.gives .sliceWriteRequest fun t => ({ t with acc := s.acc } : State) = s := by
  obtain ⟨q, hq⟩ := Option.ne_none_iff_exists'.mp href
  refine ⟨_, sliceWriteRequest_eq hline, ?_⟩
  simp only [State.hostWriteLine, hpop, hq]
  split <;> rfl

include hne
variable (href : s.refuser (8 * s.ev.c + 7) s.ev.b s.ev.bytes.length .write = none) (hsvc : s.status.svc ≠ 3)
include href hsvc

theorem sliceWriteRequest_commits
    (haccepts : (s.slice (s.homeSlice s.ev.b)).accepts (lineWrite s.ev.c s.ev.b s.ev.bytes) = true) :
    s.gives .sliceWriteRequest fun t =>
      keptOutside s t s.ev.b s.ev.bytes.length ∧ memRead t.mem s.ev.b s.ev.bytes.length = s.ev.bytes := by
  refine ⟨_, sliceWriteRequest_eq hline, ?_⟩
  obtain ⟨hmems, hagrees⟩ := counted_keeps s (s.ev.d < 8) (s.homeSlice s.ev.b) s.ev.c s.ev.d
  have hmem := sliceRequest_commits ((accepts_congr hagrees _).trans haccepts) hne
  rw [← hostWriteLine_eq hne hsvc hpop href] at hmem
  exact (reads_of_memWrite (hmem.trans (congrArg (fun m => memWrite m.1 _ _) hmems)) rfl).symm

theorem sliceWriteRequest_waits
    (haccepts : (s.slice (s.homeSlice s.ev.b)).accepts (lineWrite s.ev.c s.ev.b s.ev.bytes) = false) :
    s.gives .sliceWriteRequest fun t => s.memoryKept t ∧
      (t.slice (s.homeSlice s.ev.b)).input = (s.slice (s.homeSlice s.ev.b)).input ++ [lineWrite s.ev.c s.ev.b s.ev.bytes] := by
  refine ⟨_, sliceWriteRequest_eq hline, ?_⟩
  obtain ⟨hmems, hagrees⟩ := counted_keeps s (s.ev.d < 8) (s.homeSlice s.ev.b) s.ev.c s.ev.d
  obtain ⟨hkept, hinput⟩ := sliceRequest_waits ((accepts_congr hagrees _).trans haccepts)
  rw [← hostWriteLine_eq hne hsvc hpop href] at hkept hinput
  obtain ⟨-, -, -, hi, -, -⟩ := hagrees
  exact ⟨memoryKept_of_mems (hkept.trans hmems), hinput.trans (congrArg (· ++ _) hi)⟩

end

end Sys2Proof.Machine
end

section
/-! SUPPORT. O47, third part: fills, write-backs and the provisional store (R313, R314, R331, R332). -/

namespace Sys2Proof.Machine

open Sys2Proof

/-! ### Fills and write-backs -/

theorem Slice.agrees.trans {x y z : Slice} (h : x.agrees y) (h' : y.agrees z) : x.agrees z := by
  obtain ⟨a, b, c, d, e, f⟩ := h
  obtain ⟨a', b', c', d', e', f'⟩ := h'
  exact ⟨a.trans a', b.trans b', c.trans c', d.trans d', e.trans e', f.trans f'⟩

/-- Counting fills changes none of what a slice holds. -/
theorem agrees_foldl_bump {α : Type} (c : α → Bool) (p kind : Nat) (is : List α) (x : Slice) :
    (is.foldl (fun x i => if c i then x.bump p kind else x) x).agrees x :=
  foldl_inv (·.agrees x) _ (fun _ _ h => (agrees_bump_if ..).trans h) is x ⟨rfl, rfl, rfl, rfl, rfl, rfl⟩

/-- A placed line is read at its number; the misses and the waiting requests stay. -/
theorem place_leaves (x : Slice) (p : Nat) (l : SliceLine) :
    (x.place p l).line l.line = l ∧ (x.place p l).miss = x.miss ∧ (x.place p l).input = x.input := by
  unfold Slice.place
  dsimp only
  split
  · exact ⟨by simp [Slice.line], rfl, rfl⟩
  · next v _ =>
      obtain ⟨-, hm, -, hi, -, -⟩ := agrees_foldl_bump v.partly p 7 ((List.range 2).filter fun i => v.dirty.getLsbD i) x
      exact ⟨by simp [Slice.line], hm, hi⟩

theorem line_line (x : Slice) (n : Nat) : (x.line n).line = n := by
  unfold Slice.line
  cases h : x.lines.find? fun l => l.line == n with
  | none => rfl
  | some l => simpa using List.find?_some h

/-- A slice after the fill of a miss's sectors (R313). -/
def Slice.filled (x : Slice) (m : Miss) : Slice :=
  let l := x.line m.line
  let now := sectors fun i => m.need.getLsbD i && !l.valid.getLsbD i
  let x := (List.range 2).foldl (fun x i => if now.getLsbD i then x.bump m.part 7 else x) x
  { x with miss := x.miss.filter fun e => e.line != m.line }.place m.part (l.fill m.need)

theorem filled_leaves (x : Slice) (m : Miss) :
    (x.filled m).miss = x.miss.filter (fun e => e.line != m.line) ∧ (x.filled m).input = x.input ∧
      ((x.filled m).line m.line).valid = (x.line m.line).valid ||| m.need := by
  unfold Slice.filled
  extract_lets l now y
  obtain ⟨-, hm, -, hi, -, -⟩ : y.agrees x := agrees_foldl_bump (fun i => now.getLsbD i) m.part 7 (List.range 2) x
  obtain ⟨hline, hmiss, hinput⟩ := place_leaves { y with miss := y.miss.filter fun e => e.line != m.line } m.part (l.fill m.need)
  have hl : (l.fill m.need).line = m.line := line_line x m.line
  rw [hl] at hline
  refine ⟨hmiss.trans ?_, hinput.trans hi, congrArg SliceLine.valid hline⟩
  rw [← hm]

/-- A slice whose input is empty has nothing to try again. -/
theorem serveInput_of_empty {s : State} {n : Nat} (h : (s.slice n).input = []) :
    s.serveInput n = s.modSlice n fun x => { x with input := [] } := by
  rw [State.serveInput, h]
  rfl

section
variable {s : State}

theorem sectorFillComplete_idle (h : ((s.slice s.ev.a).miss.find? fun e => e.line == s.ev.b) = none) :
    s.gives .sectorFillComplete fun t => t = s := by
  refine ⟨_, rfl, ?_⟩
  simp only [h]

variable {m : Miss} (hfound : ((s.slice s.ev.a).miss.find? fun e => e.line == s.ev.b) = some m)
include hfound

theorem line_of_found : m.line = s.ev.b := by simpa using List.find?_some hfound

theorem sectorFillComplete_waits (hroom : (s.slice s.ev.a).room s.ev.b = false) : s.gives .sectorFillComplete fun t => t = s := by
  refine ⟨_, rfl, ?_⟩
  simp only [hfound, line_of_found hfound, hroom, Bool.false_eq_true, if_false]

theorem sectorFillComplete_eq (hroom : (s.slice s.ev.a).room s.ev.b = true) :
    exec .sectorFillComplete s = .next ((s.modSlice s.ev.a (·.filled m)).serveInput s.ev.a) := by
  show Host.Outcome.next _ = _
  simp only [hfound, line_of_found hfound, hroom, if_true]
  simp only [← line_of_found hfound]
  rfl

theorem sectorFillComplete_fills (hroom : (s.slice s.ev.a).room s.ev.b = true) (hinput : (s.slice s.ev.a).input = []) :
    s.gives .sectorFillComplete fun t => ({ t with slices := s.slices } : State) = s ∧
      (t.slice s.ev.a).miss = (s.slice s.ev.a).miss.filter (fun e => e.line != s.ev.b) ∧
      ((t.slice s.ev.a).line s.ev.b).valid = ((s.slice s.ev.a).line s.ev.b).valid ||| m.need := by
  obtain ⟨hmiss, hempty, hvalid⟩ := filled_leaves (s.slice s.ev.a) m
  rw [line_of_found hfound] at hmiss hvalid
  refine ⟨_, sectorFillComplete_eq hfound hroom, ?_⟩
  rw [serveInput_of_empty (by rw [slice_modSlice]; exact hempty.trans hinput)]
  beta_reduce
  rw [slice_modSlice, slice_modSlice]
  exact ⟨rfl, hmiss, hvalid⟩

end

theorem writeBackDrain_gives {s : State} (hinput : (s.slice s.ev.a).input = []) :
    s.gives .writeBackDrain fun t => ({ t with slices := s.slices } : State) = s ∧
      (t.slice s.ev.a).wb = (s.slice s.ev.a).wb.drop 1 := by
  refine ⟨_, rfl, ?_⟩
  rw [serveInput_of_empty (by rw [slice_modSlice]; exact hinput)]
  beta_reduce
  rw [slice_modSlice, slice_modSlice]
  exact ⟨rfl, rfl⟩

/-! ### The provisional store -/

theorem provisionalWrite_gives (s : State) : s.gives .provisionalWrite fun t => s.memoryKept t :=
  ⟨_, rfl, memoryKept_of_mems (mems_provWrite ..)⟩

theorem tileDiscard_gives (s : State) :
    s.gives .tileDiscard fun t => s.memoryKept t ∧ ∀ y ∈ (t.slice s.ev.a).prov, ¬(y.part = s.ev.b ∧ y.tag = s.ev.c) := by
  refine ⟨_, rfl, memoryKept_of_mems rfl, ?_⟩
  rw [slice_modSlice]
  intro y hy
  simpa [imp_iff_not_or] using (List.mem_filter.mp hy).2

/-- A fold of writes leaves a key that none of them is to. -/
theorem get_foldl_set_of_ne {α : Type} [DecidableEq α] (d : α) {key : Nat → Nat} (val : Nat → α) {is : List Nat} {j : Nat}
    (h : ∀ i ∈ is, key i ≠ j) (t : Table α) :
    Table.get d (is.foldl (fun t i => Table.set d t (key i) (val i)) t) j = Table.get d t j := by
  induction is generalizing t with
  | nil => rfl
  | cons i is ih =>
    obtain ⟨hi, his⟩ := List.forall_mem_cons.mp h
    rw [List.foldl_cons, ih his, Table.get_set_ne _ _ _ hi.symm]

/-- The bytes of a sector that are merged are those that its mask selects. -/
theorem mem_mergeSector (s : State) (e : ProvEntry) :
    (s.mergeSector e).mem = ((List.range 32).filter fun i => e.mask.getLsbD i).foldl
      (fun m i => Table.set 0 m (32 * e.sector + i) (e.data.getD i 0)) s.mem := by
  show (maskedRuns e.sector e.data e.mask).foldl (fun m b => Table.set 0 m b.1 b.2) s.mem = _
  rw [maskedRuns, List.foldl_filterMap, List.foldl_filter]
  congr 1
  funext m i
  by_cases hm : e.mask.getLsbD i = true <;> simp [hm]

theorem mergeSector_inside (s : State) (e : ProvEntry) {i : Nat} (hi : i < 32) :
    Table.get 0 (s.mergeSector e).mem (32 * e.sector + i) =
      if e.mask.getLsbD i then e.data.getD i 0 else Table.get 0 s.mem (32 * e.sector + i) := by
  rw [mem_mergeSector, Table.get_foldl_set 0 (key := (32 * e.sector + ·)) (add_right_injective _)]
  simp [hi]

theorem mergeSector_outside (s : State) (e : ProvEntry) : keptOutside s (s.mergeSector e) (32 * e.sector) 32 := by
  intro j hj
  rw [mem_mergeSector]
  refine get_foldl_set_of_ne 0 (key := (32 * e.sector + ·)) _ (fun i hi => ?_) s.mem
  have hlt := List.mem_range.mp (List.mem_of_mem_filter hi)
  omega

theorem tileCommit_gives {s : State} {e : ProvEntry}
    (h : (s.slice s.ev.a).prov.filter (fun y => y.part == s.ev.b && y.tag == s.ev.c) = [e]) :
    s.gives .tileCommit fun t =>
      (∀ i, i < 32 → Table.get 0 t.mem (32 * e.sector + i) =
        if e.mask.getLsbD i then e.data.getD i 0 else Table.get 0 s.mem (32 * e.sector + i)) ∧
      keptOutside s t (32 * e.sector) 32 ∧ ∀ y ∈ (t.slice s.ev.a).prov, ¬(y.part = s.ev.b ∧ y.tag = s.ev.c) := by
  refine ⟨_, rfl, ?_⟩
  simp only [h, List.foldl_cons, List.foldl_nil]
  refine ⟨fun i hi => mergeSector_inside s e hi, mergeSector_outside s e, ?_⟩
  rw [slice_modSlice]
  intro y hy
  simpa [imp_iff_not_or] using (List.mem_filter.mp hy).2

end Sys2Proof.Machine
end

section
/-! SETTLES O47, with the pager's message: an entry of a memory queue, behind which the queue's record is written (R155, R320). -/

namespace Sys2Proof.Machine

open Sys2Proof

/-! ### Queue records -/

/-- The bytes in the middle of a write read back. -/
theorem memRead_memWrite_middle (m : List Host.Cell) (a : Nat) (xs ys zs : List Byte) :
    memRead (memWrite m a (xs ++ ys ++ zs)) (a + xs.length) ys.length = ys := by
  rw [memRead_eq]
  apply List.ext_getElem
  · simp
  · intro i h1 h2
    rw [List.getElem_map, List.getElem_range, get_memWrite, if_pos (by simp; omega)]
    have hi : a + xs.length + i - a = xs.length + i := by omega
    rw [hi, List.append_assoc, List.getD_append_right _ _ _ _ (by omega), Nat.add_sub_cancel_left, List.getD_append _ _ _ _ h2,
      List.getD_eq_getElem _ _ h2]

/-- A record's third word holds its counts in fields of their own. -/
theorem bits_of_counts {h t c w : Nat} (hh : h < 2 ^ 16) (ht : t < 2 ^ 16) (hc : c < 2 ^ 16) :
    bits ((h + t * 2 ^ 16 + c * 2 ^ 32 + w * 2 ^ 48) % 256 ^ 8) 47 32 = c := by
  rw [bits_eq]
  omega

/-- What memory holds after a queue's record is written. -/
theorem mem_setQrec (s : State) (r : QRec) : (s.setQrec r).mem = memWrite s.mem r.at_ (bytesOf 8 r.base ++
    bytesOf 8 (r.depth + r.esz * 2 ^ 16 + (if r.v then 2 ^ 18 else 0)) ++
    bytesOf 8 (r.head + r.tail * 2 ^ 16 + r.count * 2 ^ 32 + r.waiters * 2 ^ 48) ++ bytesOf 8 0) := mem_commitWrite ..

/-- The third word of a record that was written. -/
theorem memQword_setQrec (s : State) (r : QRec) : memQword (s.setQrec r).mem (r.at_ + 8 * 2) =
    leNat (bytesOf 8 (r.head + r.tail * 2 ^ 16 + r.count * 2 ^ 32 + r.waiters * 2 ^ 48)) := by
  have hread := memRead_memWrite_middle s.mem r.at_
    (bytesOf 8 r.base ++ bytesOf 8 (r.depth + r.esz * 2 ^ 16 + (if r.v then 2 ^ 18 else 0)))
    (bytesOf 8 (r.head + r.tail * 2 ^ 16 + r.count * 2 ^ 32 + r.waiters * 2 ^ 48)) (bytesOf 8 0)
  rw [List.length_append, bytesOf_length, bytesOf_length, bytesOf_length, ← Nat.mul_two] at hread
  rw [memQword, mem_setQrec, hread]

theorem part_setQrec (s : State) (r : QRec) (p : Nat) : (s.setQrec r).part p = s.part p := part_commitWrite ..

theorem ev_commitWrite (s : State) (pa : Nat) (b : List Byte) : (s.commitWrite pa b).ev = s.ev := rfl

theorem ev_setQrec (s : State) (r : QRec) : (s.setQrec r).ev = s.ev := ev_commitWrite ..

theorem count_qrec (s : State) (p q : Nat) :
    (s.qrec p q).count = bits (memQword s.mem ((s.part p).ctl.qtbase.toNat + 32 * q + 8 * 2)) 47 32 := rfl

/-- The record of a queue that was written last has the count that was written. -/
theorem count_setQrec {s : State} {p q : Nat} {r : QRec} (hat : r.at_ = (s.part p).ctl.qtbase.toNat + 32 * q)
    (hhead : r.head < 2 ^ 16) (htail : r.tail < 2 ^ 16) (hcount : r.count < 2 ^ 16) :
    ((s.setQrec r).qrec p q).count = r.count := by
  rw [count_qrec, part_setQrec, ← hat, memQword_setQrec, leNat_bytesOf]
  exact bits_of_counts hhead htail hcount

theorem bits_lt (x hi lo : Nat) : bits x hi lo < 2 ^ (hi + 1 - lo) := Nat.mod_lt _ (Nat.two_pow_pos _)

/-! ### Requests at the home slice -/

theorem countOp_slices (s : State) (p pa n d : Nat) : s.countOp p pa n d = { s with slices := (s.countOp p pa n d).slices } := by
  unfold State.countOp State.lineRequest State.countOnly
  rw [modHome_slices, modHome_slices (s.modHome ..), modHome_slices s]

theorem waiters_place (x : Slice) (p : Nat) (l : SliceLine) : (x.place p l).waiters = x.waiters := by
  unfold Slice.place
  dsimp only
  split
  · rfl
  · exact foldl_keeps Slice.waiters _ (fun _ _ => by split <;> rfl) _ x

theorem waiters_take (x : Slice) (r : SliceReq) : (x.take r).waiters = x.waiters := by
  unfold Slice.take
  dsimp only
  split
  · rfl
  · split
    · exact waiters_place ..
    · split
      · rfl
      · split <;> rfl

/-- A change at a home slice that keeps the waiters keeps every slice's. -/
theorem waiters_modHome {f : Slice → Slice} (hf : ∀ x, (f x).waiters = x.waiters) (s : State) (pa n : Nat) :
    ((s.modHome pa f).slice n).waiters = (s.slice n).waiters := by
  unfold State.modHome
  split
  · by_cases hn : n = s.homeSlice pa
    · rw [hn, slice_modSlice, hf]
    · rw [slice_modSlice_ne _ _ hn]
  · rfl

theorem waiters_countOp (s : State) (p pa m d n : Nat) : ((s.countOp p pa m d).slice n).waiters = (s.slice n).waiters := by
  unfold State.countOp State.lineRequest State.countOnly
  rw [waiters_modHome (fun x => waiters_take ..), waiters_modHome (fun x => waiters_take ..), waiters_modHome (f := (·.bump p _)) fun x => rfl]

theorem qrec_countOp (s : State) (p pa n d p' q : Nat) : (s.countOp p pa n d).qrec p' q = s.qrec p' q := by
  rw [countOp_slices]
  rfl

theorem waitersOf_countOp (s : State) (p pa n d p' q : Nat) (r : QRec) : (s.countOp p pa n d).waitersOf p' q r = s.waitersOf p' q r := by
  have hhome : (s.countOp p pa n d).homeSlice r.at_ = s.homeSlice r.at_ := by
    rw [countOp_slices]
    rfl
  rw [State.waitersOf, hhome, waiters_countOp]
  rfl

/-! ### An entry that is put -/

/-- A queue with room and no waiter takes an entry, and its record counts one more. -/
theorem queuePut_counts {s : State} {p q : Nat} {bs : List Byte} (hwaiters : s.waitersOf p q (s.qrec p q) = [])
    (hroom : (s.qrec p q).count < (s.qrec p q).depth) :
    (s.queuePut p q bs).2 = true ∧ ((s.queuePut p q bs).1.qrec p q).count = (s.qrec p q).count + 1 := by
  have hne : (s.qrec p q).count ≠ (s.qrec p q).depth := by omega
  unfold State.queuePut
  simp only [hwaiters, if_neg hne, true_and]
  have hdepth : (s.qrec p q).depth < 2 ^ 16 := bits_lt ..
  have hpos : 0 < (s.qrec p q).depth := by omega
  have htail := Nat.mod_lt ((s.qrec p q).tail + 1) hpos
  refine count_setQrec ?_ (bits_lt ..) (by dsimp only; omega) (by dsimp only; omega)
  rw [State.lineRequest, modHome_slices]
  rfl

theorem ev_countOp (s : State) (p pa n d : Nat) : (s.countOp p pa n d).ev = s.ev := by
  rw [countOp_slices]

/-- An entry that no waiter takes leaves the event in hand. -/
theorem ev_queuePut {s : State} {p q : Nat} {bs : List Byte} (hwaiters : s.waitersOf p q (s.qrec p q) = []) :
    (s.queuePut p q bs).1.ev = s.ev := by
  simp only [State.queuePut, hwaiters]
  split
  · rfl
  · rw [ev_setQrec, State.lineRequest, modHome_slices]
    rfl

/-! ### PAGER_UPCALL -/

theorem pagerUpcall_none {s : State} (h : s.tickets.find s.ev.a = none) : s.gives .pagerUpcall fun t => t = s := by
  refine ⟨s, ?_, rfl⟩
  show execPagerUpcall s = _
  rw [execPagerUpcall, h]

theorem pagerUpcall_sent {s : State} {k : Ticket} (h : s.tickets.find s.ev.a = some k) (hsent : k.sent = true) :
    s.gives .pagerUpcall fun t => t = s := by
  refine ⟨s, ?_, rfl⟩
  show execPagerUpcall s = _
  simp [execPagerUpcall, h, hsent]

theorem pagerUpcall_sends {s : State} {k : Ticket} {q : Nat} {r : QRec} (h : s.tickets.find s.ev.a = some k) (hsent : k.sent = false)
    (hq : q = bits (s.regionWord k.part k.region 4) 15 0) (hr : r = s.qrec k.part q) (hok : s.queueOk k.part q = true)
    (hwakes : s.queueWakes k.part q = false) (hesz : r.esz = 2) (hwaiters : s.waitersOf k.part q r = []) (hroom : r.count < r.depth)
    (hring : ∃ s1 pa, s.ringCheck k.part r.tail r .write = (s1, .pass pa)) :
    s.gives .pagerUpcall fun t =>
      t.tickets.find s.ev.a = some { k with sent := true } ∧ (t.qrec k.part q).count = r.count + 1 := by
  obtain ⟨s1, pa, hpass⟩ := hring
  have hqrec := qrec_countOp s k.part r.at_ 32 0 k.part q
  have hput := queuePut_counts (s := s.countOp k.part r.at_ 32 0) (p := k.part) (q := q) (bs := upcallMessage s.ev.a k)
    (by rw [hqrec, waitersOf_countOp, ← hr, hwaiters]) (by rw [hqrec, ← hr]; exact hroom)
  have hev := ev_queuePut (s := s.countOp k.part r.at_ 32 0) (p := k.part) (q := q) (bs := upcallMessage s.ev.a k)
    (by rw [hqrec, waitersOf_countOp, ← hr, hwaiters])
  rw [ev_countOp] at hev
  rw [hqrec, ← hr] at hput
  obtain ⟨hyes, hcount⟩ := hput
  generalize hp : (s.countOp k.part r.at_ 32 0).queuePut k.part q (upcallMessage s.ev.a k) = u at hyes hcount hev
  obtain ⟨u, b⟩ := u
  subst hyes
  refine ⟨{ u with tickets := u.tickets.insert s.ev.a { k with sent := true } }, ?_, Table.find_insert_same .., hcount⟩
  show execPagerUpcall s = _
  simp only [execPagerUpcall, h, ← hq, ← hr, hsent, hok, hwakes, hesz, hwaiters, hpass, hp]
  simp [show u.ev = s.ev from hev]

/-- Settles O47, clause by clause: what each event leaves is a lemma of its own above. -/
theorem sliceAndTranslationEvents : Obligations.SliceAndTranslationEvents := by
  unfold Obligations.SliceAndTranslationEvents
  rintro s a ⟨-, rfl⟩
  refine ⟨tlbWalk_gives s, invalidatePage_gives s, invalidateRange_gives s, invVa_canonical, invalidatePartition_gives s,
    invalidationDone_gives, invalidationDone_waits, refusalLogClear_gives s, registerWrite_refused, registerWrite_elsewhere,
    registerWrite_mailbox, ⟨sliceReadRequest_restores, sliceReadRequest_misses, sliceReadRequest_waits⟩, hostRead_devid,
    hostRead_refused, fun _ hne hline hpop => ⟨fun href hsvc => sliceWriteRequest_commits hne hline hpop href hsvc,
      fun href hsvc => sliceWriteRequest_waits hne hline hpop href hsvc, sliceWriteRequest_refused hline hpop⟩,
    ⟨sectorFillComplete_idle, fun m hm => sectorFillComplete_waits hm, fun m hm => sectorFillComplete_fills hm⟩,
    writeBackDrain_gives, provisionalWrite_gives s, fun e => tileCommit_gives, tileDiscard_gives s, pagerUpcall_none,
    fun k => pagerUpcall_sent, fun k q r => pagerUpcall_sends⟩

end Sys2Proof.Machine
end
